-- ==== Sys2Proof/Word.lean ====
section
/-! DEFINITION. The word types of the DLH-1A (03_words R53, R58) and their plainest arithmetic. -/

namespace Sys2Proof

/-- A 64-bit scalar register value (R58). -/
abbrev Word := BitVec 64

/-- A byte of memory, scratch or a swatch. -/
abbrev Byte := BitVec 8

/-- A 32-bit instruction word (R53). -/
abbrev IWord := BitVec 32

/-- A 7-bit register field (R54, R57). -/
abbrev Reg := BitVec 7

/-- An absolute vector name, 0 to 511 (R59). -/
abbrev Name := BitVec 9

/-- `w` read as a Boolean 0 or 1 in a 64-bit word. -/
def boolWord (b : Bool) : Word := if b then 1#64 else 0#64

end Sys2Proof
end

