-- ==== Sys2Proof/Machine/Aes.lean ====
section
/-! DEFINITION. AES-256 in Galois/Counter mode, the cipher of encrypted copies (11_flume R261), as FIPS 197 and
SP 800-38D give it. -/

namespace Sys2Proof.Machine.Aes

/-- Multiplication by x in GF(2^8). -/
def xtime (a : Byte) : Byte := if a.getLsbD 7 then (a <<< 1) ^^^ 0x1B#8 else a <<< 1

/-- Product in GF(2^8), over the `n` low bits of the second factor. -/
def gmul : Nat → Byte → Byte → Byte
  | 0, _, _ => 0#8
  | n + 1, a, b => (if b.getLsbD 0 then a else 0#8) ^^^ gmul n (xtime a) (b >>> 1)

/-- Product in GF(2^8). -/
def mul (a b : Byte) : Byte := gmul 8 a b

/-- a^254, the inverse in GF(2^8), with 0 for 0. -/
def inv (a : Byte) : Byte :=
  let a2 := mul a a
  let a3 := mul a2 a
  let a6 := mul a3 a3
  let a12 := mul a6 a6
  let a14 := mul a12 a2
  let a15 := mul a12 a3
  let a30 := mul a15 a15
  let a60 := mul a30 a30
  let a120 := mul a60 a60
  let a240 := mul a120 a120
  mul a240 a14

/-- SubBytes of one byte. -/
def sbox (a : Byte) : Byte :=
  let b := inv a
  b ^^^ b.rotateLeft 1 ^^^ b.rotateLeft 2 ^^^ b.rotateLeft 3 ^^^ b.rotateLeft 4 ^^^ 0x63#8

/-- Exclusive or of two lists of bytes. -/
def xorBytes (a b : List Byte) : List Byte := a.zipWith (fun x y => x ^^^ y) b

/-- The next word of the key schedule, number `i`, from the words so far, newest first. -/
def nextWord (i : Nat) (rcon : Byte) (ws : List (List Byte)) : List Byte :=
  let prev := ws.headD []
  let old := ws.getD 7 []
  let t :=
    if i % 8 = 0 then
      match (prev.drop 1 ++ prev.take 1).map sbox with
      | x :: r => (x ^^^ rcon) :: r
      | [] => []
    else if i % 8 = 4 then prev.map sbox
    else prev
  xorBytes old t

/-- `n` more words of the key schedule. -/
def expandGo : Nat → Nat → Byte → List (List Byte) → List (List Byte)
  | 0, _, _, ws => ws
  | n + 1, i, rcon, ws => expandGo n (i + 1) (if i % 8 = 0 then xtime rcon else rcon) (nextWord i rcon ws :: ws)

/-- The words of a 32-byte key. -/
def keyWords : Nat → List Byte → List (List Byte)
  | 0, _ => []
  | n + 1, k => k.take 4 :: keyWords n (k.drop 4)

/-- The 15 round keys of a 32-byte key, as one list of 240 bytes. -/
def expand (key : List Byte) : List Byte := (expandGo 52 8 1#8 (keyWords 8 key).reverse).reverse.flatten

/-- ShiftRows on 16 bytes, column by column. -/
def shiftRows (s : List Byte) : List Byte := (List.range 16).map fun i => s.getD ((i + 4 * (i % 4)) % 16) 0#8

/-- MixColumns on one column. -/
def mixColumn (a b c d : Byte) : List Byte :=
  [xtime a ^^^ xtime b ^^^ b ^^^ c ^^^ d, a ^^^ xtime b ^^^ xtime c ^^^ c ^^^ d,
   a ^^^ b ^^^ xtime c ^^^ xtime d ^^^ d, xtime a ^^^ a ^^^ b ^^^ c ^^^ xtime d]

/-- MixColumns. -/
def mixColumns (s : List Byte) : List Byte :=
  (List.range 4).flatMap fun j => mixColumn (s.getD (4 * j) 0#8) (s.getD (4 * j + 1) 0#8) (s.getD (4 * j + 2) 0#8) (s.getD (4 * j + 3) 0#8)

/-- Rounds from key `r` on, `n` of them, the last without MixColumns. -/
def rounds (ks : List Byte) : Nat → Nat → List Byte → List Byte
  | 0, _, s => s
  | n + 1, r, s =>
    let t := shiftRows (s.map sbox)
    let u := if n = 0 then t else mixColumns t
    rounds ks n (r + 1) (xorBytes u ((ks.drop (16 * r)).take 16))

/-- The cipher on a block of 16 bytes under an expanded key. -/
def block (ks : List Byte) (s : List Byte) : List Byte := rounds ks 14 1 (xorBytes s (ks.take 16))

/-- A block as a 128-bit string, first byte highest. -/
def toBits (s : List Byte) : BitVec 128 := s.foldl (fun a b => (a <<< 8) ||| b.setWidth 128) 0#128

/-- The bytes of a 128-bit string, first byte highest. -/
def ofBits (v : BitVec 128) : List Byte := (List.range 16).map fun i => (v >>> (8 * (15 - i))).setWidth 8

/-- Product in GF(2^128) of SP 800-38D, over `n` bits of the first factor from the highest on. -/
def ghashMul : Nat → BitVec 128 → BitVec 128 → BitVec 128 → BitVec 128
  | 0, _, _, z => z
  | n + 1, x, v, z =>
    ghashMul n (x <<< 1) (if v.getLsbD 0 then (v >>> 1) ^^^ (0xE1#128 <<< 120) else v >>> 1) (if x.getLsbD 127 then z ^^^ v else z)

/-- GHASH over blocks. -/
def ghash (h : BitVec 128) : Nat → List Byte → BitVec 128 → BitVec 128
  | 0, _, y => y
  | n + 1, s, y => ghash h n (s.drop 16) (ghashMul 128 (y ^^^ toBits (s.take 16)) h 0#128)

/-- Counter block `c` for a 12-byte IV. -/
def counter (iv : List Byte) (c : Nat) : List Byte :=
  iv ++ [BitVec.ofNat 8 (c / 2 ^ 24), BitVec.ofNat 8 (c / 2 ^ 16), BitVec.ofNat 8 (c / 2 ^ 8), BitVec.ofNat 8 c]

/-- `n` blocks of counter mode from counter `c` on. -/
def ctr (ks iv : List Byte) : Nat → Nat → List Byte → List Byte
  | 0, _, _ => []
  | n + 1, c, s => xorBytes (s.take 16) (block ks (counter iv c)) ++ ctr ks iv n (c + 1) (s.drop 16)

/-- The authentication tag of a ciphertext of whole blocks, with no additional data. -/
def tag (ks iv c : List Byte) : List Byte :=
  let h := toBits (block ks (List.replicate 16 0#8))
  let lens := List.replicate 8 0#8 ++ (List.range 8).map fun i => BitVec.ofNat 8 (8 * c.length / 2 ^ (8 * (7 - i)))
  let y := ghash h (c.length / 16 + 1) (c ++ lens) 0#128
  xorBytes (ofBits y) (block ks (counter iv 1))

/-- Encryption of whole blocks: ciphertext and tag. -/
def sealBytes (key iv p : List Byte) : List Byte × List Byte :=
  let ks := expand key
  let c := ctr ks iv (p.length / 16) 2 p
  (c, tag ks iv c)

/-- Decryption of whole blocks with a 12-byte tag: none on a mismatch. -/
def openBytes (key iv c t : List Byte) : Option (List Byte) :=
  let ks := expand key
  if (tag ks iv c).take 12 = t then some (ctr ks iv (c.length / 16) 2 c) else none

end Sys2Proof.Machine.Aes
end

