-- ==== Sys2Proof/Syntax.lean ====
section
/-! DEFINITION. The instructions and events of the DLH-1A: one constructor per row of spec/opcode_table.json,
and the barrier bgen of 12_sync R272, which has a word of its own and shares its mnemonic with the branch. -/

namespace Sys2Proof

/-- Element types (02_numbers R29), in the order of their codes 0 to 22. -/
inductive ElemType where
  | b1 | i4 | n4 | i6 | n6 | i8 | n8 | i16 | n16 | i32 | n32 | i64 | n64
  | e2m1 | e2m3 | e3m2 | e4m3 | e5m2 | f16 | bf16 | f32 | e8m0 | cb8x2
  deriving DecidableEq, Repr

/-- Block-length codes of vsetl (R30): none, blocks of 16, blocks of 32. -/
inductive BlockLen where
  | none | b16 | b32
  deriving DecidableEq, Repr

/-- Rounding modes (R42). -/
inductive Rounding where
  | rne | rtz | rdn | rup
  deriving DecidableEq, Repr

/-- Scopes of fence (R64, R269) and of barriers. -/
inductive FenceScope where
  | hart | core | cluster | device | domain
  deriving DecidableEq, Repr

/-- What the comparison of a mirrored pair finds under protected mode (R237, R362): the halves agree; they differ
once and the retry agrees; they differ again. -/
inductive Mismatch where
  | agree | retried | persists
  deriving DecidableEq, Repr

/-- What another member of a collective brings to it (R325 to R330): the rank; the 64-byte command block that it issued,
followed by its instruction (1 byte, 0 kred, 1 kgat, 2 kcast, 3 kdraw), a zero byte, its NRANK (2), DSTREAM (4), DKEY (8)
and DCTR (8); the bytes of its SRC; and whether it could not read them. -/
structure PeerPart where
  rank    : Nat
  block   : List Byte
  data    : List Byte
  faulted : Bool
  deriving DecidableEq, Repr

/-- An access that another device makes to this one over UALink (R316), or a host over Ultra Ethernet (R27). -/
inductive RemoteOp where
  | load   (addr : Nat) (n : Nat)
  | store  (addr : Nat) (bytes : List Byte)
  | atomic (addr : Nat) (op : BitVec 4) (wide : Bool) (operand compare : Word)
  deriving DecidableEq, Repr

/-- Where a soft error that cannot be corrected lands (R147, R361, R380). -/
inductive SramSite where
  | swatch (cluster : Nat) (idx : Nat)
  | line   (addr : Nat)
  | scratchLine (addr : Nat)
  | word32 (addr : Nat)
  | serviceCore (cluster : Nat)
  | corrected
  deriving DecidableEq, Repr

/-- One constructor per row of the opcode table; the arguments of a row with a word are the fields of the word, the
arguments of an event are what the outside brings (95_what_each_step_holds). -/
inductive Instr where
  /-- ADD (R95). -/
  | add (d : Reg) (a : Reg) (b : Reg)
  /-- SUB (R95). -/
  | sub (d : Reg) (a : Reg) (b : Reg)
  /-- AND (R95). -/
  | and (d : Reg) (a : Reg) (b : Reg)
  /-- OR (R95). -/
  | or (d : Reg) (a : Reg) (b : Reg)
  /-- XOR (R95). -/
  | xor (d : Reg) (a : Reg) (b : Reg)
  /-- SLL (R95). -/
  | sll (d : Reg) (a : Reg) (b : Reg)
  /-- SRL (R95). -/
  | srl (d : Reg) (a : Reg) (b : Reg)
  /-- SRA (R95). -/
  | sra (d : Reg) (a : Reg) (b : Reg)
  /-- SLT (R95). -/
  | slt (d : Reg) (a : Reg) (b : Reg)
  /-- SLTN (R95). -/
  | sltn (d : Reg) (a : Reg) (b : Reg)
  /-- MIN (R95). -/
  | min (d : Reg) (a : Reg) (b : Reg)
  /-- MAX (R95). -/
  | max (d : Reg) (a : Reg) (b : Reg)
  /-- MINN (R95). -/
  | minn (d : Reg) (a : Reg) (b : Reg)
  /-- MAXN (R95). -/
  | maxn (d : Reg) (a : Reg) (b : Reg)
  /-- ANDN (R95). -/
  | andn (d : Reg) (a : Reg) (b : Reg)
  /-- ORN (R95). -/
  | orn (d : Reg) (a : Reg) (b : Reg)
  /-- MUL (R96). -/
  | mul (d : Reg) (a : Reg) (b : Reg)
  /-- MULH (R96). -/
  | mulh (d : Reg) (a : Reg) (b : Reg)
  /-- MULHN (R96). -/
  | mulhn (d : Reg) (a : Reg) (b : Reg)
  /-- DIV (R96). -/
  | div (d : Reg) (a : Reg) (b : Reg)
  /-- DIVN (R96). -/
  | divn (d : Reg) (a : Reg) (b : Reg)
  /-- REM (R96). -/
  | rem (d : Reg) (a : Reg) (b : Reg)
  /-- REMN (R96). -/
  | remn (d : Reg) (a : Reg) (b : Reg)
  /-- CLZ (R96). -/
  | clz (d : Reg) (a : Reg)
  /-- CTZ (R96). -/
  | ctz (d : Reg) (a : Reg)
  /-- POPC (R96). -/
  | popc (d : Reg) (a : Reg)
  /-- BEXT (R96). -/
  | bext (d : Reg) (a : Reg) (b : Reg)
  /-- BINS (R96). -/
  | bins (d : Reg) (a : Reg) (b : Reg)
  /-- ADDI (R95). -/
  | addi (d : Reg) (a : Reg) (imm : BitVec 11)
  /-- ANDI (R95). -/
  | andi (d : Reg) (a : Reg) (imm : BitVec 11)
  /-- ORI (R95). -/
  | ori (d : Reg) (a : Reg) (imm : BitVec 11)
  /-- XORI (R95). -/
  | xori (d : Reg) (a : Reg) (imm : BitVec 11)
  /-- SLLI (R95). -/
  | slli (d : Reg) (a : Reg) (imm : BitVec 6)
  /-- SRLI (R95). -/
  | srli (d : Reg) (a : Reg) (imm : BitVec 6)
  /-- SRAI (R95). -/
  | srai (d : Reg) (a : Reg) (imm : BitVec 6)
  /-- SLTI (R95). -/
  | slti (d : Reg) (a : Reg) (imm : BitVec 11)
  /-- SLTNI (R95). -/
  | sltni (d : Reg) (a : Reg) (imm : BitVec 11)
  /-- LHI (R97). -/
  | lhi (d : Reg) (imm : BitVec 18)
  /-- LSH (R97). -/
  | lsh (d : Reg) (imm : BitVec 18)
  /-- LDD (R98). -/
  | ldd (d : Reg) (a : Reg) (imm : BitVec 11)
  /-- LDW (R98). -/
  | ldw (d : Reg) (a : Reg) (imm : BitVec 11)
  /-- LDWN (R98). -/
  | ldwn (d : Reg) (a : Reg) (imm : BitVec 11)
  /-- LDBN (R98). -/
  | ldbn (d : Reg) (a : Reg) (imm : BitVec 11)
  /-- STD (R98). -/
  | std (d : Reg) (a : Reg) (imm : BitVec 11)
  /-- STW (R98). -/
  | stw (d : Reg) (a : Reg) (imm : BitVec 11)
  /-- STB (R98). -/
  | stb (d : Reg) (a : Reg) (imm : BitVec 11)
  /-- LDD_X (R98). -/
  | lddX (d : Reg) (a : Reg) (b : Reg)
  /-- LDW_X (R98). -/
  | ldwX (d : Reg) (a : Reg) (b : Reg)
  /-- LDWN_X (R98). -/
  | ldwnX (d : Reg) (a : Reg) (b : Reg)
  /-- LDH (R98). -/
  | ldh (d : Reg) (a : Reg) (b : Reg)
  /-- LDHN (R98). -/
  | ldhn (d : Reg) (a : Reg) (b : Reg)
  /-- LDB (R98). -/
  | ldb (d : Reg) (a : Reg) (b : Reg)
  /-- LDBN_X (R98). -/
  | ldbnX (d : Reg) (a : Reg) (b : Reg)
  /-- STD_X (R98). -/
  | stdX (d : Reg) (a : Reg) (b : Reg)
  /-- STW_X (R98). -/
  | stwX (d : Reg) (a : Reg) (b : Reg)
  /-- STH (R98). -/
  | sth (d : Reg) (a : Reg) (b : Reg)
  /-- STB_X (R98). -/
  | stbX (d : Reg) (a : Reg) (b : Reg)
  /-- BEQ (R100). -/
  | beq (d : Reg) (a : Reg) (imm : BitVec 11)
  /-- BNE (R100). -/
  | bne (d : Reg) (a : Reg) (imm : BitVec 11)
  /-- BLT (R100). -/
  | blt (d : Reg) (a : Reg) (imm : BitVec 11)
  /-- BGE (R100). -/
  | bge (d : Reg) (a : Reg) (imm : BitVec 11)
  /-- BLTN (R100). -/
  | bltn (d : Reg) (a : Reg) (imm : BitVec 11)
  /-- BGEN (R100). -/
  | bgen (d : Reg) (a : Reg) (imm : BitVec 11)
  /-- BSUB (R101). -/
  | bsub (d : Reg) (a : Reg) (imm : BitVec 11)
  /-- JMP (R102). -/
  | jmp (imm : BitVec 25)
  /-- CALL (R102). -/
  | call (imm : BitVec 25)
  /-- JR (R102). -/
  | jr (a : Reg)
  /-- JALR (R102). -/
  | jalr (d : Reg) (a : Reg)
  /-- SGET (R111). -/
  | sget (d : Reg) (reg : BitVec 11)
  /-- SPUT (R111). -/
  | sput (d : Reg) (reg : BitVec 11)
  /-- VWIN (R105). -/
  | vwin (d : Reg) (a : Reg)
  /-- LFORK (R106). -/
  | lfork (d : Reg)
  /-- LJOIN (R107). -/
  | ljoin (a : Reg)
  /-- WID (R109). -/
  | wid (d : Reg) (k : BitVec 3) (sel : BitVec 2)
  /-- VSETL (R103). -/
  | vsetl (d a : Reg) (blk : BlockLen) (ty : ElemType)
  /-- REP (R65). -/
  | rep (count : BitVec 6) (sd sa sb : Bool) (stride : BitVec 3)
  /-- CNEW (R131). -/
  | cnew (d : Reg) (a : Reg)
  /-- CDROP (R132). -/
  | cdrop (d : Reg)
  /-- CSHARE (R133). -/
  | cshare (d : Reg) (a : Reg)
  /-- CSEAM (R135). -/
  | cseam (d : Reg) (a : Reg) (b : Reg)
  /-- CHEMH (R136). -/
  | chemh (d : Reg) (a : Reg) (b : Reg)
  /-- CHEMT (R136). -/
  | chemt (d : Reg) (a : Reg) (b : Reg)
  /-- CSPLIT (R137). -/
  | csplit (d : Reg) (a : Reg) (b : Reg)
  /-- CSLICE (R137). -/
  | cslice (d : Reg) (a : Reg) (b : Reg)
  /-- CPACK (R138). -/
  | cpack (d : Reg) (a : Reg)
  /-- CMOVV (R139). -/
  | cmovv (d : Reg) (a : Reg)
  /-- CRETYPE (R140). -/
  | cretype (d a : Reg) (ty : ElemType)
  /-- CPOST (R144). -/
  | cpost (d : Reg) (b : Reg)
  /-- CTAKE (R144). -/
  | ctake (d : Reg) (a : Reg) (b : Reg)
  /-- CLEN (R143). -/
  | clen (d : Reg) (a : Reg)
  /-- CINFO (R143). -/
  | cinfo (d : Reg) (a : Reg)
  /-- CPOOL (R143). -/
  | cpool (d : Reg)
  /-- VGET (R141). -/
  | vget (d : Reg) (a : Reg) (b : Reg)
  /-- VPUT (R142). -/
  | vput (d : Reg) (a : Reg) (b : Reg)
  /-- VADD (R158). -/
  | vadd (m : Bool) (s : Bool) (d : Reg) (a : Reg) (b : Reg)
  /-- VSUB (R158). -/
  | vsub (m : Bool) (s : Bool) (d : Reg) (a : Reg) (b : Reg)
  /-- VRSUB (R158). -/
  | vrsub (m : Bool) (s : Bool) (d : Reg) (a : Reg) (b : Reg)
  /-- VMUL (R158). -/
  | vmul (m : Bool) (s : Bool) (d : Reg) (a : Reg) (b : Reg)
  /-- VADDS (R159). -/
  | vadds (m : Bool) (s : Bool) (d : Reg) (a : Reg) (b : Reg)
  /-- VSUBS (R159). -/
  | vsubs (m : Bool) (s : Bool) (d : Reg) (a : Reg) (b : Reg)
  /-- VMULH (R159). -/
  | vmulh (m : Bool) (s : Bool) (d : Reg) (a : Reg) (b : Reg)
  /-- VAVG (R159). -/
  | vavg (m : Bool) (s : Bool) (d : Reg) (a : Reg) (b : Reg)
  /-- VDIV (R160). -/
  | vdiv (m : Bool) (s : Bool) (d : Reg) (a : Reg) (b : Reg)
  /-- VREM (R160). -/
  | vrem (m : Bool) (s : Bool) (d : Reg) (a : Reg) (b : Reg)
  /-- VMIN (R160). -/
  | vmin (m : Bool) (s : Bool) (d : Reg) (a : Reg) (b : Reg)
  /-- VMAX (R160). -/
  | vmax (m : Bool) (s : Bool) (d : Reg) (a : Reg) (b : Reg)
  /-- VAND (R161). -/
  | vand (m : Bool) (s : Bool) (d : Reg) (a : Reg) (b : Reg)
  /-- VOR (R161). -/
  | vor (m : Bool) (s : Bool) (d : Reg) (a : Reg) (b : Reg)
  /-- VXOR (R161). -/
  | vxor (m : Bool) (s : Bool) (d : Reg) (a : Reg) (b : Reg)
  /-- VANDN (R161). -/
  | vandn (m : Bool) (s : Bool) (d : Reg) (a : Reg) (b : Reg)
  /-- VSLL (R162). -/
  | vsll (m : Bool) (s : Bool) (d : Reg) (a : Reg) (b : Reg)
  /-- VSRL (R162). -/
  | vsrl (m : Bool) (s : Bool) (d : Reg) (a : Reg) (b : Reg)
  /-- VSRA (R162). -/
  | vsra (m : Bool) (s : Bool) (d : Reg) (a : Reg) (b : Reg)
  /-- VROT (R162). -/
  | vrot (m : Bool) (s : Bool) (d : Reg) (a : Reg) (b : Reg)
  /-- VCEQ (R163). -/
  | vceq (m : Bool) (s : Bool) (d : Reg) (a : Reg) (b : Reg)
  /-- VCNE (R163). -/
  | vcne (m : Bool) (s : Bool) (d : Reg) (a : Reg) (b : Reg)
  /-- VCLT (R163). -/
  | vclt (m : Bool) (s : Bool) (d : Reg) (a : Reg) (b : Reg)
  /-- VCLE (R163). -/
  | vcle (m : Bool) (s : Bool) (d : Reg) (a : Reg) (b : Reg)
  /-- VFADD (R165). -/
  | vfadd (m : Bool) (s : Bool) (d : Reg) (a : Reg) (b : Reg)
  /-- VFSUB (R165). -/
  | vfsub (m : Bool) (s : Bool) (d : Reg) (a : Reg) (b : Reg)
  /-- VFMUL (R165). -/
  | vfmul (m : Bool) (s : Bool) (d : Reg) (a : Reg) (b : Reg)
  /-- VFDIV (R165). -/
  | vfdiv (m : Bool) (s : Bool) (d : Reg) (a : Reg) (b : Reg)
  /-- VFMIN (R166). -/
  | vfmin (m : Bool) (s : Bool) (d : Reg) (a : Reg) (b : Reg)
  /-- VFMAX (R166). -/
  | vfmax (m : Bool) (s : Bool) (d : Reg) (a : Reg) (b : Reg)
  /-- VFMA (R166). -/
  | vfma (m : Bool) (s : Bool) (d : Reg) (a : Reg) (b : Reg)
  /-- VFMS (R166). -/
  | vfms (m : Bool) (s : Bool) (d : Reg) (a : Reg) (b : Reg)
  /-- VFCEQ (R167). -/
  | vfceq (m : Bool) (s : Bool) (d : Reg) (a : Reg) (b : Reg)
  /-- VFCLT (R167). -/
  | vfclt (m : Bool) (s : Bool) (d : Reg) (a : Reg) (b : Reg)
  /-- VFCLE (R167). -/
  | vfcle (m : Bool) (s : Bool) (d : Reg) (a : Reg) (b : Reg)
  /-- VFCUN (R167). -/
  | vfcun (m : Bool) (s : Bool) (d : Reg) (a : Reg) (b : Reg)
  /-- VSCALE (R168). -/
  | vscale (m : Bool) (s : Bool) (d : Reg) (a : Reg) (b : Reg)
  /-- VFNMA (R169). -/
  | vfnma (m : Bool) (s : Bool) (d : Reg) (a : Reg) (b : Reg)
  /-- VFSGN (R169). -/
  | vfsgn (m : Bool) (s : Bool) (d : Reg) (a : Reg) (b : Reg)
  /-- VFSQRT (R170). -/
  | vfsqrt (m : Bool) (d : Reg) (a : Reg)
  /-- VFRCP (R170). -/
  | vfrcp (m : Bool) (d : Reg) (a : Reg)
  /-- VFRSQRT (R170). -/
  | vfrsqrt (m : Bool) (d : Reg) (a : Reg)
  /-- VFLOG2 (R170). -/
  | vflog2 (m : Bool) (d : Reg) (a : Reg)
  /-- VFEXP2 (R170). -/
  | vfexp2 (m : Bool) (d : Reg) (a : Reg)
  /-- VFTANH (R170). -/
  | vftanh (m : Bool) (d : Reg) (a : Reg)
  /-- VFABS (R170). -/
  | vfabs (m : Bool) (d : Reg) (a : Reg)
  /-- VFNEG (R170). -/
  | vfneg (m : Bool) (d : Reg) (a : Reg)
  /-- VABS (R170). -/
  | vabs (m : Bool) (d : Reg) (a : Reg)
  /-- VNEG (R170). -/
  | vneg (m : Bool) (d : Reg) (a : Reg)
  /-- VNOT (R170). -/
  | vnot (m : Bool) (d : Reg) (a : Reg)
  /-- VCLZ (R170). -/
  | vclz (m : Bool) (d : Reg) (a : Reg)
  /-- VPOPC (R170). -/
  | vpopc (m : Bool) (d : Reg) (a : Reg)
  /-- VFCAT (R170). -/
  | vfcat (m : Bool) (d : Reg) (a : Reg)
  /-- VMOV (R170). -/
  | vmov (m : Bool) (d : Reg) (a : Reg)
  /-- VID (R170). -/
  | vid (m : Bool) (d : Reg)
  /-- VCVT (R172). -/
  | vcvt (m sat : Bool) (rm : Rounding) (d a : Reg) (ty : ElemType)
  /-- VSLUP (R173). -/
  | vslup (m : Bool) (d : Reg) (a : Reg) (b : Reg)
  /-- VSLDN (R173). -/
  | vsldn (m : Bool) (d : Reg) (a : Reg) (b : Reg)
  /-- VRGATH (R173). -/
  | vrgath (m : Bool) (s : Bool) (d : Reg) (a : Reg) (b : Reg)
  /-- VCOMPR (R173). -/
  | vcompr (d : Reg) (a : Reg) (b : Reg)
  /-- VZIP (R174). -/
  | vzip (m : Bool) (d : Reg) (a : Reg) (b : Reg)
  /-- VUNZIP (R174). -/
  | vunzip (m : Bool) (d : Reg) (a : Reg) (b : Reg)
  /-- VREV (R174). -/
  | vrev (m : Bool) (d : Reg) (a : Reg)
  /-- VMERGE (R174). -/
  | vmerge (s : Bool) (d : Reg) (a : Reg) (b : Reg)
  /-- VBCAST (R175). -/
  | vbcast (m : Bool) (s : Bool) (d : Reg) (b : Reg)
  /-- VMAND (R176). -/
  | vmand (d : Reg) (a : Reg) (b : Reg)
  /-- VMOR (R176). -/
  | vmor (d : Reg) (a : Reg) (b : Reg)
  /-- VMXOR (R176). -/
  | vmxor (d : Reg) (a : Reg) (b : Reg)
  /-- VMNOT (R176). -/
  | vmnot (d : Reg) (a : Reg)
  /-- VMCOUNT (R177). -/
  | vmcount (m : Bool) (d : Reg) (a : Reg)
  /-- VMLOW (R177). -/
  | vmlow (m : Bool) (d : Reg) (a : Reg)
  /-- VREDSUM (R180). -/
  | vredsum (m : Bool) (d : Reg) (a : Reg)
  /-- VREDOSUM (R180). -/
  | vredosum (m : Bool) (d : Reg) (a : Reg)
  /-- VREDMAX (R180). -/
  | vredmax (m : Bool) (d : Reg) (a : Reg)
  /-- VREDMIN (R180). -/
  | vredmin (m : Bool) (d : Reg) (a : Reg)
  /-- VREDMAXI (R180). -/
  | vredmaxi (m : Bool) (d : Reg) (a : Reg)
  /-- VREDMINI (R180). -/
  | vredmini (m : Bool) (d : Reg) (a : Reg)
  /-- VDRAW (R191). -/
  | vdraw (m : Bool) (d : Reg) (a : Reg)
  /-- VDRAWT (R192). -/
  | vdrawt (m : Bool) (d : Reg) (a : Reg)
  /-- VDRAWP (R193). -/
  | vdrawp (m : Bool) (d : Reg) (a : Reg) (b : Reg)
  /-- XDMERGE (R194). -/
  | xdmerge (d : Reg) (a : Reg) (b : Reg)
  /-- VRAND (R195). -/
  | vrand (m : Bool) (d : Reg)
  /-- VLD (R207). -/
  | vld (m nt : Bool) (d a : Reg)
  /-- VLDS (R207). -/
  | vlds (m nt : Bool) (d a b : Reg)
  /-- VLDX (R207). -/
  | vldx (m nt : Bool) (d a b : Reg)
  /-- VLSEG (R203). -/
  | vlseg (m nt : Bool) (d a : Reg) (n : BitVec 3)
  /-- VST (R207). -/
  | vst (m nt : Bool) (d a : Reg)
  /-- VSTS (R207). -/
  | vsts (m nt : Bool) (d a b : Reg)
  /-- VSTX (R208). -/
  | vstx (m nt : Bool) (d a b : Reg)
  /-- VSSEG (R203). -/
  | vsseg (m nt : Bool) (d a : Reg) (n : BitVec 3)
  /-- VSETRUN (R213). -/
  | vsetrun (d : Reg) (a : Reg) (b : Reg)
  /-- SMAP (R215). -/
  | smap (d : Reg) (a : Reg) (b : Reg)
  /-- SUNMAP (R216). -/
  | sunmap (a : Reg)
  /-- SFLUSH (R216). -/
  | sflush (a : Reg)
  /-- MATTACH (R220). -/
  | mattach (d : Reg) (a : Reg)
  /-- MSHAPE (R224). -/
  | mshape (a : Reg)
  /-- MZERO (R229). -/
  | mzero (d : BitVec 2)
  /-- MREAD (R230). -/
  | mread (d : Reg) (a : BitVec 2) (b : Reg)
  /-- MWRITE (R230). -/
  | mwrite (d : BitVec 2) (a b : Reg)
  /-- MSPROG (R238). -/
  | msprog (a : Reg)
  /-- MSMOD (R240). -/
  | msmod (d : BitVec 2) (a b : Reg)
  /-- MMAF (R227). -/
  | mmaf (z bScr aScr : Bool) (d : BitVec 2) (a b : Reg)
  /-- MMAO (R227). -/
  | mmao (z bScr aScr : Bool) (d : BitVec 2) (a b : Reg)
  /-- FSETL (R249). -/
  | fsetl (c : BitVec 2) (l : BitVec 3) (a b : Reg)
  /-- FGO (R250). -/
  | fgo (c : BitVec 2) (a : Reg) (b : Reg)
  /-- FGOV (R251). -/
  | fgov (d : Reg) (c : BitVec 2) (b : Reg)
  /-- FNOTIFY (R252). -/
  | fnotify (c : BitVec 2) (a : Reg) (b : Reg)
  /-- FDRAIN (R253). -/
  | fdrain (c : BitVec 2)
  /-- FCANCEL (R254). -/
  | fcancel (c : BitVec 2)
  /-- FRESUME (R255). -/
  | fresume (c : BitVec 2)
  /-- FSTAT (R256). -/
  | fstat (d : Reg) (c : BitVec 2)
  /-- AMOADD (R264). -/
  | amoadd (d : Reg) (a : Reg) (b : Reg)
  /-- AMOAND (R264). -/
  | amoand (d : Reg) (a : Reg) (b : Reg)
  /-- AMOOR (R264). -/
  | amoor (d : Reg) (a : Reg) (b : Reg)
  /-- AMOXOR (R264). -/
  | amoxor (d : Reg) (a : Reg) (b : Reg)
  /-- AMOMIN (R264). -/
  | amomin (d : Reg) (a : Reg) (b : Reg)
  /-- AMOMAX (R264). -/
  | amomax (d : Reg) (a : Reg) (b : Reg)
  /-- AMOMINN (R264). -/
  | amominn (d : Reg) (a : Reg) (b : Reg)
  /-- AMOMAXN (R264). -/
  | amomaxn (d : Reg) (a : Reg) (b : Reg)
  /-- AMOSWP (R264). -/
  | amoswp (d : Reg) (a : Reg) (b : Reg)
  /-- AMOCAS (R264). -/
  | amocas (d : Reg) (a : Reg) (b : Reg)
  /-- AMOFADD (R265). -/
  | amofadd (d : Reg) (a : Reg) (b : Reg)
  /-- AMOADD_AR (R267). -/
  | amoaddAr (d : Reg) (a : Reg) (b : Reg)
  /-- AMOAND_AR (R267). -/
  | amoandAr (d : Reg) (a : Reg) (b : Reg)
  /-- AMOOR_AR (R267). -/
  | amoorAr (d : Reg) (a : Reg) (b : Reg)
  /-- AMOXOR_AR (R267). -/
  | amoxorAr (d : Reg) (a : Reg) (b : Reg)
  /-- AMOMIN_AR (R267). -/
  | amominAr (d : Reg) (a : Reg) (b : Reg)
  /-- AMOMAX_AR (R267). -/
  | amomaxAr (d : Reg) (a : Reg) (b : Reg)
  /-- AMOMINN_AR (R267). -/
  | amominnAr (d : Reg) (a : Reg) (b : Reg)
  /-- AMOMAXN_AR (R267). -/
  | amomaxnAr (d : Reg) (a : Reg) (b : Reg)
  /-- AMOSWP_AR (R267). -/
  | amoswpAr (d : Reg) (a : Reg) (b : Reg)
  /-- AMOCAS_AR (R267). -/
  | amocasAr (d : Reg) (a : Reg) (b : Reg)
  /-- AMOFADD_AR (R267). -/
  | amofaddAr (d : Reg) (a : Reg) (b : Reg)
  /-- LDACQ (R268). -/
  | ldacq (d : Reg) (a : Reg) (imm : BitVec 11)
  /-- STREL (R268). -/
  | strel (d : Reg) (a : Reg) (imm : BitVec 11)
  /-- FENCE (R269). -/
  | fence (scope : FenceScope) (pred succ : BitVec 4)
  /-- BINIT (R272). -/
  | binit (a : Reg) (b : Reg)
  /-- BARR (R272). -/
  | barr (d : Reg) (a : Reg)
  /-- BWAIT (R272). -/
  | bwait (a : Reg) (b : Reg)
  /-- BARW (R272). -/
  | barw (d : Reg) (a : Reg)
  /-- BWAITD (R272). -/
  | bwaitd (d : Reg) (a : Reg) (b : Reg)
  /-- bgen, the generation of a barrier (R272; encoded in major 0x61, fn 5). -/
  | bgenBar (d : Reg) (a : Reg)
  /-- WADDR (R276). -/
  | waddr (d : Reg) (a : Reg) (b : Reg)
  /-- TREAD (R277). -/
  | tread (d : Reg) (c : BitVec 4)
  /-- TWAIT (R278). -/
  | twait (d : Reg) (c : BitVec 4) (b : Reg)
  /-- NBIND (R305). -/
  | nbind (c : BitVec 1) (a : Reg) (b : Reg)
  /-- NUNBIND (R305). -/
  | nunbind (c : BitVec 1) (b : Reg)
  /-- NCMD (R306). -/
  | ncmd (c : BitVec 1) (a : Reg)
  /-- NFENCE (R308). -/
  | nfence (c : BitVec 1)
  /-- NSTAT (R309). -/
  | nstat (d : Reg) (c : BitVec 1)
  /-- KGRP (R324). -/
  | kgrp (c : BitVec 1) (a : Reg)
  /-- KRED (R327). -/
  | kred (c : BitVec 1) (a : Reg)
  /-- KGAT (R328). -/
  | kgat (c : BitVec 1) (a : Reg)
  /-- KCAST (R328). -/
  | kcast (c : BitVec 1) (a : Reg)
  /-- KDRAW (R329). -/
  | kdraw (c : BitVec 1) (a : Reg)
  /-- TRAP (R353). -/
  | trap (code : BitVec 7)
  /-- SRET (R355). -/
  | sret (a : Reg) (b : Reg)
  /-- CTXSAVE (R358). -/
  | ctxsave (a : Reg) (b : Reg)
  /-- CTXLOAD (R358). -/
  | ctxload (a : Reg) (b : Reg)
  /-- TLBINV (R375). -/
  | tlbinv (a : Reg) (b : Reg)
  /-- WQPOST (R348). -/
  | wqpost (d : Reg) (a : Reg) (b : Reg)
  /-- WQSTAT (R349). -/
  | wqstat (d : Reg) (a : Reg) (b : Reg)
  /-- FWSET (R313). -/
  | fwset (a : Reg) (b : Reg)
  /-- PGRANT (R368). -/
  | pgrant (d : Reg) (a : Reg) (b : Reg)
  /-- PREVOKE (R369). -/
  | prevoke (d : Reg) (a : Reg) (b : Reg)
  /-- PDELEG (R368). -/
  | pdeleg (d : Reg) (a : Reg) (b : Reg)
  /-- PQUERY (R368). -/
  | pquery (d : Reg) (a : Reg) (b : Reg)
  /-- RET (R102). -/
  | ret
  /-- NOP (R110). -/
  | nop
  /-- YIELD (R110). -/
  | yield
  /-- TDONE (R112). -/
  | tdone
  /-- MDETACH (R221). -/
  | mdetach
  /-- TRET (R353). -/
  | tret
  /-- TDECL (R353). -/
  | tdecl
  /-- FFLAGS_SYNC_ACCESS (R74). -/
  | fflagsSyncAccess (write : Bool) (d : Reg) (reg : BitVec 11)
  /-- MSHAPE_WRITE (R223). -/
  | mshapeWrite (d : Reg)
  /-- PROT_MM_CLEAR (R70). -/
  | protMmClear (d : Reg)
  /-- VSTART_REPCNT_RESTORE (R111). -/
  | vstartRepcntRestore (repcnt : Bool) (d : Reg)
  /-- CPOST_TIMEOUT (R144). -/
  | cpostTimeout
  /-- CTAKE_TIMEOUT (R144). -/
  | ctakeTimeout
  /-- VECTOR_PIECE_EXECUTE (R149). -/
  | vectorPieceExecute
  /-- BOLT_WAIT_TIMEOUT (R134). -/
  | boltWaitTimeout
  /-- INSTRUCTION_RETIRE (R124). -/
  | instructionRetire (mm : Mismatch)
  /-- REDUCTION_BEGIN (R183). -/
  | reductionBegin
  /-- STASH_EVICTION (R24). -/
  | stashEviction (win : Nat) (line : Nat)
  /-- MATRIX_OP_EXECUTE (R231). -/
  | matrixOpExecute (n : Nat) (mm : Mismatch)
  /-- MATRIX_OP_COMPLETE (R236). -/
  | matrixOpComplete (n : Nat)
  /-- FDRAIN_TIMEOUT (R253). -/
  | fdrainTimeout
  /-- FLUME_COMMAND_RUN (R243). -/
  | flumeCommandRun (c : BitVec 2)
  /-- FLUME_COMMAND_COMPLETE (R248). -/
  | flumeCommandComplete (c : BitVec 2)
  /-- BARRIER_DEADLINE (R275). -/
  | barrierDeadline
  /-- WADDR_TIMEOUT (R276). -/
  | waddrTimeout
  /-- TWAIT_TIMEOUT (R278). -/
  | twaitTimeout
  /-- NFENCE_TIMEOUT (R308). -/
  | nfenceTimeout
  /-- WEIR_PART_RUN (R301). -/
  | weirPartRun (c : BitVec 1) (k : Nat)
  /-- WEIR_COMMAND_COMPLETE (R307). -/
  | weirCommandComplete (c : BitVec 1)
  /-- COLLECTIVE_RUN (R326). -/
  | collectiveRun (c : BitVec 1) (peers : List PeerPart)
  /-- COLLECTIVE_COMPLETE (R326). -/
  | collectiveComplete (c : BitVec 1)
  /-- WQPOST_TIMEOUT (R348). -/
  | wqpostTimeout
  /-- ASYNC_TRAP_DELIVERY (R403). -/
  | asyncTrapDelivery
  /-- SERVICE_CORE_TAKE_P (R354). -/
  | serviceCoreTakeP (cluster : Nat)
  /-- SERVICE_CORE_TAKE_S (R354). -/
  | serviceCoreTakeS (cluster : Nat)
  /-- LYDAR_TAKE_O (R378). -/
  | lydarTakeO
  /-- LAUNCH_MESSAGE (R335). -/
  | launchMessage (queue : BitVec 12) (conn : BitVec 16) (packet : List Byte)
  /-- LAUNCH_WRITE_UALINK (R335). -/
  | launchWriteUalink (queue : BitVec 12) (packet : List Byte)
  /-- LAUNCH_START (R339). -/
  | launchStart (queue : BitVec 12)
  /-- GROUP_DISPATCH (R341). -/
  | groupDispatch (queue : BitVec 12)
  /-- PRIORITY_AGEING (R340). -/
  | priorityAgeing (queue : BitVec 12)
  /-- GROUP_RESERVATION (R340). -/
  | groupReservation (queue : BitVec 12)
  /-- PRELOAD (R343). -/
  | preload (cluster : Nat) (core : Nat)
  /-- BUDGET_EXPIRY (R344). -/
  | budgetExpiry
  /-- TIME_SLICE_END (R360). -/
  | timeSliceEnd (cluster : Nat)
  /-- PAGE_MIGRATION (R292). -/
  | pageMigration (src : Nat) (dst : Nat) (large : Bool)
  /-- REMOTE_REQUEST (R316). -/
  | remoteRequest (op : RemoteOp)
  /-- UE_WINDOW_ACCESS (R27). -/
  | ueWindowAccess (partition : Nat) (op : RemoteOp)
  /-- REMOTE_ERROR_RESPONSE (R318). -/
  | remoteErrorResponse
  /-- REMOTE_ACCESS_TIMEOUT (R318). -/
  | remoteAccessTimeout
  /-- LINK_FAILURE (R331). -/
  | linkFailure (port : Nat) (lostNode : Option Nat)
  /-- THEIG_LINK_FAILURE (R380). -/
  | theigLinkFailure (chiplet : Nat)
  /-- WATCHDOG_EXPIRY (R380). -/
  | watchdogExpiry (chiplet : Nat)
  /-- SERVICE_CORE_SOFT_ERROR (R380). -/
  | serviceCoreSoftError (cluster : Nat)
  /-- FENCE_COMMAND (R380). -/
  | fenceCommand (chiplet : Nat)
  /-- CHIPLET_RESET (R380). -/
  | chipletReset (chiplet : Nat)
  /-- POWER_THROTTLE (R15). -/
  | powerThrottle (watts : Nat)
  /-- POWER_ON (R382). -/
  | powerOn (node : BitVec 10) (failed : List Nat)
  /-- ORANGE1_WRITE (R377). -/
  | orange1Write (v : Word)
  /-- OKEY3_WRITE (R377). -/
  | okey3Write (v : Word)
  /-- OPLIM_WRITE (R377). -/
  | oplimWrite (v : Word)
  /-- SRAM_SOFT_ERROR (R380). -/
  | sramSoftError (site : SramSite)
  /-- STORE_COMMIT (R23). -/
  | storeCommit (n : Nat)
  deriving DecidableEq, Repr

end Sys2Proof
end

