-- ==== Sys2Proof/WellFormed.lean ====
section
/-! DEFINITION. Which instructions have a word: the operand values that 03_words R57, R30 and R109 and the entries of
the instructions leave out. -/

namespace Sys2Proof

/-- A field that names a register and its successor holds 1 to 126 (08_draws R179, 09_vmem R213). -/
def pairField (f : Reg) : Bool := decide (1 ≤ f.toNat) && decide (f.toNat ≤ 126)

/-- A scratch pair is even (R57). -/
def scratchField (f : Reg) : Bool := decide (f.toNat % 2 = 0)

/-- The block codes that go with a type (R30). -/
def blockAllowed (blk : BlockLen) (ty : ElemType) : Bool :=
  match blk with
  | .none => true
  | .b16 =>
    match ty with
    | .e2m1 | .e2m3 | .e3m2 | .e4m3 | .e5m2 => true
    | _ => false
  | .b32 =>
    match ty with
    | .e2m1 | .e2m3 | .e3m2 | .e4m3 | .e5m2 | .cb8x2 => true
    | _ => false

/-- Fields and selections of wid (R109): field 0 to 5, and field 0 where the whole identifier is read. -/
def widAllowed (k : BitVec 3) (sel : BitVec 2) : Bool :=
  decide (k.toNat < 6) && (sel != 3#2 || k == 0#3)

/-- The instruction has an operand value that its encoding admits. Events have no operand to check. -/
def Instr.wellFormed : Instr → Bool
  | .wid _ k sel => widAllowed k sel
  | .vsetl _ _ blk ty => blockAllowed blk ty
  | .vredmaxi _ d _ | .vredmini _ d _ | .vdraw _ d _ | .vdrawt _ d _ | .vdrawp _ d _ _ => pairField d
  | .xdmerge d a b => pairField d && pairField a && pairField b
  | .vsetrun d _ _ => pairField d
  | .vlseg _ _ _ _ n | .vsseg _ _ _ _ n => n != 0#3
  | .mmaf _ bScr aScr _ a b | .mmao _ bScr aScr _ a b =>
    (!aScr || scratchField a) && (!bScr || scratchField b)
  | .fsetl _ l _ _ => l != 7#3
  | .tread _ c | .twait _ c _ => decide (c.toNat ≤ 8)
  | .add _ _ _ | .sub _ _ _ | .and _ _ _ | .or _ _ _ | .xor _ _ _ | .sll _ _ _
  | .srl _ _ _ | .sra _ _ _ | .slt _ _ _ | .sltn _ _ _ | .min _ _ _ | .max _ _ _
  | .minn _ _ _ | .maxn _ _ _ | .andn _ _ _ | .orn _ _ _ | .mul _ _ _ | .mulh _ _ _
  | .mulhn _ _ _ | .div _ _ _ | .divn _ _ _ | .rem _ _ _ | .remn _ _ _ | .clz _ _
  | .ctz _ _ | .popc _ _ | .bext _ _ _ | .bins _ _ _ | .addi _ _ _ | .andi _ _ _
  | .ori _ _ _ | .xori _ _ _ | .slli _ _ _ | .srli _ _ _ | .srai _ _ _ | .slti _ _ _
  | .sltni _ _ _ | .lhi _ _ | .lsh _ _ | .ldd _ _ _ | .ldw _ _ _ | .ldwn _ _ _
  | .ldbn _ _ _ | .std _ _ _ | .stw _ _ _ | .stb _ _ _ | .lddX _ _ _ | .ldwX _ _ _
  | .ldwnX _ _ _ | .ldh _ _ _ | .ldhn _ _ _ | .ldb _ _ _ | .ldbnX _ _ _ | .stdX _ _ _
  | .stwX _ _ _ | .sth _ _ _ | .stbX _ _ _ | .beq _ _ _ | .bne _ _ _ | .blt _ _ _
  | .bge _ _ _ | .bltn _ _ _ | .bgen _ _ _ | .bsub _ _ _ | .jmp _ | .call _
  | .jr _ | .jalr _ _ | .ret | .sget _ _ | .sput _ _ | .fflagsSyncAccess _ _ _
  | .mshapeWrite _ | .protMmClear _ | .vstartRepcntRestore _ _ | .vwin _ _ | .lfork _ | .ljoin _
  | .nop | .yield | .tdone | .rep _ _ _ _ _ | .cnew _ _ | .cdrop _
  | .cshare _ _ | .cseam _ _ _ | .chemh _ _ _ | .chemt _ _ _ | .csplit _ _ _ | .cslice _ _ _
  | .cpack _ _ | .cmovv _ _ | .cretype _ _ _ | .cpost _ _ | .ctake _ _ _ | .cpostTimeout
  | .ctakeTimeout | .clen _ _ | .cinfo _ _ | .cpool _ | .vget _ _ _ | .vput _ _ _
  | .vadd _ _ _ _ _ | .vsub _ _ _ _ _ | .vrsub _ _ _ _ _ | .vmul _ _ _ _ _ | .vadds _ _ _ _ _ | .vsubs _ _ _ _ _
  | .vmulh _ _ _ _ _ | .vavg _ _ _ _ _ | .vdiv _ _ _ _ _ | .vrem _ _ _ _ _ | .vmin _ _ _ _ _ | .vmax _ _ _ _ _
  | .vand _ _ _ _ _ | .vor _ _ _ _ _ | .vxor _ _ _ _ _ | .vandn _ _ _ _ _ | .vsll _ _ _ _ _ | .vsrl _ _ _ _ _
  | .vsra _ _ _ _ _ | .vrot _ _ _ _ _ | .vceq _ _ _ _ _ | .vcne _ _ _ _ _ | .vclt _ _ _ _ _ | .vcle _ _ _ _ _
  | .vfadd _ _ _ _ _ | .vfsub _ _ _ _ _ | .vfmul _ _ _ _ _ | .vfdiv _ _ _ _ _ | .vfmin _ _ _ _ _ | .vfmax _ _ _ _ _
  | .vfma _ _ _ _ _ | .vfms _ _ _ _ _ | .vfceq _ _ _ _ _ | .vfclt _ _ _ _ _ | .vfcle _ _ _ _ _ | .vfcun _ _ _ _ _
  | .vscale _ _ _ _ _ | .vfnma _ _ _ _ _ | .vfsgn _ _ _ _ _ | .vfsqrt _ _ _ | .vfrcp _ _ _ | .vfrsqrt _ _ _
  | .vflog2 _ _ _ | .vfexp2 _ _ _ | .vftanh _ _ _ | .vfabs _ _ _ | .vfneg _ _ _ | .vabs _ _ _
  | .vneg _ _ _ | .vnot _ _ _ | .vclz _ _ _ | .vpopc _ _ _ | .vfcat _ _ _ | .vmov _ _ _
  | .vid _ _ | .vcvt _ _ _ _ _ _ | .vslup _ _ _ _ | .vsldn _ _ _ _ | .vrgath _ _ _ _ _ | .vcompr _ _ _
  | .vzip _ _ _ _ | .vunzip _ _ _ _ | .vrev _ _ _ | .vmerge _ _ _ _ | .vbcast _ _ _ _ | .vmand _ _ _
  | .vmor _ _ _ | .vmxor _ _ _ | .vmnot _ _ | .vmcount _ _ _ | .vmlow _ _ _ | .vectorPieceExecute
  | .boltWaitTimeout | .instructionRetire _ | .vredsum _ _ _ | .vredosum _ _ _ | .vredmax _ _ _ | .vredmin _ _ _
  | .vrand _ _ | .reductionBegin | .vld _ _ _ _ | .vlds _ _ _ _ _ | .vldx _ _ _ _ _ | .vst _ _ _ _
  | .vsts _ _ _ _ _ | .vstx _ _ _ _ _ | .stashEviction _ _ | .smap _ _ _ | .sunmap _ | .sflush _
  | .mattach _ _ | .mdetach | .mshape _ | .mzero _ | .mread _ _ _ | .mwrite _ _ _
  | .msprog _ | .msmod _ _ _ | .matrixOpExecute _ _ | .matrixOpComplete _ | .fgo _ _ _ | .fgov _ _ _
  | .fnotify _ _ _ | .fdrain _ | .fcancel _ | .fresume _ | .fstat _ _ | .fdrainTimeout
  | .flumeCommandRun _ | .flumeCommandComplete _ | .amoadd _ _ _ | .amoand _ _ _ | .amoor _ _ _ | .amoxor _ _ _
  | .amomin _ _ _ | .amomax _ _ _ | .amominn _ _ _ | .amomaxn _ _ _ | .amoswp _ _ _ | .amocas _ _ _
  | .amofadd _ _ _ | .amoaddAr _ _ _ | .amoandAr _ _ _ | .amoorAr _ _ _ | .amoxorAr _ _ _ | .amominAr _ _ _
  | .amomaxAr _ _ _ | .amominnAr _ _ _ | .amomaxnAr _ _ _ | .amoswpAr _ _ _ | .amocasAr _ _ _ | .amofaddAr _ _ _
  | .ldacq _ _ _ | .strel _ _ _ | .fence _ _ _ | .binit _ _ | .barr _ _ | .bwait _ _
  | .barw _ _ | .bwaitd _ _ _ | .barrierDeadline | .waddr _ _ _ | .waddrTimeout | .twaitTimeout
  | .nbind _ _ _ | .nunbind _ _ | .ncmd _ _ | .nfence _ | .nstat _ _ | .nfenceTimeout
  | .weirPartRun _ _ | .weirCommandComplete _ | .kgrp _ _ | .kred _ _ | .kgat _ _ | .kcast _ _
  | .kdraw _ _ | .collectiveRun _ _ | .collectiveComplete _ | .trap _ | .tret | .tdecl
  | .sret _ _ | .ctxsave _ _ | .ctxload _ _ | .tlbinv _ _ | .wqpost _ _ _ | .wqstat _ _ _
  | .fwset _ _ | .wqpostTimeout | .pgrant _ _ _ | .prevoke _ _ _ | .pdeleg _ _ _ | .pquery _ _ _
  | .asyncTrapDelivery | .serviceCoreTakeP _ | .serviceCoreTakeS _ | .lydarTakeO | .launchMessage _ _ _ | .launchWriteUalink _ _
  | .launchStart _ | .groupDispatch _ | .priorityAgeing _ | .groupReservation _ | .preload _ _ | .budgetExpiry
  | .timeSliceEnd _ | .pageMigration _ _ _ | .remoteRequest _ | .ueWindowAccess _ _ | .remoteErrorResponse | .remoteAccessTimeout
  | .linkFailure _ _ | .theigLinkFailure _ | .watchdogExpiry _ | .serviceCoreSoftError _ | .fenceCommand _ | .chipletReset _
  | .powerThrottle _ | .powerOn _ _ | .orange1Write _ | .okey3Write _ | .oplimWrite _ | .sramSoftError _
  | .storeCommit _ | .bgenBar _ _ => true

/-- The row is an event of the device, which has no word (95_what_each_step_holds). -/
def Instr.isEvent : Instr → Bool
  | .fflagsSyncAccess _ _ _ | .mshapeWrite _ | .protMmClear _ | .vstartRepcntRestore _ _ | .cpostTimeout | .ctakeTimeout
  | .vectorPieceExecute | .boltWaitTimeout | .instructionRetire _ | .reductionBegin | .stashEviction _ _ | .matrixOpExecute _ _
  | .matrixOpComplete _ | .fdrainTimeout | .flumeCommandRun _ | .flumeCommandComplete _ | .barrierDeadline | .waddrTimeout
  | .twaitTimeout | .nfenceTimeout | .weirPartRun _ _ | .weirCommandComplete _ | .collectiveRun _ _ | .collectiveComplete _
  | .wqpostTimeout | .asyncTrapDelivery | .serviceCoreTakeP _ | .serviceCoreTakeS _ | .lydarTakeO | .launchMessage _ _ _
  | .launchWriteUalink _ _ | .launchStart _ | .groupDispatch _ | .priorityAgeing _ | .groupReservation _ | .preload _ _
  | .budgetExpiry | .timeSliceEnd _ | .pageMigration _ _ _ | .remoteRequest _ | .ueWindowAccess _ _ | .remoteErrorResponse
  | .remoteAccessTimeout | .linkFailure _ _ | .theigLinkFailure _ | .watchdogExpiry _ | .serviceCoreSoftError _ | .fenceCommand _
  | .chipletReset _ | .powerThrottle _ | .powerOn _ _ | .orange1Write _ | .okey3Write _ | .oplimWrite _
  | .sramSoftError _ | .storeCommit _ => true
  | .add _ _ _ | .sub _ _ _ | .and _ _ _ | .or _ _ _ | .xor _ _ _ | .sll _ _ _
  | .srl _ _ _ | .sra _ _ _ | .slt _ _ _ | .sltn _ _ _ | .min _ _ _ | .max _ _ _
  | .minn _ _ _ | .maxn _ _ _ | .andn _ _ _ | .orn _ _ _ | .mul _ _ _ | .mulh _ _ _
  | .mulhn _ _ _ | .div _ _ _ | .divn _ _ _ | .rem _ _ _ | .remn _ _ _ | .clz _ _
  | .ctz _ _ | .popc _ _ | .bext _ _ _ | .bins _ _ _ | .addi _ _ _ | .andi _ _ _
  | .ori _ _ _ | .xori _ _ _ | .slli _ _ _ | .srli _ _ _ | .srai _ _ _ | .slti _ _ _
  | .sltni _ _ _ | .lhi _ _ | .lsh _ _ | .ldd _ _ _ | .ldw _ _ _ | .ldwn _ _ _
  | .ldbn _ _ _ | .std _ _ _ | .stw _ _ _ | .stb _ _ _ | .lddX _ _ _ | .ldwX _ _ _
  | .ldwnX _ _ _ | .ldh _ _ _ | .ldhn _ _ _ | .ldb _ _ _ | .ldbnX _ _ _ | .stdX _ _ _
  | .stwX _ _ _ | .sth _ _ _ | .stbX _ _ _ | .beq _ _ _ | .bne _ _ _ | .blt _ _ _
  | .bge _ _ _ | .bltn _ _ _ | .bgen _ _ _ | .bsub _ _ _ | .jmp _ | .call _
  | .jr _ | .jalr _ _ | .ret | .sget _ _ | .sput _ _ | .vwin _ _
  | .lfork _ | .ljoin _ | .wid _ _ _ | .nop | .yield | .tdone
  | .vsetl _ _ _ _ | .rep _ _ _ _ _ | .cnew _ _ | .cdrop _ | .cshare _ _ | .cseam _ _ _
  | .chemh _ _ _ | .chemt _ _ _ | .csplit _ _ _ | .cslice _ _ _ | .cpack _ _ | .cmovv _ _
  | .cretype _ _ _ | .cpost _ _ | .ctake _ _ _ | .clen _ _ | .cinfo _ _ | .cpool _
  | .vget _ _ _ | .vput _ _ _ | .vadd _ _ _ _ _ | .vsub _ _ _ _ _ | .vrsub _ _ _ _ _ | .vmul _ _ _ _ _
  | .vadds _ _ _ _ _ | .vsubs _ _ _ _ _ | .vmulh _ _ _ _ _ | .vavg _ _ _ _ _ | .vdiv _ _ _ _ _ | .vrem _ _ _ _ _
  | .vmin _ _ _ _ _ | .vmax _ _ _ _ _ | .vand _ _ _ _ _ | .vor _ _ _ _ _ | .vxor _ _ _ _ _ | .vandn _ _ _ _ _
  | .vsll _ _ _ _ _ | .vsrl _ _ _ _ _ | .vsra _ _ _ _ _ | .vrot _ _ _ _ _ | .vceq _ _ _ _ _ | .vcne _ _ _ _ _
  | .vclt _ _ _ _ _ | .vcle _ _ _ _ _ | .vfadd _ _ _ _ _ | .vfsub _ _ _ _ _ | .vfmul _ _ _ _ _ | .vfdiv _ _ _ _ _
  | .vfmin _ _ _ _ _ | .vfmax _ _ _ _ _ | .vfma _ _ _ _ _ | .vfms _ _ _ _ _ | .vfceq _ _ _ _ _ | .vfclt _ _ _ _ _
  | .vfcle _ _ _ _ _ | .vfcun _ _ _ _ _ | .vscale _ _ _ _ _ | .vfnma _ _ _ _ _ | .vfsgn _ _ _ _ _ | .vfsqrt _ _ _
  | .vfrcp _ _ _ | .vfrsqrt _ _ _ | .vflog2 _ _ _ | .vfexp2 _ _ _ | .vftanh _ _ _ | .vfabs _ _ _
  | .vfneg _ _ _ | .vabs _ _ _ | .vneg _ _ _ | .vnot _ _ _ | .vclz _ _ _ | .vpopc _ _ _
  | .vfcat _ _ _ | .vmov _ _ _ | .vid _ _ | .vcvt _ _ _ _ _ _ | .vslup _ _ _ _ | .vsldn _ _ _ _
  | .vrgath _ _ _ _ _ | .vcompr _ _ _ | .vzip _ _ _ _ | .vunzip _ _ _ _ | .vrev _ _ _ | .vmerge _ _ _ _
  | .vbcast _ _ _ _ | .vmand _ _ _ | .vmor _ _ _ | .vmxor _ _ _ | .vmnot _ _ | .vmcount _ _ _
  | .vmlow _ _ _ | .vredsum _ _ _ | .vredosum _ _ _ | .vredmax _ _ _ | .vredmin _ _ _ | .vredmaxi _ _ _
  | .vredmini _ _ _ | .vdraw _ _ _ | .vdrawt _ _ _ | .vdrawp _ _ _ _ | .xdmerge _ _ _ | .vrand _ _
  | .vld _ _ _ _ | .vlds _ _ _ _ _ | .vldx _ _ _ _ _ | .vlseg _ _ _ _ _ | .vst _ _ _ _ | .vsts _ _ _ _ _
  | .vstx _ _ _ _ _ | .vsseg _ _ _ _ _ | .vsetrun _ _ _ | .smap _ _ _ | .sunmap _ | .sflush _
  | .mattach _ _ | .mdetach | .mshape _ | .mzero _ | .mread _ _ _ | .mwrite _ _ _
  | .msprog _ | .msmod _ _ _ | .mmaf _ _ _ _ _ _ | .mmao _ _ _ _ _ _ | .fsetl _ _ _ _ | .fgo _ _ _
  | .fgov _ _ _ | .fnotify _ _ _ | .fdrain _ | .fcancel _ | .fresume _ | .fstat _ _
  | .amoadd _ _ _ | .amoand _ _ _ | .amoor _ _ _ | .amoxor _ _ _ | .amomin _ _ _ | .amomax _ _ _
  | .amominn _ _ _ | .amomaxn _ _ _ | .amoswp _ _ _ | .amocas _ _ _ | .amofadd _ _ _ | .amoaddAr _ _ _
  | .amoandAr _ _ _ | .amoorAr _ _ _ | .amoxorAr _ _ _ | .amominAr _ _ _ | .amomaxAr _ _ _ | .amominnAr _ _ _
  | .amomaxnAr _ _ _ | .amoswpAr _ _ _ | .amocasAr _ _ _ | .amofaddAr _ _ _ | .ldacq _ _ _ | .strel _ _ _
  | .fence _ _ _ | .binit _ _ | .barr _ _ | .bwait _ _ | .barw _ _ | .bwaitd _ _ _
  | .waddr _ _ _ | .tread _ _ | .twait _ _ _ | .nbind _ _ _ | .nunbind _ _ | .ncmd _ _
  | .nfence _ | .nstat _ _ | .kgrp _ _ | .kred _ _ | .kgat _ _ | .kcast _ _
  | .kdraw _ _ | .trap _ | .tret | .tdecl | .sret _ _ | .ctxsave _ _
  | .ctxload _ _ | .tlbinv _ _ | .wqpost _ _ _ | .wqstat _ _ _ | .fwset _ _ | .pgrant _ _ _
  | .prevoke _ _ _ | .pdeleg _ _ _ | .pquery _ _ _ | .bgenBar _ _ => false

end Sys2Proof
end

