-- ==== Sys2Proof/Decode.lean ====
section
/-! DEFINITION. The decoder of instruction words, total on every 32-bit word and rejecting by name, and the encoder
(03_words R53 to R68; the fields and codes of R61 to R64). -/

namespace Sys2Proof

/-- Why a word is not an instruction (R68). -/
inductive DecodeErr where
  /-- Majors 0x00 and 0x7F. -/
  | illegalMajor
  /-- A major that R61 reserves. -/
  | reservedMajor
  /-- A function code or sub-operation that R62 reserves. -/
  | reservedCode
  /-- A type code or block code that R29 and R30 reserve or do not combine. -/
  | reservedType
  /-- A field or bit range that the instruction does not use is not zero (R56). -/
  | nonZeroField
  /-- A register field or literal holds an invalid value (R57). -/
  | badRegister
  deriving DecidableEq, Repr

/-- The five fields of format A; every other format joins neighbouring fields of it (R54). -/
structure Fields where
  op : BitVec 7
  d  : Reg
  a  : Reg
  b  : Reg
  fn : BitVec 4
  deriving DecidableEq, Repr

/-- The fields of a word (R54). -/
def splitWord (w : IWord) : Fields :=
  { op := w.extractLsb' 25 7, d := w.extractLsb' 18 7, a := w.extractLsb' 11 7, b := w.extractLsb' 4 7,
    fn := w.extractLsb' 0 4 }

/-- The word of the fields (R54). -/
def joinWord (f : Fields) : IWord := f.op ++ f.d ++ f.a ++ f.b ++ f.fn

/-- imm11 of format B (R54). -/
def Fields.imm11 (f : Fields) : BitVec 11 := f.b ++ f.fn

/-- imm18 of format C (R54). -/
def Fields.imm18 (f : Fields) : BitVec 18 := f.a ++ f.b ++ f.fn

/-- imm25 of format J (R54). -/
def Fields.imm25 (f : Fields) : BitVec 25 := f.d ++ f.a ++ f.b ++ f.fn

/-- A word of format A. -/
def fmtA (op : BitVec 7) (d a b : Reg) (fn : BitVec 4) : Fields := { op, d, a, b, fn }

/-- A word of format B. -/
def fmtB (op : BitVec 7) (d a : Reg) (imm : BitVec 11) : Fields :=
  { op, d, a, b := imm.extractLsb' 4 7, fn := imm.extractLsb' 0 4 }

/-- A word of format C. -/
def fmtC (op : BitVec 7) (d : Reg) (imm : BitVec 18) : Fields :=
  { op, d, a := imm.extractLsb' 11 7, b := imm.extractLsb' 4 7, fn := imm.extractLsb' 0 4 }

/-- A word of format J. -/
def fmtJ (op : BitVec 7) (imm : BitVec 25) : Fields :=
  { op, d := imm.extractLsb' 18 7, a := imm.extractLsb' 11 7, b := imm.extractLsb' 4 7, fn := imm.extractLsb' 0 4 }

/-- The function code of the vector convention (R63). -/
def vecFn (m s : Bool) (code : BitVec 2) : BitVec 4 := BitVec.ofBool m ++ BitVec.ofBool s ++ code

/-- The type of a 5-bit code (R29). -/
def ElemType.ofCode (c : BitVec 5) : Option ElemType :=
  match c.toNat with
  | 0 => some .b1
  | 1 => some .i4
  | 2 => some .n4
  | 3 => some .i6
  | 4 => some .n6
  | 5 => some .i8
  | 6 => some .n8
  | 7 => some .i16
  | 8 => some .n16
  | 9 => some .i32
  | 10 => some .n32
  | 11 => some .i64
  | 12 => some .n64
  | 13 => some .e2m1
  | 14 => some .e2m3
  | 15 => some .e3m2
  | 16 => some .e4m3
  | 17 => some .e5m2
  | 18 => some .f16
  | 19 => some .bf16
  | 20 => some .f32
  | 21 => some .e8m0
  | 22 => some .cb8x2
  | _ => none

/-- The 5-bit code of a type (R29). -/
def ElemType.code : ElemType → BitVec 5
  | .b1 => 0#5
  | .i4 => 1#5
  | .n4 => 2#5
  | .i6 => 3#5
  | .n6 => 4#5
  | .i8 => 5#5
  | .n8 => 6#5
  | .i16 => 7#5
  | .n16 => 8#5
  | .i32 => 9#5
  | .n32 => 10#5
  | .i64 => 11#5
  | .n64 => 12#5
  | .e2m1 => 13#5
  | .e2m3 => 14#5
  | .e3m2 => 15#5
  | .e4m3 => 16#5
  | .e5m2 => 17#5
  | .f16 => 18#5
  | .bf16 => 19#5
  | .f32 => 20#5
  | .e8m0 => 21#5
  | .cb8x2 => 22#5

/-- The block length of a 2-bit code (R30). -/
def BlockLen.ofCode (c : BitVec 2) : Option BlockLen :=
  match c.toNat with
  | 0 => some .none
  | 1 => some .b16
  | 2 => some .b32
  | _ => Option.none

/-- The 2-bit code of a block length (R30). -/
def BlockLen.code : BlockLen → BitVec 2
  | .none => 0#2
  | .b16 => 1#2
  | .b32 => 2#2

/-- The rounding mode of a 2-bit code (R42). -/
def Rounding.ofCode (c : BitVec 2) : Rounding :=
  match c.toNat with
  | 0 => .rne
  | 1 => .rtz
  | 2 => .rdn
  | _ => .rup

/-- The 2-bit code of a rounding mode (R42). -/
def Rounding.code : Rounding → BitVec 2
  | .rne => 0#2
  | .rtz => 1#2
  | .rdn => 2#2
  | .rup => 3#2

/-- The scope of a 3-bit code (R64). -/
def FenceScope.ofCode (c : BitVec 3) : Option FenceScope :=
  match c.toNat with
  | 0 => some .hart
  | 1 => some .core
  | 2 => some .cluster
  | 3 => some .device
  | 4 => some .domain
  | _ => none

/-- The 3-bit code of a scope (R64). -/
def FenceScope.code : FenceScope → BitVec 3
  | .hart => 0#3
  | .core => 1#3
  | .cluster => 2#3
  | .device => 3#3
  | .domain => 4#3

/-- `k` where the field `z` that the instruction does not use is zero (R56). -/
def zeroThen {n : Nat} (z : BitVec n) (k : Except DecodeErr Instr) : Except DecodeErr Instr :=
  if z = 0#n then k else .error .nonZeroField

/-- The register of the low bits of a field whose upper bits a tile, channel or context number leaves zero (R57). -/
def smallField {n : Nat} (limit : Nat) (f : Reg) (k : BitVec n → Except DecodeErr Instr) : Except DecodeErr Instr :=
  if f.toNat < limit then k (f.setWidth n) else .error .badRegister

/-- A field that names a register and its successor: 1 to 126 (R179). -/
def pairThen (f : Reg) (k : Except DecodeErr Instr) : Except DecodeErr Instr :=
  if pairField f then k else .error .badRegister

/-- A scratch pair where `scr` holds, else a vector name (R57). -/
def scratchThen (scr : Bool) (f : Reg) (k : Except DecodeErr Instr) : Except DecodeErr Instr :=
  if scr && !scratchField f then .error .badRegister else k

/-- Major 0x01 (R62). -/
def decodeMajor01 (f : Fields) : Except DecodeErr Instr :=
  match f.fn.toNat with
  | 0 => .ok (.add f.d f.a f.b)
  | 1 => .ok (.sub f.d f.a f.b)
  | 2 => .ok (.and f.d f.a f.b)
  | 3 => .ok (.or f.d f.a f.b)
  | 4 => .ok (.xor f.d f.a f.b)
  | 5 => .ok (.sll f.d f.a f.b)
  | 6 => .ok (.srl f.d f.a f.b)
  | 7 => .ok (.sra f.d f.a f.b)
  | 8 => .ok (.slt f.d f.a f.b)
  | 9 => .ok (.sltn f.d f.a f.b)
  | 10 => .ok (.min f.d f.a f.b)
  | 11 => .ok (.max f.d f.a f.b)
  | 12 => .ok (.minn f.d f.a f.b)
  | 13 => .ok (.maxn f.d f.a f.b)
  | 14 => .ok (.andn f.d f.a f.b)
  | _ => .ok (.orn f.d f.a f.b)

/-- Major 0x02 (R62). -/
def decodeMajor02 (f : Fields) : Except DecodeErr Instr :=
  match f.fn.toNat with
  | 0 => .ok (.mul f.d f.a f.b)
  | 1 => .ok (.mulh f.d f.a f.b)
  | 2 => .ok (.mulhn f.d f.a f.b)
  | 3 => .ok (.div f.d f.a f.b)
  | 4 => .ok (.divn f.d f.a f.b)
  | 5 => .ok (.rem f.d f.a f.b)
  | 6 => .ok (.remn f.d f.a f.b)
  | 7 => zeroThen f.b <| .ok (.clz f.d f.a)
  | 8 => zeroThen f.b <| .ok (.ctz f.d f.a)
  | 9 => zeroThen f.b <| .ok (.popc f.d f.a)
  | 10 => .ok (.bext f.d f.a f.b)
  | 11 => .ok (.bins f.d f.a f.b)
  | _ => .error .reservedCode

/-- Major 0x07: immediate shifts (R64). -/
def decodeShifti (f : Fields) : Except DecodeErr Instr :=
  zeroThen (f.imm11.extractLsb' 6 3) <|
    match (f.imm11.extractLsb' 9 2).toNat with
    | 0 => .ok (.slli f.d f.a (f.imm11.extractLsb' 0 6))
    | 1 => .ok (.srli f.d f.a (f.imm11.extractLsb' 0 6))
    | 2 => .ok (.srai f.d f.a (f.imm11.extractLsb' 0 6))
    | _ => .error .reservedCode

/-- Major 0x13 (R62). -/
def decodeMajor13 (f : Fields) : Except DecodeErr Instr :=
  match f.fn.toNat with
  | 0 => .ok (.lddX f.d f.a f.b)
  | 1 => .ok (.ldwX f.d f.a f.b)
  | 2 => .ok (.ldwnX f.d f.a f.b)
  | 3 => .ok (.ldh f.d f.a f.b)
  | 4 => .ok (.ldhn f.d f.a f.b)
  | 5 => .ok (.ldb f.d f.a f.b)
  | 6 => .ok (.ldbnX f.d f.a f.b)
  | 8 => .ok (.stdX f.d f.a f.b)
  | 9 => .ok (.stwX f.d f.a f.b)
  | 10 => .ok (.sth f.d f.a f.b)
  | 11 => .ok (.stbX f.d f.a f.b)
  | _ => .error .reservedCode

/-- Major 0x1D (R62). -/
def decodeMajor1D (f : Fields) : Except DecodeErr Instr :=
  match f.fn.toNat with
  | 0 => zeroThen f.b <| zeroThen f.d <| .ok (.jr f.a)
  | 1 => zeroThen f.b <| .ok (.jalr f.d f.a)
  | 2 => zeroThen f.b <| zeroThen f.a <| zeroThen f.d <| .ok (.ret)
  | _ => .error .reservedCode

/-- Major 0x20 (R62). -/
def decodeMajor20 (f : Fields) : Except DecodeErr Instr :=
  match f.fn.toNat with
  | 0 => zeroThen f.b <| .ok (.vwin f.d f.a)
  | 1 => zeroThen f.b <| zeroThen f.a <| .ok (.lfork f.d)
  | 2 => zeroThen f.b <| zeroThen f.d <| .ok (.ljoin f.a)
  | 3 => smallField 6 f.a fun k => smallField 4 f.b fun sel => if widAllowed k sel then .ok (.wid f.d k sel) else .error .badRegister
  | 4 => zeroThen f.b <| zeroThen f.a <| zeroThen f.d <| .ok (.nop)
  | 5 => zeroThen f.b <| zeroThen f.a <| zeroThen f.d <| .ok (.yield)
  | 6 => zeroThen f.b <| zeroThen f.a <| zeroThen f.d <| .ok (.tdone)
  | _ => .error .reservedCode

/-- Major 0x21: vsetl (R64, R103). -/
def decodeVsetl (f : Fields) : Except DecodeErr Instr :=
  zeroThen (f.imm11.extractLsb' 7 4) <|
    match BlockLen.ofCode (f.imm11.extractLsb' 5 2), ElemType.ofCode (f.imm11.extractLsb' 0 5) with
    | some blk, some ty => if blockAllowed blk ty then .ok (.vsetl f.d f.a blk ty) else .error .reservedType
    | _, _ => .error .reservedType

/-- Major 0x22: the repeat prefix, format P (R54, R65). -/
def decodeRep (f : Fields) : Except DecodeErr Instr :=
  zeroThen (f.imm25.extractLsb' 0 13) <|
    .ok (.rep (f.imm25.extractLsb' 19 6) (f.imm25.getLsbD 18) (f.imm25.getLsbD 17) (f.imm25.getLsbD 16)
      (f.imm25.extractLsb' 13 3))

/-- Major 0x28 (R62). -/
def decodeMajor28 (f : Fields) : Except DecodeErr Instr :=
  match f.fn.toNat with
  | 0 => zeroThen f.b <| .ok (.cnew f.d f.a)
  | 1 => zeroThen f.b <| zeroThen f.a <| .ok (.cdrop f.d)
  | 2 => zeroThen f.b <| .ok (.cshare f.d f.a)
  | 3 => .ok (.cseam f.d f.a f.b)
  | 4 => .ok (.chemh f.d f.a f.b)
  | 5 => .ok (.chemt f.d f.a f.b)
  | 6 => .ok (.csplit f.d f.a f.b)
  | 7 => .ok (.cslice f.d f.a f.b)
  | 8 => zeroThen f.b <| .ok (.cpack f.d f.a)
  | 9 => zeroThen f.b <| .ok (.cmovv f.d f.a)
  | 10 => zeroThen (f.b.extractLsb' 5 2) <| match ElemType.ofCode (f.b.extractLsb' 0 5) with | some ty => .ok (.cretype f.d f.a ty) | none => .error .reservedType
  | 11 => zeroThen f.a <| .ok (.cpost f.d f.b)
  | 12 => .ok (.ctake f.d f.a f.b)
  | _ => .error .reservedCode

/-- Major 0x29 (R62). -/
def decodeMajor29 (f : Fields) : Except DecodeErr Instr :=
  match f.fn.toNat with
  | 0 => zeroThen f.b <| .ok (.clen f.d f.a)
  | 1 => zeroThen f.b <| .ok (.cinfo f.d f.a)
  | 2 => zeroThen f.b <| zeroThen f.a <| .ok (.cpool f.d)
  | 3 => .ok (.vget f.d f.a f.b)
  | 4 => .ok (.vput f.d f.a f.b)
  | _ => .error .reservedCode

/-- Major 0x2A (R62). -/
def decodeMajor2A (f : Fields) : Except DecodeErr Instr :=
  match (f.fn.extractLsb' 0 2).toNat with
  | 0 => .ok (.vadd (f.fn.getLsbD 3) (f.fn.getLsbD 2) f.d f.a f.b)
  | 1 => .ok (.vsub (f.fn.getLsbD 3) (f.fn.getLsbD 2) f.d f.a f.b)
  | 2 => .ok (.vrsub (f.fn.getLsbD 3) (f.fn.getLsbD 2) f.d f.a f.b)
  | _ => .ok (.vmul (f.fn.getLsbD 3) (f.fn.getLsbD 2) f.d f.a f.b)

/-- Major 0x2B (R62). -/
def decodeMajor2B (f : Fields) : Except DecodeErr Instr :=
  match (f.fn.extractLsb' 0 2).toNat with
  | 0 => .ok (.vadds (f.fn.getLsbD 3) (f.fn.getLsbD 2) f.d f.a f.b)
  | 1 => .ok (.vsubs (f.fn.getLsbD 3) (f.fn.getLsbD 2) f.d f.a f.b)
  | 2 => .ok (.vmulh (f.fn.getLsbD 3) (f.fn.getLsbD 2) f.d f.a f.b)
  | _ => .ok (.vavg (f.fn.getLsbD 3) (f.fn.getLsbD 2) f.d f.a f.b)

/-- Major 0x2C (R62). -/
def decodeMajor2C (f : Fields) : Except DecodeErr Instr :=
  match (f.fn.extractLsb' 0 2).toNat with
  | 0 => .ok (.vdiv (f.fn.getLsbD 3) (f.fn.getLsbD 2) f.d f.a f.b)
  | 1 => .ok (.vrem (f.fn.getLsbD 3) (f.fn.getLsbD 2) f.d f.a f.b)
  | 2 => .ok (.vmin (f.fn.getLsbD 3) (f.fn.getLsbD 2) f.d f.a f.b)
  | _ => .ok (.vmax (f.fn.getLsbD 3) (f.fn.getLsbD 2) f.d f.a f.b)

/-- Major 0x2D (R62). -/
def decodeMajor2D (f : Fields) : Except DecodeErr Instr :=
  match (f.fn.extractLsb' 0 2).toNat with
  | 0 => .ok (.vand (f.fn.getLsbD 3) (f.fn.getLsbD 2) f.d f.a f.b)
  | 1 => .ok (.vor (f.fn.getLsbD 3) (f.fn.getLsbD 2) f.d f.a f.b)
  | 2 => .ok (.vxor (f.fn.getLsbD 3) (f.fn.getLsbD 2) f.d f.a f.b)
  | _ => .ok (.vandn (f.fn.getLsbD 3) (f.fn.getLsbD 2) f.d f.a f.b)

/-- Major 0x2E (R62). -/
def decodeMajor2E (f : Fields) : Except DecodeErr Instr :=
  match (f.fn.extractLsb' 0 2).toNat with
  | 0 => .ok (.vsll (f.fn.getLsbD 3) (f.fn.getLsbD 2) f.d f.a f.b)
  | 1 => .ok (.vsrl (f.fn.getLsbD 3) (f.fn.getLsbD 2) f.d f.a f.b)
  | 2 => .ok (.vsra (f.fn.getLsbD 3) (f.fn.getLsbD 2) f.d f.a f.b)
  | _ => .ok (.vrot (f.fn.getLsbD 3) (f.fn.getLsbD 2) f.d f.a f.b)

/-- Major 0x2F (R62). -/
def decodeMajor2F (f : Fields) : Except DecodeErr Instr :=
  match (f.fn.extractLsb' 0 2).toNat with
  | 0 => .ok (.vceq (f.fn.getLsbD 3) (f.fn.getLsbD 2) f.d f.a f.b)
  | 1 => .ok (.vcne (f.fn.getLsbD 3) (f.fn.getLsbD 2) f.d f.a f.b)
  | 2 => .ok (.vclt (f.fn.getLsbD 3) (f.fn.getLsbD 2) f.d f.a f.b)
  | _ => .ok (.vcle (f.fn.getLsbD 3) (f.fn.getLsbD 2) f.d f.a f.b)

/-- Major 0x30 (R62). -/
def decodeMajor30 (f : Fields) : Except DecodeErr Instr :=
  match (f.fn.extractLsb' 0 2).toNat with
  | 0 => .ok (.vfadd (f.fn.getLsbD 3) (f.fn.getLsbD 2) f.d f.a f.b)
  | 1 => .ok (.vfsub (f.fn.getLsbD 3) (f.fn.getLsbD 2) f.d f.a f.b)
  | 2 => .ok (.vfmul (f.fn.getLsbD 3) (f.fn.getLsbD 2) f.d f.a f.b)
  | _ => .ok (.vfdiv (f.fn.getLsbD 3) (f.fn.getLsbD 2) f.d f.a f.b)

/-- Major 0x31 (R62). -/
def decodeMajor31 (f : Fields) : Except DecodeErr Instr :=
  match (f.fn.extractLsb' 0 2).toNat with
  | 0 => .ok (.vfmin (f.fn.getLsbD 3) (f.fn.getLsbD 2) f.d f.a f.b)
  | 1 => .ok (.vfmax (f.fn.getLsbD 3) (f.fn.getLsbD 2) f.d f.a f.b)
  | 2 => .ok (.vfma (f.fn.getLsbD 3) (f.fn.getLsbD 2) f.d f.a f.b)
  | _ => .ok (.vfms (f.fn.getLsbD 3) (f.fn.getLsbD 2) f.d f.a f.b)

/-- Major 0x32 (R62). -/
def decodeMajor32 (f : Fields) : Except DecodeErr Instr :=
  match (f.fn.extractLsb' 0 2).toNat with
  | 0 => .ok (.vfceq (f.fn.getLsbD 3) (f.fn.getLsbD 2) f.d f.a f.b)
  | 1 => .ok (.vfclt (f.fn.getLsbD 3) (f.fn.getLsbD 2) f.d f.a f.b)
  | 2 => .ok (.vfcle (f.fn.getLsbD 3) (f.fn.getLsbD 2) f.d f.a f.b)
  | _ => .ok (.vfcun (f.fn.getLsbD 3) (f.fn.getLsbD 2) f.d f.a f.b)

/-- Major 0x33 (R62). -/
def decodeMajor33 (f : Fields) : Except DecodeErr Instr :=
  match (f.fn.extractLsb' 0 2).toNat with
  | 0 => .ok (.vscale (f.fn.getLsbD 3) (f.fn.getLsbD 2) f.d f.a f.b)
  | 1 => .ok (.vfnma (f.fn.getLsbD 3) (f.fn.getLsbD 2) f.d f.a f.b)
  | 2 => .ok (.vfsgn (f.fn.getLsbD 3) (f.fn.getLsbD 2) f.d f.a f.b)
  | _ => .error .reservedCode

/-- Major 0x34: unary vector operations (R62). -/
def decodeVunary (f : Fields) : Except DecodeErr Instr :=
  zeroThen (f.fn.extractLsb' 0 3) <|
    match f.b.toNat with
    | 0 => .ok (.vfsqrt (f.fn.getLsbD 3) f.d f.a)
    | 1 => .ok (.vfrcp (f.fn.getLsbD 3) f.d f.a)
    | 2 => .ok (.vfrsqrt (f.fn.getLsbD 3) f.d f.a)
    | 3 => .ok (.vflog2 (f.fn.getLsbD 3) f.d f.a)
    | 4 => .ok (.vfexp2 (f.fn.getLsbD 3) f.d f.a)
    | 5 => .ok (.vftanh (f.fn.getLsbD 3) f.d f.a)
    | 6 => .ok (.vfabs (f.fn.getLsbD 3) f.d f.a)
    | 7 => .ok (.vfneg (f.fn.getLsbD 3) f.d f.a)
    | 8 => .ok (.vabs (f.fn.getLsbD 3) f.d f.a)
    | 9 => .ok (.vneg (f.fn.getLsbD 3) f.d f.a)
    | 10 => .ok (.vnot (f.fn.getLsbD 3) f.d f.a)
    | 11 => .ok (.vclz (f.fn.getLsbD 3) f.d f.a)
    | 12 => .ok (.vpopc (f.fn.getLsbD 3) f.d f.a)
    | 13 => .ok (.vfcat (f.fn.getLsbD 3) f.d f.a)
    | 14 => .ok (.vmov (f.fn.getLsbD 3) f.d f.a)
    | 15 => zeroThen f.a (.ok (.vid (f.fn.getLsbD 3) f.d))
    | _ => .error .reservedCode

/-- Major 0x35: vcvt (R62). -/
def decodeVcvt (f : Fields) : Except DecodeErr Instr :=
  zeroThen (f.b.extractLsb' 5 2) <|
    match ElemType.ofCode (f.b.extractLsb' 0 5) with
    | some ty => .ok (.vcvt (f.fn.getLsbD 3) (f.fn.getLsbD 2) (Rounding.ofCode (f.fn.extractLsb' 0 2)) f.d f.a ty)
    | none => .error .reservedType

/-- Major 0x36 (R62). -/
def decodeMajor36 (f : Fields) : Except DecodeErr Instr :=
  match (f.fn.extractLsb' 0 2).toNat with
  | 0 => if f.fn.getLsbD 2 then (.ok (.vslup (f.fn.getLsbD 3) f.d f.a f.b)) else .error .reservedCode
  | 1 => if f.fn.getLsbD 2 then (.ok (.vsldn (f.fn.getLsbD 3) f.d f.a f.b)) else .error .reservedCode
  | 2 => .ok (.vrgath (f.fn.getLsbD 3) (f.fn.getLsbD 2) f.d f.a f.b)
  | _ => if !f.fn.getLsbD 3 && !f.fn.getLsbD 2 then (.ok (.vcompr f.d f.a f.b)) else .error .reservedCode

/-- Major 0x37 (R62). -/
def decodeMajor37 (f : Fields) : Except DecodeErr Instr :=
  match (f.fn.extractLsb' 0 2).toNat with
  | 0 => if !f.fn.getLsbD 2 then (.ok (.vzip (f.fn.getLsbD 3) f.d f.a f.b)) else .error .reservedCode
  | 1 => if f.fn.getLsbD 2 then (.ok (.vunzip (f.fn.getLsbD 3) f.d f.a f.b)) else .error .reservedCode
  | 2 => if !f.fn.getLsbD 2 then (zeroThen f.b <| .ok (.vrev (f.fn.getLsbD 3) f.d f.a)) else .error .reservedCode
  | _ => if f.fn.getLsbD 3 then (.ok (.vmerge (f.fn.getLsbD 2) f.d f.a f.b)) else .error .reservedCode

/-- Major 0x38 (R62). -/
def decodeMajor38 (f : Fields) : Except DecodeErr Instr :=
  match (f.fn.extractLsb' 0 2).toNat with
  | 0 => zeroThen f.a <| .ok (.vbcast (f.fn.getLsbD 3) (f.fn.getLsbD 2) f.d f.b)
  | _ => .error .reservedCode

/-- Major 0x39 (R62). -/
def decodeMajor39 (f : Fields) : Except DecodeErr Instr :=
  match (f.fn.extractLsb' 0 2).toNat with
  | 0 => if !f.fn.getLsbD 3 && !f.fn.getLsbD 2 then (.ok (.vmand f.d f.a f.b)) else .error .reservedCode
  | 1 => if !f.fn.getLsbD 3 && !f.fn.getLsbD 2 then (.ok (.vmor f.d f.a f.b)) else .error .reservedCode
  | 2 => if !f.fn.getLsbD 3 && !f.fn.getLsbD 2 then (.ok (.vmxor f.d f.a f.b)) else .error .reservedCode
  | _ => if !f.fn.getLsbD 3 && !f.fn.getLsbD 2 then (zeroThen f.b <| .ok (.vmnot f.d f.a)) else .error .reservedCode

/-- Major 0x3A (R62). -/
def decodeMajor3A (f : Fields) : Except DecodeErr Instr :=
  match (f.fn.extractLsb' 0 2).toNat with
  | 0 => if !f.fn.getLsbD 2 then (zeroThen f.b <| .ok (.vmcount (f.fn.getLsbD 3) f.d f.a)) else .error .reservedCode
  | 1 => if !f.fn.getLsbD 2 then (zeroThen f.b <| .ok (.vmlow (f.fn.getLsbD 3) f.d f.a)) else .error .reservedCode
  | _ => .error .reservedCode

/-- Major 0x40 (R62). -/
def decodeMajor40 (f : Fields) : Except DecodeErr Instr :=
  match (f.fn.extractLsb' 0 3).toNat with
  | 0 => zeroThen f.b <| .ok (.vredsum (f.fn.getLsbD 3) f.d f.a)
  | 1 => zeroThen f.b <| .ok (.vredosum (f.fn.getLsbD 3) f.d f.a)
  | 2 => zeroThen f.b <| .ok (.vredmax (f.fn.getLsbD 3) f.d f.a)
  | 3 => zeroThen f.b <| .ok (.vredmin (f.fn.getLsbD 3) f.d f.a)
  | 4 => zeroThen f.b <| pairThen f.d <| .ok (.vredmaxi (f.fn.getLsbD 3) f.d f.a)
  | 5 => zeroThen f.b <| pairThen f.d <| .ok (.vredmini (f.fn.getLsbD 3) f.d f.a)
  | _ => .error .reservedCode

/-- Major 0x41 (R62). -/
def decodeMajor41 (f : Fields) : Except DecodeErr Instr :=
  match (f.fn.extractLsb' 0 3).toNat with
  | 0 => zeroThen f.b <| pairThen f.d <| .ok (.vdraw (f.fn.getLsbD 3) f.d f.a)
  | 1 => zeroThen f.b <| pairThen f.d <| .ok (.vdrawt (f.fn.getLsbD 3) f.d f.a)
  | 2 => pairThen f.d <| .ok (.vdrawp (f.fn.getLsbD 3) f.d f.a f.b)
  | 3 => if !f.fn.getLsbD 3 then (pairThen f.b <| pairThen f.a <| pairThen f.d <| .ok (.xdmerge f.d f.a f.b)) else .error .reservedCode
  | 4 => zeroThen f.b <| zeroThen f.a <| .ok (.vrand (f.fn.getLsbD 3) f.d)
  | _ => .error .reservedCode

/-- Major 0x46 (R62). -/
def decodeMajor46 (f : Fields) : Except DecodeErr Instr :=
  match (f.fn.extractLsb' 0 2).toNat with
  | 0 => zeroThen f.b <| .ok (.vld (f.fn.getLsbD 3) (f.fn.getLsbD 2) f.d f.a)
  | 1 => .ok (.vlds (f.fn.getLsbD 3) (f.fn.getLsbD 2) f.d f.a f.b)
  | 2 => .ok (.vldx (f.fn.getLsbD 3) (f.fn.getLsbD 2) f.d f.a f.b)
  | _ => if f.b = 0#7 then .error .badRegister else smallField 8 f.b fun n => .ok (.vlseg (f.fn.getLsbD 3) (f.fn.getLsbD 2) f.d f.a n)

/-- Major 0x47 (R62). -/
def decodeMajor47 (f : Fields) : Except DecodeErr Instr :=
  match (f.fn.extractLsb' 0 2).toNat with
  | 0 => zeroThen f.b <| .ok (.vst (f.fn.getLsbD 3) (f.fn.getLsbD 2) f.d f.a)
  | 1 => .ok (.vsts (f.fn.getLsbD 3) (f.fn.getLsbD 2) f.d f.a f.b)
  | 2 => .ok (.vstx (f.fn.getLsbD 3) (f.fn.getLsbD 2) f.d f.a f.b)
  | _ => if f.b = 0#7 then .error .badRegister else smallField 8 f.b fun n => .ok (.vsseg (f.fn.getLsbD 3) (f.fn.getLsbD 2) f.d f.a n)

/-- Major 0x48 (R62). -/
def decodeMajor48 (f : Fields) : Except DecodeErr Instr :=
  match f.fn.toNat with
  | 0 => pairThen f.d <| .ok (.vsetrun f.d f.a f.b)
  | 1 => .ok (.smap f.d f.a f.b)
  | 2 => zeroThen f.b <| zeroThen f.d <| .ok (.sunmap f.a)
  | 3 => zeroThen f.b <| zeroThen f.d <| .ok (.sflush f.a)
  | _ => .error .reservedCode

/-- Major 0x50 (R62). -/
def decodeMajor50 (f : Fields) : Except DecodeErr Instr :=
  match f.fn.toNat with
  | 0 => zeroThen f.b <| .ok (.mattach f.d f.a)
  | 1 => zeroThen f.b <| zeroThen f.a <| zeroThen f.d <| .ok (.mdetach)
  | 2 => zeroThen f.b <| zeroThen f.d <| .ok (.mshape f.a)
  | 3 => zeroThen f.b <| zeroThen f.a <| smallField 4 f.d fun d => .ok (.mzero d)
  | 4 => smallField 4 f.a fun a => .ok (.mread f.d a f.b)
  | 5 => smallField 4 f.d fun d => .ok (.mwrite d f.a f.b)
  | 6 => zeroThen f.b <| zeroThen f.d <| .ok (.msprog f.a)
  | 7 => smallField 4 f.d fun d => .ok (.msmod d f.a f.b)
  | _ => .error .reservedCode

/-- Major 0x51: matrix multiply-accumulate (R62). -/
def decodeMma (f : Fields) : Except DecodeErr Instr :=
  smallField 4 f.d fun t =>
    scratchThen (f.fn.getLsbD 1) f.a <| scratchThen (f.fn.getLsbD 2) f.b <|
      if f.fn.getLsbD 0 then .ok (.mmao (f.fn.getLsbD 3) (f.fn.getLsbD 2) (f.fn.getLsbD 1) t f.a f.b)
      else .ok (.mmaf (f.fn.getLsbD 3) (f.fn.getLsbD 2) (f.fn.getLsbD 1) t f.a f.b)

/-- Major 0x58 (R62). -/
def decodeMajor58 (f : Fields) : Except DecodeErr Instr :=
  match f.fn.toNat with
  | 0 => if f.d.extractLsb' 2 3 = 7#3 then .error .badRegister else zeroThen (f.d.extractLsb' 5 2) (.ok (.fsetl (f.d.extractLsb' 0 2) (f.d.extractLsb' 2 3) f.a f.b))
  | 1 => smallField 4 f.d fun c => .ok (.fgo c f.a f.b)
  | 2 => smallField 4 f.a fun c => .ok (.fgov f.d c f.b)
  | 3 => smallField 4 f.d fun c => .ok (.fnotify c f.a f.b)
  | 4 => zeroThen f.b <| zeroThen f.a <| smallField 4 f.d fun c => .ok (.fdrain c)
  | 5 => zeroThen f.b <| zeroThen f.a <| smallField 4 f.d fun c => .ok (.fcancel c)
  | 6 => zeroThen f.b <| zeroThen f.a <| smallField 4 f.d fun c => .ok (.fresume c)
  | 7 => zeroThen f.b <| smallField 4 f.a fun c => .ok (.fstat f.d c)
  | _ => .error .reservedCode

/-- Major 0x5C (R62). -/
def decodeMajor5C (f : Fields) : Except DecodeErr Instr :=
  match f.fn.toNat with
  | 0 => .ok (.amoadd f.d f.a f.b)
  | 1 => .ok (.amoand f.d f.a f.b)
  | 2 => .ok (.amoor f.d f.a f.b)
  | 3 => .ok (.amoxor f.d f.a f.b)
  | 4 => .ok (.amomin f.d f.a f.b)
  | 5 => .ok (.amomax f.d f.a f.b)
  | 6 => .ok (.amominn f.d f.a f.b)
  | 7 => .ok (.amomaxn f.d f.a f.b)
  | 8 => .ok (.amoswp f.d f.a f.b)
  | 9 => .ok (.amocas f.d f.a f.b)
  | 10 => .ok (.amofadd f.d f.a f.b)
  | _ => .error .reservedCode

/-- Major 0x5D (R62). -/
def decodeMajor5D (f : Fields) : Except DecodeErr Instr :=
  match f.fn.toNat with
  | 0 => .ok (.amoaddAr f.d f.a f.b)
  | 1 => .ok (.amoandAr f.d f.a f.b)
  | 2 => .ok (.amoorAr f.d f.a f.b)
  | 3 => .ok (.amoxorAr f.d f.a f.b)
  | 4 => .ok (.amominAr f.d f.a f.b)
  | 5 => .ok (.amomaxAr f.d f.a f.b)
  | 6 => .ok (.amominnAr f.d f.a f.b)
  | 7 => .ok (.amomaxnAr f.d f.a f.b)
  | 8 => .ok (.amoswpAr f.d f.a f.b)
  | 9 => .ok (.amocasAr f.d f.a f.b)
  | 10 => .ok (.amofaddAr f.d f.a f.b)
  | _ => .error .reservedCode

/-- Major 0x60: fence (R64). -/
def decodeFence (f : Fields) : Except DecodeErr Instr :=
  zeroThen f.d <| zeroThen f.a <|
    match FenceScope.ofCode (f.imm11.extractLsb' 0 3) with
    | some sc => .ok (.fence sc (f.imm11.extractLsb' 3 4) (f.imm11.extractLsb' 7 4))
    | none => .error .reservedCode

/-- Major 0x61 (R62). -/
def decodeMajor61 (f : Fields) : Except DecodeErr Instr :=
  match f.fn.toNat with
  | 0 => zeroThen f.d <| .ok (.binit f.a f.b)
  | 1 => zeroThen f.b <| .ok (.barr f.d f.a)
  | 2 => zeroThen f.d <| .ok (.bwait f.a f.b)
  | 3 => zeroThen f.b <| .ok (.barw f.d f.a)
  | 4 => .ok (.bwaitd f.d f.a f.b)
  | 5 => zeroThen f.b <| .ok (.bgenBar f.d f.a)
  | _ => .error .reservedCode

/-- Major 0x62 (R62). -/
def decodeMajor62 (f : Fields) : Except DecodeErr Instr :=
  match f.fn.toNat with
  | 0 => .ok (.waddr f.d f.a f.b)
  | 1 => zeroThen f.b <| smallField 9 f.a fun c => .ok (.tread f.d c)
  | 2 => smallField 9 f.a fun c => .ok (.twait f.d c f.b)
  | _ => .error .reservedCode

/-- Major 0x64 (R62). -/
def decodeMajor64 (f : Fields) : Except DecodeErr Instr :=
  match f.fn.toNat with
  | 0 => smallField 2 f.d fun c => .ok (.nbind c f.a f.b)
  | 1 => zeroThen f.a <| smallField 2 f.d fun c => .ok (.nunbind c f.b)
  | 2 => zeroThen f.b <| smallField 2 f.d fun c => .ok (.ncmd c f.a)
  | 3 => zeroThen f.b <| zeroThen f.a <| smallField 2 f.d fun c => .ok (.nfence c)
  | 4 => zeroThen f.b <| smallField 2 f.a fun c => .ok (.nstat f.d c)
  | _ => .error .reservedCode

/-- Major 0x68 (R62). -/
noncomputable def decodeMajor68 (f : Fields) : Except DecodeErr Instr :=
  match f.fn.toNat with
  | 0 => zeroThen f.b <| smallField 2 f.d fun c => .ok (.kgrp c f.a)
  | 1 => zeroThen f.b <| smallField 2 f.d fun c => .ok (.kred c f.a)
  | 2 => zeroThen f.b <| smallField 2 f.d fun c => .ok (.kgat c f.a)
  | 3 => zeroThen f.b <| smallField 2 f.d fun c => .ok (.kcast c f.a)
  | 4 => zeroThen f.b <| smallField 2 f.d fun c => .ok (.kdraw c f.a)
  | _ => .error .reservedCode

/-- Major 0x6C (R62). -/
noncomputable def decodeMajor6C (f : Fields) : Except DecodeErr Instr :=
  match f.fn.toNat with
  | 0 => zeroThen f.b <| zeroThen f.d <| .ok (.trap f.a)
  | 1 => zeroThen f.b <| zeroThen f.a <| zeroThen f.d <| .ok (.tret)
  | 2 => zeroThen f.b <| zeroThen f.a <| zeroThen f.d <| .ok (.tdecl)
  | 3 => zeroThen f.d <| .ok (.sret f.a f.b)
  | 4 => zeroThen f.d <| .ok (.ctxsave f.a f.b)
  | 5 => zeroThen f.d <| .ok (.ctxload f.a f.b)
  | 6 => zeroThen f.d <| .ok (.tlbinv f.a f.b)
  | 7 => .ok (.wqpost f.d f.a f.b)
  | 8 => .ok (.wqstat f.d f.a f.b)
  | 9 => zeroThen f.d <| .ok (.fwset f.a f.b)
  | _ => .error .reservedCode

/-- Major 0x6D (R62). -/
noncomputable def decodeMajor6D (f : Fields) : Except DecodeErr Instr :=
  match f.fn.toNat with
  | 0 => .ok (.pgrant f.d f.a f.b)
  | 1 => .ok (.prevoke f.d f.a f.b)
  | 2 => .ok (.pdeleg f.d f.a f.b)
  | 3 => .ok (.pquery f.d f.a f.b)
  | _ => .error .reservedCode

/-- The instruction of the fields of a word of every major but 0x68, 0x6C and 0x6D, or why it is none (R61, R68). -/
def decodeLow (f : Fields) : Except DecodeErr Instr :=
  match f.op.toNat with
  | 0x00 => .error .illegalMajor
  | 0x7F => .error .illegalMajor
  | 0x01 => decodeMajor01 f
  | 0x02 => decodeMajor02 f
  | 0x03 => .ok (.addi f.d f.a f.imm11)
  | 0x04 => .ok (.andi f.d f.a f.imm11)
  | 0x05 => .ok (.ori f.d f.a f.imm11)
  | 0x06 => .ok (.xori f.d f.a f.imm11)
  | 0x07 => decodeShifti f
  | 0x08 => .ok (.slti f.d f.a f.imm11)
  | 0x09 => .ok (.sltni f.d f.a f.imm11)
  | 0x0A => .ok (.lhi f.d f.imm18)
  | 0x0B => .ok (.lsh f.d f.imm18)
  | 0x0C => .ok (.ldd f.d f.a f.imm11)
  | 0x0D => .ok (.ldw f.d f.a f.imm11)
  | 0x0E => .ok (.ldwn f.d f.a f.imm11)
  | 0x0F => .ok (.ldbn f.d f.a f.imm11)
  | 0x10 => .ok (.std f.d f.a f.imm11)
  | 0x11 => .ok (.stw f.d f.a f.imm11)
  | 0x12 => .ok (.stb f.d f.a f.imm11)
  | 0x13 => decodeMajor13 f
  | 0x14 => .ok (.beq f.d f.a f.imm11)
  | 0x15 => .ok (.bne f.d f.a f.imm11)
  | 0x16 => .ok (.blt f.d f.a f.imm11)
  | 0x17 => .ok (.bge f.d f.a f.imm11)
  | 0x18 => .ok (.bltn f.d f.a f.imm11)
  | 0x19 => .ok (.bgen f.d f.a f.imm11)
  | 0x1A => .ok (.bsub f.d f.a f.imm11)
  | 0x1B => .ok (.jmp f.imm25)
  | 0x1C => .ok (.call f.imm25)
  | 0x1D => decodeMajor1D f
  | 0x1E => zeroThen f.a (.ok (.sget f.d f.imm11))
  | 0x1F => zeroThen f.a (.ok (.sput f.d f.imm11))
  | 0x20 => decodeMajor20 f
  | 0x21 => decodeVsetl f
  | 0x22 => decodeRep f
  | 0x28 => decodeMajor28 f
  | 0x29 => decodeMajor29 f
  | 0x2A => decodeMajor2A f
  | 0x2B => decodeMajor2B f
  | 0x2C => decodeMajor2C f
  | 0x2D => decodeMajor2D f
  | 0x2E => decodeMajor2E f
  | 0x2F => decodeMajor2F f
  | 0x30 => decodeMajor30 f
  | 0x31 => decodeMajor31 f
  | 0x32 => decodeMajor32 f
  | 0x33 => decodeMajor33 f
  | 0x34 => decodeVunary f
  | 0x35 => decodeVcvt f
  | 0x36 => decodeMajor36 f
  | 0x37 => decodeMajor37 f
  | 0x38 => decodeMajor38 f
  | 0x39 => decodeMajor39 f
  | 0x3A => decodeMajor3A f
  | 0x40 => decodeMajor40 f
  | 0x41 => decodeMajor41 f
  | 0x46 => decodeMajor46 f
  | 0x47 => decodeMajor47 f
  | 0x48 => decodeMajor48 f
  | 0x50 => decodeMajor50 f
  | 0x51 => decodeMma f
  | 0x58 => decodeMajor58 f
  | 0x5C => decodeMajor5C f
  | 0x5D => decodeMajor5D f
  | 0x5E => .ok (.ldacq f.d f.a f.imm11)
  | 0x5F => .ok (.strel f.d f.a f.imm11)
  | 0x60 => decodeFence f
  | 0x61 => decodeMajor61 f
  | 0x62 => decodeMajor62 f
  | 0x64 => decodeMajor64 f
  | _ => .error .reservedMajor

/-- The instruction of the fields of a word, or why it is none (R61, R68). Compiled code cannot build the
constructors of the three majors named here, so it runs a word with `execWordFast` of Machine/Schedule.lean. -/
noncomputable def decodeFields (f : Fields) : Except DecodeErr Instr :=
  match f.op.toNat with
  | 0x68 => decodeMajor68 f
  | 0x6C => decodeMajor6C f
  | 0x6D => decodeMajor6D f
  | _ => decodeLow f

/-- The instruction of a word, or why it is none (R68). -/
noncomputable def decode (w : IWord) : Except DecodeErr Instr := decodeFields (splitWord w)

/-- The fields of an instruction's word; an event has no word. -/
def fieldsOf : Instr → Option Fields
  | .add d a b => some (fmtA 0x01 d a b 0)
  | .sub d a b => some (fmtA 0x01 d a b 1)
  | .and d a b => some (fmtA 0x01 d a b 2)
  | .or d a b => some (fmtA 0x01 d a b 3)
  | .xor d a b => some (fmtA 0x01 d a b 4)
  | .sll d a b => some (fmtA 0x01 d a b 5)
  | .srl d a b => some (fmtA 0x01 d a b 6)
  | .sra d a b => some (fmtA 0x01 d a b 7)
  | .slt d a b => some (fmtA 0x01 d a b 8)
  | .sltn d a b => some (fmtA 0x01 d a b 9)
  | .min d a b => some (fmtA 0x01 d a b 10)
  | .max d a b => some (fmtA 0x01 d a b 11)
  | .minn d a b => some (fmtA 0x01 d a b 12)
  | .maxn d a b => some (fmtA 0x01 d a b 13)
  | .andn d a b => some (fmtA 0x01 d a b 14)
  | .orn d a b => some (fmtA 0x01 d a b 15)
  | .mul d a b => some (fmtA 0x02 d a b 0)
  | .mulh d a b => some (fmtA 0x02 d a b 1)
  | .mulhn d a b => some (fmtA 0x02 d a b 2)
  | .div d a b => some (fmtA 0x02 d a b 3)
  | .divn d a b => some (fmtA 0x02 d a b 4)
  | .rem d a b => some (fmtA 0x02 d a b 5)
  | .remn d a b => some (fmtA 0x02 d a b 6)
  | .clz d a => some (fmtA 0x02 d a 0 7)
  | .ctz d a => some (fmtA 0x02 d a 0 8)
  | .popc d a => some (fmtA 0x02 d a 0 9)
  | .bext d a b => some (fmtA 0x02 d a b 10)
  | .bins d a b => some (fmtA 0x02 d a b 11)
  | .addi d a imm => some (fmtB 0x03 d a imm)
  | .andi d a imm => some (fmtB 0x04 d a imm)
  | .ori d a imm => some (fmtB 0x05 d a imm)
  | .xori d a imm => some (fmtB 0x06 d a imm)
  | .slli d a imm => some (fmtB 0x07 d a (0#2 ++ 0#3 ++ imm))
  | .srli d a imm => some (fmtB 0x07 d a (1#2 ++ 0#3 ++ imm))
  | .srai d a imm => some (fmtB 0x07 d a (2#2 ++ 0#3 ++ imm))
  | .slti d a imm => some (fmtB 0x08 d a imm)
  | .sltni d a imm => some (fmtB 0x09 d a imm)
  | .lhi d imm => some (fmtC 0x0A d imm)
  | .lsh d imm => some (fmtC 0x0B d imm)
  | .ldd d a imm => some (fmtB 0x0C d a imm)
  | .ldw d a imm => some (fmtB 0x0D d a imm)
  | .ldwn d a imm => some (fmtB 0x0E d a imm)
  | .ldbn d a imm => some (fmtB 0x0F d a imm)
  | .std d a imm => some (fmtB 0x10 d a imm)
  | .stw d a imm => some (fmtB 0x11 d a imm)
  | .stb d a imm => some (fmtB 0x12 d a imm)
  | .lddX d a b => some (fmtA 0x13 d a b 0)
  | .ldwX d a b => some (fmtA 0x13 d a b 1)
  | .ldwnX d a b => some (fmtA 0x13 d a b 2)
  | .ldh d a b => some (fmtA 0x13 d a b 3)
  | .ldhn d a b => some (fmtA 0x13 d a b 4)
  | .ldb d a b => some (fmtA 0x13 d a b 5)
  | .ldbnX d a b => some (fmtA 0x13 d a b 6)
  | .stdX d a b => some (fmtA 0x13 d a b 8)
  | .stwX d a b => some (fmtA 0x13 d a b 9)
  | .sth d a b => some (fmtA 0x13 d a b 10)
  | .stbX d a b => some (fmtA 0x13 d a b 11)
  | .beq d a imm => some (fmtB 0x14 d a imm)
  | .bne d a imm => some (fmtB 0x15 d a imm)
  | .blt d a imm => some (fmtB 0x16 d a imm)
  | .bge d a imm => some (fmtB 0x17 d a imm)
  | .bltn d a imm => some (fmtB 0x18 d a imm)
  | .bgen d a imm => some (fmtB 0x19 d a imm)
  | .bsub d a imm => some (fmtB 0x1A d a imm)
  | .jmp imm => some (fmtJ 0x1B imm)
  | .call imm => some (fmtJ 0x1C imm)
  | .jr a => some (fmtA 0x1D 0 a 0 0)
  | .jalr d a => some (fmtA 0x1D d a 0 1)
  | .ret => some (fmtA 0x1D 0 0 0 2)
  | .sget d reg => some (fmtB 0x1E d 0 reg)
  | .sput d reg => some (fmtB 0x1F d 0 reg)
  | .vwin d a => some (fmtA 0x20 d a 0 0)
  | .lfork d => some (fmtA 0x20 d 0 0 1)
  | .ljoin a => some (fmtA 0x20 0 a 0 2)
  | .wid d k sel => some (fmtA 0x20 d (k.setWidth 7) (sel.setWidth 7) 3)
  | .nop => some (fmtA 0x20 0 0 0 4)
  | .yield => some (fmtA 0x20 0 0 0 5)
  | .tdone => some (fmtA 0x20 0 0 0 6)
  | .vsetl d a blk ty => some (fmtB 0x21 d a (0#4 ++ blk.code ++ ty.code))
  | .rep count sd sa sb stride => some (fmtJ 0x22 (count ++ BitVec.ofBool sd ++ BitVec.ofBool sa ++ BitVec.ofBool sb ++ stride ++ 0#13))
  | .cnew d a => some (fmtA 0x28 d a 0 0)
  | .cdrop d => some (fmtA 0x28 d 0 0 1)
  | .cshare d a => some (fmtA 0x28 d a 0 2)
  | .cseam d a b => some (fmtA 0x28 d a b 3)
  | .chemh d a b => some (fmtA 0x28 d a b 4)
  | .chemt d a b => some (fmtA 0x28 d a b 5)
  | .csplit d a b => some (fmtA 0x28 d a b 6)
  | .cslice d a b => some (fmtA 0x28 d a b 7)
  | .cpack d a => some (fmtA 0x28 d a 0 8)
  | .cmovv d a => some (fmtA 0x28 d a 0 9)
  | .cretype d a ty => some (fmtA 0x28 d a (0#2 ++ ty.code) 10)
  | .cpost d b => some (fmtA 0x28 d 0 b 11)
  | .ctake d a b => some (fmtA 0x28 d a b 12)
  | .clen d a => some (fmtA 0x29 d a 0 0)
  | .cinfo d a => some (fmtA 0x29 d a 0 1)
  | .cpool d => some (fmtA 0x29 d 0 0 2)
  | .vget d a b => some (fmtA 0x29 d a b 3)
  | .vput d a b => some (fmtA 0x29 d a b 4)
  | .vadd m s d a b => some (fmtA 0x2A d a b (vecFn m s 0))
  | .vsub m s d a b => some (fmtA 0x2A d a b (vecFn m s 1))
  | .vrsub m s d a b => some (fmtA 0x2A d a b (vecFn m s 2))
  | .vmul m s d a b => some (fmtA 0x2A d a b (vecFn m s 3))
  | .vadds m s d a b => some (fmtA 0x2B d a b (vecFn m s 0))
  | .vsubs m s d a b => some (fmtA 0x2B d a b (vecFn m s 1))
  | .vmulh m s d a b => some (fmtA 0x2B d a b (vecFn m s 2))
  | .vavg m s d a b => some (fmtA 0x2B d a b (vecFn m s 3))
  | .vdiv m s d a b => some (fmtA 0x2C d a b (vecFn m s 0))
  | .vrem m s d a b => some (fmtA 0x2C d a b (vecFn m s 1))
  | .vmin m s d a b => some (fmtA 0x2C d a b (vecFn m s 2))
  | .vmax m s d a b => some (fmtA 0x2C d a b (vecFn m s 3))
  | .vand m s d a b => some (fmtA 0x2D d a b (vecFn m s 0))
  | .vor m s d a b => some (fmtA 0x2D d a b (vecFn m s 1))
  | .vxor m s d a b => some (fmtA 0x2D d a b (vecFn m s 2))
  | .vandn m s d a b => some (fmtA 0x2D d a b (vecFn m s 3))
  | .vsll m s d a b => some (fmtA 0x2E d a b (vecFn m s 0))
  | .vsrl m s d a b => some (fmtA 0x2E d a b (vecFn m s 1))
  | .vsra m s d a b => some (fmtA 0x2E d a b (vecFn m s 2))
  | .vrot m s d a b => some (fmtA 0x2E d a b (vecFn m s 3))
  | .vceq m s d a b => some (fmtA 0x2F d a b (vecFn m s 0))
  | .vcne m s d a b => some (fmtA 0x2F d a b (vecFn m s 1))
  | .vclt m s d a b => some (fmtA 0x2F d a b (vecFn m s 2))
  | .vcle m s d a b => some (fmtA 0x2F d a b (vecFn m s 3))
  | .vfadd m s d a b => some (fmtA 0x30 d a b (vecFn m s 0))
  | .vfsub m s d a b => some (fmtA 0x30 d a b (vecFn m s 1))
  | .vfmul m s d a b => some (fmtA 0x30 d a b (vecFn m s 2))
  | .vfdiv m s d a b => some (fmtA 0x30 d a b (vecFn m s 3))
  | .vfmin m s d a b => some (fmtA 0x31 d a b (vecFn m s 0))
  | .vfmax m s d a b => some (fmtA 0x31 d a b (vecFn m s 1))
  | .vfma m s d a b => some (fmtA 0x31 d a b (vecFn m s 2))
  | .vfms m s d a b => some (fmtA 0x31 d a b (vecFn m s 3))
  | .vfceq m s d a b => some (fmtA 0x32 d a b (vecFn m s 0))
  | .vfclt m s d a b => some (fmtA 0x32 d a b (vecFn m s 1))
  | .vfcle m s d a b => some (fmtA 0x32 d a b (vecFn m s 2))
  | .vfcun m s d a b => some (fmtA 0x32 d a b (vecFn m s 3))
  | .vscale m s d a b => some (fmtA 0x33 d a b (vecFn m s 0))
  | .vfnma m s d a b => some (fmtA 0x33 d a b (vecFn m s 1))
  | .vfsgn m s d a b => some (fmtA 0x33 d a b (vecFn m s 2))
  | .vfsqrt m d a => some (fmtA 0x34 d a 0 (vecFn m false 0))
  | .vfrcp m d a => some (fmtA 0x34 d a 1 (vecFn m false 0))
  | .vfrsqrt m d a => some (fmtA 0x34 d a 2 (vecFn m false 0))
  | .vflog2 m d a => some (fmtA 0x34 d a 3 (vecFn m false 0))
  | .vfexp2 m d a => some (fmtA 0x34 d a 4 (vecFn m false 0))
  | .vftanh m d a => some (fmtA 0x34 d a 5 (vecFn m false 0))
  | .vfabs m d a => some (fmtA 0x34 d a 6 (vecFn m false 0))
  | .vfneg m d a => some (fmtA 0x34 d a 7 (vecFn m false 0))
  | .vabs m d a => some (fmtA 0x34 d a 8 (vecFn m false 0))
  | .vneg m d a => some (fmtA 0x34 d a 9 (vecFn m false 0))
  | .vnot m d a => some (fmtA 0x34 d a 10 (vecFn m false 0))
  | .vclz m d a => some (fmtA 0x34 d a 11 (vecFn m false 0))
  | .vpopc m d a => some (fmtA 0x34 d a 12 (vecFn m false 0))
  | .vfcat m d a => some (fmtA 0x34 d a 13 (vecFn m false 0))
  | .vmov m d a => some (fmtA 0x34 d a 14 (vecFn m false 0))
  | .vid m d => some (fmtA 0x34 d 0 15 (vecFn m false 0))
  | .vcvt m sat rm d a ty => some (fmtA 0x35 d a (0#2 ++ ty.code) (vecFn m sat rm.code))
  | .vslup m d a b => some (fmtA 0x36 d a b (vecFn m true 0))
  | .vsldn m d a b => some (fmtA 0x36 d a b (vecFn m true 1))
  | .vrgath m s d a b => some (fmtA 0x36 d a b (vecFn m s 2))
  | .vcompr d a b => some (fmtA 0x36 d a b (vecFn false false 3))
  | .vzip m d a b => some (fmtA 0x37 d a b (vecFn m false 0))
  | .vunzip m d a b => some (fmtA 0x37 d a b (vecFn m true 1))
  | .vrev m d a => some (fmtA 0x37 d a 0 (vecFn m false 2))
  | .vmerge s d a b => some (fmtA 0x37 d a b (vecFn true s 3))
  | .vbcast m s d b => some (fmtA 0x38 d 0 b (vecFn m s 0))
  | .vmand d a b => some (fmtA 0x39 d a b (vecFn false false 0))
  | .vmor d a b => some (fmtA 0x39 d a b (vecFn false false 1))
  | .vmxor d a b => some (fmtA 0x39 d a b (vecFn false false 2))
  | .vmnot d a => some (fmtA 0x39 d a 0 (vecFn false false 3))
  | .vmcount m d a => some (fmtA 0x3A d a 0 (vecFn m false 0))
  | .vmlow m d a => some (fmtA 0x3A d a 0 (vecFn m false 1))
  | .vredsum m d a => some (fmtA 0x40 d a 0 (BitVec.ofBool m ++ 0#3))
  | .vredosum m d a => some (fmtA 0x40 d a 0 (BitVec.ofBool m ++ 1#3))
  | .vredmax m d a => some (fmtA 0x40 d a 0 (BitVec.ofBool m ++ 2#3))
  | .vredmin m d a => some (fmtA 0x40 d a 0 (BitVec.ofBool m ++ 3#3))
  | .vredmaxi m d a => some (fmtA 0x40 d a 0 (BitVec.ofBool m ++ 4#3))
  | .vredmini m d a => some (fmtA 0x40 d a 0 (BitVec.ofBool m ++ 5#3))
  | .vdraw m d a => some (fmtA 0x41 d a 0 (BitVec.ofBool m ++ 0#3))
  | .vdrawt m d a => some (fmtA 0x41 d a 0 (BitVec.ofBool m ++ 1#3))
  | .vdrawp m d a b => some (fmtA 0x41 d a b (BitVec.ofBool m ++ 2#3))
  | .xdmerge d a b => some (fmtA 0x41 d a b (BitVec.ofBool false ++ 3#3))
  | .vrand m d => some (fmtA 0x41 d 0 0 (BitVec.ofBool m ++ 4#3))
  | .vld m nt d a => some (fmtA 0x46 d a 0 (vecFn m nt 0))
  | .vlds m nt d a b => some (fmtA 0x46 d a b (vecFn m nt 1))
  | .vldx m nt d a b => some (fmtA 0x46 d a b (vecFn m nt 2))
  | .vlseg m nt d a n => some (fmtA 0x46 d a (n.setWidth 7) (vecFn m nt 3))
  | .vst m nt d a => some (fmtA 0x47 d a 0 (vecFn m nt 0))
  | .vsts m nt d a b => some (fmtA 0x47 d a b (vecFn m nt 1))
  | .vstx m nt d a b => some (fmtA 0x47 d a b (vecFn m nt 2))
  | .vsseg m nt d a n => some (fmtA 0x47 d a (n.setWidth 7) (vecFn m nt 3))
  | .vsetrun d a b => some (fmtA 0x48 d a b 0)
  | .smap d a b => some (fmtA 0x48 d a b 1)
  | .sunmap a => some (fmtA 0x48 0 a 0 2)
  | .sflush a => some (fmtA 0x48 0 a 0 3)
  | .mattach d a => some (fmtA 0x50 d a 0 0)
  | .mdetach => some (fmtA 0x50 0 0 0 1)
  | .mshape a => some (fmtA 0x50 0 a 0 2)
  | .mzero d => some (fmtA 0x50 (d.setWidth 7) 0 0 3)
  | .mread d a b => some (fmtA 0x50 d (a.setWidth 7) b 4)
  | .mwrite d a b => some (fmtA 0x50 (d.setWidth 7) a b 5)
  | .msprog a => some (fmtA 0x50 0 a 0 6)
  | .msmod d a b => some (fmtA 0x50 (d.setWidth 7) a b 7)
  | .mmaf z bScr aScr d a b => some (fmtA 0x51 (d.setWidth 7) a b (BitVec.ofBool z ++ BitVec.ofBool bScr ++ BitVec.ofBool aScr ++ BitVec.ofBool false))
  | .mmao z bScr aScr d a b => some (fmtA 0x51 (d.setWidth 7) a b (BitVec.ofBool z ++ BitVec.ofBool bScr ++ BitVec.ofBool aScr ++ BitVec.ofBool true))
  | .fsetl c l a b => some (fmtA 0x58 (0#2 ++ l ++ c) a b 0)
  | .fgo c a b => some (fmtA 0x58 (c.setWidth 7) a b 1)
  | .fgov d c b => some (fmtA 0x58 d (c.setWidth 7) b 2)
  | .fnotify c a b => some (fmtA 0x58 (c.setWidth 7) a b 3)
  | .fdrain c => some (fmtA 0x58 (c.setWidth 7) 0 0 4)
  | .fcancel c => some (fmtA 0x58 (c.setWidth 7) 0 0 5)
  | .fresume c => some (fmtA 0x58 (c.setWidth 7) 0 0 6)
  | .fstat d c => some (fmtA 0x58 d (c.setWidth 7) 0 7)
  | .amoadd d a b => some (fmtA 0x5C d a b 0)
  | .amoand d a b => some (fmtA 0x5C d a b 1)
  | .amoor d a b => some (fmtA 0x5C d a b 2)
  | .amoxor d a b => some (fmtA 0x5C d a b 3)
  | .amomin d a b => some (fmtA 0x5C d a b 4)
  | .amomax d a b => some (fmtA 0x5C d a b 5)
  | .amominn d a b => some (fmtA 0x5C d a b 6)
  | .amomaxn d a b => some (fmtA 0x5C d a b 7)
  | .amoswp d a b => some (fmtA 0x5C d a b 8)
  | .amocas d a b => some (fmtA 0x5C d a b 9)
  | .amofadd d a b => some (fmtA 0x5C d a b 10)
  | .amoaddAr d a b => some (fmtA 0x5D d a b 0)
  | .amoandAr d a b => some (fmtA 0x5D d a b 1)
  | .amoorAr d a b => some (fmtA 0x5D d a b 2)
  | .amoxorAr d a b => some (fmtA 0x5D d a b 3)
  | .amominAr d a b => some (fmtA 0x5D d a b 4)
  | .amomaxAr d a b => some (fmtA 0x5D d a b 5)
  | .amominnAr d a b => some (fmtA 0x5D d a b 6)
  | .amomaxnAr d a b => some (fmtA 0x5D d a b 7)
  | .amoswpAr d a b => some (fmtA 0x5D d a b 8)
  | .amocasAr d a b => some (fmtA 0x5D d a b 9)
  | .amofaddAr d a b => some (fmtA 0x5D d a b 10)
  | .ldacq d a imm => some (fmtB 0x5E d a imm)
  | .strel d a imm => some (fmtB 0x5F d a imm)
  | .fence scope pred succ => some (fmtB 0x60 0 0 (succ ++ pred ++ scope.code))
  | .binit a b => some (fmtA 0x61 0 a b 0)
  | .barr d a => some (fmtA 0x61 d a 0 1)
  | .bwait a b => some (fmtA 0x61 0 a b 2)
  | .barw d a => some (fmtA 0x61 d a 0 3)
  | .bwaitd d a b => some (fmtA 0x61 d a b 4)
  | .bgenBar d a => some (fmtA 0x61 d a 0 5)
  | .waddr d a b => some (fmtA 0x62 d a b 0)
  | .tread d c => some (fmtA 0x62 d (c.setWidth 7) 0 1)
  | .twait d c b => some (fmtA 0x62 d (c.setWidth 7) b 2)
  | .nbind c a b => some (fmtA 0x64 (c.setWidth 7) a b 0)
  | .nunbind c b => some (fmtA 0x64 (c.setWidth 7) 0 b 1)
  | .ncmd c a => some (fmtA 0x64 (c.setWidth 7) a 0 2)
  | .nfence c => some (fmtA 0x64 (c.setWidth 7) 0 0 3)
  | .nstat d c => some (fmtA 0x64 d (c.setWidth 7) 0 4)
  | .kgrp c a => some (fmtA 0x68 (c.setWidth 7) a 0 0)
  | .kred c a => some (fmtA 0x68 (c.setWidth 7) a 0 1)
  | .kgat c a => some (fmtA 0x68 (c.setWidth 7) a 0 2)
  | .kcast c a => some (fmtA 0x68 (c.setWidth 7) a 0 3)
  | .kdraw c a => some (fmtA 0x68 (c.setWidth 7) a 0 4)
  | .trap code => some (fmtA 0x6C 0 code 0 0)
  | .tret => some (fmtA 0x6C 0 0 0 1)
  | .tdecl => some (fmtA 0x6C 0 0 0 2)
  | .sret a b => some (fmtA 0x6C 0 a b 3)
  | .ctxsave a b => some (fmtA 0x6C 0 a b 4)
  | .ctxload a b => some (fmtA 0x6C 0 a b 5)
  | .tlbinv a b => some (fmtA 0x6C 0 a b 6)
  | .wqpost d a b => some (fmtA 0x6C d a b 7)
  | .wqstat d a b => some (fmtA 0x6C d a b 8)
  | .fwset a b => some (fmtA 0x6C 0 a b 9)
  | .pgrant d a b => some (fmtA 0x6D d a b 0)
  | .prevoke d a b => some (fmtA 0x6D d a b 1)
  | .pdeleg d a b => some (fmtA 0x6D d a b 2)
  | .pquery d a b => some (fmtA 0x6D d a b 3)
  | .fflagsSyncAccess _ _ _ => none
  | .mshapeWrite _ => none
  | .protMmClear _ => none
  | .vstartRepcntRestore _ _ => none
  | .cpostTimeout => none
  | .ctakeTimeout => none
  | .vectorPieceExecute => none
  | .boltWaitTimeout => none
  | .instructionRetire _ => none
  | .reductionBegin => none
  | .stashEviction _ _ => none
  | .matrixOpExecute _ _ => none
  | .matrixOpComplete _ => none
  | .fdrainTimeout => none
  | .flumeCommandRun _ => none
  | .flumeCommandComplete _ => none
  | .barrierDeadline => none
  | .waddrTimeout => none
  | .twaitTimeout => none
  | .nfenceTimeout => none
  | .weirPartRun _ _ => none
  | .weirCommandComplete _ => none
  | .collectiveRun _ _ => none
  | .collectiveComplete _ => none
  | .wqpostTimeout => none
  | .asyncTrapDelivery => none
  | .serviceCoreTakeP _ => none
  | .serviceCoreTakeS _ => none
  | .lydarTakeO => none
  | .launchMessage _ _ _ => none
  | .launchWriteUalink _ _ => none
  | .launchStart _ => none
  | .groupDispatch _ => none
  | .priorityAgeing _ => none
  | .groupReservation _ => none
  | .preload _ _ => none
  | .budgetExpiry => none
  | .timeSliceEnd _ => none
  | .pageMigration _ _ _ => none
  | .remoteRequest _ => none
  | .ueWindowAccess _ _ => none
  | .remoteErrorResponse => none
  | .remoteAccessTimeout => none
  | .linkFailure _ _ => none
  | .theigLinkFailure _ => none
  | .watchdogExpiry _ => none
  | .serviceCoreSoftError _ => none
  | .fenceCommand _ => none
  | .chipletReset _ => none
  | .powerThrottle _ => none
  | .powerOn _ _ => none
  | .orange1Write _ => none
  | .okey3Write _ => none
  | .oplimWrite _ => none
  | .sramSoftError _ => none
  | .storeCommit _ => none

/-- The word of an instruction, written from the same tables as the decoder (R54, R61 to R66). -/
def encode (i : Instr) : Option IWord := (fieldsOf i).map joinWord

/-- The instruction that the decoder reads from a row of the opcode table whose first `nbits` bits are `w`, the
bits above them zero (every instruction is one word of 32 bits, R53). -/
noncomputable def decodeTableWord (nbits w : Nat) : Option Instr :=
  match decode (BitVec.ofNat 32 (w % 2 ^ nbits)) with
  | .ok i => some i
  | .error _ => none

end Sys2Proof
end

