-- ==== Sys2Proof/Machine/State.lean ====
section
/-! DEFINITION. The state of the DLH-1A: every piece of state that the manual names, as plain data, and the state
right after bring-up (18_partitions R382). The agent with the turn stands unpacked in `h`, `t` and `cl`; the other
harts, tasks and clusters stand in lists (log 1). -/

namespace Sys2Proof.Machine

/-- The levels of 18_partitions R364. -/
inductive Level where
  | u | s | p | o
  deriving DecidableEq, Repr

/-- The agent that has the turn: none, a hart of a task, the service core of a cluster, or Lydar (log 1). -/
inductive Who where
  | idle | user | service | lydar
  deriving DecidableEq, Repr

/-- Trap causes (17_traps R350). -/
inductive Cause where
  | illegal | misaligned | page1 | page2 | range3 | access | pool | segOver | short | refLimit | emptyName
  | typeMismatch | fpExc | intExc | poison | mismatch | notAttached | flume | weir | coll | vswitch | spilled
  | trapInstr | privilege | timeline | deadline | budget | debug
  deriving DecidableEq, Repr

/-- A trap as an instruction raises it: its cause and values, the stage-2 input address of a stage-2 fault
(18_partitions R376), the level it is bound to where it never goes to the user handler (R134, R257), whether an
engine reports it (R352), and the table entries that the walk which failed had read, with those of stage 2 through which
it read them (13_ordering R291). -/
structure Trap where
  cause : Cause
  val   : Word
  val2  : Word := 0#64
  addr  : Word := 0#64
  bound : Option Level := none
  engine : Bool := false
  cmd   : Option (Nat × Nat) := none   -- the Flume command that reports it: channel and number (11_flume R253)
  reads : List Nat := []
  seen  : List Nat := []
  deriving DecidableEq, Repr

/-- Page classes (13_ordering R282). -/
inductive Ord where
  | unordered | rc | strong
  deriving DecidableEq, Repr

/-- A segment of a chain: swatch, first byte, byte count (06_chains R120). -/
structure Seg where
  swatch : Nat
  first  : Nat
  count  : Nat
  deriving DecidableEq, Repr

/-- States of a name (R118). -/
inductive EState where
  | empty | live | pending | spilled
  deriving DecidableEq, Repr

/-- A version of a name (R119). The last four fields are the model's own (log 15). VERSION is kept as the number of versions
of the name that each hart has retired, as far as the view that holds the entry has seen them. Versions are told apart
by `id`. `behind` names the versions that must retire before this one has: itself while it is not retired, and those of
earlier instructions. Of two versions of one name that have retired the later has the larger `stamp` (R108), and of two
that have not the one issued later. -/
structure Entry where
  state   : EState := .empty
  tag     : ElemType := .b1
  dirty   : Bool := false
  segs    : List Seg := []
  map     : Option Nat := none
  len     : Nat := 0
  prog    : Nat := 0
  counts  : List (Nat × Nat) := []
  id      : Nat := 0
  behind  : List Nat := []
  stamp   : Nat := 0
  deriving DecidableEq, Repr

/-- An allocated swatch (R115): its 256 bytes, its references, its poison bit, its owner and the task it is charged
to (R117). A swatch with no reference that a hart can still read stands here too (log 15). -/
structure Swatch where
  idx    : Nat
  data   : List Byte
  refs   : Nat
  poison : Bool
  owner  : BitVec 6
  charge : Option Nat
  deriving DecidableEq, Repr

/-- An entry of the TLBs (18_partitions R370, R375): a 64 KiB page of a stage-1 space, named by its ASID and partition, or
of a stage-2 space (no ASID). It holds the stage-2 input page, the partition-physical page, the leaf entries with their
rights, the effective class and ENC, the addresses of the leaf entries, whether their D bits are set, whether the page of
each stage is one of 512 MiB, and the subpartition-physical addresses of the stage-1 tables that it was built on, each with
whether its stage-2 page is one of 512 MiB. -/
structure TlbEntry where
  part  : Nat
  sub   : Nat
  asid  : Option Nat
  page  : Nat
  mid   : Nat
  out   : Nat
  pte1  : Nat
  pte2  : Nat
  ord   : Ord
  enc   : Bool
  marks : List Nat
  dset  : Bool
  big1  : Bool := false
  big2  : Bool := false
  tabs  : List (Nat × Bool) := []
  deriving DecidableEq, Repr

/-- A translated address: device-physical, partition-physical, page class, ENC, the leaf entries of the access, whose A
bit and for a store D bit it sets, those through which the walk read its tables, whose A bit it sets (13_ordering
R291), every table entry read, and what the TLBs hold of it. -/
structure Xlat where
  pa    : Nat
  pp    : Nat
  ord   : Ord
  enc   : Bool := false
  marks : List Nat := []
  reads : List Nat := []
  seen  : List Nat := []
  entry : Option TlbEntry := none
  deriving DecidableEq, Repr

/-- A store that the hart has made and the interposer has not committed (01_machine R23): physical address, page
class, and for each byte its value and the bits of it that are written; `rel` marks a release store (12_sync R268). -/
structure SbEntry where
  pa    : Nat
  ord   : Ord
  va    : Word
  cells : List (Byte × Byte)
  rel   : Bool := false
  insn  : Nat := 0                  -- the vector store whose elements keep their order (09_vmem R208), else 0
  unit  : Bool := false             -- of a unit-stride vector store, whose elements in a line are one request (15_collectives R317)
  deriving DecidableEq, Repr

/-- The element-wise operations that take two sources (07_vector). -/
inductive VBin where
  | add | sub | rsub | mul | adds | subs | mulh | avg | div | rem | min | max | and | or | xor | andn
  | sll | srl | sra | rot | ceq | cne | clt | cle
  | fadd | fsub | fmul | fdiv | fmin | fmax | fma | fms | fceq | fclt | fcle | fcun | scale | fnma | fsgn
  deriving DecidableEq, Repr

/-- The members of vunary (R170). -/
inductive VUn where
  | fsqrt | frcp | frsqrt | flog2 | fexp2 | ftanh | fabs | fneg | abs | neg | not | clz | popc | fcat | mov | id
  deriving DecidableEq, Repr

/-- The permutes and broadcasts (R173 to R175). -/
inductive VPerm where
  | slup | sldn | rgath | compr | zip | unzip | rev | merge | bcast
  deriving DecidableEq, Repr

/-- The mask instructions (R176, R177). -/
inductive VMaskOp where
  | and | or | xor | not | count | low
  deriving DecidableEq, Repr

/-- The reductions and draws (08_draws). -/
inductive VRed where
  | sum | osum | max | min | maxi | mini | draw | drawt | drawp | rand
  deriving DecidableEq, Repr

/-- The forms of vector memory access (09_vmem R200). -/
inductive VMemForm where
  | unit | strided | indexed | seg
  deriving DecidableEq, Repr

/-- What a vector instruction does, once decoded. -/
inductive VOp where
  | bin (op : VBin)
  | un (op : VUn)
  | cvt (sat : Bool) (rm : Rounding) (ty : ElemType)
  | perm (op : VPerm)
  | mask (op : VMaskOp)
  | red (op : VRed)
  | load (form : VMemForm)
  | store (form : VMemForm)
  | pack
  deriving DecidableEq, Repr

/-- The b operand of an issued vector instruction: none, a chain, or the scalar of its form (R63). -/
inductive BSel where
  | none | vec | scalar
  deriving DecidableEq, Repr

/-- An issued vector instruction (07_vector R150, R156; 17_traps R357): its fields, what it captured at issue
(03_words R74), its progress, and its destinations with the versions they replace. -/
structure Flight where
  word    : IWord
  op      : VOp
  masked  : Bool
  bsel    : BSel
  d       : Reg
  a       : Reg
  b       : Reg
  nf      : Nat                     -- fields of a segment form, else 1
  xa      : Word
  xb      : Word
  vl      : Nat
  ty      : ElemType
  blk     : BlockLen
  vwb     : Name
  vmsel   : Name
  frm     : Rounding
  dkey    : Word
  dstream : BitVec 32
  dctr    : Word
  dtemp   : BitVec 32
  va      : Option Entry
  vb      : Option Entry
  mask    : Option Entry
  vd      : Option Entry            -- the undisturbed version or the accumulator
  datas   : List Entry              -- data chains of a store
  dests   : List (Nat × Entry × Entry)  -- absolute name, the version built so far, the version it replaces
  k       : Nat
  flags   : BitVec 9                -- raised by elements of this issue and not yet joined
  boltSince : Option Nat            -- TIME since which it has waited for a swatch (R134)
  born    : Nat := 0                -- TIME of its issue, which tells its stores from others (09_vmem R208)
  pins    : List (Nat × Xlat) := [] -- virtual pages pinned, with their translations (09_vmem R205)
  pinEnd  : Nat := 0                -- the element from which the next group is pinned
  pinFault : Option (Nat × Trap) := none  -- the element whose pinning found a fault, and its trap
  line    : Option Nat := none      -- the line of another node that a unit-stride load has been sent (15_collectives R317)
  deriving DecidableEq, Repr

/-- A `barw` whose arrival stands: its word, the barrier number that it read, and the generation that it waits for
(12_sync R273, 17_traps R403). -/
structure BarwWait where
  word : IWord
  num  : Nat
  gen  : Word
  deriving DecidableEq, Repr

/-- The instruction that a hart waits in (17_traps R403), with what its timeout or deadline acts on. A wait for
another node has the address and the TRAPVAL2 of the access (15_collectives R318). -/
inductive WaitKind where
  | cpost (slot : Nat) | ctake (slot : Nat) (a : Reg) | fdrain (c : Nat) | waddr (d : Reg) (old va : Word) | twait (d : Reg) (c n : Nat)
  | nfence (c n : Nat) | wqpost (d : Reg) | bwaitd (d : Reg) (num : Nat) (gen : Word) | barw (w : BarwWait)
  | remote (va val2 : Word)
  | bolt
  | other
  deriving DecidableEq, Repr

/-- A wait: the instruction and the TIME since which it waits. -/
structure Wait where
  kind  : WaitKind
  since : Nat
  deriving DecidableEq, Repr

/-- What a hart is doing: running; stopped with its trap in a queue; stopped with a trap that waits for room in a
full queue (R354); ended by ljoin (05_control R107). -/
inductive HartRun where
  | ready | trapped | blocked (lvl : Level) | ended
  deriving DecidableEq, Repr

/-- The repeat prefix in force (03_words R65). -/
structure Rep where
  count  : Nat
  sd     : Bool
  sa     : Bool
  sb     : Bool
  stride : Nat
  deriving DecidableEq, Repr

/-- A trap or event in a queue of the service core or of Lydar (R354, 18_partitions R376, R378). An event has
cause 0. `task` and `hart` name the hart that waits for the answer; a service core that waits has `fromS` or
`fromP`. -/
structure TrapRec where
  cause   : BitVec 8
  pc      : Word := 0#64
  val     : Word
  val2    : Word
  addr    : Word := 0#64
  taskid  : BitVec 44 := 0#44
  core    : BitVec 3 := 0#3
  hartid  : BitVec 3 := 0#3
  cluster : BitVec 5 := 0#5
  nested  : Bool := false
  decl    : Bool := false
  async   : Bool := false
  fromS   : Bool := false
  fromP   : Bool := false
  task    : Option Nat := none
  deriving DecidableEq, Repr

/-- A hart (03_words R58, R71, R72, R75), or the register context of a service core or of Lydar. -/
structure Hart where
  id       : BitVec 3 := 0#3
  x        : Vector Word 128 := Vector.replicate 128 0#64
  pc       : Word := 0#64
  lgmask   : BitVec 8 := 0xFF#8
  vl       : BitVec 18 := 0#18
  ty       : ElemType := .b1
  blk      : BlockLen := .none
  vwb      : Name := 0#9
  vmsel    : Name := 0#9
  vstart   : BitVec 18 := 0#18
  fflags   : BitVec 9 := 0#9
  fex      : Vector (BitVec 32) 9 := Vector.replicate 9 0xFFFFFFFF#32
  frm      : Rounding := .rne
  dkey     : Word := 0#64
  dstream  : BitVec 32 := 0#32
  dctr     : Word := 0#64
  dtemp    : BitVec 32 := 0x3FB8AA3B#32
  llthr    : BitVec 32 := 0x00100000#32
  repcnt   : BitVec 6 := 0#6
  wtmo     : Word := 0#64
  bdeadl   : Word := 0#64
  ftrapen  : BitVec 9 := 0#9
  trapcause : BitVec 8 := 0#8
  trapasync : Bool := false
  trappc   : Word := 0#64
  trapval  : Word := 0#64
  trapval2 : Word := 0#64
  handler  : Bool := false
  parent   : Option (BitVec 3) := none
  run      : HartRun := .ready
  trapRec  : Option TrapRec := none     -- waits for room in a full queue (R354)
  resumeAt : Option Word := none        -- where sret has a hart of a task that has left its core continue (R355)
  names    : List (Nat × Entry) := []
  flight   : Option Flight := none
  stopped  : Option Flight := none
  stoppedGen : Option BarwWait := none  -- the barw that a delivery to the user handler broke off (R403)
  trapGen  : Option BarwWait := none    -- the barw that a trap to a level or a pre-emption broke off (R403)
  rep      : Option Rep := none
  wait     : Option Wait := none
  held     : List Trap := []            -- asynchronous traps not yet taken (R403)
  sb       : List SbEntry := []
  mirror   : Mismatch := .agree
  late     : BitVec 9 := 0#9            -- flags of matrix operations that have joined since the record was saved (R236, R358)
  lastOp   : Vector Nat 9 := Vector.replicate 9 0  -- number of its last operation on each context (12_sync R269)
  deriving DecidableEq, Repr

/-- The service core of a cluster (R354): its registers, the handler that runs, the S code that a P entry broke off,
the S and P registers, and the two queues, oldest first. -/
structure Service where
  hart      : Hart := {}
  running   : Option Level := none
  broken    : Option Word := none
  srec      : Option TrapRec := none
  prec      : Option TrapRec := none
  strapcause : BitVec 8 := 0#8
  strappc   : Word := 0#64
  strapval  : Word := 0#64
  strapval2 : Word := 0#64
  straptask : BitVec 44 := 0#44
  strapx    : BitVec 9 := 0#9
  shandler  : BitVec 62 := 0#62
  sscratch  : Word := 0#64
  ptrapcause : BitVec 8 := 0#8
  ptrappc   : Word := 0#64
  ptrapval  : Word := 0#64
  ptrapval2 : Word := 0#64
  ptraptask : BitVec 44 := 0#44
  ptrapx    : BitVec 13 := 0#13
  ptrapaddr : Word := 0#64
  phandler  : BitVec 62 := 0#62
  pscratch  : Word := 0#64
  psel      : BitVec 6 := 0#6
  squeue    : List TrapRec := []
  pqueue    : List TrapRec := []
  sheld     : List TrapRec := []        -- events that wait for room in a full queue (log 77)
  pheld     : List TrapRec := []
  deriving DecidableEq, Repr

/-- A line of a stash window that is filled (09_vmem R216): its number within the window and whether it is dirty. -/
structure StashLine where
  line  : Nat
  dirty : Bool
  deriving DecidableEq, Repr

/-- A page of a window as it is pinned (09_vmem R215): its device-physical and partition-physical addresses, whether it has
W, and the TLB entry of its translation. -/
structure WindowPin where
  pa    : Nat
  pp    : Nat
  w     : Bool
  entry : Option TlbEntry := none
  deriving DecidableEq, Repr

/-- A stash window (R215): number, scratch range, global range, for each 64 KiB of it the pinned translation
(device-physical and partition-physical address, and whether the page has W; none after a tlbinv), and the filled
lines. -/
structure Window where
  num   : Nat
  off   : Nat
  len   : Nat
  va    : Word
  pages : List (Option WindowPin)
  lines : List StashLine
  deriving DecidableEq, Repr

/-- A barrier (12_sync R270): number, arrivals per phase, arrivals counted, generation, and for a shared one the tasks
that have initialised it. -/
structure Barrier where
  num : Nat
  n   : Nat
  a   : Nat
  g   : Word
  by_ : List Nat := []
  deriving DecidableEq, Repr

/-- One of the six loop levels of a Flume channel (11_flume R242). -/
structure FLevel where
  count : BitVec 32 := 1#32
  sstr  : BitVec 32 := 0#32
  dstr  : BitVec 32 := 0#32
  deriving DecidableEq, Repr

/-- Where a Flume command stands (R247, R255): waiting behind others, copying, or stopped at a fault. -/
inductive FState where
  | queued | running | stopped
  deriving DecidableEq, Repr

/-- A Flume command (R248 to R262): its number, the hart that issued it, the captured settings, the armed notify
write, the next elementary copy FIRST, the underlying cause it stopped with, whether that fault has been delivered,
the chain an fgov fills, and the key version it encrypts under. -/
structure FCmd where
  n       : Nat
  hart    : BitVec 3
  size    : Nat
  tagb    : Word
  levels  : List FLevel
  sb      : Word
  db      : Word
  notify  : Option (Word × Word)
  first   : Nat := 0
  state   : FState := .queued
  cause   : BitVec 8 := 0#8
  delivered : Bool := false
  dest    : Option Entry := none
  name    : Nat := 0
  keyV    : Option (BitVec 32) := none
  handlerMode : Bool := false
  deriving DecidableEq, Repr

/-- A Flume channel of a task (R242, R247): level registers, the armed notify, the numbers issued and reached, the
commands not completed, and the status of each completed number that is not 0 (12_sync R278). -/
structure Channel where
  size   : BitVec 15 := 256#15
  tagb   : Word := 0#64
  levels : List FLevel := List.replicate 6 {}
  armed  : Option (Word × Word) := none
  issued : Nat := 0
  reached : Nat := 0
  cmds   : List FCmd := []
  status : List (Nat × Nat) := []
  credit : Int := 0               -- bytes that it may still move in this round of the Flume (R260)
  deriving DecidableEq, Repr

/-- The instructions of the matrix queue (10_matrix R219). -/
inductive MKind where
  | zero | read | write | prog | smod | acc (ordered : Bool) (z : Bool)
  deriving DecidableEq, Repr

/-- An operand of a multiply-accumulate: a captured chain, or a scratch pair as read at issue (R226). -/
inductive MSrc where
  | chain (e : Entry)
  | scratch (lo hi : Word)
  deriving DecidableEq, Repr

/-- An instruction of the matrix queue: number, issuing hart, word, tile, the MSHAPE and scalars captured at issue, its
operands and scale chains, the chain an mread fills, the score program that an msprog read, and whether it has
executed, with its flags and whether it failed. -/
structure MOp where
  n       : Nat
  hart    : BitVec 3
  word    : IWord
  kind    : MKind
  tile    : Nat
  shape   : Word := 0#64
  xa      : Word := 0#64
  xb      : Word := 0#64
  a       : Option MSrc := none
  b       : Option MSrc := none
  ascale  : Option Entry := none
  bscale  : Option Entry := none
  dest    : Option Entry := none
  name    : Nat := 0
  old     : Entry := {}             -- the version that the destination of an mread replaces (R236)
  bytes   : List Byte := []
  executed : Bool := false
  failed  : Bool := false
  flags   : BitVec 9 := 0#9
  low     : Vector (BitVec 32) 9 := Vector.replicate 9 0xFFFFFFFF#32  -- lowest cell that raised each flag
  deriving DecidableEq, Repr

/-- The matrix attachment of a task (R218 to R220, R238): bands reserved by the launch, bands granted, the cells of
t0 to t3 that are not +0 (tile, index 256 × row + column), the score program installed, and the queue. -/
structure Matrix where
  reserved : Nat := 0
  bands   : Nat := 0
  cells   : List (Nat × Nat × BitVec 32) := []
  prog    : List Byte := []
  queue   : List MOp := []
  issued  : Nat := 0
  reached : Nat := 0
  status  : List (Nat × Nat) := []
  done    : List MOp := []           -- mreads that have completed and have not retired, in order of issue (06_chains R124)
  deriving DecidableEq, Repr

/-- A part of a Weir command (14_weir R302): its first element and the element after its last, the Weir that runs it,
whether it has finished, and where it failed. -/
structure WPart where
  first : Nat
  stop  : Nat
  weir  : Nat
  finished : Bool := false
  fail  : Option Nat := none
  deriving DecidableEq, Repr

/-- A Weir command (R306): number, hart, the captured graph image, the command block, the translated pages of its
streams (virtual page, device-physical and partition-physical address), and its parts. -/
structure WCmd where
  n     : Nat
  hart  : BitVec 3
  graph : List Byte
  block : List Byte
  pages : List (Nat × Nat × Nat)
  parts : List WPart
  flags : BitVec 9 := 0#9
  deriving DecidableEq, Repr

/-- A Weir context (R295, R309): bound graphs by slot, numbers, commands, statuses, and the word nstat reads. -/
structure WeirCtx where
  slots   : List (Nat × List Byte) := []
  issued  : Nat := 0
  reached : Nat := 0
  cmds    : List WCmd := []
  status  : List (Nat × Nat) := []
  last    : Word := 0#64
  deriving DecidableEq, Repr

/-- The collective instructions (15_collectives R322). -/
inductive KKind where
  | red | gat | cast | draw
  deriving DecidableEq, Repr

/-- A collective command (R326): number on the context, position in the group, instruction, hart, block, the draw
registers captured, the translated pages, the bytes of a contribution whose chunks are done and acknowledged (R331), and
whether it has run and failed. -/
structure KCmd where
  n     : Nat
  j     : Nat
  kind  : KKind
  hart  : BitVec 3
  block : List Byte
  dkey    : Word
  dstream : BitVec 32
  dctr    : Word
  pages : List (Nat × Nat × Nat)
  done  : Nat := 0
  acked : Nat := 0
  held  : List (Nat × List Byte) := []  -- what a chunk writes in place, until it is acknowledged
  ran   : Bool := false
  failed : Bool := false
  deriving DecidableEq, Repr

/-- A collective context (R320): the bound group descriptor, the position of its last command, and its commands. -/
structure CollCtx where
  group   : Option (List Byte) := none
  pos     : Nat := 0
  issued  : Nat := 0
  reached : Nat := 0
  cmds    : List KCmd := []
  status  : List (Nat × Nat) := []
  drawn   : Bool := false
  deriving DecidableEq, Repr

/-- A version that an instruction has superseded which has not retired (06_chains R124): the unretired instructions that it
retires behind, by the versions they build, the name, and the version that gives up its references then. -/
structure Late where
  await : List Nat
  name  : Nat
  old   : Entry
  deriving DecidableEq, Repr

/-- Where a task is: its preload stands on a core (16_launch R343), it is resident on a core, waiting to be resumed
(17_traps R355, R360), waiting to be run again (01_machine R25), or ended with Weir or collective commands that still
run (17_traps R355, 14_weir R312, 15_collectives R332). -/
inductive TaskRun where
  | preloaded (core : Nat) | resident (core : Nat) | parked | rerun | ended
  deriving DecidableEq, Repr

/-- A line that holds poison (01_machine R24), or a marked 32-byte word (14_weir R312): its number and, for each byte
that has been written since, the bits of it that were. -/
structure Mark where
  idx     : Nat
  written : List (Nat × Byte)
  deriving DecidableEq, Repr

/-- A task (01_machine R16, R19). `used` is false in the placeholder that stands in `State.t` when no task has the
turn; `uid` and the stamps are the model's own. `packet` is the launch packet (R336). -/
structure Task where
  used    : Bool := false
  uid     : Nat := 0
  queue   : BitVec 12 := 0#12
  launch  : Nat := 0
  ord     : Nat := 0             -- ordinal in its launch, which may have more than 2^32 tasks (R17)
  wi      : Word := 0#64
  group   : Nat := 0
  asid    : BitVec 12 := 0#12
  part    : Nat := 0
  sub     : Nat := 0
  packet  : List Byte := []
  run     : TaskRun := .parked
  home    : Nat := 0             -- cluster of its last residency
  turn    : Nat := 0             -- of the waiting tasks of a launch the one with the largest is at the front (R355)
  firstRes : Bool := true
  save    : Option (Level × Word) := none  -- save area of its scalar part, where it is parked
  out     : List (Nat × Level × Word) := []  -- parts that stand in a save area: bit number of R358, area
  slot    : Option Nat := none   -- context slot of its last time-slice save (18_partitions R376)
  savedNames : List (Nat × Entry) := []  -- the versions whose images a save area holds (log 25)
  savedViews : List (BitVec 3 × List (Nat × Entry)) := []  -- what each hart saw of the names when they were saved (log 74)
  kept    : List (Nat × Nat × List Byte × Bool) := []  -- data of spilled versions that have no slot: name, version, bytes, poison (log 74)
  enginesTime : Nat := 0         -- TIME at which the engines' part was saved (log 25)
  since   : Nat := 0             -- TIME at which this residency started
  gvl     : BitVec 15 := 0#15
  mshape  : Word := 0#64
  poolq   : BitVec 16 := 0#16
  pm      : Bool := false
  mm      : Bool := false
  uhandler : BitVec 62 := 0#62
  utrapmask : BitVec 64 := 0#64
  aperture : Nat := 0            -- x3 at task start
  scrb    : Nat := 0             -- scratch bytes granted, 0 once they are freed
  scratch : List Host.Cell := []
  scrPoison : List Mark := []    -- poisoned 256-byte lines of scratch
  windows : List Window := []
  flume   : Vector Channel 4 := Vector.replicate 4 {}
  matrix  : Matrix := {}
  weir    : Vector WeirCtx 2 := Vector.replicate 2 {}
  weirDrawn : Bool := false
  coll    : Vector CollCtx 2 := Vector.replicate 2 {}
  barriers : List Barrier := []
  shared  : List (Nat × Nat) := []  -- joined shared barriers: number, scope
  harts   : List Hart := []
  nextStamp : Nat := 1
  gone    : List Nat := []       -- versions that have given up their references, or will when their producers retire (log 15)
  moved   : List (Nat × Nat) := []  -- versions that cmovv has moved while another hart shows them, with the name whose they are
  pubs    : List (Nat × Nat × List (Nat × Entry)) := [] -- versions published at a barrier phase (R274)
  drops   : List Late := []      -- versions superseded by instructions that have not retired, in program order (R124)
  deriving DecidableEq, Repr

/-- A core of a cluster (R359, R343): the task whose vector context it holds and that task's save area. -/
structure Core where
  owner     : Option Nat := none
  ownerSave : Word := 0#64
  deriving DecidableEq, Repr

/-- A cluster (01_machine R10, R11): in service or fenced, the subpartition that holds it, the bolt and its free list
(ranges of swatch numbers, head first), the mailboxes that are full, the cores, and the service core. -/
structure Cluster where
  num     : Nat := 0
  service : Bool := true
  sub     : Option Nat := none
  bolt    : List Swatch := []
  free    : List (Nat × Nat) := [(0, 32768)]
  mail    : List (Nat × Entry) := []
  cores   : Vector Core 8 := Vector.replicate 8 {}
  svc     : Service := {}
  reservedFor : Option (Nat × Nat × Nat) := none  -- the group it is reserved for: queue, launch, group (16_launch R340)
  deriving DecidableEq, Repr

/-- What the Headgate keeps of an affinity group (16_launch R346). -/
structure GroupRec where
  g       : Nat
  cluster : Nat := 0
  cores   : List (Nat × BitVec 8) := []   -- for each cluster, its cores that ran a task of the group
  runs    : Nat := 0
  start   : Nat := 0
  ended   : Nat := 0
  retired : Nat := 0
  lost    : Nat := 0
  rerun   : Bool := false
  started : Bool := false
  deriving DecidableEq, Repr

/-- A launch that a queue has accepted (R334, R339): its number, packet, whether it has begun, the groups dispatched,
its tasks retired and lost, the records of its groups, and its launch-scope barriers (12_sync R270). -/
structure Launch where
  num     : Nat
  packet  : List Byte
  begun   : Bool := false
  groups  : Nat := 0
  retired : Nat := 0
  lost    : Nat := 0
  recs    : List GroupRec := []
  barriers : List Barrier := []
  finished : Bool := false
  deriving DecidableEq, Repr

/-- A work queue that has been granted (R333, R334, R340). -/
structure Queue where
  num      : Nat
  sub      : Nat
  pc       : BitVec 3
  wt       : BitVec 8
  ualink   : Bool
  conn     : BitVec 16
  tl       : Nat := 0
  accepted : Nat := 0
  deficit  : Int := 0
  turn     : Nat := 0             -- its place in the round: the larger, the later its last turn
  since    : Option Nat := none
  aged     : Bool := false
  passed   : Option ((Nat × Nat × Nat) × Nat) := none  -- its group that is passed over, and the TIME since which it is
  launches : List Launch := []
  deriving DecidableEq, Repr

/-- A holder of resources (18_partitions R365, R366). -/
inductive Holder where
  | owner | part (n : Nat) | sub (n : Nat)
  deriving DecidableEq, Repr

/-- A grant (`held`) or a delegation of a range of items, with its rights: bit 0 use, 1 manage, 2 delegate. -/
structure Grant where
  cls    : Nat
  first  : Nat
  count  : Nat
  giver  : Holder
  holder : Holder
  rights : BitVec 3
  held   : Bool
  deriving DecidableEq, Repr

/-- A partition (R374, 17_traps R363): its TIME offset and its stage-3 entries by number. -/
structure Partition where
  num    : Nat
  offset : Nat := 0
  stage3 : List (Nat × Word × Word) := []
  deriving DecidableEq, Repr

/-- A subpartition (R376). -/
structure SubPart where
  num      : Nat
  ps2root  : Word := 0#64
  ps1tab   : Word := 0#64
  pctxbase : Word := 0#64
  pshost   : Word := 0#64
  slots    : List (Nat × Nat) := []   -- context slots in use and the task saved there (R376)
  deriving DecidableEq, Repr

/-- A key slot that holds a key (R379): the 32 bytes of the key and the counter of 11_flume R261. -/
structure KeySlot where
  num     : Nat
  key     : List Byte
  counter : BitVec 32
  deriving DecidableEq, Repr

/-- A format window of a partition (14_weir R313): its number and descriptor. -/
structure FormatWindow where
  part : Nat
  num  : Nat
  desc : List Byte
  deriving DecidableEq, Repr

/-- An event message to a host (R378): the connection, the code, value and TIME that it carries, and its 16 bytes, in which
R378 does not say where they stand (log 101). -/
structure HostMsg where
  conn : BitVec 16
  code : Word
  val  : Word
  time : Word
  bytes : List Byte
  deriving DecidableEq, Repr

/-- What the device answers to a sender (16_launch R335, 15_collectives R316, 18_partitions R377): a negative
acknowledgement on a connection, an error response, a completed write, the number or 2^63 + reason of a launch over UALink
(16_launch R348), the data of a read, the result of a management command. -/
inductive Reply where
  | nak (conn : BitVec 16) | error | done | launch (v : Word) | data (bytes : List Byte) | command (v : Word)
  deriving DecidableEq, Repr

/-- The O registers (18_partitions R377). -/
structure OwnerRegs where
  otrapcause : BitVec 8 := 0#8
  otrappc    : Word := 0#64
  otrapval   : Word := 0#64
  otrapval2  : Word := 0#64
  otraptask  : BitVec 44 := 0#44
  otrapx     : BitVec 13 := 0#13
  otrapaddr  : Word := 0#64
  ohandler   : BitVec 62 := 0#62
  oscratch   : Word := 0#64
  onode      : BitVec 10 := 0#10
  orsel      : BitVec 10 := 0#10
  orange0    : Word := 0#64
  orange1    : Word := 0#64
  oksel      : BitVec 6 := 0#6
  okey       : Vector Word 4 := Vector.replicate 4 0#64
  oplim      : BitVec 12 := 2500#12
  ostat      : BitVec 8 := 0#8
  deriving DecidableEq, Repr

/-- Which agent the agenda gives the turn: a hart of a task, or the service core of a cluster (log 1). -/
inductive Agent where
  | hart (task : Nat) (hart : BitVec 3)
  | service (cluster : Nat)
  deriving DecidableEq, Repr

/-- What comes next, before the default schedule (log 1): an event, the passing of time, a turn for an agent, a management
command of the owner (an instruction at level O with its operands), or a write that another agent makes at another node
(15_collectives R316, log 6). -/
inductive Agenda where
  | event (i : Instr)
  | tick (ns : Nat)
  | focus (a : Agent)
  | owner (i : Instr) (xa xb : Word)
  | peer (pa : Nat) (bytes : List Byte)
  | forget (part page : Nat)
  deriving DecidableEq, Repr

/-- The place of the default schedule: the agent with the turn issues, an engine moves, or the turn passes on (log 1). -/
inductive Slot where
  | hart | others | rotate
  deriving DecidableEq, Repr

/-- The state of the device. -/
structure State where
  who      : Who := .idle
  h        : Hart := {}
  t        : Task := {}
  cl       : Cluster := {}
  tasks    : List Task := []
  clusters : List Cluster := []
  mem      : List Host.Cell := []
  poison   : List Mark := []
  ecc      : List Mark := []
  time     : Nat := 0
  queues   : List Queue := []
  grants   : List Grant := []
  amounts  : List (Nat × Holder × Nat) := [(4, .owner, 512), (5, .owner, 256), (6, .owner, 256)]
  granules : List (Nat × Nat) := []              -- granule and the partition that held it last (18_partitions R369)
  parts    : List Partition := []
  subs     : List SubPart := []
  keys     : List KeySlot := []
  windows  : List FormatWindow := []
  tlb      : List TlbEntry := []                  -- what the TLBs hold (18_partitions R370)
  barriers : List ((Nat × Nat × Nat) × Barrier) := []  -- cluster-scope barriers: queue, launch, group (12_sync R270)
  aliasLines : List (Nat × Nat × List Byte) := []  -- decoded lines in the last-level cache: partition, line, bytes (14_weir R314)
  o        : OwnerRegs := {}
  oqueue   : List TrapRec := []
  orec     : Option TrapRec := none
  lydarLog : List TrapRec := []                  -- the mismatches that Lydar has logged (17_traps R362, log 87)
  lateEvents : List (Holder × TrapRec) := []     -- events for a level that has no service core (log 102)
  corrected : Nat := 0                           -- soft errors that were corrected (18_partitions R380)
  changing : List Nat := []                      -- whose changes of rights are under way, in arrival order (18_partitions R369)
  hostMsgs : List HostMsg := []
  replies  : List Reply := []
  mhz      : Nat := 2100
  degraded : List Nat := []                      -- chiplets out of service
  nextUid  : Nat := 1
  agenda   : List Agenda := []
  moves    : Nat := 0                            -- moves made, by which their kinds take turns (log 1)
  slot     : Slot := .hart
  deriving DecidableEq, Repr

/-- Why a run stops for good. -/
inductive Fault where
  /-- Raised by an access of the owner or of another device to a device-physical address of this node where no HBM4
  memory lies (01_machine R7 gives 768 GiB): the manual gives such an access no effect. Safe. -/
  | noMemory (addr : Nat)
  deriving DecidableEq, Repr

/-- Why a meaning is not given. -/
inductive Refusal where
  /-- Raised by the arm of an instruction that has no meaning in this model yet. Safe: nothing is proved of it. -/
  | notModelled (mnemonic : String)
  deriving DecidableEq, Repr

/-- The device right after bring-up (18_partitions R382): every granule and bolt zeroed, the owner holds every
resource, no task runs, and every register holds its reset value (INVENTORY.md, ## State). -/
def State.reset : State :=
  { cl := { num := 0 }, clusters := (List.range 31).map fun n => { num := n + 1 } }

end Sys2Proof.Machine
end

