-- ==== Sys2Proof/Machine/Ops.lean ====
section
/-! DEFINITION. The operations that the meanings share: registers, bytes, the list of agents, the way an instruction
ends, and taking a trap (17_traps R350 to R354). -/

namespace Sys2Proof.Machine

/-! ### Registers -/

/-- Register `r`; x0 reads as zero (03_words R58). -/
def Hart.rx (h : Hart) (r : Reg) : Word := if r = 0#7 then 0#64 else h.x.get r.toFin

/-- The hart with `v` in register `r`; a write to x0 is discarded (R58). -/
def Hart.wx (h : Hart) (r : Reg) (v : Word) : Hart :=
  if r = 0#7 then h else { h with x := h.x.set r.toNat v r.isLt }

/-- The register after `r`, of a pair. -/
def nextReg (r : Reg) : Reg := r + 1#7

/-- The register that the agent with the turn reads. -/
def State.rx (s : State) (r : Reg) : Word := s.h.rx r

/-- The state with `v` in register `r` of the agent with the turn. -/
def State.wx (s : State) (r : Reg) (v : Word) : State := { s with h := s.h.wx r v }

/-- The state with the program counter at `v`. -/
def State.setPc (s : State) (v : Word) : State := { s with h := { s.h with pc := v } }

/-- The agent passes its instruction and waits no longer. -/
def State.advance (s : State) : State :=
  { s with h := { s.h with pc := s.h.pc + 4#64, wait := none } }

/-- Write `v` to `r` and pass the instruction: the end of every scalar operation. -/
def State.put (s : State) (r : Reg) (v : Word) : State := (s.wx r v).advance

/-! ### Bytes (00_scope R1: little-endian) -/

/-- The `n` low bytes of `v`. -/
def bytesOf : Nat → Nat → List Byte
  | 0, _ => []
  | n + 1, v => BitVec.ofNat 8 v :: bytesOf n (v / 256)

/-- The number that the bytes form. -/
def ofBytes : List Byte → Nat
  | [] => 0
  | b :: r => b.toNat + 256 * ofBytes r

/-- Bytes `off` to `off + n - 1` of a block, as a number; bytes past its end count as zero. -/
def field (block : List Byte) (off n : Nat) : Nat := ofBytes ((block.drop off).take n)

/-- Bits `hi` to `lo` of `v`. -/
def bitsOf (v : Nat) (hi lo : Nat) : Nat := (v / 2 ^ lo) % 2 ^ (hi + 1 - lo)

/-- Whether bit `i` of `v` is one. -/
def bitOf (v i : Nat) : Bool := v / 2 ^ i % 2 = 1

/-- `l` with element `i` replaced. -/
def setAt {α : Type} : List α → Nat → α → List α
  | [], _, _ => []
  | _ :: r, 0, v => v :: r
  | x :: r, n + 1, v => x :: setAt r n v

/-- The bytes of `l` with those from `off` on replaced by `bs`. -/
def overlay : List Byte → Nat → List Byte → List Byte
  | l, _, [] => l
  | [], _, _ => []
  | _ :: r, 0, b :: bs => b :: overlay r 0 bs
  | x :: r, n + 1, bs => x :: overlay r n bs

/-! ### Byte memories: rising addresses, no listed zero -/

/-- The byte at `a`; an unlisted address reads as zero (18_partitions R382 step 3; log 5 for scratch, log 6 for other
nodes). -/
def cellGet : List Host.Cell → Nat → Byte
  | [], _ => 0#8
  | (b, v) :: r, a => if a = b then v else if a < b then 0#8 else cellGet r a

/-- The memory with `v` at `a`. -/
def cellSet : List Host.Cell → Nat → Byte → List Host.Cell
  | [], a, v => if v = 0#8 then [] else [(a, v)]
  | (b, w) :: r, a, v =>
    if a = b then (if v = 0#8 then r else (a, v) :: r)
    else if a < b then (if v = 0#8 then (b, w) :: r else (a, v) :: (b, w) :: r)
    else (b, w) :: cellSet r a v

/-- The `n` bytes from `a` on. -/
def cellsGet (m : List Host.Cell) : Nat → Nat → List Byte
  | _, 0 => []
  | a, n + 1 => cellGet m a :: cellsGet m (a + 1) n

/-- The memory with the bytes `bs` from `a` on. -/
def cellsSet (m : List Host.Cell) : Nat → List Byte → List Host.Cell
  | _, [] => m
  | a, b :: bs => cellsSet (cellSet m a b) (a + 1) bs

/-- The memory without the cells of addresses `lo` to `hi - 1`: they read as zero. -/
def cellsClear (m : List Host.Cell) (lo hi : Nat) : List Host.Cell :=
  m.filter fun c => decide (c.1 < lo) || decide (hi ≤ c.1)

/-- The canonical form: rising addresses from `lo` on, no zero byte listed. -/
def cellsWf : Nat → List Host.Cell → Bool
  | _, [] => true
  | lo, (a, v) :: r => decide (lo ≤ a) && v != 0#8 && cellsWf (a + 1) r

/-- A memory in canonical form. -/
def Memory.wf (m : List Host.Cell) : Bool := cellsWf 0 m

/-! ### Agents -/

/-- The level at which the agent with the turn runs (18_partitions R364). -/
def State.level (s : State) : Level :=
  match s.who with
  | .user => .u
  | .service => s.cl.svc.running.getD .s
  | .lydar => .o
  | .idle => .u

/-- Rank of a level. -/
def Level.rank : Level → Nat
  | .u => 0
  | .s => 1
  | .p => 2
  | .o => 3

/-- All harts of the task with the turn. -/
def State.taskHarts (s : State) : List Hart :=
  if s.who = .user then s.h :: s.t.harts else s.t.harts

/-- Apply `f` to every hart of the task with the turn. -/
def State.mapHarts (s : State) (f : Hart → Hart) : State :=
  { s with h := if s.who = .user then f s.h else s.h, t := { s.t with harts := s.t.harts.map f } }

/-- Apply `f` to hart `id` of the task with the turn. -/
def State.mapHart (s : State) (id : BitVec 3) (f : Hart → Hart) : State :=
  s.mapHarts fun h => if h.id = id then f h else h

/-- The service core of a cluster as it stands, whoever has the turn. -/
def State.svcHart (s : State) (c : Cluster) : Hart := if s.who = .service && s.cl.num = c.num then s.h else c.svc.hart

/-- Hart `id` of the task with the turn. -/
def State.hart? (s : State) (id : BitVec 3) : Option Hart := s.taskHarts.find? fun h => h.id = id

/-- The state with the agent with the turn put back among the others: its hart into its task or service core. -/
def State.packed (s : State) : State :=
  match s.who with
  | .user =>
    { s with who := .idle, h := {}, t := {}, tasks := { s.t with harts := s.h :: s.t.harts } :: s.tasks }
  | .service =>
    { s with who := .idle, h := {}, cl := { s.cl with svc := { s.cl.svc with hart := s.h } } }
  | _ => { s with who := .idle, h := {} }

/-- The state with cluster `n` as `cl`. -/
def State.withCluster (s : State) (n : Nat) : State :=
  if s.cl.num = n then s
  else
    match s.clusters.find? fun c => c.num = n with
    | none => s
    | some c => { s with cl := c, clusters := (s.cl :: s.clusters.filter fun c => c.num != n) }

/-- The state in which hart `hid` of task `uid` has the turn, on the task's cluster. -/
def State.focusHart (s : State) (uid : Nat) (hid : BitVec 3) : State :=
  let p := s.packed
  match p.tasks.find? fun t => t.uid = uid with
  | none => p
  | some t =>
    match t.harts.find? fun h => h.id = hid with
    | none => p
    | some h =>
      let q := p.withCluster t.home
      { q with who := .user, h := h, t := { t with harts := t.harts.filter fun g => g.id != hid },
               tasks := q.tasks.filter fun t => t.uid != uid }

/-- The state in which the service core of cluster `n` has the turn. -/
def State.focusService (s : State) (n : Nat) : State :=
  let q := s.packed.withCluster n
  { q with who := .service, h := q.cl.svc.hart }

/-- Every task of the device, that with the turn among them with all its harts. -/
def State.allTasks (s : State) : List Task :=
  if s.who = .user then { s.t with harts := s.h :: s.t.harts } :: s.tasks else s.tasks

/-- Every cluster of the device. -/
def State.allClusters (s : State) : List Cluster := s.cl :: s.clusters

/-- Apply `f` to every cluster. -/
def State.mapClusters (s : State) (f : Cluster → Cluster) : State :=
  { s with cl := f s.cl, clusters := s.clusters.map f }

/-- Apply `f` to cluster `n`. -/
def State.mapCluster (s : State) (n : Nat) (f : Cluster → Cluster) : State :=
  s.mapClusters fun c => if c.num = n then f c else c

/-- Apply `f` to every task but for its harts. -/
def State.mapTasks (s : State) (f : Task → Task) : State :=
  { s with t := if s.who = .user then f s.t else s.t, tasks := s.tasks.map f }

/-- Apply `f` to task `uid` but for its harts. -/
def State.mapTask (s : State) (uid : Nat) (f : Task → Task) : State :=
  s.mapTasks fun t => if t.uid = uid then f t else t

/-- Apply `f` to task `uid` with all its harts; it gives the task's harts in any order. -/
def State.mapWholeTask (s : State) (uid : Nat) (f : Task → Task) : State :=
  if s.who = .user && s.t.uid = uid then
    let t := f { s.t with harts := s.h :: s.t.harts }
    { s with h := (t.harts.find? fun h => h.id = s.h.id).getD s.h,
             t := { t with harts := t.harts.filter fun h => h.id != s.h.id } }
  else { s with tasks := s.tasks.map fun t => if t.uid = uid then f t else t }

/-- Task `uid` with all its harts. -/
def State.task? (s : State) (uid : Nat) : Option Task := s.allTasks.find? fun t => t.uid = uid

/-- Queue `n`. -/
def State.queue? (s : State) (n : Nat) : Option Queue := s.queues.find? fun q => q.num = n

/-- Apply `f` to queue `n`. -/
def State.mapQueue (s : State) (n : Nat) (f : Queue → Queue) : State :=
  { s with queues := s.queues.map fun q => if q.num = n then f q else q }

/-- Apply `f` to launch `k` of queue `n`. -/
def State.mapLaunch (s : State) (n k : Nat) (f : Launch → Launch) : State :=
  s.mapQueue n fun q => { q with launches := q.launches.map fun l => if l.num = k then f l else l }

/-- Subpartition `n`. -/
def State.sub? (s : State) (n : Nat) : Option SubPart := s.subs.find? fun p => p.num = n

/-- The partition of subpartition `n`: the holder that granted it a resource, or that it was made for. -/
def State.partOfSub (s : State) (n : Nat) : Option Nat :=
  (s.grants.findSome? fun g =>
    match g.giver, g.holder with
    | .part p, .sub m => if m = n then some p else none
    | _, _ => none)

/-- The subpartition for which the agent with the turn acts; 64, which is none, on a cluster that none holds. -/
def State.ownSub (s : State) : Nat :=
  match s.who with
  | .user => s.t.sub
  | _ => s.cl.sub.getD 64

/-- The partition for which the agent with the turn acts; 16, which is none, on a cluster that none holds. DESIGN CHOICE: so
also for a management command at level O, whose fwset then sets a window of the partition of the cluster that is selected
when it comes, that of the agent that had the turn (14_weir R313, log 120). -/
def State.ownPart (s : State) : Nat :=
  match s.who with
  | .user => s.t.part
  | _ => (s.partOfSub (s.cl.sub.getD 64)).getD 16

/-- Partition `n`, with no entry where it has none. -/
def State.partition (s : State) (n : Nat) : Partition :=
  (s.parts.find? fun p => p.num = n).getD { num := n }

/-- TIME as partition `p` reads it (17_traps R363). -/
def State.timeOf (s : State) (p : Nat) : Nat := s.time + (s.partition p).offset

/-! ### The directory's view of memory -/

/-- The physical address of line `l` of a window, where its page is translated. -/
def Window.linePa (w : Window) (l : Nat) : Option Nat :=
  let a := w.va.toNat % 65536 + 256 * l
  match w.pages.getD (a / 65536) none with
  | some p => some (p.pa + a % 65536)
  | none => none

/-- The bytes of line `line` (a device-physical address divided by 256) that some task holds dirty in a window. -/
def Task.dirtyLine (t : Task) (line : Nat) : Option (List Byte) :=
  t.windows.findSome? fun w =>
    w.lines.findSome? fun l =>
      if l.dirty && w.linePa l.line = some (line * 256) then
        some (cellsGet t.scratch (w.off + 256 * l.line) 256)
      else none

/-- The dirty copy of a line, where a window holds one. -/
def State.dirtyLine (s : State) (line : Nat) : Option (List Byte) :=
  match s.t.dirtyLine line with
  | some b => some b
  | none => s.tasks.findSome? fun t => t.dirtyLine line

/-- The byte of a device-physical address as the directory gives it: a dirty window line, else memory (R216). -/
def State.coherent (s : State) (pa : Nat) : Byte :=
  match s.dirtyLine (pa / 256) with
  | some bs => bs.getD (pa % 256) 0#8
  | none => cellGet s.mem pa

/-- `n` bytes as the directory gives them. -/
def State.coherentBytes (s : State) (pa n : Nat) : List Byte := (List.range n).map fun i => s.coherent (pa + i)

/-! ### Poison and ECC marks -/

/-- The bits written of each byte, with those of `mask` in byte `o` added. -/
def addWritten (o : Nat) (mask : Byte) : List (Nat × Byte) → List (Nat × Byte)
  | [] => [(o, mask)]
  | (j, m) :: r => if j = o then (j, m ||| mask) :: r else (j, m) :: addWritten o mask r

/-- Record that the bits of `mask` in byte `o` of unit `idx` are overwritten; a unit of `size` bytes that is overwritten
whole loses its mark (R24). -/
def markWrite (size idx o : Nat) (mask : Byte) : List Mark → List Mark
  | [] => []
  | m :: r =>
    if m.idx = idx then
      let w := addWritten o mask m.written
      if (w.filter fun p => p.2 = 0xFF#8).length = size then r else { m with written := w } :: r
    else m :: markWrite size idx o mask r

/-- Whether a read of the byte consumes poison (R24, R312). -/
def State.poisoned (s : State) (pa : Nat) : Bool :=
  s.poison.any (fun m => m.idx = pa / 256) || s.ecc.any (fun m => m.idx = pa / 32)

/-- Whether a read that the directory serves consumes poison: a dirty window line is written back before it, and
overwrites its line whole (R24, 09_vmem R216). -/
def State.consumes (s : State) (pa : Nat) : Bool := (s.dirtyLine (pa / 256)).isNone && s.poisoned pa

/-- Write the bits of `mask` of one byte of memory, at its home (R24, R207). -/
def State.writeByte (s : State) (pa : Nat) (v mask : Byte) : State :=
  let old := cellGet s.mem pa
  { s with mem := cellSet s.mem pa ((old &&& ~~~mask) ||| (v &&& mask)),
           poison := markWrite 256 (pa / 256) (pa % 256) mask s.poison,
           ecc := markWrite 32 (pa / 32) (pa % 32) mask s.ecc }

/-- Write bytes with masks from `pa` on. -/
def State.writeCells (s : State) (pa : Nat) : List (Byte × Byte) → State
  | [] => s
  | (v, m) :: r => (s.writeByte pa v m).writeCells (pa + 1) r

/-- Whole bytes as cells. -/
def whole (bs : List Byte) : List (Byte × Byte) := bs.map fun b => (b, 0xFF#8)

/-- Clean, or drop, the copies of a line in every window. -/
def Task.settleLine (t : Task) (line : Nat) (drop : Bool) : Task :=
  { t with windows := t.windows.map fun w =>
      { w with lines := (w.lines.filter fun l => !(drop && w.linePa l.line = some (line * 256))).map fun l =>
          if w.linePa l.line = some (line * 256) then { l with dirty := false } else l } }

/-- The directory recalls a line: a dirty copy is written back; it stays valid and clean, or is dropped before another
agent's write (R216, 14_weir R310). -/
def State.recall (s : State) (line : Nat) (drop : Bool) : State :=
  let s' := match s.dirtyLine line with
    | some bs => s.writeCells (line * 256) (whole bs)
    | none => s
  s'.mapTasks fun t => t.settleLine line drop

/-- A read that the directory serves: where a window holds the line dirty it is recalled (R216). -/
def State.lookAt (s : State) (line : Nat) : State := if (s.dirtyLine line).isNone then s else s.recall line false

/-- Lines that the directory serves for reads. -/
def State.lookAll (s : State) : List Nat → State
  | [] => s
  | pa :: r => (s.lookAt (pa / 256)).lookAll r

/-- A write that reaches the home of its bytes (R23): every window's copy of the line is written back and dropped. -/
def State.commitCells (s : State) (pa : Nat) (cells : List (Byte × Byte)) : State :=
  (s.recall (pa / 256) true).writeCells pa cells

/-- A committed write of whole bytes that may cross lines. -/
def State.commitBytes (s : State) (pa : Nat) : List Byte → State
  | [] => s
  | b :: r => (s.commitCells pa [(b, 0xFF#8)]).commitBytes (pa + 1) r

/-- Set bits of byte 1 of the table entries listed, each where it is not set, as an atomic at its home (R291). -/
def State.markEntries (s : State) (bits : Byte) : List Nat → State
  | [] => s
  | pa :: r =>
    (if s.coherent (pa + 1) &&& bits = bits then s else s.commitCells (pa + 1) [(bits, bits)]).markEntries bits r

/-! ### Traps -/

/-- The code of a cause (17_traps R350). -/
def Cause.code : Cause → BitVec 8
  | .illegal => 0x01#8
  | .misaligned => 0x03#8
  | .page1 => 0x04#8
  | .page2 => 0x05#8
  | .range3 => 0x06#8
  | .access => 0x07#8
  | .pool => 0x08#8
  | .segOver => 0x09#8
  | .short => 0x0A#8
  | .refLimit => 0x0B#8
  | .emptyName => 0x0C#8
  | .typeMismatch => 0x0D#8
  | .fpExc => 0x0E#8
  | .intExc => 0x0F#8
  | .poison => 0x10#8
  | .mismatch => 0x11#8
  | .notAttached => 0x12#8
  | .flume => 0x13#8
  | .weir => 0x14#8
  | .coll => 0x15#8
  | .vswitch => 0x16#8
  | .spilled => 0x17#8
  | .trapInstr => 0x18#8
  | .privilege => 0x19#8
  | .timeline => 0x1A#8
  | .deadline => 0x1B#8
  | .budget => 0x1C#8
  | .debug => 0x1D#8

/-- The column "User" of R350. -/
def Cause.toUser : Cause → Bool
  | .page2 | .range3 | .poison | .mismatch | .vswitch | .spilled | .privilege | .budget | .debug => false
  | _ => true

/-- The column "Otherwise" of R350. -/
def Cause.otherwise : Cause → Level
  | .page2 => .p
  | .range3 => .o
  | _ => .s

/-- Whether the trap is delivered to the user handler of the hart (R350). -/
def State.userDelivers (s : State) (tr : Trap) : Bool :=
  decide (s.who = .user) && tr.bound.isNone && tr.cause.toUser && s.t.utrapmask.getLsbD tr.cause.code.toNat &&
    s.t.uhandler != 0#62 && !s.h.handler

/-- The level that a trap goes to when it is not delivered to the user handler (R350): from S to P and from P to O
where the service core raised it. -/
def State.trapLevel (s : State) (tr : Trap) : Level :=
  match s.level with
  | .u => tr.bound.getD tr.cause.otherwise
  | .s => .p
  | .p => .o
  | .o => .o

/-- The barw that the hart waits in, where its arrival stands (R403). -/
def Hart.barwGen (h : Hart) : Option BarwWait :=
  match h.wait with
  | some { kind := .barw w, .. } => some w
  | _ => none

/-- The wait of a barw whose arrival stands, begun anew. -/
def barwAgain (w : Option BarwWait) (now : Nat) : Option Wait := w.map fun w => { kind := .barw w, since := now }

/-- The flags of the performed elements join FFLAGS where a vector instruction stops (07_vector R157); a stopped
instruction holds no pins (09_vmem R205). -/
def Hart.halt (h : Hart) : Hart :=
  match h.flight with
  | some f => { h with fflags := h.fflags ||| f.flags, flight := some { f with flags := 0#9, pins := [], pinEnd := 0, pinFault := none, line := none } }
  | none => h

/-- Delivery to the user handler (R352, 03_words R75): the record is written, the hart enters handler mode, and the
stopped instruction stays stopped with its captured state. -/
def Hart.deliver (h0 : Hart) (handler : BitVec 62) (tr : Trap) (async : Bool) : Hart :=
  let h := h0.halt
  { h with trapcause := tr.cause.code, trapasync := async, trappc := h.pc, trapval := tr.val, trapval2 := tr.val2,
           handler := true, pc := handler ++ 0#2, stopped := h.flight, flight := none, rep := none, wait := none,
           stoppedGen := h.barwGen }

/-- The asynchronous trap that the hart takes at its next boundary: in handler mode those of engines are held (R352). -/
def Hart.due (h : Hart) : Option Trap := h.held.find? fun tr => !(h.handler && tr.engine)

/-- Core on which the task with the turn runs. -/
def Task.core (t : Task) : Nat :=
  match t.run with
  | .resident c => c
  | .preloaded c => c
  | _ => 0

/-- TASKID (03_words R72): the queue and the ordinal. DESIGN CHOICE: of an ordinal from 2^32 on ORD holds the low 32 bits (log
108). -/
def Task.taskid (t : Task) : BitVec 44 := t.queue ++ BitVec.ofNat 32 t.ord

/-- The record of a trap of the agent with the turn (R354, R376). -/
def State.trapRecord (s : State) (tr : Trap) (async : Bool) : TrapRec :=
  { cause := tr.cause.code, pc := s.h.pc, val := tr.val, val2 := tr.val2, addr := tr.addr,
    taskid := if s.who = .user then s.t.taskid else 0#44, core := BitVec.ofNat 3 s.t.core, hartid := s.h.id,
    cluster := BitVec.ofNat 5 s.cl.num, nested := s.h.handler, async := async,
    fromS := decide (s.who = .service) && decide (s.level = .s), fromP := decide (s.level = .p),
    task := if s.who = .user then some s.t.uid else none }

/-- Put a record at the end of the queue of a level, where it has room: 64 entries at S and P, the one in hand among them
until it is answered (R354, log 67). -/
def State.enqueue (s : State) (lvl : Level) (r : TrapRec) : Option State :=
  match lvl with
  | .p =>
    if s.cl.svc.pqueue.length + s.cl.svc.prec.toList.length < 64 then
      some { s with cl := { s.cl with svc := { s.cl.svc with pqueue := s.cl.svc.pqueue ++ [r] } } }
    else none
  | .o => some { s with oqueue := s.oqueue ++ [r] }
  | _ =>
    if s.cl.svc.squeue.length + s.cl.svc.srec.toList.length < 64 then
      some { s with cl := { s.cl with svc := { s.cl.svc with squeue := s.cl.svc.squeue ++ [r] } } }
    else none

/-- The agent with the turn stops until its trap is answered (R354). -/
def State.stopAgent (s : State) (run : HartRun) : State :=
  match s.who with
  | .service =>
    match s.level with
    | .p => { s with h := { s.h with run := run } }
    | _ => { s with cl := { s.cl with svc := { s.cl.svc with running := none, broken := some s.h.pc } } }
  | _ => { s with h := { s.h.halt with run := run, rep := none, wait := none, trapGen := s.h.barwGen } }

/-- Queue a record for a level and stop the agent; a full queue holds it stopped until a slot frees (R354). -/
def State.escalate (s : State) (lvl : Level) (r : TrapRec) : State :=
  match s.enqueue lvl r with
  | some s' => s'.stopAgent .trapped
  | none => { s.stopAgent (.blocked lvl) with h := { (s.stopAgent (.blocked lvl)).h with trapRec := some r } }

/-- The walk that failed has read its tables: the directory has served the reads, and the entries of stage 2 through which
it read them have their A bits (13_ordering R291). -/
def State.walked (s : State) (reads seen : List Nat) : State := (s.lookAll seen).markEntries 0x04#8 reads

/-- Taking a trap (R350, R352, R354). A management command of the owner that traps has no effect (R377). -/
def takeTrap (tr : Trap) (async : Bool) (s0 : State) : State :=
  let s := s0.walked tr.reads tr.seen
  if s.userDelivers tr then { s with h := s.h.deliver s.t.uhandler tr async }
  else
    match s.who with
    | .user | .service => s.escalate (s.trapLevel tr) (s.trapRecord tr async)
    | _ => s

/-- Return from the user handler (17_traps R353): handler mode ends, and the hart continues at TRAPPC, or after it for
cause 0x18; a stopped instruction is in force again, and a barw whose arrival stands waits on. -/
def Hart.trapReturn (h : Hart) (now : Nat) : Hart :=
  { h with handler := false, pc := if h.trapcause = 0x18#8 then h.trappc + 4#64 else h.trappc,
           flight := h.stopped, stopped := none,
           wait := barwAgain h.stoppedGen now, stoppedGen := none }

/-! ### How an instruction ends -/

/-- How an instruction ends other than with its effect: a trap, a wait, or a fault of the run. -/
inductive Stop where
  | trap (tr : Trap)
  | wait (k : WaitKind)
  | fault (f : Fault)
  deriving DecidableEq, Repr

/-- A computation on the state that may end in a trap or a wait, of which nothing then remains. -/
abbrev Act (α : Type) := StateT State (Except Stop) α

/-- End in a trap. -/
def trapAct {α : Type} (c : Cause) (val : Word) (val2 : Word := 0#64) : Act α :=
  fun _ => .error (.trap { cause := c, val := val, val2 := val2 })

/-- End in the trap `tr`. -/
def raiseAct {α : Type} (tr : Trap) : Act α := fun _ => .error (.trap tr)

/-- Wait in the instruction. -/
def waitAct {α : Type} (k : WaitKind) : Act α := fun _ => .error (.wait k)

/-- Trap unless `b` holds. -/
def requireAct (b : Bool) (tr : Trap) : Act Unit := if b then pure () else raiseAct tr

/-- The state of a hart that waits: it stays at the instruction, and the same wait goes on from where it began (R403). -/
def State.enterWait (s : State) (k : WaitKind) : State :=
  match s.h.wait with
  | some w => if w.kind = k then s else { s with h := { s.h with wait := some { kind := k, since := s.time } } }
  | none => { s with h := { s.h with wait := some { kind := k, since := s.time } } }

/-- The outcome of a computation. -/
def finish (a : Act Unit) (s : State) : Host.Outcome State Fault Refusal :=
  match a s with
  | .ok (_, s') => .next s'
  | .error (.trap tr) => .next (takeTrap tr false s)
  | .error (.wait k) => .next (s.enterWait k)
  | .error (.fault f) => .fault f

/-- The word that the agent's instruction is, for the TRAPVAL of illegal and privileged words: its encoding. -/
def wordOf (i : Option Fields) : Word := (i.map fun f => (joinWord f).setWidth 64).getD 0#64

/-- Require at least level `l` (03_words R69): below it the word traps 0x19. -/
def requireLevel (l : Level) (w : Word) : Act Unit := do
  let s ← get
  requireAct (decide (l.rank ≤ s.level.rank)) { cause := .privilege, val := w }

end Sys2Proof.Machine
end

