-- ==== Sys2Proof/Machine/Float.lean ====
section
/-! DEFINITION. Numbers: the element types and their values, rounding and flags, conversions, and the float operations
(02_numbers, 07_vector R164 to R172). -/

namespace Sys2Proof.Machine

/-! ### Types (R29, R31) -/

/-- Element width in bits; a cb8x2 element counts as 2 (R103). -/
def elemBits : ElemType → Nat
  | .b1 => 1
  | .cb8x2 => 2
  | .i4 | .n4 | .e2m1 => 4
  | .i6 | .n6 | .e2m3 | .e3m2 => 6
  | .i8 | .n8 | .e4m3 | .e5m2 | .e8m0 => 8
  | .i16 | .n16 | .f16 | .bf16 => 16
  | .i32 | .n32 | .f32 => 32
  | .i64 | .n64 => 64

/-- An integer type: i4 to n64 (R29). -/
def isInt : ElemType → Bool
  | .i4 | .n4 | .i6 | .n6 | .i8 | .n8 | .i16 | .n16 | .i32 | .n32 | .i64 | .n64 => true
  | _ => false

/-- A signed integer type. -/
def isSigned : ElemType → Bool
  | .i4 | .i6 | .i8 | .i16 | .i32 | .i64 => true
  | _ => false

/-- A float type in the sense of 07_vector R152. -/
def isFloat : ElemType → Bool
  | .f32 | .f16 | .bf16 | .e5m2 | .e4m3 | .e3m2 | .e2m3 | .e2m1 => true
  | _ => false

/-- f32, f16 or bf16. -/
def isWide : ElemType → Bool
  | .f32 | .f16 | .bf16 => true
  | _ => false

/-- An MX element type (R152). -/
def isMx : ElemType → Bool
  | .e2m1 | .e2m3 | .e3m2 | .e4m3 | .e5m2 => true
  | _ => false

/-- A 6-bit type. -/
def isSix : ElemType → Bool
  | .i6 | .n6 | .e2m3 | .e3m2 => true
  | _ => false

/-- A packed type: b1, the 4- and 6-bit types and cb8x2 (09_vmem R201). -/
def isPacked (t : ElemType) : Bool := decide (elemBits t < 8)

/-- Bytes that `n` elements occupy (R31). -/
def bytesFor (t : ElemType) (n : Nat) : Nat :=
  match t with
  | .cb8x2 => 2 * ((n + 7) / 8)
  | _ => if isSix t then 3 * ((n + 3) / 4) else (n * elemBits t + 7) / 8

/-- The granule of a type (06_chains R122). -/
def granule (t : ElemType) : Nat :=
  match t with
  | .b1 => 8
  | .cb8x2 => 8
  | _ => if isSix t then 4 else if elemBits t = 4 then 2 else 1

/-- The code of element `i` of a chain's bytes (R31); for cb8x2 the whole 16-bit index that holds it. -/
def elemOf (t : ElemType) (bs : List Byte) (i : Nat) : Nat :=
  match t with
  | .cb8x2 => field bs (2 * (i / 8)) 2
  | _ =>
    if isSix t then field bs (3 * (i / 4)) 3 / 2 ^ (6 * (i % 4)) % 64
    else if elemBits t < 8 then field bs (i * elemBits t / 8) 1 / 2 ^ (i * elemBits t % 8) % 2 ^ elemBits t
    else field bs (i * (elemBits t / 8)) (elemBits t / 8)

/-- `v` with its bits from `lo` on, `n` of them, replaced by those of `e`. -/
def putBits (v lo n e : Nat) : Nat :=
  v % 2 ^ lo + (e % 2 ^ n) * 2 ^ lo + v / 2 ^ (lo + n) * 2 ^ (lo + n)

/-- The chain's bytes with `e` as the code of element `i`; for cb8x2 `e` replaces the whole index. -/
def setElem (t : ElemType) (bs : List Byte) (i e : Nat) : List Byte :=
  match t with
  | .cb8x2 => overlay bs (2 * (i / 8)) (bytesOf 2 e)
  | _ =>
    if isSix t then overlay bs (3 * (i / 4)) (bytesOf 3 (putBits (field bs (3 * (i / 4)) 3) (6 * (i % 4)) 6 e))
    else if elemBits t < 8 then
      overlay bs (i * elemBits t / 8)
        (bytesOf 1 (putBits (field bs (i * elemBits t / 8) 1) (i * elemBits t % 8) (elemBits t) e))
    else overlay bs (i * (elemBits t / 8)) (bytesOf (elemBits t / 8) e)

/-! ### Integers (R33) -/

/-- The integer that an `n`-bit code stands for. -/
def intOf (signed : Bool) (n c : Nat) : Int :=
  if signed && decide (2 ^ (n - 1) ≤ c) then (c : Int) - 2 ^ n else c

/-- The code of an integer modulo `2^n`. -/
def codeOf (n : Nat) (v : Int) : Nat := (v % 2 ^ n).toNat

/-- The lowest value of an integer type. -/
def intLo (signed : Bool) (n : Nat) : Int := if signed then -(2 ^ (n - 1) : Int) else 0

/-- The highest value of an integer type. -/
def intHi (signed : Bool) (n : Nat) : Int := if signed then 2 ^ (n - 1) - 1 else 2 ^ n - 1

/-! ### Flags (R44, 03_words R72) -/

/-- The flags in the bit order of FFLAGS. -/
abbrev Flags := BitVec 9

/-- Invalid operation. -/
def fNV : Flags := 0x001#9
/-- Division by zero. -/
def fDZ : Flags := 0x002#9
/-- Overflow. -/
def fOF : Flags := 0x004#9
/-- Underflow. -/
def fUF : Flags := 0x008#9
/-- Inexact. -/
def fNX : Flags := 0x010#9
/-- Integer division by zero. -/
def fIDZ : Flags := 0x020#9
/-- Integer overflow. -/
def fIOV : Flags := 0x040#9
/-- Index out of range. -/
def fIDX : Flags := 0x080#9
/-- Zero mass. -/
def fZM : Flags := 0x100#9

/-- `f` where `b` holds. -/
def flagIf (b : Bool) (f : Flags) : Flags := if b then f else 0#9

/-! ### Float formats (R34) -/

/-- Which codes of a format are not finite. -/
inductive Special where
  | ieee | oneNan | none
  deriving DecidableEq, Repr

/-- A float format: exponent and mantissa bits, bias, and the codes that are not finite. -/
structure Fmt where
  eb   : Nat
  mb   : Nat
  bias : Int
  sp   : Special
  deriving DecidableEq, Repr

/-- The format of a float type (R34). -/
def fmtOf : ElemType → Fmt
  | .f16 => ⟨5, 10, 15, .ieee⟩
  | .bf16 => ⟨8, 7, 127, .ieee⟩
  | .e5m2 => ⟨5, 2, 15, .ieee⟩
  | .e4m3 => ⟨4, 3, 7, .oneNan⟩
  | .e3m2 => ⟨3, 2, 3, .none⟩
  | .e2m3 => ⟨2, 3, 1, .none⟩
  | .e2m1 => ⟨2, 1, 1, .none⟩
  | _ => ⟨8, 23, 127, .ieee⟩

/-- The format of f32. -/
def f32Fmt : Fmt := fmtOf .f32

/-- A float: NaN (signalling or not), infinity, or the number (−1)^neg × m × 2^e. -/
inductive FVal where
  | nan (sig : Bool)
  | inf (neg : Bool)
  | fin (neg : Bool) (m : Nat) (e : Int)
  deriving DecidableEq, Repr

/-- The float that a code stands for (R34 to R36). -/
def Fmt.decode (f : Fmt) (c : Nat) : FVal :=
  let neg := bitOf c (f.eb + f.mb)
  let e := c / 2 ^ f.mb % 2 ^ f.eb
  let m := c % 2 ^ f.mb
  if f.sp = .ieee && decide (e = 2 ^ f.eb - 1) then
    if m = 0 then .inf neg else .nan (!bitOf m (f.mb - 1))
  else if f.sp = .oneNan && decide (e = 2 ^ f.eb - 1) && decide (m = 2 ^ f.mb - 1) then .nan false
  else if e = 0 then .fin neg m (1 - f.bias - f.mb)
  else .fin neg (m + 2 ^ f.mb) ((e : Int) - f.bias - f.mb)

/-- The sign bit of a code. -/
def Fmt.signOf (f : Fmt) (c : Nat) : Bool := bitOf c (f.eb + f.mb)

/-- A code from its three fields. -/
def Fmt.pack (f : Fmt) (neg : Bool) (e m : Nat) : Nat :=
  (if neg then 2 ^ (f.eb + f.mb) else 0) + e * 2 ^ f.mb + m

/-- The canonical NaN (R36). -/
def Fmt.nan (f : Fmt) : Nat :=
  match f.sp with
  | .ieee => f.pack false (2 ^ f.eb - 1) (2 ^ (f.mb - 1))
  | .oneNan => f.pack false (2 ^ f.eb - 1) (2 ^ f.mb - 1)
  | .none => 0

/-- The largest finite value with a sign. -/
def Fmt.largest (f : Fmt) (neg : Bool) : Nat :=
  match f.sp with
  | .ieee => f.pack neg (2 ^ f.eb - 2) (2 ^ f.mb - 1)
  | .oneNan => f.pack neg (2 ^ f.eb - 1) (2 ^ f.mb - 2)
  | .none => f.pack neg (2 ^ f.eb - 1) (2 ^ f.mb - 1)

/-- What an exact infinity becomes in a format: an infinity, or as R164 gives for the formats that have none. -/
def Fmt.infinity (f : Fmt) (neg : Bool) : Nat :=
  match f.sp with
  | .ieee => f.pack neg (2 ^ f.eb - 1) 0
  | .oneNan => f.pack neg (2 ^ f.eb - 1) (2 ^ f.mb - 1)
  | .none => f.largest neg

/-- What a NaN result becomes: the canonical NaN, or +0 with NV where the format has none (R164). -/
def Fmt.nanResult (f : Fmt) : Nat × Flags :=
  match f.sp with
  | .none => (0, fNV)
  | _ => (f.nan, 0#9)

/-- Bits of `n`: 0 for 0. -/
def bitLen (n : Nat) : Nat := if n = 0 then 0 else Nat.log2 n + 1

/-- Whether a mode moves a magnitude away from zero: `lsb` is its low bit, `half` and `rest` compare the discarded part
with one half (R42). -/
def roundsUp (rm : Rounding) (neg lsb half rest : Bool) : Bool :=
  match rm with
  | .rne => half && (rest || lsb)
  | .rtz => false
  | .rdn => neg && (half || rest)
  | .rup => !neg && (half || rest)

/-- `m × 2^sh` rounded down by `2^sh`-units: the magnitude in units of 2^sh after rounding, and whether it is inexact;
`sticky` says that the exact value lies above `m` by less than one unit of `m`. -/
def roundShift (rm : Rounding) (neg : Bool) (m : Nat) (sticky : Bool) (sh : Int) : Nat × Bool :=
  if sh ≤ 0 then
    let k := m * 2 ^ (-sh).toNat
    (if roundsUp rm neg (bitOf k 0) false sticky then k + 1 else k, sticky)
  else
    let k := sh.toNat
    let q := m / 2 ^ k
    let r := m % 2 ^ k
    let half := decide (2 ^ (k - 1) ≤ r)
    let rest := decide (r % 2 ^ (k - 1) ≠ 0) || sticky
    (if roundsUp rm neg (bitOf q 0) half rest then q + 1 else q, half || rest)

/-- Round of the exact value (−1)^neg × m × 2^e, or of one just above it in magnitude where `sticky` holds, to a format
(R5, R42, R44, R46, R164); `sat` is the saturate bit of vcvt. -/
def Fmt.round (f : Fmt) (rm : Rounding) (sat neg : Bool) (m : Nat) (e : Int) (sticky : Bool) : Nat × Flags :=
  if m = 0 && !sticky then (f.pack neg 0 0, 0#9)
  else
    let qU := e + bitLen m - (f.mb + 1)
    let q := max qU (1 - f.bias - f.mb)
    let (k, inexact) := roundShift rm neg m sticky (q - e)
    let (kU, _) := roundShift rm neg m sticky (qU - e)
    let tiny := decide (qU + bitLen kU ≤ 1 - f.bias)
    -- a carry out of the mantissa moves the exponent up
    let big := decide (k = 2 ^ (f.mb + 1))
    let k1 := if big then k / 2 else k
    let q1 := if big then q + 1 else q
    let expo := if k1 < 2 ^ f.mb then (0 : Int) else q1 + f.mb + f.bias
    let code := expo * 2 ^ f.mb + (if k1 < 2 ^ f.mb then (k1 : Int) else k1 - 2 ^ f.mb)
    if (f.largest false : Int) < code then
      let inward := match rm with
        | .rne => false
        | .rtz => true
        | .rdn => !neg
        | .rup => neg
      let c := if f.sp = .ieee && !sat && !inward then f.infinity neg else f.largest neg
      (c, fOF ||| fNX)
    else (f.pack neg 0 code.toNat, flagIf inexact fNX ||| flagIf (inexact && tiny) fUF)

/-- Round of an exact value that may be an infinity or NaN (R164). An exact infinity raises no flag, whatever is delivered
for it (log 79). -/
def Fmt.deliver (f : Fmt) (rm : Rounding) (v : FVal) : Nat × Flags :=
  match v with
  | .nan sig => (f.nanResult.1, f.nanResult.2 ||| flagIf sig fNV)
  | .inf neg => (f.infinity neg, 0#9)
  | .fin neg m e => f.round rm false neg m e false

/-! ### Exact arithmetic -/

/-- A signalling NaN. -/
def FVal.isSig : FVal → Bool
  | .nan s => s
  | _ => false

/-- A NaN. -/
def FVal.isNan : FVal → Bool
  | .nan _ => true
  | _ => false

/-- An infinity. -/
def FVal.isInf : FVal → Bool
  | .inf _ => true
  | _ => false

/-- The sign. -/
def FVal.neg : FVal → Bool
  | .nan _ => false
  | .inf n => n
  | .fin n _ _ => n

/-- A zero. -/
def FVal.isZero : FVal → Bool
  | .fin _ m _ => decide (m = 0)
  | _ => false

/-- The number with the opposite sign; a NaN stays. -/
def FVal.negate : FVal → FVal
  | .nan s => .nan s
  | .inf n => .inf (!n)
  | .fin n m e => .fin (!n) m e

/-- A number in units of 2^e0, where e0 is at most its exponent. -/
def FVal.units (v : FVal) (e0 : Int) : Int :=
  match v with
  | .fin n m e => (if n then -1 else 1) * (m * 2 ^ (e - e0).toNat : Nat)
  | _ => 0

/-- The exponent of a number's representation. -/
def FVal.expo : FVal → Int
  | .fin _ _ e => e
  | _ => 0

/-- The sign of an exact zero sum whose terms do not all agree (R402). -/
def zeroNeg (rm : Rounding) : Bool :=
  match rm with
  | .rdn => true
  | _ => false

/-- The exact sum of two numbers; a zero sum takes its sign under R402. -/
def addFin (rm : Rounding) (a b : FVal) : FVal :=
  let e := min a.expo b.expo
  let v := a.units e + b.units e
  if v = 0 then .fin (if a.isZero && b.isZero && decide (a.neg = b.neg) then a.neg else zeroNeg rm) 0 e
  else .fin (decide (v < 0)) v.natAbs e

/-- An exact sum with the special cases of IEEE 754, and whether it is invalid. -/
def fvAdd (rm : Rounding) (a b : FVal) : FVal × Bool :=
  let sig := a.isSig || b.isSig
  match a, b with
  | .nan _, _ => (.nan false, sig)
  | _, .nan _ => (.nan false, sig)
  | .inf n, .inf k => if n = k then (.inf n, false) else (.nan false, true)
  | .inf n, _ => (.inf n, false)
  | _, .inf n => (.inf n, false)
  | _, _ => (addFin rm a b, false)

/-- An exact product with the special cases of IEEE 754, and whether it is invalid. -/
def fvMul (a b : FVal) : FVal × Bool :=
  let sig := a.isSig || b.isSig
  let n := a.neg != b.neg
  match a, b with
  | .nan _, _ => (.nan false, sig)
  | _, .nan _ => (.nan false, sig)
  | .inf _, v => if v.isZero then (.nan false, true) else (.inf n, false)
  | v, .inf _ => if v.isZero then (.nan false, true) else (.inf n, false)
  | .fin _ m e, .fin _ k d => (.fin n (m * k) (e + d), false)

/-- The exact a × b + c, and whether it is invalid (07_vector R166). -/
def fvFma (rm : Rounding) (a b c : FVal) : FVal × Bool :=
  let p := fvMul a b
  let s := fvAdd rm p.1 c
  (s.1, p.2 || s.2 || c.isSig)

/-- Deliver a sum or product with NV where it is invalid. -/
def Fmt.deliverInv (f : Fmt) (rm : Rounding) (v : FVal × Bool) : Nat × Flags :=
  let r := f.deliver rm v.1
  (r.1, r.2 ||| flagIf v.2 fNV)

/-- a ÷ b, rounded once (R165). -/
def Fmt.div (f : Fmt) (rm : Rounding) (a b : FVal) : Nat × Flags :=
  let n := a.neg != b.neg
  match a, b with
  | .nan _, _ => f.deliverInv rm (.nan false, a.isSig || b.isSig)
  | _, .nan _ => f.deliverInv rm (.nan false, a.isSig || b.isSig)
  | .inf _, .inf _ => f.deliverInv rm (.nan false, true)
  | .inf _, _ => f.deliver rm (.inf n)
  | _, .inf _ => f.deliver rm (.fin n 0 0)
  | .fin _ m e, .fin _ k d =>
    if k = 0 then
      if m = 0 then f.deliverInv rm (.nan false, true)
      else ((f.deliver rm (.inf n)).1, (f.deliver rm (.inf n)).2 ||| fDZ)
    else if m = 0 then f.deliver rm (.fin n 0 0)
    else
      let x := 64 + bitLen k
      f.round rm false n (m * 2 ^ x / k) (e - d - x) (decide (m * 2 ^ x % k ≠ 0))

/-- a < b for numbers and infinities. -/
def fvLt (a b : FVal) : Bool :=
  match a, b with
  | .nan _, _ => false
  | _, .nan _ => false
  | .inf n, .inf k => n && !k
  | .inf n, _ => n
  | _, .inf n => !n
  | _, _ => let e := min a.expo b.expo; decide (a.units e < b.units e)

/-- a = b for numbers and infinities; −0 and +0 are equal (R167). -/
def fvEq (a b : FVal) : Bool :=
  match a, b with
  | .nan _, _ => false
  | _, .nan _ => false
  | .inf n, .inf k => n == k
  | .inf _, _ => false
  | _, .inf _ => false
  | _, _ => let e := min a.expo b.expo; decide (a.units e = b.units e)

/-- Whether `a` is the smaller of two numbers, −0 below +0 (R166). -/
def fvBelow (a b : FVal) : Bool :=
  fvLt a b || (fvEq a b && a.neg && !b.neg)

/-! ### Roots and special functions (R170, R171) -/

/-- The integer square root of `n` by its bits, `fuel` of them from bit `fuel - 1` down. -/
def isqrtGo : Nat → Nat → Nat → Nat
  | 0, _, r => r
  | k + 1, n, r =>
    let r' := r + 2 ^ k
    if r' * r' ≤ n then isqrtGo k n r' else isqrtGo k n r

/-- The integer square root. -/
def isqrt (n : Nat) : Nat := isqrtGo (bitLen n / 2 + 1) n 0

/-- √a. -/
def Fmt.sqrt (f : Fmt) (a : FVal) : Nat × Flags :=
  match a with
  | .nan s => f.deliverInv .rne (.nan false, s)
  | .inf n => if n then f.deliverInv .rne (.nan false, true) else f.deliver .rne (.inf false)
  | .fin n m e =>
    if m = 0 then f.deliver .rne (.fin n 0 0)
    else if n then f.deliverInv .rne (.nan false, true)
    else
      let x := 128 + (e % 2).toNat
      let v := m * 2 ^ x
      f.round .rne false false (isqrt v) ((e - x) / 2) (decide (isqrt v * isqrt v ≠ v))

/-- 1 ÷ √a. -/
def Fmt.rsqrt (f : Fmt) (a : FVal) : Nat × Flags :=
  match a with
  | .nan s => f.deliverInv .rne (.nan false, s)
  | .inf n => if n then f.deliverInv .rne (.nan false, true) else f.deliver .rne (.fin false 0 0)
  | .fin n m e =>
    if m = 0 then ((f.deliver .rne (.inf n)).1, (f.deliver .rne (.inf n)).2 ||| fDZ)
    else if n then f.deliverInv .rne (.nan false, true)
    else
      -- 1 / (m 2^e) = (2^x / m) 2^(-e-x), with x + e even
      let x := 256 + (e % 2).toNat
      let r := isqrt (2 ^ x / m)
      f.round .rne false false r ((-e - x) / 2) (decide (r * r * m ≠ 2 ^ x))

/-- Fraction bits of the fixed-point arithmetic of the special functions (log 10). -/
def fixBits : Nat := 320

/-- The sum of the terms 2^320 / (k × 2^k) for k from `n` down to 1: ln 2 in fixed point. -/
def ln2Sum : Nat → Nat
  | 0 => 0
  | k + 1 => 2 ^ fixBits / ((k + 1) * 2 ^ (k + 1)) + ln2Sum k

/-- ln 2 in fixed point. -/
def ln2Fix : Nat := ln2Sum 330

/-- The sum of z^k / k! from k = `i` on, `n` terms, with the term of k = `i` given; fixed point. -/
def expSum : Nat → Nat → Nat → Nat → Nat
  | 0, _, _, _ => 0
  | n + 1, i, z, term => term + expSum n (i + 1) z (term * z / 2 ^ fixBits / (i + 1))

/-- e^z for a fixed-point z from 0 to ln 2. -/
def expFix (z : Nat) : Nat := expSum 90 0 z (2 ^ fixBits)

/-- The sum of z^(2k+1) / (2k+1), `n` terms from k = `i` on, with the power of k = `i` given; fixed point. -/
def atanhSum : Nat → Nat → Nat → Nat → Nat
  | 0, _, _, _ => 0
  | n + 1, i, z2, p => p / (2 * i + 1) + atanhSum n (i + 1) z2 (p * z2 / 2 ^ fixBits)

/-- ln of a fixed-point number from 1 to 2. -/
def lnFix (m : Nat) : Nat :=
  let z := (m - 2 ^ fixBits) * 2 ^ fixBits / (m + 2 ^ fixBits)
  2 * atanhSum 110 0 (z * z / 2 ^ fixBits) z

/-- Round a fixed-point magnitude times 2^n, which is not exact. -/
def Fmt.roundFix (f : Fmt) (neg : Bool) (v : Nat) (n : Int) : Nat × Flags :=
  f.round .rne false neg v (n - fixBits) true

/-- 2^a (R171). -/
def Fmt.exp2 (f : Fmt) (a : FVal) : Nat × Flags :=
  match a with
  | .nan s => f.deliverInv .rne (.nan false, s)
  | .inf n => if n then f.deliver .rne (.fin false 0 0) else f.deliver .rne (.inf false)
  | .fin n m e =>
    if m = 0 then f.deliver .rne (.fin false 1 0)
    else if 9 < bitLen m + e then
      if n then f.round .rne false false 1 (-4096) true else f.round .rne false false 1 4096 true
    else
      let x := FVal.units (.fin n m e) (-(fixBits : Int))
      if e ≤ -(fixBits : Int) then f.roundFix false (2 ^ fixBits) 0
      else
        let w := x / 2 ^ fixBits
        let fr := (x % 2 ^ fixBits).toNat
        if fr = 0 then f.round .rne false false 1 w false
        else f.roundFix false (expFix (fr * ln2Fix / 2 ^ fixBits)) w

/-- log2 a (R171). -/
def Fmt.log2 (f : Fmt) (a : FVal) : Nat × Flags :=
  match a with
  | .nan s => f.deliverInv .rne (.nan false, s)
  | .inf n => if n then f.deliverInv .rne (.nan false, true) else f.deliver .rne (.inf false)
  | .fin n m e =>
    if m = 0 then ((f.deliver .rne (.inf true)).1, (f.deliver .rne (.inf true)).2 ||| fDZ)
    else if n then f.deliverInv .rne (.nan false, true)
    else
      let w : Int := e + bitLen m - 1
      if m = 2 ^ (bitLen m - 1) then f.round .rne false (decide (w < 0)) w.natAbs 0 false
      else
        let fr := lnFix (m * 2 ^ fixBits / 2 ^ (bitLen m - 1)) * 2 ^ fixBits / ln2Fix
        let v : Int := w * 2 ^ fixBits + fr
        f.roundFix (decide (v < 0)) v.natAbs 0

/-- tanh a (R171). -/
def Fmt.tanh (f : Fmt) (a : FVal) : Nat × Flags :=
  match a with
  | .nan s => f.deliverInv .rne (.nan false, s)
  | .inf n => f.deliver .rne (.fin n 1 0)
  | .fin n m e =>
    if m = 0 then f.deliver .rne (.fin n 0 0)
    else if bitLen m + e < -40 then f.round .rne false n (m * 2 ^ 64 - 1) (e - 64) true
    else if 6 < bitLen m + e then f.round .rne false n (2 ^ 64 - 1) (-64) true
    else
      -- e^(2a) = 2^w × e^r with 2a = w ln 2 + r
      let z := (FVal.units (.fin false (2 * m) e) (-(fixBits : Int))).toNat
      let w := z / ln2Fix
      let p := expFix (z % ln2Fix) * 2 ^ w
      f.roundFix n ((p - 2 ^ fixBits) * 2 ^ fixBits / (p + 2 ^ fixBits)) 0

/-! ### The codebook (R39 to R41) -/

/-- The vectors of eight coordinates 1, 3 or 5 (doubled, m7 first) with `n` coordinates left whose squares sum to `s`,
in lexicographic order. -/
def cbVectors : Nat → Nat → List (List Nat)
  | 0, s => if s = 0 then [[]] else []
  | n + 1, s =>
    [1, 3, 5].flatMap fun c => if c * c ≤ s then (cbVectors n (s - c * c)).map (c :: ·) else []

/-- The base table: the first 512 vectors by rising squared norm; doubled squared norms times two are 8, 16, … -/
def cbTable : List (List Nat) := ([8, 16, 24, 32, 40, 48, 56].flatMap fun s => cbVectors 8 s).take 512

/-- Twice coordinate `j` of row `k`. -/
def cbBase (k j : Nat) : Nat := ((cbTable.getD k []).getD (7 - j) 1)

/-- The exclusive OR of the low `n` bits of `v`. -/
def parityOf : Nat → Nat → Bool
  | 0, _ => false
  | n + 1, v => (bitOf v n) != parityOf n v

/-- DecodeCb of coordinate `j` of an index under scale code `sc` (R41). -/
def decodeCb (idx sc j : Nat) : FVal :=
  if sc = 255 then .nan false
  else .fin (if j < 7 then bitOf idx j else parityOf 7 idx) (cbBase (idx / 128) j) ((sc : Int) - 128)

/-- The value of an e8m0 code (R37). -/
def e8m0Val (c : Nat) : FVal := if c = 255 then .nan false else .fin false 1 ((c : Int) - 127)

/-- A value times the scale of an e8m0 code (R38). -/
def scaleBy (v : FVal) (c : Nat) : FVal :=
  if c = 255 then .nan false
  else
    match v with
    | .fin n m e => .fin n m (e + c - 127)
    | v => v

/-- The value of element `i` whose code is `c`, for float, e8m0 and cb8x2 types (cb8x2 under scale code 127). -/
def valueOf (t : ElemType) (i c : Nat) : FVal :=
  match t with
  | .e8m0 => e8m0Val c
  | .cb8x2 => decodeCb c 127 (i % 8)
  | _ => (fmtOf t).decode c

/-! ### Conversions (R45 to R47) -/

/-- An exact value rounded to an integer: the magnitude in units and its sign. -/
def roundToInt (rm : Rounding) (n : Bool) (m : Nat) (e : Int) : Int :=
  let k := (roundShift rm n m false (-e)).1
  if n then -(k : Int) else k

/-- A float converted to an integer type (R47). -/
def floatToInt (rm : Rounding) (signed : Bool) (bits : Nat) (v : FVal) : Nat × Flags :=
  match v with
  | .nan _ => (0, fNV)
  | .inf n => (codeOf bits (if n then intLo signed bits else intHi signed bits), fNV)
  | .fin n m e =>
    let k := roundToInt rm n m e
    if k < intLo signed bits then (codeOf bits (intLo signed bits), fNV)
    else if intHi signed bits < k then (codeOf bits (intHi signed bits), fNV)
    else (codeOf bits k, flagIf (roundShift rm n m false (-e)).2 fNX)

/-- A value converted to e8m0 (R46). -/
def toE8m0 (rm : Rounding) (sat : Bool) (v : FVal) : Nat × Flags :=
  match v with
  | .nan s => (255, flagIf s fNV)
  | .inf _ => (if sat then 254 else 255, fNV)
  | .fin n m e =>
    let low : Int := e + bitLen m - 1
    if m = 0 || n || decide (low < -127) then (0, fUF ||| fNX)
    else
      let exact := decide (m = 2 ^ (bitLen m - 1))
      -- compare m with 1.5 × 2^(len - 1)
      let up := match rm with
        | .rup => !exact
        | .rne => decide (3 * 2 ^ (bitLen m - 1) < 2 * m) ||
            (decide (3 * 2 ^ (bitLen m - 1) = 2 * m) && decide ((low + 127) % 2 ≠ 0))
        | _ => false
      let k : Int := if up then low + 1 else low
      if 127 < k then (if sat then 254 else 255, fOF)
      else ((k + 127).toNat, flagIf (!exact) fNX)

/-- A value converted to a float type under the saturate bit (R45, R46). -/
def toFloat (f : Fmt) (rm : Rounding) (sat : Bool) (v : FVal) : Nat × Flags :=
  match v with
  | .nan s => (f.nanResult.1, f.nanResult.2 ||| flagIf s fNV)
  | .inf n =>
    if sat then (f.largest n, fNV)
    else (f.infinity n, flagIf (f.sp != .ieee) fNV)
  | .fin n m e => f.round rm sat n m e false

/-- vcvt of one element (R172): `i` is its index, which a cb8x2 source needs. -/
def convert (rm : Rounding) (sat : Bool) (src dst : ElemType) (i c : Nat) : Nat × Flags :=
  if isInt src then
    let v := intOf (isSigned src) (elemBits src) c
    if isInt dst then
      let lo := intLo (isSigned dst) (elemBits dst)
      let hi := intHi (isSigned dst) (elemBits dst)
      (codeOf (elemBits dst) (max lo (min hi v)), flagIf (decide (v < lo) || decide (hi < v)) fIOV)
    else if dst = .e8m0 then toE8m0 rm sat (.fin (decide (v < 0)) v.natAbs 0)
    else toFloat (fmtOf dst) rm sat (.fin (decide (v < 0)) v.natAbs 0)
  else if src = dst then
    if (valueOf src i c).isSig then ((fmtOf src).nan, fNV) else (c, 0#9)
  else
    let v := valueOf src i c
    if isInt dst then floatToInt rm (isSigned dst) (elemBits dst) v
    else if dst = .e8m0 then toE8m0 rm sat v
    else toFloat (fmtOf dst) rm sat v

end Sys2Proof.Machine
end

