-- ==== Sys2Proof/Machine/Memory.lean ====
section
/-! DEFINITION. Addresses and memory: the three stages of translation (18_partitions R370 to R374), the rights, the
directory's view of a byte, poison and ECC marks (01_machine R24, 14_weir R312), stash windows (09_vmem R214 to R217),
format windows (14_weir R314), buffered stores (01_machine R23), and the accesses that instructions make. -/

namespace Sys2Proof.Machine

/-! ### Kinds of access and rights -/

/-- What an access does; `locate` asks where an address leads and nothing else. -/
inductive Acc where
  | load | store | amo | fetch | locate
  deriving DecidableEq, Repr

/-- TRAPVAL2 of a scalar access (05_control R99, 12_sync R266). -/
def Acc.val2 : Acc → Word
  | .load => 0#64
  | .store => 1#64
  | .amo => 2#64
  | .fetch => 0#64
  | .locate => 0#64

/-- Whether rights R, W, X as given allow an access; an atomic needs R and W (R373). -/
def Acc.allowed (k : Acc) (r w x : Bool) : Bool :=
  match k with
  | .load => r
  | .store => w
  | .amo => r && w
  | .fetch => x
  | .locate => true

/-- Whether an access writes. -/
def Acc.writes : Acc → Bool
  | .store | .amo => true
  | _ => false

/-- Why a translation fails: the cause, whether a right was missing at stage 2 (bit 8 of R373), the stage-2 input
address, the stage-2 leaf entries through which the walk had read its tables, and every table entry read. -/
structure TErr where
  cause : Cause
  bit8  : Bool := false
  addr  : Nat := 0
  reads : List Nat := []
  seen  : List Nat := []
  deriving DecidableEq, Repr

/-- The trap of a failed translation, with the values of the access; a walk that meets poison has the line of the access
(log 68). -/
def TErr.trap (e : TErr) (val val2 : Word) : Trap :=
  { cause := e.cause, val := if e.cause = .poison then val &&& ~~~0xFF#64 else val, val2 := if e.bit8 then val2 ||| 0x100#64 else val2,
    addr := BitVec.ofNat 64 e.addr, reads := e.reads, seen := e.seen }

/-- The failure of what follows a walk that read entries `seen` through the stage-2 leaf entries `reads`. -/
def TErr.after (e : TErr) (reads seen : List Nat) : TErr := { e with reads := reads ++ e.reads, seen := seen ++ e.seen }

/-! ### Rights on granules (R365, R366, R373) -/

/-- Whether a grant covers item `i` of class `c`. -/
def Grant.covers (g : Grant) (c i : Nat) : Bool := decide (g.cls = c) && decide (g.first ≤ i) && decide (i < g.first + g.count)

/-- The rights that a holder has on an item (R366, R368): the owner and a holder that has granted the item on keep
delegate only; otherwise the rights of the grants and delegations made to it. -/
def State.rightsOn (s : State) (h : Holder) (c i : Nat) : BitVec 3 :=
  let given := (s.grants.filter fun g => g.holder = h && g.covers c i).foldl (fun r g => r ||| g.rights) 0#3
  let own := if h = .owner then 0b111#3 else given
  if s.grants.any fun g => g.giver = h && g.held && g.covers c i then own &&& 0b100#3 else own

/-- Whether a holder has the use right on an item. -/
def State.hasUse (s : State) (h : Holder) (c i : Nat) : Bool := (s.rightsOn h c i).getLsbD 0

/-- Whether a holder has the manage right on an item. -/
def State.hasManage (s : State) (h : Holder) (c i : Nat) : Bool := (s.rightsOn h c i).getLsbD 1

/-- A partition's use of an item: its own right, or that of a subpartition to which it granted the item (the check of
R373 at the partition looks at what the owner gave it). -/
def State.partUse (s : State) (p c i : Nat) : Bool :=
  ((s.grants.filter fun g => g.holder = .part p && g.covers c i).foldl (fun r g => r ||| g.rights) 0#3).getLsbD 0

/-- Node of a device-physical address (15_collectives R315). -/
def nodeOf (pa : Nat) : Nat := pa / 2 ^ 40

/-- Whether an address lies on this node. -/
def State.isLocal (s : State) (pa : Nat) : Bool := decide (nodeOf pa = s.o.onode.toNat)

/-- Granule of an address (R365). -/
def granuleOf (pa : Nat) : Nat := pa % 2 ^ 40 / 2 ^ 31

/-! ### Clearing memory -/

/-- Zero a range of memory and clear its poison and marks (R24, R369, R382). -/
def State.zeroRange (s : State) (lo hi : Nat) : State :=
  { s with mem := cellsClear s.mem lo hi,
           poison := s.poison.filter fun m => decide (m.idx * 256 < lo) || decide (hi ≤ m.idx * 256),
           ecc := s.ecc.filter fun m => decide (m.idx * 32 < lo) || decide (hi ≤ m.idx * 32) }

/-! ### Translation (R370 to R374) -/

/-- A stage-3 entry's fields: valid, rights, first granule, granules, target offset, target node (R374). -/
def stage3Match (w0 w1 : Word) (p : Nat) (k : Acc) : Option Nat :=
  let a := w0.toNat
  let first := bitsOf a 16 8
  let count := bitsOf a 25 17
  let g := p / 2 ^ 31
  if bitOf a 0 && decide (first ≤ g) && decide (g < first + count) &&
      k.allowed (bitOf a 1) (bitOf a 2) (bitOf a 3) then
    some (bitsOf w1.toNat 49 40 * 2 ^ 40 + bitsOf w1.toNat 39 0 + (p - first * 2 ^ 31))
  else none

/-- Stage 3 of partition `part`, with the granule checks of R373: `sub` is the subpartition at U and S. -/
def State.stage3 (s : State) (part : Nat) (sub : Option Nat) (p : Nat) (k : Acc) (s2 : Nat) : Except TErr Nat :=
  match (s.partition part).stage3.findSome? fun e => stage3Match e.2.1 e.2.2 p k with
  | none => .error { cause := .range3 }
  | some pa =>
    if s.isLocal pa then
      if !s.partUse part 1 (granuleOf pa) then .error { cause := .range3 }
      else
        match sub with
        | some n =>
          if s.hasUse (.sub n) 1 (granuleOf pa) then .ok pa
          else .error { cause := .page2, bit8 := true, addr := s2 }
        | none => .ok pa
    else .ok pa

/-! ### Format windows (14_weir R313, R314) -/

/-- Field of a format-window descriptor. -/
def FormatWindow.word (w : FormatWindow) (off : Nat) : Nat := field w.desc off 8

/-- The live window whose alias range holds a partition-physical address. -/
def State.aliasOf (s : State) (part pp : Nat) : Option FormatWindow :=
  s.windows.find? fun w => w.part = part && field w.desc 32 1 != 0 && decide (w.word 0 ≤ pp) && decide (pp < w.word 0 + w.word 24)

/-- The type of the raw elements of FMT. -/
def fmtRaw : Nat → ElemType
  | 1 => .cb8x2
  | 2 => .e2m1
  | 3 => .e2m3
  | 4 => .e3m2
  | 5 => .e4m3
  | _ => .e5m2

/-- The window whose alias range holds the partition-physical address of an access of the agent with the turn; an access at
level O is device-physical and meets none. -/
def State.aliasFor (s : State) (part pp : Nat) : Option FormatWindow := if s.level = .o then none else s.aliasOf part pp

/-- A line of an alias range as the last-level cache holds it. -/
def State.cachedAlias (s : State) (part line : Nat) : Option (List Byte) :=
  (s.aliasLines.find? fun l => l.1 = part && l.2.1 = line).map fun l => l.2.2

/-- Bytes at a partition-physical address as the decoding of an alias range reads them: in the alias range of another live
window that window's elements, from the last-level cache (R314: the DRAM under it is not used); as fwset does, it asks
stage 3 for no right (R313, log 42), and what stage 3 does not map is zero. None where a byte holds poison (R24, R312). -/
def State.partBytes (s : State) (part pp n : Nat) : Option (List Byte) :=
  (List.range n).mapM fun i =>
    match s.aliasOf part (pp + i) with
    | some _ => (s.cachedAlias part ((pp + i) / 256)).map fun bs => bs.getD ((pp + i) % 256) 0#8
    | none =>
      match s.stage3 part none (pp + i) .locate 0 with
      | .ok pa => if s.consumes pa then none else some (s.coherent pa)
      | .error _ => some 0#8

/-- The code of raw element `j` of a region whose elements of type `t` start at partition-physical address `raw`. -/
def State.rawElem (s : State) (part raw : Nat) (t : ElemType) (j : Nat) : Option Nat := do
  let b := bytesFor t (j / granule t * granule t)
  let bs ← s.partBytes part (raw + b) (bytesFor t (granule t))
  pure (elemOf t bs (j % granule t))

/-- A byte read through an alias range (R314): the element decoded with its scale and rounded to OUT under RNE; none
where the raw element or its scale holds poison. -/
def State.aliasByte (s : State) (w : FormatWindow) (pp : Nat) : Option Byte := do
  let out : ElemType := if field w.desc 33 1 = 19 then .bf16 else .e4m3
  let size := elemBits out / 8
  let j := (pp - w.word 0) / size
  let t := fmtRaw (field w.desc 32 1)
  let sc ← s.partBytes w.part (w.word 16 + j / 32) 1
  let c ← s.rawElem w.part (w.word 8) t j
  let v := scaleBy (valueOf t j c) (ofBytes sc)
  let code := (toFloat (fmtOf out) .rne false v).1
  pure ((bytesOf size code).getD ((pp - w.word 0) % size) 0#8)

/-- The partition-physical addresses that the decoding of a line of an alias range reads: of its raw elements, and of their
scales. -/
def FormatWindow.needs (w : FormatWindow) (line : Nat) : List Nat :=
  let size := if field w.desc 33 1 = 19 then 2 else 1
  let t := fmtRaw (field w.desc 32 1)
  let j := (line * 256 - w.word 0) / size
  let n := 256 / size
  let b := bytesFor t (j / granule t * granule t)
  ((List.range (bytesFor t (n + 2 * granule t))).map fun i => w.word 8 + b + i) ++
    (List.range (n / 32 + 1)).map fun i => w.word 16 + j / 32 + i

/-- The lines of other alias ranges that the decoding of a line reads. -/
def State.innerLines (s : State) (w : FormatWindow) (line : Nat) : List (FormatWindow × Nat) :=
  ((w.needs line).filterMap fun p => (s.aliasOf w.part p).map fun v => (v, p / 256)).eraseDups

/-- The last-level cache decodes a line of an alias range that it does not hold, after the lines of other alias ranges that
it needs (R314); a line with a poisoned raw byte or scale it does not hold. At most 16 windows lie one behind another
(log 105). -/
def State.aliasFill : Nat → State → FormatWindow → Nat → State
  | 0, s, _, _ => s
  | n + 1, s, w, line =>
    if (s.cachedAlias w.part line).isSome then s
    else
      let s1 := (s.innerLines w line).foldl (fun s v => State.aliasFill n s v.1 v.2) s
      match (List.range 256).mapM fun i => s1.aliasByte w (line * 256 + i) with
      | some bs => { s1 with aliasLines := s1.aliasLines ++ [(w.part, line, bs)] }
      | none => s1

/-- A line of an alias range: as it stands in the last-level cache, else decoded; none where a raw byte or a scale of it
holds poison. -/
def State.aliasLine (s : State) (w : FormatWindow) (line : Nat) : Option (List Byte) :=
  (s.aliasFill 16 w line).cachedAlias w.part line

/-- The device-physical addresses that the directory serves when a line of an alias range is decoded; none for a line that
the last-level cache holds. -/
def State.aliasSeen : Nat → State → FormatWindow → Nat → List Nat
  | 0, _, _, _ => []
  | n + 1, s, w, line =>
    if (s.cachedAlias w.part line).isSome then []
    else
      (s.innerLines w line).flatMap (fun v => State.aliasSeen n s v.1 v.2) ++
        ((w.needs line).filter fun p => (s.aliasOf w.part p).isNone).filterMap fun p => (s.stage3 w.part none p .locate 0).toOption

/-- Bytes read through an alias range, within one line: a line is decoded once and then cached (R314). The directory
serves the reads of its raw elements and scales (09_vmem R216). -/
def State.aliasRead (s : State) (w : FormatWindow) (pp n : Nat) : Option (List Byte × State) :=
  (s.aliasLine w (pp / 256)).map fun bs =>
    ((bs.drop (pp % 256)).take n, (s.aliasFill 16 w (pp / 256)).lookAll (s.aliasSeen 16 w (pp / 256)))

/-- What a read of bytes within one line has the directory serve: the line, or what the decoding of an alias reads. -/
def State.readSeen (s : State) (part pp pa : Nat) : List Nat :=
  match s.aliasOf part pp with
  | some w => s.aliasSeen 16 w (pp / 256)
  | none => [pa]

/-- `n` bytes within one line as a read by their addresses gets them: through an alias range decoded, else as the
directory gives them; none where they hold poison. -/
def State.readAt (s : State) (part pp pa n : Nat) : Option (List Byte) :=
  match s.aliasOf part pp with
  | some w => (s.aliasLine w (pp / 256)).map fun bs => (bs.drop (pp % 256)).take n
  | none => if (List.range n).any fun i => s.consumes (pa + i) then none else some (s.coherentBytes pa n)

/-! ### The walk (R370 to R373) -/

/-- The frame field of an entry or register, as an address. -/
def frameOf (e : Nat) : Nat := bitsOf e 54 16 * 65536

/-- The effective class of an ORD field (13_ordering R282). -/
def ordOf (e : Nat) : Ord :=
  match bitsOf e 7 6 with
  | 0 => .rc
  | 1 => .strong
  | _ => .unordered

/-- The stronger of two classes (R282). -/
def Ord.stronger : Ord → Ord → Ord
  | .strong, _ => .strong
  | _, .strong => .strong
  | .rc, _ => .rc
  | _, .rc => .rc
  | .unordered, .unordered => .unordered

/-- What a read of a table entry gives: its value, its device-physical address, the leaf entries of the stage below
through which it was read, what the directory has served, and for a stage-1 table its address, with whether its stage-2
page is one of 512 MiB. -/
structure TableRead where
  val   : Nat
  pa    : Nat
  reads : List Nat
  seen  : List Nat
  tabs  : List (Nat × Bool) := []
  deriving DecidableEq, Repr

/-- What a walk gives: the output address, the leaf entry and its address, the leaf entries of the stage below through
which the tables were read, every table entry read, the stage-1 tables read, and whether the page is one of 512 MiB. -/
structure Walked where
  out   : Nat
  pte   : Nat
  leaf  : Nat
  reads : List Nat
  seen  : List Nat
  tabs  : List (Nat × Bool)
  big   : Bool
  deriving DecidableEq, Repr

/-- The walk of R372 over the levels listed: `rd` reads a page-table entry; `rs`, `sn` and `tb` are gathered on the way. -/
def walkGo (rd : Nat → Except TErr TableRead) (bad : TErr) (a : Nat) :
    List Nat → Nat → List Nat → List Nat → List (Nat × Bool) → Except TErr Walked
  | [], _, rs, sn, _ => .error (bad.after rs sn)
  | lvl :: rest, node, rs, sn, tb =>
    match rd (node + 8 * bitsOf a (54 - 13 * lvl) (42 - 13 * lvl)) with
    | .error e => .error (e.after rs sn)
    | .ok r =>
      let pte := r.val
      let rs' := rs ++ r.reads
      let sn' := sn ++ r.seen
      let tb' := tb ++ r.tabs
      if !bitOf pte 0 || bitsOf pte 15 12 != 0 then .error (bad.after rs' sn')
      else if bitOf pte 1 then
        if lvl = 0 || (decide (lvl = 1) && bitsOf pte 28 16 != 0) || bitsOf pte 7 6 = 3 then .error (bad.after rs' sn')
        else
          .ok { out := if lvl = 1 then bitsOf pte 54 29 * 2 ^ 29 + a % 2 ^ 29 else bitsOf pte 54 16 * 2 ^ 16 + a % 2 ^ 16,
                pte := pte, leaf := r.pa, reads := rs', seen := sn', tabs := tb', big := decide (lvl = 1) }
      else walkGo rd bad a rest (frameOf pte) rs' sn' tb'

/-! ### The TLBs (R370, R375, 13_ordering R291; log 7) -/

/-- The entry that holds the translation of an address. -/
def State.tlbEntry (s : State) (part sub : Nat) (asid : Option Nat) (a : Nat) : Option TlbEntry :=
  s.tlb.find? fun e => e.part = part && e.sub = sub && e.asid = asid && e.page = a / 65536

/-- The rights of a leaf entry. -/
def leafAllows (pte : Nat) (k : Acc) : Bool := k.allowed (bitOf pte 2) (bitOf pte 3) (bitOf pte 4)

/-- What an entry gives for an access: the rights of its leaf entries are tested, and stage 3 with the granules, which the
TLBs do not hold. The D bits are set before the first store. -/
def State.viaTlb (s : State) (e : TlbEntry) (handler : Bool) (a : Nat) (k : Acc) : Except TErr Xlat :=
  let mid := e.mid + a % 65536
  if e.asid.isSome && (!leafAllows e.pte1 k || !(bitOf e.pte1 5 || handler)) then .error { cause := .access }
  else if !leafAllows e.pte2 k then .error { cause := .page2, bit8 := true, addr := mid }
  else
    match s.stage3 e.part (some e.sub) (e.out + a % 65536) k mid with
    | .error x => .error x
    | .ok pa =>
      .ok { pa := pa, pp := e.out + a % 65536, ord := e.ord, enc := e.enc, marks := if k.writes && !e.dset then e.marks else [],
            entry := some { e with dset := e.dset || k.writes } }

/-- The TLBs hold a translation from its use on. -/
def State.tlbFill (s : State) (x : Xlat) : State :=
  match x.entry with
  | none => s
  | some e =>
    if e ∈ s.tlb then s
    else { s with tlb := e :: s.tlb.filter fun f => !(f.part = e.part && f.sub = e.sub && f.asid = e.asid && f.page = e.page) }

/-- The TLBs drop the entries that `p` selects. -/
def State.tlbDrop (s : State) (p : TlbEntry → Bool) : State := { s with tlb := s.tlb.filter fun e => !p e }

/-- Stage 2 of a subpartition, then stage 3, for a subpartition-physical address (R371 to R373). An entry that holds
poison is consumed (R24). -/
def State.stage2 (s : State) (part sub a : Nat) (k : Acc) : Except TErr Xlat :=
  let bad : TErr := { cause := .page2, addr := a }
  let root := ((s.sub? sub).map (·.ps2root.toNat)).getD 0
  match s.tlbEntry part sub none a with
  | some e => s.viaTlb e false a k
  | none =>
    if !bitOf root 0 || decide (2 ^ 55 ≤ a) then .error bad
    else
      let rd : Nat → Except TErr TableRead := fun p =>
        match s.stage3 part (some sub) p .load a with
        | .error e => .error e
        | .ok pa =>
          match s.readAt part p pa 8 with
          | some bs => .ok { val := ofBytes bs, pa := pa, reads := [], seen := s.readSeen part p pa }
          | none => .error { cause := .poison }
      match walkGo rd bad a [0, 1, 2] (frameOf root) [] [] [] with
      | .error e => .error e
      | .ok r =>
        if !leafAllows r.pte k then .error ({ bad with bit8 := true }.after r.reads r.seen)
        else
          match s.stage3 part (some sub) r.out k a with
          | .error e => .error (e.after r.reads r.seen)
          | .ok pa =>
            .ok { pa := pa, pp := r.out, ord := ordOf r.pte, enc := bitOf r.pte 9, marks := [r.leaf], reads := r.reads, seen := r.seen,
                  entry := some { part := part, sub := sub, asid := none, page := a / 65536, mid := a / 65536 * 65536,
                                  out := r.out / 65536 * 65536, pte1 := 0, pte2 := r.pte, ord := ordOf r.pte, enc := bitOf r.pte 9,
                                  marks := [r.leaf], dset := k.writes, big2 := r.big } }

/-- The three stages for a virtual address of ASID `asid` (R370 to R373); `handler` is handler mode. -/
def State.stage1 (s : State) (part sub asid : Nat) (handler : Bool) (a : Nat) (k : Acc) : Except TErr Xlat :=
  let bad : TErr := { cause := .page1 }
  let tab := ((s.sub? sub).map (·.ps1tab.toNat)).getD 0
  let rd : Nat → Except TErr TableRead := fun p =>
    match s.stage2 part sub p .load with
    | .error e => .error e
    | .ok x =>
      match s.readAt part x.pp x.pa 8 with
      | some bs =>
        .ok { val := ofBytes bs, pa := x.pa, reads := x.reads ++ x.marks, seen := x.seen ++ s.readSeen part x.pp x.pa,
              tabs := [(p, x.entry.any (·.big2))] }
      | none => .error ({ cause := .poison : TErr }.after (x.reads ++ x.marks) x.seen)
  if !bitOf tab 0 || decide (2 ^ 55 ≤ a) || !s.hasUse (.sub sub) 3 asid then .error bad
  else
    match s.tlbEntry part sub (some asid) a with
    | some e => s.viaTlb e handler a k
    | none =>
      match rd (frameOf tab + 8 * asid) with
      | .error e => .error e
      | .ok ent =>
        if !bitOf ent.val 0 then .error (bad.after ent.reads ent.seen)
        else
          match walkGo rd bad a [0, 1, 2] (frameOf ent.val) ent.reads ent.seen ent.tabs with
          | .error e => .error e
          | .ok r =>
            if !leafAllows r.pte k || !(bitOf r.pte 5 || handler) then .error ({ cause := .access : TErr }.after r.reads r.seen)
            else
              match s.stage2 part sub r.out k with
              | .error e => .error (e.after r.reads r.seen)
              | .ok x =>
                let ord := (ordOf r.pte).stronger x.ord
                let enc := bitOf r.pte 9 || x.enc
                .ok { x with ord := ord, enc := enc, marks := r.leaf :: x.marks, reads := r.reads ++ x.reads, seen := r.seen ++ x.seen,
                             entry := x.entry.map fun e =>
                               { e with asid := some asid, page := a / 65536, pte1 := r.pte, ord := ord, enc := enc,
                                        marks := r.leaf :: e.marks, dset := k.writes, big1 := r.big, tabs := r.tabs } }

/-- The pinned translation of an address, where the vector memory instruction under way holds one (09_vmem R205). -/
def Hart.pinned (h : Hart) (a : Nat) (k : Acc) : Option Xlat :=
  match h.flight with
  | some f =>
    let mine := match f.op, k with
      | .load _, .load => true
      | .store _, .store => true
      | _, _ => false
    if mine then (f.pins.find? fun p => p.1 = a / 65536).map fun p => { p.2 with pa := p.2.pa + a % 65536, pp := p.2.pp + a % 65536 }
    else none
  | none => none

/-- Translation of an address that the agent with the turn issues (R364). DESIGN CHOICE: an access issued at level P or O,
which passes no page-table entry and so has no ORD, is release-consistent (13_ordering R282, log 116). -/
def State.translate (s : State) (a : Nat) (k : Acc) : Except TErr Xlat :=
  match s.level with
  | .u =>
    match s.h.pinned a k with
    | some x => .ok x
    | none => s.stage1 s.t.part s.t.sub s.t.asid.toNat s.h.handler a k
  | .s => s.stage2 s.ownPart s.ownSub a k
  | .p =>
    match s.stage3 s.ownPart none a k 0 with
    | .error e => .error e
    | .ok pa => .ok { pa := pa, pp := a, ord := .rc }
  | .o => .ok { pa := a, pp := a, ord := .rc }

/-- What an access through a translation does to the tables (R291): the walkers' reads are served by the directory, the
A bit of every leaf entry is set, and for a store the D bit of those of the access itself; the TLBs hold it. -/
def State.setMarks (s : State) (writes : Bool) (x : Xlat) : State :=
  ((s.walked x.reads x.seen).markEntries (if writes then 0x0C#8 else 0x04#8) x.marks).tlbFill x

/-! ### Buffered stores (R23, 13_ordering R282) -/

/-- Whether two byte ranges meet. -/
def overlaps (a n b m : Nat) : Bool := decide (a < b + m) && decide (b < a + n)

/-- Commit a buffered store. -/
def State.commitEntry (s : State) (e : SbEntry) : State := s.commitCells e.pa e.cells

/-- Commit the buffered stores in a list, in order. -/
def State.commitAll (s : State) : List SbEntry → State
  | [] => s
  | e :: r => (s.commitEntry e).commitAll r

/-- Commit every buffered store of the hart with the turn, in program order. -/
def State.drain (s : State) : State :=
  let s' := s.commitAll s.h.sb
  { s' with h := { s'.h with sb := [] } }

/-- The buffer up to its last release store, and the rest. -/
def splitRelease : List SbEntry → List SbEntry × List SbEntry
  | [] => ([], [])
  | e :: r =>
    let (a, b) := splitRelease r
    if e.rel || !a.isEmpty then (e :: a, b) else ([], e :: r)

/-- An acquire: a release store of the hart, with what stands before it, is visible before the accesses that follow
(13_ordering R286: release and acquire keep their order). -/
def State.acquire (s : State) : State :=
  let p := splitRelease s.h.sb
  let s' := s.commitAll p.1
  { s' with h := { s'.h with sb := p.2 } }

/-- Whether a buffered store may commit before an earlier one of its hart (R282, R283, R286): not a release, not one on
a strongly ordered page before another, not one to the same bytes, and not an element of a vector store before a lower
one to the same bytes (09_vmem R208). -/
def SbEntry.mayPass (e earlier : SbEntry) : Bool :=
  if e.rel && earlier.ord != Ord.unordered then false
  else if e.ord == Ord.strong && earlier.ord == Ord.strong then false
  else !overlaps e.pa e.cells.length earlier.pa earlier.cells.length ||
    ((e.ord == Ord.unordered || earlier.ord == Ord.unordered) && (e.insn = 0 || e.insn != earlier.insn))

/-- The stores that `p` selects with those that must commit before them, and the rest. -/
def selectDrain (p : SbEntry → Bool) : List SbEntry → List SbEntry × List SbEntry
  | [] => ([], [])
  | e :: r =>
    let (a, b) := selectDrain p r
    if p e || a.any (fun x => !x.mayPass e) then (e :: a, b) else (a, e :: b)

/-- Commit the buffered stores of the hart that `p` selects, and before each those that it may not pass. -/
def State.drainWhere (s : State) (p : SbEntry → Bool) : State :=
  let l := selectDrain p s.h.sb
  let s' := s.commitAll l.1
  { s' with h := { s'.h with sb := l.2 } }

/-- Commit the hart's buffered stores to a range of bytes that are ordered by their address (R283). -/
def State.drainBytes (s : State) (pa n : Nat) : State :=
  s.drainWhere fun e => e.ord != .unordered && overlaps e.pa e.cells.length pa n

/-- The byte with the hart's own buffered stores over it (R280: it may read its own store earlier). -/
def forward (pa : Nat) (b : Byte) : List SbEntry → Byte
  | [] => b
  | e :: r =>
    let b' := if decide (e.pa ≤ pa) && decide (pa < e.pa + e.cells.length) then
      let c := e.cells.getD (pa - e.pa) (0#8, 0#8)
      (b &&& ~~~c.2) ||| (c.1 &&& c.2)
      else b
    forward pa b' r

/-! ### Physical accesses of an agent -/

/-- The 256-byte line of an address. -/
def lineOf (a : Nat) : Nat := a / 256 * 256

/-- The poison trap (17_traps R361): TRAPVAL is the line of the address. -/
def poisonTrap (va : Nat) (val2 : Word) : Trap :=
  { cause := .poison, val := BitVec.ofNat 64 (lineOf va), val2 := val2 }

/-- The trap of an instruction that has made an access through `x`: the A bits that the access has set stay
(13_ordering R291). -/
def Trap.via (tr : Trap) (x : Xlat) : Trap := { tr with reads := x.reads ++ x.marks ++ tr.reads, seen := x.seen ++ tr.seen }

/-- The trap of an access that is refused after its translation `x`: the A bits of the entries that the walk read through
stay (13_ordering R291). -/
def Trap.past (tr : Trap) (x : Xlat) : Trap := { tr with reads := x.reads ++ tr.reads, seen := x.seen ++ tr.seen }

/-- What an instruction does after the translation `x`: where it traps, the A bits that the walk has set stay. -/
def afterWalk {α : Type} (x : Xlat) (a : Act α) : Act α := fun s =>
  match a s with
  | .error (.trap tr) => .error (.trap (tr.past x))
  | r => r

/-- Read `n` bytes at a translated address, within one line: alias, poison, recall, own stores. A read that meets poison has
set the A bits of its translation. -/
def physLoad (part : Nat) (x : Xlat) (va n : Nat) (val2 : Word) : Act (List Byte) := fun s =>
  let addrs := (List.range n)
  match s.aliasFor part x.pp with
  | some w =>
    match s.aliasRead w x.pp n with
    | some r => .ok r
    | none => .error (.trap ((poisonTrap va val2).via x))
  | none =>
    if addrs.any fun i => s.consumes (x.pa + i) then .error (.trap ((poisonTrap va val2).via x))
    else
      let s' := s.recall (x.pa / 256) false
      .ok (addrs.map fun i => forward (x.pa + i) (cellGet s'.mem (x.pa + i)) s'.h.sb, s')

/-- Whether the instruction under way is a unit-stride load that another node has sent the line of an address: it sends
one request per 256-byte line (15_collectives R317). -/
def Hart.sent (h : Hart) (va : Nat) : Bool := h.flight.any fun f => f.op = .load .unit && f.line = some (va / 256)

/-- Another node has answered for an address; a unit-stride load then has its line. -/
def Hart.answered (h : Hart) (va : Nat) : Hart :=
  { h with flight := h.flight.map fun f => if f.op = .load .unit then { f with line := some (va / 256) } else f }

/-- Wait one turn for the answer of another node to an access (15_collectives R316 to R318). An instruction that makes
several makes them in rising order of their addresses: those before the one that it waits for have been answered, and so
has the rest of the line that a unit-stride load has been sent. -/
def remoteTurn (pa va : Nat) (val2 : Word) : Act Unit := fun s =>
  if s.isLocal pa || s.h.sent va then .ok ((), s)
  else
    match s.h.wait with
    | some { kind := .remote w v, .. } =>
      if v = val2 && decide (va ≤ w.toNat) then .ok ((), { s with h := s.h.answered va })
      else .error (.wait (.remote (BitVec.ofNat 64 va) val2))
    | some { kind := .waddr _ _ _, .. } | some { kind := .wqpost _, .. } => .ok ((), s)
    | _ => .error (.wait (.remote (BitVec.ofNat 64 va) val2))

/-- The access of an agent to an address that has no memory: only the owner and other nodes can make one. -/
def State.noMemory (s : State) (pa : Nat) : Bool := s.isLocal pa && decide (768 * 2 ^ 30 ≤ pa % 2 ^ 40)

/-! ### The scratch aperture (09_vmem R198) and stash windows (R216) -/

/-- The scratch offset of an address in the task's aperture. -/
def State.scratchOff (s : State) (va : Nat) : Option Nat :=
  if s.who = .user && decide (s.t.aperture ≤ va) && decide (va < s.t.aperture + 2 ^ 23) then
    some (va - s.t.aperture)
  else none

/-- The window that a scratch offset lies in. -/
def Task.windowAt (t : Task) (off : Nat) : Option Window :=
  t.windows.find? fun w => decide (w.off ≤ off) && decide (off < w.off + w.len)

/-- The windows with that of number `n` changed. -/
def Task.mapWindow (t : Task) (n : Nat) (f : Window → Window) : Task :=
  { t with windows := t.windows.map fun w => if w.num = n then f w else w }

/-- A page of a window translated at the user level of its task (R215): its addresses, whether it has W, and the
translation. A page of another node is refused (15_collectives R317). DESIGN CHOICE: a global range that meets the task's
scratch aperture is translated by the page tables as any other (log 96). -/
def State.windowPage (s : State) (va : Nat) : Except TErr (WindowPin × Xlat) :=
  match s.stage1 s.t.part s.t.sub s.t.asid.toNat s.h.handler va .load with
  | .error e => .error e
  | .ok x =>
    let w := match s.stage1 s.t.part s.t.sub s.t.asid.toNat s.h.handler va .store with
      | .ok _ => true
      | .error _ => false
    if s.isLocal x.pa then .ok ({ pa := x.pa - x.pa % 65536, pp := x.pp - x.pp % 65536, w := w, entry := x.entry }, x)
    else .error ({ cause := .access : TErr }.after x.reads x.seen)

/-- The translation of line `l` of a window: pinned, or made again at the touch (R216). -/
def windowLine (w : Window) (l : Nat) (va : Nat) (val2 : Word) : Act (Xlat × Bool) := fun s =>
  let a := w.va.toNat % 65536 + 256 * l
  let at_ := fun (p : WindowPin) => (({ pa := p.pa + a % 65536, pp := p.pp + a % 65536, ord := .rc } : Xlat), p.w)
  match w.pages.getD (a / 65536) none with
  | some p => .ok (at_ p, s)
  | none =>
    match s.windowPage (w.va.toNat + 256 * l) with
    | .error e => .error (.trap (e.trap (BitVec.ofNat 64 va) val2))
    | .ok (p, tr) =>
      let s' := s.setMarks false tr
      .ok (({ (at_ p).1 with marks := tr.marks, reads := tr.reads, seen := tr.seen }, (at_ p).2), { s' with t := s'.t.mapWindow w.num fun w => { w with pages := setAt w.pages (a / 65536) (some p) } })

/-- An access that does not see the hart's buffered stores: they stand again after it. -/
def withoutBuffer {α : Type} (a : Act α) : Act α := fun s =>
  match a { s with h := { s.h with sb := [] } } with
  | .ok (x, s') => .ok (x, { s' with h := { s'.h with sb := s.h.sb } })
  | .error e => .error e

/-- A first touch of a window line fills it from global memory as every agent can read it (R216, 13_ordering R280): the
hart's own buffered stores to it are committed before, but for those to unordered pages, which the fill does not see. The
line's address, and whether its page has W. DESIGN CHOICE: a fill whose global line holds poison consumes it, the fill for
a write too, be it a store's, a matrix operation's or a copy's (log 118). -/
def fillLine (w : Window) (l : Nat) (va : Nat) (val2 : Word) : Act (Xlat × Bool) := do
  let (x, wr) ← windowLine w l va val2
  let s ← get
  if (s.t.windows.find? fun v => v.num = w.num).any fun v => v.lines.any fun x => x.line = l then pure (x, wr)
  else
    modify fun s => s.drainBytes x.pa 256
    let bs ← withoutBuffer (physLoad s.t.part x va 256 val2)
    modify fun s => { s with t := { (s.t.mapWindow w.num fun v => { v with lines := v.lines ++ [{ line := l, dirty := false }] }) with
      scratch := cellsSet s.t.scratch (w.off + 256 * l) bs,
      scrPoison := s.t.scrPoison.filter fun m => m.idx != (w.off + 256 * l) / 256 } }
    pure (x, wr)

/-- A store of the task makes the line dirty: the D bit of its page is set (13_ordering R291), and the copies that other
tasks hold are written back and dropped (R216). -/
def State.dirtyWindow (s : State) (w : Window) (l : Nat) : State :=
  let s1 : State := match s.stage1 s.t.part s.t.sub s.t.asid.toNat s.h.handler (w.va.toNat + 256 * l) .store with
    | .ok x => s.setMarks true x
    | .error _ => s
  let s2 : State := match w.linePa l with
    | some pa =>
      if s1.tasks.any fun t => t.windows.any fun v => v.lines.any fun x => v.linePa x.line = some pa then
        let s2 : State := match s1.tasks.findSome? fun t => t.dirtyLine (pa / 256) with
          | some bs => s1.writeCells pa (whole bs)
          | none => s1
        { s2 with tasks := s2.tasks.map fun (t : Task) => t.settleLine (pa / 256) true }
      else s1
    | none => s1
  { s2 with t := s2.t.mapWindow w.num fun v =>
    { v with lines := v.lines.map fun x => if x.line = l then { x with dirty := true } else x } }

/-- Check a scratch access against the granted bytes (R198) and touch the window line it lies in; a store to an alias range
through a window is refused as any other (14_weir R314). -/
def touchScratch (off n va : Nat) (store : Bool) (val2 : Word) : Act Unit := do
  let s ← get
  requireAct (decide (off + n ≤ s.t.scrb)) { cause := .access, val := BitVec.ofNat 64 va, val2 := val2 }
  match s.t.windowAt off with
  | none => pure ()
  | some w =>
    let (x, wr) ← fillLine w ((off - w.off) / 256) va val2
    if store then
      let s ← get
      requireAct (wr && (s.aliasOf s.t.part (x.pp + (off - w.off) % 256)).isNone) { cause := .access, val := BitVec.ofNat 64 va, val2 := val2 }
      modify fun s =>
        match s.t.windows.find? fun v => v.num = w.num with
        | some v => s.dirtyWindow v ((off - w.off) / 256)
        | none => s

/-- Write bytes with masks into scratch. -/
def scratchCells (m : List Host.Cell) (off : Nat) : List (Byte × Byte) → List Host.Cell
  | [] => m
  | (v, k) :: r => scratchCells (cellSet m off ((cellGet m off &&& ~~~k) ||| (v &&& k))) (off + 1) r

/-- A store into the scratch of the task with the turn; a line that is overwritten whole loses its poison. -/
def State.storeScratch (s : State) (off : Nat) (cells : List (Byte × Byte)) : State :=
  { s with t := { s.t with
    scratch := scratchCells s.t.scratch off cells,
    scrPoison := (List.range cells.length).foldl (fun p i =>
      markWrite 256 ((off + i) / 256) ((off + i) % 256) (cells.getD i (0#8, 0#8)).2 p) s.t.scrPoison } }

/-! ### Accesses of instructions -/

/-- Read `n` bytes at `va`, within one line, for an instruction whose fault values are `va` and `val2`. -/
def loadAt (va n : Nat) (k : Acc) (val2 : Word) : Act (List Byte) := do
  let s ← get
  match s.scratchOff va with
  | some off =>
    touchScratch off n va k.writes val2
    let s ← get
    requireAct (!(s.t.scrPoison.any fun m => decide (m.idx = off / 256))) (poisonTrap va val2)
    pure (cellsGet s.t.scratch off n)
  | none =>
    match s.translate va k with
    | .error e => raiseAct (e.trap (BitVec.ofNat 64 va) val2)
    | .ok x =>
      if s.noMemory x.pa then fun _ => .error (.fault (.noMemory x.pa))
      else do
        remoteTurn x.pa va val2
        modify fun s => s.setMarks k.writes x
        if x.ord = .strong then modify fun s => s.drainWhere fun e => e.ord = .strong
        physLoad s.ownPart x va n val2

/-- The trap of an instruction that has loaded from `va` in state `s`: the A bits stay (13_ordering R291). -/
def State.afterLoad (s : State) (va : Nat) (tr : Trap) : Trap :=
  match s.scratchOff va, s.translate va .load with
  | none, .ok x => tr.via x
  | _, _ => tr

/-- What follows a load from `va` in state `s`: the A bits that it has set stay when the instruction traps. -/
def State.keepMarks {α : Type} (s : State) (va : Nat) (r : Except Stop (α × State)) : Except Stop (α × State) :=
  match r with
  | .error (.trap tr) => .error (.trap (s.afterLoad va tr))
  | r => r

/-- `n` words of `sz` bytes from `va` on, as scalar loads (05_control R99), after the bytes `bs`, and then the rest of the
instruction: the A bits that its loads have set stay when it traps (13_ordering R291). -/
def withWords {α : Type} (sz : Nat) (k : List Byte → Act α) : Nat → Nat → List Byte → Act α
  | 0, _, bs => k bs
  | n + 1, va, bs => fun s =>
    match loadAt (va % 2 ^ 64) sz .load 0#64 s with
    | .error e => .error e
    | .ok (w, s1) => s.keepMarks (va % 2 ^ 64) (withWords sz k n (va + sz) (bs ++ w) s1)

/-- A block of `n` doublewords at `va`, and then the rest of the instruction. -/
def withBlock {α : Type} (va : Word) (n : Nat) (k : List Byte → Act α) : Act α := withWords 8 k n va.toNat []

/-- Store bytes with masks at `va`, within one line (R207, R210): into scratch at once, else into the hart's buffer; a
store to a strongly ordered page follows the hart's earlier ones and commits at once on this node. -/
def storeCellsAt (va : Nat) (cells : List (Byte × Byte)) (val2 : Word) : Act Unit := do
  let s ← get
  match s.scratchOff va with
  | some off =>
    touchScratch off cells.length va true val2
    modify fun s => s.storeScratch off cells
  | none =>
    match s.translate va .store with
    | .error e => raiseAct (e.trap (BitVec.ofNat 64 va) val2)
    | .ok x =>
      if s.noMemory x.pa then fun _ => .error (.fault (.noMemory x.pa))
      else do
        requireAct ((s.aliasFor s.ownPart x.pp).isNone)
          (({ cause := .access, val := BitVec.ofNat 64 va, val2 := val2 } : Trap).past x)
        modify fun s => s.setMarks true x
        if x.ord = .strong then
          modify fun s => s.drainWhere fun e =>
            e.ord = .strong || (e.ord != .unordered && overlaps e.pa e.cells.length x.pa cells.length)
        if x.ord = .strong && s.isLocal x.pa then modify fun s => s.commitCells x.pa cells
        else
          modify fun s => { s with h := { s.h with sb := s.h.sb ++
            [{ pa := x.pa, ord := x.ord, va := BitVec.ofNat 64 va, cells := cells, insn := (s.h.flight.map fun f => f.born + 1).getD 0,
               unit := s.h.flight.any fun f => f.op = .store .unit }] } }

/-- Store whole bytes at `va`, within one line. -/
def storeAt (va : Nat) (bs : List Byte) (val2 : Word) : Act Unit := storeCellsAt va (whole bs) val2

/-- Read-modify-write of `n` bytes at `va` (12_sync R264): the old bytes; `f` gives the new ones, or none for no write.
The hart's earlier stores to the word are committed first, with those that they may not pass. -/
def amoAt (va n : Nat) (f : List Byte → Option (List Byte)) : Act (List Byte) := do
  let s ← get
  match s.scratchOff va with
  | some off =>
    touchScratch off n va true 2#64
    let s ← get
    requireAct (!(s.t.scrPoison.any fun m => decide (m.idx = off / 256))) (poisonTrap va 2#64)
    let old := cellsGet s.t.scratch off n
    match f old with
    | none => pure old
    | some bs =>
      set (s.storeScratch off (whole bs))
      pure old
  | none =>
    match s.translate va .amo with
    | .error e => raiseAct (e.trap (BitVec.ofNat 64 va) 2#64)
    | .ok x =>
      if s.noMemory x.pa then fun _ => .error (.fault (.noMemory x.pa))
      else do
        requireAct ((s.aliasFor s.ownPart x.pp).isNone)
          (({ cause := .access, val := BitVec.ofNat 64 va, val2 := 2#64 } : Trap).past x)
        remoteTurn x.pa va 2#64
        modify fun s => s.setMarks true x
        modify fun s => s.drainWhere fun e => overlaps e.pa e.cells.length x.pa n || (decide (x.ord = .strong) && decide (e.ord = .strong))
        let old ← physLoad s.ownPart x va n 2#64
        match f old with
        | none => pure old
        | some bs =>
          modify fun s => s.commitBytes x.pa bs
          pure old

/-- The effect scope of an address (12_sync R263). -/
inductive Scope where
  | core | device | domain
  deriving DecidableEq, Repr

/-- Write a task's bytes into its address space as the Headgate or an engine does, committed at once; a fault gives
none. -/
def State.taskWrite (s : State) (part sub asid va : Nat) (bs : List Byte) : Option State :=
  match s.stage1 part sub asid false va .store with
  | .error _ => none
  | .ok x =>
    if (s.aliasOf part x.pp).isSome || s.noMemory x.pa then none
    else some ((s.setMarks true x).commitBytes x.pa bs)

/-- What a walk for an access of the Headgate or an engine that fails leaves (13_ordering R291). -/
def State.walkedTo (s : State) (part sub asid va : Nat) (k : Acc) : State :=
  match s.stage1 part sub asid false va k with
  | .error e => s.walked e.reads e.seen
  | .ok x => s.walked x.reads x.seen

/-- Bytes of one line that the Headgate or an engine reads in a task's address space; a fault or poison gives none. -/
def State.taskRead (s : State) (part sub asid va n : Nat) : Option (List Byte) :=
  match s.stage1 part sub asid false va .load with
  | .error _ => none
  | .ok x => s.readAt part x.pp x.pa n

/-- The instruction word at the program counter (03_words R53, 13_ordering R293): pages with X; another node's page
traps 0x07 (15_collectives R317), as does the scratch aperture, which no page maps. -/
def fetchAt (pc : Nat) : Act IWord := do
  let s ← get
  let bad : Trap := { cause := .access, val := BitVec.ofNat 64 pc }
  match s.scratchOff pc with
  | some _ => raiseAct bad
  | none =>
    match s.translate pc .fetch with
    | .error e => raiseAct (e.trap (BitVec.ofNat 64 pc) 0#64)
    | .ok x =>
      requireAct (s.isLocal x.pa) (bad.past x)
      modify fun s => s.setMarks false x
      match s.aliasFor s.ownPart x.pp with
      | some w =>
        let bs ← (fun s =>
          match s.aliasRead w x.pp 4 with
          | some r => .ok r
          | none => .error (.trap ((poisonTrap pc 0#64).via x)) : Act (List Byte))
        pure (BitVec.ofNat 32 (ofBytes bs))
      | none =>
        requireAct (!((List.range 4).any fun i => s.consumes (x.pa + i))) ((poisonTrap pc 0#64).via x)
        modify fun s => s.lookAt (x.pa / 256)
        let s ← get
        pure (BitVec.ofNat 32 (ofBytes (s.coherentBytes x.pa 4)))

end Sys2Proof.Machine
end

