-- ==== Sys2Proof/Machine/Operands.lean ====
section
/-! DEFINITION. The operand forms: immediates, memory operands, windowed names, pairs (03_words R55, R57, R59, R63;
05_control R98). -/

namespace Sys2Proof.Machine

/-- imm11, sign-extended (R55). -/
def immWord (imm : BitVec 11) : Word := imm.signExtend 64

/-- Address of the immediate memory form: base + imm11 × scale (R98). -/
def State.memImm (s : State) (a : Reg) (imm : BitVec 11) (scale : Nat) : Word :=
  s.rx a + immWord imm * BitVec.ofNat 64 scale

/-- Address of the indexed memory form (R98). -/
def State.memIdx (s : State) (a b : Reg) : Word := s.rx a + s.rx b

/-- Target of a format-B branch: its own address + 4 × imm11 (R55). -/
def State.branchTo (s : State) (imm : BitVec 11) : Word := s.h.pc + immWord imm * 4#64

/-- Target of a format-J jump (R55). -/
def State.jumpTo (s : State) (imm : BitVec 25) : Word := s.h.pc + imm.signExtend 64 * 4#64

/-- The absolute name of a vector field (R59): (VWB + f) mod 512. -/
def Hart.name (h : Hart) (f : Reg) : Nat := (h.vwb + f.setWidth 9).toNat

/-- The scalar pair whose first register is `r`: low and high word. -/
def State.rpair (s : State) (r : Reg) : Word × Word := (s.rx r, s.rx (nextReg r))

/-- Write a pair. -/
def State.wpair (s : State) (r : Reg) (lo hi : Word) : State := (s.wx r lo).wx (nextReg r) hi

/-- Whether a 64-bit address is a multiple of `n`. -/
def aligned (a : Word) (n : Nat) : Bool := decide (a.toNat % n = 0)

end Sys2Proof.Machine
end

