-- ==== Sys2Proof/Machine/Flags.lean ====
section
/-! DEFINITION. The status flags of a hart: FFLAGS, the FEX registers and FTRAPEN (03_words R72, R73; 07_vector R157).
What an operation raises is computed with its result in Float.lean and Vector.lean. -/

namespace Sys2Proof.Machine

/-- The flags `f` of an operation that has completed join FFLAGS (10_matrix R236), and once more when a record saved before is
loaded again (17_traps R358). -/
def Hart.joinFlags (h : Hart) (f : Flags) : Hart := { h with fflags := h.fflags ||| f, late := h.late ||| f }

/-- Every FEX register at all ones: a vector instruction that is not a resumption issues (R73). -/
def Hart.clearFex (h : Hart) : Hart := { h with fex := Vector.replicate 9 0xFFFFFFFF#32 }

/-- FEX registers after element `i` raised the flags `f` (R73): each takes the minimum. -/
def fexAfter (fex : Vector (BitVec 32) 9) (f : Flags) (i : Nat) : Vector (BitVec 32) 9 :=
  fex.mapFinIdx fun j v _ => if f.getLsbD j && decide (i < v.toNat) then BitVec.ofNat 32 i else v

/-- The hart after element `i` raised the flags `f`. -/
def Hart.raise (h : Hart) (f : Flags) (i : Nat) : Hart :=
  { h with fflags := h.fflags ||| f, fex := fexAfter h.fex f i }

/-- The flags of `f` whose trap is enabled; ZM has no enable (R72). -/
def Hart.enabled (h : Hart) (f : Flags) : Flags := f &&& h.ftrapen &&& 0x0FF#9

/-- The cause of enabled flags: 0x0E where one of bits 0 to 4 is among them, else 0x0F (R157). -/
def flagCause (f : Flags) : Cause := if f &&& 0x01F#9 != 0#9 then .fpExc else .intExc

end Sys2Proof.Machine
end

