-- ==== Sys2Proof/Machine/Scalar.lean ====
section
/-! DEFINITION. The scalar instructions (05_control R95 to R102): integer arithmetic, loads and stores, branches and
jumps. -/

namespace Sys2Proof.Machine

/-- The outcome type of a meaning. -/
abbrev Out := Host.Outcome State Fault Refusal

/-! ### alu (R95) -/

/-- Shift amount: bits 5 to 0 (R95). -/
def shamt (b : Word) : Nat := b.toNat % 64

/-- Write `f xa xb` to xd and pass the instruction. -/
def bin (f : Word → Word → Word) (d a b : Reg) (s : State) : Out := .next (s.put d (f (s.rx a) (s.rx b)))

/-- Write `f xa (sign-extended imm11)` to xd and pass the instruction. -/
def binI (f : Word → Word → Word) (d a : Reg) (imm : BitVec 11) (s : State) : Out :=
  .next (s.put d (f (s.rx a) (immWord imm)))

/-- Write `f xa` to xd and pass the instruction. -/
def un (f : Word → Word) (d a : Reg) (s : State) : Out := .next (s.put d (f (s.rx a)))

/-- Smaller, signed. -/
def sminW (a b : Word) : Word := if a.slt b then a else b
/-- Larger, signed. -/
def smaxW (a b : Word) : Word := if a.slt b then b else a
/-- Smaller, unsigned. -/
def uminW (a b : Word) : Word := if a.ult b then a else b
/-- Larger, unsigned. -/
def umaxW (a b : Word) : Word := if a.ult b then b else a

/-- add (R95). -/
def execAdd (d a b : Reg) (s : State) : Out := bin (fun x y => x + y) d a b s
/-- sub (R95). -/
def execSub (d a b : Reg) (s : State) : Out := bin (fun x y => x - y) d a b s
/-- and (R95). -/
def execAnd (d a b : Reg) (s : State) : Out := bin (fun x y => x &&& y) d a b s
/-- or (R95). -/
def execOr (d a b : Reg) (s : State) : Out := bin (fun x y => x ||| y) d a b s
/-- xor (R95). -/
def execXor (d a b : Reg) (s : State) : Out := bin (fun x y => x ^^^ y) d a b s
/-- sll (R95). -/
def execSll (d a b : Reg) (s : State) : Out := bin (fun x y => x <<< shamt y) d a b s
/-- srl (R95). -/
def execSrl (d a b : Reg) (s : State) : Out := bin (fun x y => x >>> shamt y) d a b s
/-- sra (R95). -/
def execSra (d a b : Reg) (s : State) : Out := bin (fun x y => x.sshiftRight (shamt y)) d a b s
/-- slt (R95). -/
def execSlt (d a b : Reg) (s : State) : Out := bin (fun x y => boolWord (x.slt y)) d a b s
/-- sltn (R95). -/
def execSltn (d a b : Reg) (s : State) : Out := bin (fun x y => boolWord (x.ult y)) d a b s
/-- min (R95). -/
def execMin (d a b : Reg) (s : State) : Out := bin sminW d a b s
/-- max (R95). -/
def execMax (d a b : Reg) (s : State) : Out := bin smaxW d a b s
/-- minn (R95). -/
def execMinn (d a b : Reg) (s : State) : Out := bin uminW d a b s
/-- maxn (R95). -/
def execMaxn (d a b : Reg) (s : State) : Out := bin umaxW d a b s
/-- andn (R95). -/
def execAndn (d a b : Reg) (s : State) : Out := bin (fun x y => x &&& ~~~y) d a b s
/-- orn (R95). -/
def execOrn (d a b : Reg) (s : State) : Out := bin (fun x y => x ||| ~~~y) d a b s
/-- addi (R95). -/
def execAddi (d a : Reg) (imm : BitVec 11) (s : State) : Out := binI (fun x y => x + y) d a imm s
/-- andi (R95). -/
def execAndi (d a : Reg) (imm : BitVec 11) (s : State) : Out := binI (fun x y => x &&& y) d a imm s
/-- ori (R95). -/
def execOri (d a : Reg) (imm : BitVec 11) (s : State) : Out := binI (fun x y => x ||| y) d a imm s
/-- xori (R95). -/
def execXori (d a : Reg) (imm : BitVec 11) (s : State) : Out := binI (fun x y => x ^^^ y) d a imm s
/-- slti (R95). -/
def execSlti (d a : Reg) (imm : BitVec 11) (s : State) : Out := binI (fun x y => boolWord (x.slt y)) d a imm s
/-- sltni (R95). -/
def execSltni (d a : Reg) (imm : BitVec 11) (s : State) : Out := binI (fun x y => boolWord (x.ult y)) d a imm s
/-- slli (R95). -/
def execSlli (d a : Reg) (imm : BitVec 6) (s : State) : Out := un (fun x => x <<< imm.toNat) d a s
/-- srli (R95). -/
def execSrli (d a : Reg) (imm : BitVec 6) (s : State) : Out := un (fun x => x >>> imm.toNat) d a s
/-- srai (R95). -/
def execSrai (d a : Reg) (imm : BitVec 6) (s : State) : Out := un (fun x => x.sshiftRight imm.toNat) d a s

/-! ### muldiv (R96) -/

/-- Quotient, unsigned; all ones by zero. -/
def udivW (a b : Word) : Word := if b = 0#64 then BitVec.allOnes 64 else a / b
/-- Quotient, signed, towards zero; all ones by zero. -/
def sdivW (a b : Word) : Word := if b = 0#64 then BitVec.allOnes 64 else a.sdiv b
/-- Remainder, unsigned. -/
def uremW (a b : Word) : Word := a - udivW a b * b
/-- Remainder, signed. -/
def sremW (a b : Word) : Word := a - sdivW a b * b

/-- Zero bits below the lowest one bit, of `n` bits; all `n` where no bit is one. -/
def trailing : Nat → Nat → Nat
  | 0, _ => 0
  | n + 1, v => if v % 2 = 1 then 0 else trailing n (v / 2) + 1

/-- One bits of the lowest `n`. -/
def ones : Nat → Nat → Nat
  | 0, _ => 0
  | n + 1, v => v % 2 + ones n (v / 2)

/-- Position of the bit field that xb describes. -/
def fieldPos (b : Word) : Nat := b.toNat % 64
/-- Mask of the width of the bit field that xb describes. -/
def fieldMask (b : Word) : Word := BitVec.ofNat 64 (2 ^ (Nat.min (b.toNat / 64 % 128) 64) - 1)

/-- mul (R96). -/
def execMul (d a b : Reg) (s : State) : Out := bin (fun x y => x * y) d a b s
/-- mulh (R96). -/
def execMulh (d a b : Reg) (s : State) : Out := bin (fun x y => BitVec.ofInt 64 (x.toInt * y.toInt / 2 ^ 64)) d a b s
/-- mulhn (R96). -/
def execMulhn (d a b : Reg) (s : State) : Out := bin (fun x y => BitVec.ofNat 64 (x.toNat * y.toNat / 2 ^ 64)) d a b s
/-- div (R96). -/
def execDiv (d a b : Reg) (s : State) : Out := bin sdivW d a b s
/-- divn (R96). -/
def execDivn (d a b : Reg) (s : State) : Out := bin udivW d a b s
/-- rem (R96). -/
def execRem (d a b : Reg) (s : State) : Out := bin sremW d a b s
/-- remn (R96). -/
def execRemn (d a b : Reg) (s : State) : Out := bin uremW d a b s
/-- clz (R96). -/
def execClz (d a : Reg) (s : State) : Out := un (fun x => BitVec.ofNat 64 (64 - bitLen x.toNat)) d a s
/-- ctz (R96). -/
def execCtz (d a : Reg) (s : State) : Out := un (fun x => BitVec.ofNat 64 (trailing 64 x.toNat)) d a s
/-- popc (R96). -/
def execPopc (d a : Reg) (s : State) : Out := un (fun x => BitVec.ofNat 64 (ones 64 x.toNat)) d a s
/-- bext (R96). -/
def execBext (d a b : Reg) (s : State) : Out := bin (fun x y => (x >>> fieldPos y) &&& fieldMask y) d a b s
/-- bins (R96): xd is read and written. -/
def execBins (d a b : Reg) (s : State) : Out :=
  bin (fun x y => (s.rx d &&& ~~~(fieldMask y <<< fieldPos y)) ||| ((x &&& fieldMask y) <<< fieldPos y)) d a b s

/-! ### constants (R97) -/

/-- lhi (R97). -/
def execLhi (d : Reg) (imm : BitVec 18) (s : State) : Out := .next (s.put d (imm.signExtend 64))
/-- lsh (R97). -/
def execLsh (d : Reg) (imm : BitVec 18) (s : State) : Out := .next (s.put d ((s.rx d <<< 18) ||| imm.setWidth 64))

/-! ### Scalar loads and stores (R98, R99) -/

/-- The low `8 × n` bits of a value, sign-extended. -/
def signed (n : Nat) (bs : List Byte) : Word := BitVec.ofInt 64 (intOf true (8 * n) (ofBytes bs))
/-- The value of bytes, zero-extended. -/
def unsigned (bs : List Byte) : Word := BitVec.ofNat 64 (ofBytes bs)

/-- A scalar load of `n` bytes at `addr` into xd. -/
def load (n : Nat) (ext : List Byte → Word) (d : Reg) (addr : Word) (s : State) : Out :=
  finish (do
    requireAct (aligned addr n) { cause := .misaligned, val := addr, val2 := 0#64 }
    let bs ← loadAt addr.toNat n .load 0#64
    modify fun s => s.put d (ext bs)) s

/-- A scalar store of the low `n` bytes of xd at `addr`. -/
def store (n : Nat) (d : Reg) (addr : Word) (s : State) : Out :=
  finish (do
    requireAct (aligned addr n) { cause := .misaligned, val := addr, val2 := 1#64 }
    let s ← get
    storeAt addr.toNat (bytesOf n (s.rx d).toNat) 1#64
    modify fun s => s.advance) s

/-- ldd (R98). -/
def execLdd (d a : Reg) (imm : BitVec 11) (s : State) : Out := load 8 unsigned d (s.memImm a imm 8) s
/-- ldw (R98). -/
def execLdw (d a : Reg) (imm : BitVec 11) (s : State) : Out := load 4 (signed 4) d (s.memImm a imm 4) s
/-- ldwn (R98). -/
def execLdwn (d a : Reg) (imm : BitVec 11) (s : State) : Out := load 4 unsigned d (s.memImm a imm 4) s
/-- ldbn (R98). -/
def execLdbn (d a : Reg) (imm : BitVec 11) (s : State) : Out := load 1 unsigned d (s.memImm a imm 1) s
/-- std (R98). -/
def execStd (d a : Reg) (imm : BitVec 11) (s : State) : Out := store 8 d (s.memImm a imm 8) s
/-- stw (R98). -/
def execStw (d a : Reg) (imm : BitVec 11) (s : State) : Out := store 4 d (s.memImm a imm 4) s
/-- stb (R98). -/
def execStb (d a : Reg) (imm : BitVec 11) (s : State) : Out := store 1 d (s.memImm a imm 1) s
/-- ldd, indexed (R98). -/
def execLddX (d a b : Reg) (s : State) : Out := load 8 unsigned d (s.memIdx a b) s
/-- ldw, indexed (R98). -/
def execLdwX (d a b : Reg) (s : State) : Out := load 4 (signed 4) d (s.memIdx a b) s
/-- ldwn, indexed (R98). -/
def execLdwnX (d a b : Reg) (s : State) : Out := load 4 unsigned d (s.memIdx a b) s
/-- ldh (R98). -/
def execLdh (d a b : Reg) (s : State) : Out := load 2 (signed 2) d (s.memIdx a b) s
/-- ldhn (R98). -/
def execLdhn (d a b : Reg) (s : State) : Out := load 2 unsigned d (s.memIdx a b) s
/-- ldb (R98). -/
def execLdb (d a b : Reg) (s : State) : Out := load 1 (signed 1) d (s.memIdx a b) s
/-- ldbn, indexed (R98). -/
def execLdbnX (d a b : Reg) (s : State) : Out := load 1 unsigned d (s.memIdx a b) s
/-- std, indexed (R98). -/
def execStdX (d a b : Reg) (s : State) : Out := store 8 d (s.memIdx a b) s
/-- stw, indexed (R98). -/
def execStwX (d a b : Reg) (s : State) : Out := store 4 d (s.memIdx a b) s
/-- sth (R98). -/
def execSth (d a b : Reg) (s : State) : Out := store 2 d (s.memIdx a b) s
/-- stb, indexed (R98). -/
def execStbX (d a b : Reg) (s : State) : Out := store 1 d (s.memIdx a b) s

/-! ### Branches and jumps (R100 to R102) -/

/-- A conditional branch. -/
def branch (c : Bool) (imm : BitVec 11) (s : State) : Out :=
  .next (if c then s.setPc (s.branchTo imm) else s.advance)

/-- beq (R100). -/
def execBeq (d a : Reg) (imm : BitVec 11) (s : State) : Out := branch (s.rx d == s.rx a) imm s
/-- bne (R100). -/
def execBne (d a : Reg) (imm : BitVec 11) (s : State) : Out := branch (s.rx d != s.rx a) imm s
/-- blt (R100). -/
def execBlt (d a : Reg) (imm : BitVec 11) (s : State) : Out := branch ((s.rx d).slt (s.rx a)) imm s
/-- bge (R100). -/
def execBge (d a : Reg) (imm : BitVec 11) (s : State) : Out := branch (!(s.rx d).slt (s.rx a)) imm s
/-- bltn (R100). -/
def execBltn (d a : Reg) (imm : BitVec 11) (s : State) : Out := branch ((s.rx d).ult (s.rx a)) imm s
/-- bgen, the branch (R100). -/
def execBgen (d a : Reg) (imm : BitVec 11) (s : State) : Out := branch (!(s.rx d).ult (s.rx a)) imm s
/-- bsub (R101): xd is written whether or not it branches, and the branch looks at xd as written; x0 stays zero, so
`bsub x0` does not branch (DEDUCED from the order of the pseudocode, log 17). -/
def execBsub (d a : Reg) (imm : BitVec 11) (s : State) : Out :=
  let s' := s.wx d (s.rx d - s.rx a)
  branch ((0#64).slt (s'.rx d)) imm s'

/-- A jump through a register, with xd written first where it has one (R53, R102). -/
def jumpReg (target : Word) (link : Option Reg) (s : State) : Out :=
  if aligned target 4 then
    .next (match link with
      | some d => (s.wx d (s.h.pc + 4#64)).setPc target
      | none => s.setPc target)
  else .next (takeTrap { cause := .misaligned, val := target } false s)

/-- jmp (R102). -/
def execJmp (imm : BitVec 25) (s : State) : Out := .next (s.setPc (s.jumpTo imm))
/-- call (R102). -/
def execCall (imm : BitVec 25) (s : State) : Out := .next ((s.wx 1#7 (s.h.pc + 4#64)).setPc (s.jumpTo imm))
/-- jr (R102). -/
def execJr (a : Reg) (s : State) : Out := jumpReg (s.rx a) none s
/-- jalr (R102). -/
def execJalr (d a : Reg) (s : State) : Out := jumpReg (s.rx a) (some d) s
/-- ret (R102). -/
def execRet (s : State) : Out := jumpReg (s.rx 1#7) none s

end Sys2Proof.Machine
end

