-- ==== Sys2Proof/Machine/Bolt.lean ====
section
/-! DEFINITION. Swatches, chains and names (06_chains R115 to R126): allocation, references, versions and their
retirement, the vector context of a core (17_traps R359), and reading the bytes of a chain. -/

namespace Sys2Proof.Machine

/-! ### Chains as lists of segments (R120 to R122, R130) -/

/-- The swatches that a version names, its map last: one reference for each (R123). -/
def Entry.swatches (e : Entry) : List Nat := e.segs.map (·.swatch) ++ e.map.toList

/-- The swatches that a capture of a version holds: one reference for each segment, and none for the map swatch (R123; log
103 for R146). -/
def Entry.held (e : Entry) : List Nat := e.segs.map (·.swatch)

/-- Bytes of a chain. -/
def chainLen (l : List Seg) : Nat := (l.map (·.count)).sum

/-- A chain is packed (R121): every segment starts its swatch and fills it, but for the last. -/
def packedSegs : List Seg → Bool
  | [] => true
  | [g] => decide (g.first = 0)
  | g :: r => decide (g.first = 0) && decide (g.count = 256) && packedSegs r

/-- Coalesce of R130, on a list whose elements carry the name they come from. -/
def coalesce : List (Seg × Nat) → List (Seg × Nat)
  | [] => []
  | (g, k) :: r =>
    match coalesce r with
    | (g', k') :: r' =>
      if g'.swatch = g.swatch ∧ g'.first = g.first + g.count then ({ g with count := g.count + g'.count }, k) :: r'
      else (g, k) :: (g', k') :: r'
    | [] => [(g, k)]

/-- The descriptors of bytes `b0` to `b1 - 1`, before they are coalesced. -/
def cutGo (b0 b1 : Nat) : List Seg → Nat → List Seg
  | [], _ => []
  | g :: r, pos =>
    let lo := Nat.max b0 pos
    let hi := Nat.min b1 (pos + g.count)
    if lo < hi then { g with first := g.first + lo - pos, count := hi - lo } :: cutGo b0 b1 r (pos + g.count)
    else cutGo b0 b1 r (pos + g.count)

/-- Cut of R130; the descriptors carry the name they come from. -/
def cut (k : Nat) (l : List Seg) (b0 b1 : Nat) : List (Seg × Nat) := coalesce ((cutGo b0 b1 l 0).map fun g => (g, k))

/-- A byte position of R122, and its byte offset. -/
def bytePos (t : ElemType) (p : Nat) : Bool := decide (p % granule t = 0)

/-- A descriptor's 32 bits (R120). -/
def descOf (g : Seg) : Nat := g.swatch + g.first * 2 ^ 15 + (g.count - 1) * 2 ^ 23

/-- The segment of a descriptor. -/
def segOf (d : Nat) : Seg := { swatch := bitsOf d 14 0, first := bitsOf d 22 15, count := bitsOf d 30 23 + 1 }

/-- The 256 bytes of a map swatch (R120). -/
def mapBytes (l : List Seg) : List Byte := overlay (List.replicate 256 0#8) 0 (l.flatMap fun g => bytesOf 4 (descOf g))

/-! ### Swatches (R115 to R117) -/

/-- Swatch `i` of the cluster, where it is allocated. -/
def Cluster.swatch? (c : Cluster) (i : Nat) : Option Swatch := c.bolt.find? fun w => w.idx = i

/-- References to a swatch. -/
def State.refs (s : State) (i : Nat) : Nat := ((s.cl.swatch? i).map (·.refs)).getD 0

/-- The cluster with one swatch changed. -/
def Cluster.mapSwatch (c : Cluster) (i : Nat) (f : Swatch → Swatch) : Cluster :=
  { c with bolt := c.bolt.map fun w => if w.idx = i then f w else w }

/-- Swatches charged to a task (R117). -/
def State.poolUse (s : State) (uid : Nat) : Nat :=
  (s.allClusters.map fun c => (c.bolt.filter fun w => w.charge = some uid && decide (0 < w.refs)).length).sum

/-- The pool account of a subpartition: swatches that tasks which have retired left referenced (R117). No
register or instruction that reads it is named (log 78). -/
def State.poolAccount (s : State) (sub : Nat) : Nat :=
  (s.allClusters.map fun c => (c.bolt.filter fun w => w.charge.isNone && w.owner.toNat = sub && decide (0 < w.refs)).length).sum

/-- Swatches on the free list. -/
def Cluster.freeCount (c : Cluster) : Nat := (c.free.map (·.2)).sum

/-- The head of a free list, and the rest (R115). -/
def popFree : List (Nat × Nat) → Option (Nat × List (Nat × Nat))
  | [] => none
  | (_, 0) :: r => popFree r
  | (i, n + 1) :: r => some (i, if n = 0 then r else (i + 1, n) :: r)

/-- A swatch at the tail of the free list (R115). -/
def pushFree : List (Nat × Nat) → Nat → List (Nat × Nat)
  | [], i => [(i, 1)]
  | [(j, n)], i => if j + n = i then [(j, n + 1)] else [(j, n), (i, 1)]
  | x :: r, i => x :: pushFree r i

/-- Why an allocation fails (R129, R134): TRAPVAL2 0 for the quota, 1 for the bolt. -/
inductive NoRoom where
  | quota | bolt
  deriving DecidableEq, Repr

/-- Take a swatch, with one held reference, for task `uid`, which has quota `quota` (none: beyond any quota). -/
def State.alloc (s : State) (uid sub : Nat) (quota : Option Nat) (data : List Byte) : Except NoRoom (Nat × State) :=
  if quota.any fun q => decide (q ≤ s.poolUse uid) then .error .quota
  else
    match popFree s.cl.free with
    | none => .error .bolt
    | some (i, r) =>
      .ok (i, { s with cl := { s.cl with
        free := r,
        bolt := s.cl.bolt ++ [{ idx := i, data := data, refs := 1, poison := false, owner := BitVec.ofNat 6 sub, charge := some uid }] } })

/-- The trap of a failed allocation for element `k`; the bolt form never goes to the user handler (R134). -/
def NoRoom.trap (r : NoRoom) (k : Nat) : Trap :=
  match r with
  | .quota => { cause := .pool, val := BitVec.ofNat 64 k }
  | .bolt => { cause := .pool, val := BitVec.ofNat 64 k, val2 := 1#64, bound := some .s }

/-- TIME since which a hart waits for a swatch: in a stream, or at the issue of an mread (R134, 10_matrix R233). -/
def Hart.boltSince (h : Hart) : Option Nat :=
  match h.flight with
  | some f => f.boltSince
  | none =>
    match h.wait with
    | some { kind := .bolt, since := t } => some t
    | _ => none

/-- The requests for a swatch that other harts of the cluster made before one of TIME `mine` (R115, R134: the list is
served in request order). -/
def State.boltAhead (s : State) (mine : Option Nat) : Nat :=
  let others := s.t.harts ++ (s.tasks.filter fun t => t.home = s.cl.num).flatMap (·.harts)
  (others.filter fun h => h.boltSince.any fun t => decide (t < mine.getD s.time)).length

/-- Whether another hart of the cluster has waited for a swatch for longer. -/
def State.boltBefore (s : State) (mine : Option Nat) : Bool := decide (0 < s.boltAhead mine)

/-- Take a swatch for the task with the turn, in request order: those of earlier requests are not its own (R115). -/
def State.allocTurn (s : State) (since : Option Nat) (data : List Byte) : Except NoRoom (Nat × State) :=
  match s.alloc s.t.uid s.t.sub (some s.t.poolq.toNat) data with
  | .error r => .error r
  | .ok r => if s.cl.freeCount ≤ s.boltAhead since then .error .bolt else .ok r

/-- An allocation of a form that does not stream (R129, check 8). -/
def allocAct (data : List Byte) : Act Nat := fun s =>
  match s.allocTurn none data with
  | .ok r => .ok r
  | .error r => .error (.trap (r.trap 0))

/-- What a hart shows: its names, and the versions to which a squash of what it has issued would return them. -/
def Hart.shows (h : Hart) : List (Nat × Entry) :=
  h.names ++ (h.flight.toList ++ h.stopped.toList).flatMap fun f => f.dests.map fun d => (d.1, d.2.2)

/-- The mreads of a task that have not retired, of each hart in its order of issue (10_matrix R236). -/
def Task.reads (t : Task) : List MOp := t.matrix.done ++ t.matrix.queue.filter fun m => m.dest.isSome

/-- What a task shows but for the hart with the turn: at once, when its names are loaded again, once a barrier publishes it,
should an mread be undone, or until the instruction that supersedes it has retired. -/
def Task.shows (t : Task) : List (Nat × Entry) :=
  t.harts.flatMap Hart.shows ++ t.pubs.flatMap (·.2.2) ++ t.savedNames ++ t.savedViews.flatMap (·.2) ++
    (t.reads.map fun m => (m.name, m.old)) ++ t.drops.map fun d => (d.name, d.old)

/-- What the task with the turn shows. -/
def State.shows (s : State) : List (Nat × Entry) := s.h.shows ++ s.t.shows

/-- Whether a task of the cluster shows the swatch (log 15). -/
def State.shown (s : State) (i : Nat) : Bool :=
  (s.shows ++ (s.tasks.filter fun t => t.home = s.cl.num).flatMap Task.shows).any fun e => decide (i ∈ e.2.swatches)

/-- A swatch with no reference goes to the tail of the free list, once no hart can read it (R115, log 15). -/
def State.settle (s : State) (i : Nat) : State :=
  if s.refs i = 0 && (s.cl.swatch? i).isSome && !s.shown i then
    { s with cl := { s.cl with bolt := s.cl.bolt.filter fun w => w.idx != i, free := pushFree s.cl.free i } }
  else s

/-- Release one reference (R123). -/
def State.release (s : State) (i : Nat) : State :=
  ({ s with cl := s.cl.mapSwatch i fun w => { w with refs := w.refs - 1 } }).settle i

/-- Release a list of references, in order. -/
def State.releaseAll (s : State) : List Nat → State
  | [] => s
  | i :: r => (s.release i).releaseAll r

/-- Free what no view shows any more of versions that have gone (log 15). -/
def State.settleAll (s : State) (l : List (Nat × Entry)) : State := (l.flatMap fun p => p.2.swatches).foldl State.settle s

/-- Hold a list of references, as captures do. DESIGN CHOICE: with no test of the limit of 255, which the rules make for
chain instructions only (log 89). -/
def State.holdAll (s : State) : List Nat → State
  | [] => s
  | i :: r => ({ s with cl := s.cl.mapSwatch i fun w => { w with refs := w.refs + 1 } }).holdAll r

/-- Hold one more reference; a 256th traps 0x0B (R129, check 7) with the swatch and the name of the source. -/
def holdAct (i name : Nat) : Act Unit := fun s =>
  if 255 ≤ s.refs i then .error (.trap { cause := .refLimit, val := BitVec.ofNat 64 i, val2 := BitVec.ofNat 64 name })
  else .ok ((), { s with cl := s.cl.mapSwatch i fun w => { w with refs := w.refs + 1 } })

/-- Hold the references of a list of segments. -/
def holdSegs : List (Seg × Nat) → Act Unit
  | [] => pure ()
  | (g, k) :: r => do holdAct g.swatch k; holdSegs r

/-! ### Names (R118, R119) -/

/-- The entry of name `k` in a table. -/
def entryIn (l : List (Nat × Entry)) (k : Nat) : Entry := ((l.find? fun p => p.1 = k).map (·.2)).getD {}

/-- The table with `e` as entry `k`, in rising order of names. -/
def setEntry : List (Nat × Entry) → Nat → Entry → List (Nat × Entry)
  | [], k, e => [(k, e)]
  | (j, f) :: r, k, e => if k = j then (k, e) :: r else if k < j then (k, e) :: (j, f) :: r else (j, f) :: setEntry r k e

/-- VERSION (R119). -/
def Entry.version (e : Entry) : BitVec 16 := BitVec.ofNat 16 (e.counts.map (·.2)).sum

/-- One more version of the name that hart `h` has retired. -/
def addCount (h : Nat) : List (Nat × Nat) → List (Nat × Nat)
  | [] => [(h, 1)]
  | (j, n) :: r => if j = h then (j, n + 1) :: r else (j, n) :: addCount h r

/-- What either of two views has seen retire. -/
def joinCounts (a : List (Nat × Nat)) : List (Nat × Nat) → List (Nat × Nat)
  | [] => a
  | (h, n) :: r =>
    joinCounts (if a.any fun x => x.1 = h then a.map fun x => if x.1 = h then (h, Nat.max x.2 n) else x else a ++ [(h, n)]) r

/-- Whether `a` retires before `b` (05_control R108): what has not retired will do so later than all that has. -/
def Entry.before (a b : Entry) : Bool :=
  if a.behind.isEmpty = b.behind.isEmpty then decide (a.stamp < b.stamp) else a.behind.isEmpty

/-- What an entry that has not retired retires behind once it meets another: what either waits for. -/
def joinBehind (a b : List Nat) : List Nat := if a.isEmpty then [] else a ++ b.filter fun i => !(i ∈ a)

/-- The later of two versions of a name, the one retired last (R108); VERSION counts what both views have seen (R119). Of two
that have not retired the one issued later remains and retires behind the other (DEDUCED, log 15). -/
def laterEntry (a b : Entry) : Entry :=
  let (w, l) := if a.before b then (b, a) else (a, b)
  { w with counts := joinCounts a.counts b.counts, behind := joinBehind w.behind l.behind }

/-- The union of two views: of each name the version retired later. -/
def mergeTables (a : List (Nat × Entry)) : List (Nat × Entry) → List (Nat × Entry)
  | [] => a
  | (k, e) :: r =>
    mergeTables (match a.find? fun p => p.1 = k with
      | some (_, x) => setEntry a k (laterEntry x e)
      | none => setEntry a k e) r

/-- The entry of absolute name `k` that the hart with the turn sees. -/
def State.entry (s : State) (k : Nat) : Entry := entryIn s.h.names k

/-- The state with entry `k` as the hart with the turn sees it. -/
def State.setName (s : State) (k : Nat) (e : Entry) : State :=
  { s with h := { s.h with names := setEntry s.h.names k e } }

/-- A fresh number for versions and retirements of the task. -/
def State.fresh (s : State) : Nat × State := (s.t.nextStamp, { s with t := { s.t with nextStamp := s.t.nextStamp + 1 } })

/-- Whether the version `id` is one that a Flume command fills: the instruction has retired, and the engine holds the
version as a capture (R146, 11_flume R251). -/
def State.flumeFills (s : State) (id : Nat) : Bool :=
  s.t.flume.toList.any fun x => x.cmds.any fun m => m.dest.any fun e => e.id = id

/-- The version that an mread fills. -/
def MOp.version (m : MOp) : Nat := (m.dest.map (·.id)).getD 0

/-- The versions that the mreads of a hart which have not retired will leave (10_matrix R236). -/
def State.readsOf (s : State) (h : BitVec 3) : List Nat := (s.t.reads.filter fun m => m.hart = h).map MOp.version

/-- The versions that instructions issued by the hart with the turn build. -/
def Hart.builds (h : Hart) : List Nat := (h.flight.toList ++ h.stopped.toList).flatMap fun f => f.dests.map fun d => d.2.1.id

/-- Whether an instruction that has not retired builds the version `id`: a vector instruction or an mread. -/
def State.builds (s : State) (id : Nat) : Bool :=
  (s.h :: s.t.harts).any (fun h => decide (id ∈ h.builds)) || s.t.reads.any fun m => m.version = id

/-- What retires before an instruction of the hart that supersedes or moves the version `e`: what `e` waits for, and the hart's
own mreads (R124, R126). -/
def State.ahead (s : State) (e : Entry) : List Nat := e.behind ++ (s.readsOf s.h.id).filter fun i => !(i ∈ e.behind)

/-- What an instruction of the hart that supersedes the version `e` waits for: all that retires before it but for the stopped
instruction whose handler this is. -/
def State.awaited (s : State) (e : Entry) : List Nat := (s.ahead e).filter fun i => !(i ∈ s.h.builds)

/-- The version `old` of name `k` has been superseded there. It gives up its references (R124), once: one that has given
them up already only lets its swatches be freed (R108, log 15), one that cmovv has made another name's keeps them (R139),
and one whose producer has not retired is released by it (R132). -/
def State.dropVersion (s : State) (k : Nat) (old : Entry) : State :=
  if (s.t.moved.find? fun m => m.1 = old.id).any fun m => m.2 != k then s
  else if old.id ∈ s.t.gone then s.settleAll [(k, old)]
  else if s.builds old.id then { s with t := { s.t with gone := old.id :: s.t.gone } }
  else if old.swatches.isEmpty then s
  else
    let s' := if s.shows.any fun e => e.2.id = old.id then { s with t := { s.t with gone := old.id :: s.t.gone } } else s
    s'.releaseAll old.swatches

/-- The version `id` has given up no references after all. -/
def State.keepVersion (s : State) (id : Nat) : State := { s with t := { s.t with gone := s.t.gone.filter fun i => i != id } }

/-- The version `old` of name `k` is superseded by an instruction that retires behind the versions `await`: it gives up its
references then (R124, R132). One whose own producer has not retired is released by that. -/
def State.dropLater (s : State) (await : List Nat) (k : Nat) (old : Entry) : State :=
  if await.isEmpty || old.swatches.isEmpty || s.builds old.id then s.dropVersion k old
  else { s with t := { s.t with drops := s.t.drops ++ [{ await := await, name := k, old := old }] } }

/-- The version `id` retires or is taken back: what has been superseded by instructions that retired behind nothing else gives
up its references, in program order (R124). -/
def State.dropDue (s : State) (id : Nat) : State :=
  let l := s.t.drops.map fun d => { d with await := d.await.filter fun i => i != id }
  (l.filter fun d => d.await.isEmpty).foldl (fun s d => s.dropVersion d.name d.old)
    { s with t := { s.t with drops := l.filter fun d => !d.await.isEmpty } }

/-- Retirement of a new version `e` of name `k`, which holds its references already (R124): the old version gives up
its references, VERSION adds 1 and DIRTY is set. A cmovv, which does not wait, retires behind what is ahead of it. -/
def State.retireName (s : State) (k : Nat) (e : Entry) : State :=
  let old := s.entry k
  let (n, s1) := s.fresh
  (s1.setName k { e with counts := addCount s.h.id.toNat old.counts, dirty := true, behind := s.ahead e, stamp := n }).dropLater
    (s.awaited e) k old

/-- A version with a number of its own. -/
def State.withId (s : State) (e : Entry) : Entry × State := let (n, s') := s.fresh; ({ e with id := n, behind := [] }, s')

/-- A complete version with these segments: its map, where it needs one, and its number; the references of the segments
are held already (R120, R130). -/
def buildAct (tag : ElemType) (len : Nat) (segs : List Seg) : Act Entry := do
  let m ← (if 4 < segs.length then (do let i ← allocAct (mapBytes segs); pure (some i)) else pure none : Act (Option Nat))
  fun s =>
    let (e, s') := s.withId { state := .live, tag := tag, segs := segs, map := m, len := len, prog := len }
    .ok (e, s')

/-- Whether a new version of name `k` cannot retire yet: the producer of the version that it supersedes has not retired, or
an earlier mread of the hart has not (R124, R126). -/
def State.unretired (s : State) (k : Nat) : Bool := !(s.awaited (s.entry k)).isEmpty

/-- Wait until the producer of a pending destination has retired (R126), and the hart's earlier mreads (R124). -/
def producerRetired (k : Nat) : Act Unit := do
  let s ← get
  if s.unretired k then waitAct .other else pure ()

/-- Wait until the hart's earlier mreads have retired, as what takes its effect at retirement does (R124, 17_traps R351). -/
def readsRetired : Act Unit := do
  let s ← get
  if (s.readsOf s.h.id).isEmpty then pure () else waitAct .other

/-- Retire a new version of name `k`, once the producer of the version that it supersedes has retired (R126). -/
def retireAct (k : Nat) (e : Entry) : Act Unit := do
  producerRetired k
  modify fun s => s.retireName k e

/-- The name becomes empty (R132, R139, R144): its old version is no longer there. It does not wait, and retires behind what
that version waits for, its own producer among them. VERSION and DIRTY as R124 step 4 (DEDUCED, log 18). -/
def State.emptyName (s : State) (k : Nat) : State :=
  let old := s.entry k
  let (n, s1) := s.fresh
  s1.setName k { counts := addCount s.h.id.toNat old.counts, dirty := true, behind := s.ahead old, stamp := n }

/-! ### Versions under way: what fills them, and who sees them (R125, R126) -/

/-- The versions that a vector instruction has captured. -/
def Flight.captured (f : Flight) : List Entry :=
  f.va.toList ++ f.vb.toList ++ f.mask.toList ++ f.vd.toList ++ f.datas

/-- The swatches that the captures hold (R123). -/
def Flight.holds (f : Flight) : List Nat := f.captured.flatMap Entry.held

/-- An operand's chain. -/
def MSrc.entry? : MSrc → Option Entry
  | .chain e => some e
  | .scratch _ _ => none

/-- The versions that a queued matrix instruction has captured (10_matrix R225). -/
def MOp.captured (m : MOp) : List Entry :=
  (m.a.bind MSrc.entry?).toList ++ (m.b.bind MSrc.entry?).toList ++ m.ascale.toList ++ m.bscale.toList

/-- The swatches that a queued instruction holds. -/
def MOp.holds (m : MOp) : List Nat := m.captured.flatMap Entry.held

/-- The captures changed. -/
def MOp.mapCaptured (m : MOp) (up : Entry → Entry) : MOp :=
  let src := fun (x : MSrc) => match x with | .chain e => .chain (up e) | .scratch a b => .scratch a b
  { m with a := m.a.map src, b := m.b.map src, ascale := m.ascale.map up, bscale := m.bscale.map up }

/-- Every version that an instruction of the task has captured. -/
def State.captures (s : State) : List Entry :=
  s.taskHarts.flatMap (fun h => (h.flight.toList ++ h.stopped.toList).flatMap Flight.captured) ++
    s.t.matrix.queue.flatMap MOp.captured

/-- Change what the task shows: the tables of its harts, those that barriers have published and those that stand in a save area
(17_traps R358) by `tab`, and the versions to which a squash returns a name `k`, or that are still to be released, by `f k`. -/
def State.mapTables (s : State) (tab : List (Nat × Entry) → List (Nat × Entry)) (f : Nat → Entry → Entry) : State :=
  let op := fun (m : MOp) => { m with old := f m.name m.old }
  let fl := fun (x : Flight) => { x with dests := x.dests.map fun d => (d.1, d.2.1, f d.1 d.2.2) }
  let s1 := s.mapHarts fun h => { h with names := tab h.names, flight := h.flight.map fl, stopped := h.stopped.map fl }
  { s1 with t := { s1.t with pubs := s1.t.pubs.map (fun p => (p.1, p.2.1, tab p.2.2)), savedNames := tab s1.t.savedNames,
                             savedViews := s1.t.savedViews.map (fun v => (v.1, tab v.2)),
                             drops := s1.t.drops.map (fun d => { d with old := f d.name d.old }),
                             matrix := { s1.t.matrix with queue := s1.t.matrix.queue.map op, done := s1.t.matrix.done.map op } } }

/-- Change every entry that the task shows, under name `k`. -/
def State.mapShows (s : State) (f : Nat → Entry → Entry) : State := s.mapTables (fun l => l.map fun p => (p.1, f p.1 p.2)) f

/-- The captures changed. -/
def Flight.mapCaptured (f : Flight) (up : Entry → Entry) : Flight :=
  { f with va := f.va.map up, vb := f.vb.map up, mask := f.mask.map up, vd := f.vd.map up, datas := f.datas.map up }

/-- Change the version `id` wherever the task shows it or has captured it. A capture holds the segments that the version gains
(R123). -/
def State.updateVersion (s : State) (id : Nat) (f : Entry → Entry) : State :=
  let up := fun (e : Entry) => if e.id = id then f e else e
  let s0 := s.holdAll ((s.captures.filter fun e => e.id = id).flatMap fun e => (f e).held.drop e.segs.length)
  let s1 := (s0.mapShows fun _ e => up e).mapHarts fun h =>
    { h with flight := h.flight.map (·.mapCaptured up), stopped := h.stopped.map (·.mapCaptured up) }
  { s1 with t := { s1.t with matrix := { s1.t.matrix with queue := s1.t.matrix.queue.map (·.mapCaptured up) } } }

/-- Whether the task shows the version `id`. -/
def State.named (s : State) (id : Nat) : Bool := s.shows.any fun e => e.2.id = id

/-- The producer shows how far the version `e` is: its segments and its progress (R126). -/
def State.showVersion (s : State) (e : Entry) : State :=
  s.updateVersion e.id fun v => { v with segs := e.segs, map := e.map, len := e.len, prog := e.prog }

/-- The producer has finished the version `e`, and is gone: it is complete for every name and capture, and where it is no
name's any more its references are released (R132). -/
def State.finishVersion (s : State) (e : Entry) : State :=
  let s1 := s.updateVersion e.id fun v =>
    { v with state := .live, segs := e.segs, map := e.map, len := e.len, prog := e.len }
  if s.named e.id && !(e.id ∈ s.t.gone) then s1 else s1.releaseAll e.swatches

/-- The version `id` retires or is taken back: an entry that waits for nothing else retires with it, `d` numbers later than it
was issued, and so in order of issue (R108). -/
def Entry.unblock (v : Entry) (id d : Nat) : Entry :=
  if id ∈ v.behind then
    let rest := v.behind.filter fun i => i != id
    { v with behind := rest, stamp := if rest.isEmpty then v.stamp + d else v.stamp }
  else v

/-- The same for name `j`, where the version was one of name `k` that hart `h` has built: VERSION adds 1 for it (R119). -/
def Entry.retired (v : Entry) (h : BitVec 3) (k j id d : Nat) : Entry :=
  if id ∈ v.behind then
    { v.unblock id d with counts := if j = k then addCount h.toNat v.counts else v.counts, dirty := v.dirty || v.id = id }
  else v

/-- Numbers that a retirement of the version `id` passes over: those given since its issue. -/
def State.passed (s : State) (id : Nat) : Nat := s.t.nextStamp - id

/-- Retirement of the version `e` that an instruction of hart `h` has built as name `k` over `old` (R124). A version whose name
a later instruction has taken is released (R132). -/
def State.retireOne (s : State) (h : BitVec 3) (k : Nat) (e old : Entry) : State :=
  let d := s.passed e.id
  let s1 := s.mapShows fun j v => v.retired h k j e.id d
  let s2 := { s1 with t := { s1.t with nextStamp := s1.t.nextStamp + d } }
  ((s2.finishVersion e).dropVersion k old).dropDue e.id

/-- The versions that stopped instructions of the task build. -/
def State.stoppedBuilds (s : State) : List Nat :=
  s.taskHarts.flatMap fun h => h.stopped.toList.flatMap fun f => f.dests.map fun d => d.2.1.id

/-- Whether the version `id` cannot retire yet because its name waits for others: those that were ahead of it at issue, and one
that it has met at a barrier (R108, R124). What a stopped instruction builds holds back nothing. -/
def State.heldBack (s : State) (id : Nat) : Bool :=
  s.shows.any fun p => p.2.id = id && p.2.stamp = id && p.2.behind.any fun i => i != id && !(i ∈ s.stoppedBuilds)

/-- Whether an mread that has completed cannot retire yet: an earlier one of its hart has not (R124), or its name waits. -/
def State.readHeld (s : State) (o : MOp) : Bool :=
  (s.t.reads.any fun m => m.hart = o.hart && decide (m.n < o.n)) || s.heldBack o.version

/-- The mreads that have completed retire as far as they may, at most `n` of them. -/
def State.retireReads : Nat → State → State
  | 0, s => s
  | n + 1, s =>
    match s.t.matrix.done.find? fun o => !s.readHeld o with
    | none => s
    | some o =>
      let s1 : State := { s with t := { s.t with matrix := { s.t.matrix with done := s.t.matrix.done.filter fun m => m.n != o.n } } }
      ((match o.dest with
        | some e => s1.retireOne o.hart o.name e o.old
        | none => s1).retireReads n)

/-- Retirement of a version, and of the mreads that have completed and waited for it. -/
def State.retireVersion (s : State) (h : BitVec 3) (k : Nat) (e old : Entry) : State :=
  let s1 := s.retireOne h k e old
  s1.retireReads s1.t.matrix.done.length

/-- A name from which a version has gone that never came to be: empty, as it would have retired. -/
def Entry.emptied (v : Entry) : Entry := { counts := v.counts, dirty := v.dirty, behind := v.behind, stamp := v.stamp }

/-- A table from which the version `id` of name `k` is taken back: `k` returns to `old`, also where cmovv has moved the version
to another name, which is empty then (R124, R139, R147). -/
def undoTable (k id d : Nat) (old : Entry) (l : List (Nat × Entry)) : List (Nat × Entry) :=
  let away := l.any fun p => p.1 != k && p.2.id = id
  l.map fun p =>
    if p.2.id = id then (p.1, if p.1 = k then old else (p.2.unblock id d).emptied)
    else if p.1 = k && away && p.2.state = .empty && decide (id ∈ p.2.behind) then (k, old)
    else (p.1, p.2.unblock id d)

/-- A squash takes back the version `e` of name `k`, whose producer is gone (R124, R147): its names return to the version
`old` that it was built over, which is superseded where no name shows it any more, and what has captured it finds poison. -/
def State.undoVersion (s : State) (k : Nat) (e old : Entry) : State :=
  let d := s.passed e.id
  let s1 := { s with cl := e.held.foldl (fun (c : Cluster) i => c.mapSwatch i fun w => { w with poison := true }) s.cl }
  let s2 := s1.updateVersion e.id fun v => { v with state := .live, segs := e.segs, map := e.map, len := e.len, prog := e.len }
  let s3 := s2.mapTables (undoTable k e.id d old) fun j v =>
    if v.id = e.id then (if j = k then old else (v.unblock e.id d).emptied) else v.unblock e.id d
  let s4 := { s3 with t := { s3.t with nextStamp := s3.t.nextStamp + d } }
  let s5 := (((if s4.named old.id then s4 else s4.dropVersion k old).releaseAll e.swatches)).dropDue e.id
  s5.retireReads s5.t.matrix.done.length

/-! ### Checks of R129 -/

/-- The code of an element type as a word. -/
def tagWord (t : ElemType) : Word := t.code.setWidth 64

/-- A name as a word. -/
def nameWord (k : Nat) : Word := BitVec.ofNat 64 k

/-- Check 2: none of the operand names is spilled. -/
def notSpilled (ks : List Nat) : Act Unit := do
  let s ← get
  match ks.find? fun k => (s.entry k).state = .spilled with
  | some k => trapAct .spilled (nameWord k)
  | none => pure ()

/-- Check 3: none of the source names is empty. -/
def notEmpty (ks : List Nat) : Act Unit := do
  let s ← get
  match ks.find? fun k => (s.entry k).state = .empty with
  | some k => trapAct .emptyName (nameWord k)
  | none => pure ()

/-- Wait until the versions are complete (R126). -/
def complete (ks : List Nat) : Act Unit := do
  let s ← get
  if ks.any fun k => (s.entry k).state = .pending then waitAct .other else pure ()

/-- Check 4 for a cut: a byte position. -/
def cutCheck (b : Bool) (k : Nat) (t : ElemType) : Act Unit :=
  requireAct b { cause := .typeMismatch, val := nameWord k, val2 := tagWord t ||| 0x100#64 }

/-- Check 5: a position or count within the source. -/
def within (b : Bool) (k : Nat) (p : Word) : Act Unit := requireAct b { cause := .short, val := nameWord k, val2 := p }

/-- Check 6: the result keeps to R121. -/
def fits (segs bytes : Nat) : Act Unit :=
  requireAct (decide (segs ≤ 64) && decide (bytes ≤ 16384))
    { cause := .segOver, val := BitVec.ofNat 64 segs, val2 := BitVec.ofNat 64 bytes }

/-! ### The bytes of a chain -/

/-- Segment and place in it of byte `off` of a chain. -/
def locate : List Seg → Nat → Option (Seg × Nat)
  | [], _ => none
  | g :: r, off => if off < g.count then some (g, off) else locate r (off - g.count)

/-- The trap of a read from a poisoned swatch (17_traps R361). -/
def swatchPoison (i : Nat) : Trap := { cause := .poison, val := BitVec.ofNat 64 i }

/-- Byte `off` of a chain, and the swatch it lies in. -/
def Cluster.chainByte (c : Cluster) (l : List Seg) (off : Nat) : Option (Nat × Byte × Bool) :=
  match locate l off with
  | none => none
  | some (g, o) => (c.swatch? g.swatch).map fun w => (g.swatch, w.data.getD (g.first + o) 0#8, w.poison)

/-- Bytes `off` to `off + n - 1` of a chain; a poisoned swatch gives its index instead (R147). -/
def Cluster.chainBytes (c : Cluster) (l : List Seg) (off n : Nat) : Except Nat (List Byte) :=
  (List.range n).mapM fun i =>
    match c.chainByte l (off + i) with
    | some (sw, b, p) => if p then .error sw else .ok b
    | none => .ok 0#8

/-- The same bytes, poisoned or not. -/
def Cluster.rawBytes (c : Cluster) (l : List Seg) (off n : Nat) : List Byte :=
  (List.range n).map fun i => ((c.chainByte l (off + i)).map fun p => p.2.1).getD 0#8

/-- First byte and number of bytes of the granule that holds element `i` (R31): the smallest whole bytes that can be
read as elements from index 0. -/
def granuleSpan (t : ElemType) (i : Nat) : Nat × Nat :=
  (bytesFor t (i / granule t * granule t), bytesFor t (granule t))

/-- The code of element `i` of a chain of type `t`; a poisoned swatch gives its index instead. -/
def Cluster.element (c : Cluster) (t : ElemType) (l : List Seg) (i : Nat) : Except Nat Nat :=
  match c.chainBytes l (granuleSpan t i).1 (granuleSpan t i).2 with
  | .ok bs => .ok (elemOf t bs (i % granule t))
  | .error p => .error p

/-- Element `i` of a chain, or the trap of a poisoned swatch. -/
def elementAct (t : ElemType) (l : List Seg) (i : Nat) : Act Nat := fun s =>
  match s.cl.element t l i with
  | .ok c => .ok (c, s)
  | .error p => .error (.trap (swatchPoison p))

/-- Replace bytes `off` on of a chain. -/
def Cluster.putBytes (c : Cluster) (l : List Seg) (off : Nat) : List Byte → Cluster
  | [] => c
  | b :: r =>
    let c' := match locate l off with
      | some (g, o) => c.mapSwatch g.swatch fun w => { w with data := setAt w.data (g.first + o) b }
      | none => c
    c'.putBytes l (off + 1) r

/-- First byte and number of bytes that hold bits of element `i`; for cb8x2 its whole index. -/
def elemSpan (t : ElemType) (i : Nat) : Nat × Nat :=
  match t with
  | .cb8x2 => (2 * (i / 8), 2)
  | _ =>
    let b := i * elemBits t
    (b / 8, (b + elemBits t - 1) / 8 - b / 8 + 1)

/-- The bytes of the granule of element `i` with that element replaced. -/
def putElement (t : ElemType) (bs : List Byte) (i code : Nat) : List Byte := setElem t bs (i % granule t) code

/-! ### The vector context (17_traps R359) -/

/-- The core that the task with the turn runs on. -/
def State.myCore (s : State) : Core := s.cl.cores.toList.getD s.t.core {}

/-- The cluster with core `n` changed. -/
def Cluster.mapCore (c : Cluster) (n : Nat) (f : Core → Core) : Cluster :=
  { c with cores := c.cores.mapFinIdx fun j x _ => if j = n then f x else x }

/-- The entry of R359: the task owns the context of its core, or takes an empty one in its first residency; else the
save area of the owner, 0 where there is none. -/
def State.vectorContext (s : State) : Except Word State :=
  match s.myCore.owner with
  | some uid => if uid = s.t.uid then .ok s else .error s.myCore.ownerSave
  | none =>
    if s.t.firstRes then
      .ok { s with cl := s.cl.mapCore s.t.core fun c => { c with owner := some s.t.uid, ownerSave := 0#64 } }
    else .error 0#64

/-- The outcome of an instruction that uses the vector context (R359). A service core has none, and the word is
illegal there (log 14). DESIGN CHOICE: the context is asked for before anything that the instruction may wait for, so an
fgov whose channel holds 16 commands traps 0x16 first (11_flume R247, log 114). -/
def vecFinish (w : Word) (a : Act Unit) (s : State) : Out :=
  if s.who = .user then
    match s.vectorContext with
    | .ok s' => finish a s'
    | .error save => .next (takeTrap { cause := .vswitch, val := save } false s)
  else .next (takeTrap { cause := .illegal, val := w } false s)

/-- The outcome of an instruction on the barriers, the channels or the identity of its task, which runs at every level
(03_words R69). DEDUCED (log 14): a service core runs no task, and finds an empty one there, of which nothing lasts. -/
def taskFinish (a : Act Unit) (s : State) : Out :=
  if s.who = .user then finish a s
  else finish (do a; modify fun s1 => { s1 with t := s.t, barriers := s.barriers }) s

/-- The outcome of an instruction of those families that only reads and writes registers and settings of its task: it runs at
every level (03_words R69; log 14). -/
def regFinish (w : Word) (a : Act Unit) (s : State) : Out := if s.who = .user then vecFinish w a s else taskFinish a s

end Sys2Proof.Machine
end

