-- ==== Sys2Proof/Machine/Chains.lean ====
section
/-! DEFINITION. The chain instructions and the chain mailboxes (06_chains R128 to R145), but for cpack, which streams
(Vector.lean). -/

namespace Sys2Proof.Machine

/-- The word of a chain instruction of major 0x28. -/
def chainWord (d a b : Reg) (fn : BitVec 4) : Word := wordOf (some (fmtA 0x28#7 d a b fn))

/-- The word of a chain instruction of major 0x29. -/
def chainqWord (d a b : Reg) (fn : BitVec 4) : Word := wordOf (some (fmtA 0x29#7 d a b fn))

/-- The zeroed swatches of a fresh chain of `n` bytes. -/
def zeroSegs : Nat → Nat → Act (List Seg)
  | 0, _ => pure []
  | f + 1, n =>
    if n = 0 then pure []
    else do
      let i ← allocAct (List.replicate 256 0#8)
      let r ← zeroSegs f (n - 256)
      pure ({ swatch := i, first := 0, count := Nat.min n 256 } :: r)

/-- cnew (R131). -/
def execCnew (d a : Reg) (s : State) : Out :=
  vecFinish (chainWord d a 0#7 0#4) (do
    let s ← get
    let k := s.h.name d
    notSpilled [k]
    let bytes := bytesFor s.h.ty (s.rx a).toNat
    requireAct (decide (bytes ≤ 512))
      { cause := .segOver, val := BitVec.ofNat 64 ((bytes + 255) / 256), val2 := BitVec.ofNat 64 bytes }
    let segs ← zeroSegs 2 bytes
    let e ← buildAct s.h.ty (s.rx a).toNat segs
    retireAct k e
    modify fun s => s.advance) s

/-- cdrop (R132). -/
def execCdrop (d : Reg) (s : State) : Out :=
  vecFinish (chainWord d 0#7 0#7 1#4) (do
    let s ← get
    let k := s.h.name d
    notSpilled [k]
    let old := s.entry k
    if old.state = .empty then pure ()
    else modify fun s => (s.emptyName k).dropLater (s.awaited old) k old
    modify fun s => s.advance) s

/-- A version equal to `e` but for what `f` changes: it holds one more reference on every segment and on its map. -/
def sameSegs (k : Nat) (e : Entry) (f : Entry → Entry) : Act Entry := do
  holdSegs (e.segs.map fun g => (g, k))
  match e.map with
  | some m => holdAct m k
  | none => pure ()
  fun s => let (e', s') := s.withId (f e); .ok (e', s')

/-- cshare (R133). -/
def execCshare (d a : Reg) (s : State) : Out :=
  vecFinish (chainWord d a 0#7 2#4) (do
    let s ← get
    let k := s.h.name a
    notSpilled [k, s.h.name d]
    notEmpty [k]
    complete [k]
    let e ← sameSegs k (s.entry k) id
    retireAct (s.h.name d) e
    modify fun s => s.advance) s

/-- cseam (R135). -/
def execCseam (d a b : Reg) (s : State) : Out :=
  vecFinish (chainWord d a b 3#4) (do
    let s ← get
    let ka := s.h.name a
    let kb := s.h.name b
    notSpilled [ka, kb, s.h.name d]
    notEmpty [ka, kb]
    complete [ka, kb]
    let ea := s.entry ka
    let eb := s.entry kb
    requireAct (decide (ea.tag = eb.tag)) { cause := .typeMismatch, val := nameWord kb, val2 := tagWord eb.tag }
    cutCheck (bytePos ea.tag ea.len) ka ea.tag
    let list := coalesce ((ea.segs.map fun g => (g, ka)) ++ eb.segs.map fun g => (g, kb))
    fits list.length (bytesFor ea.tag ea.len + bytesFor eb.tag eb.len)
    holdSegs list
    let e ← buildAct ea.tag (ea.len + eb.len) (list.map (·.1))
    retireAct (s.h.name d) e
    modify fun s => s.advance) s

/-- The version that Cut gives for bytes `b0` to `b1 - 1` of chain `e` of name `k`, of length `len`. -/
def cutVersion (k : Nat) (e : Entry) (b0 b1 len : Nat) : Act Entry := do
  let list := cut k e.segs b0 b1
  holdSegs list
  buildAct e.tag len (list.map (·.1))

/-- chemh (R136). -/
def execChemh (d a b : Reg) (s : State) : Out :=
  vecFinish (chainWord d a b 4#4) (do
    let s ← get
    let k := s.h.name a
    notSpilled [k, s.h.name d]
    notEmpty [k]
    complete [k]
    let e := s.entry k
    let p := (s.rx b).toNat
    cutCheck (decide (p = e.len) || bytePos e.tag p) k e.tag
    within (decide (p ≤ e.len)) k (s.rx b)
    let v ← cutVersion k e (bytesFor e.tag p) (bytesFor e.tag e.len) (e.len - p)
    retireAct (s.h.name d) v
    modify fun s => s.advance) s

/-- chemt (R136). -/
def execChemt (d a b : Reg) (s : State) : Out :=
  vecFinish (chainWord d a b 5#4) (do
    let s ← get
    let k := s.h.name a
    notSpilled [k, s.h.name d]
    notEmpty [k]
    complete [k]
    let e := s.entry k
    let p := (s.rx b).toNat
    within (decide (p ≤ e.len)) k (s.rx b)
    let v ← cutVersion k e 0 (bytesFor e.tag (e.len - p)) (e.len - p)
    retireAct (s.h.name d) v
    modify fun s => s.advance) s

/-- csplit (R137): the tail to vd and the head to va; with d = a the name receives the tail. Every reference is held before
a map is allocated (R129). -/
def execCsplit (d a b : Reg) (s : State) : Out :=
  vecFinish (chainWord d a b 6#4) (do
    let s ← get
    let k := s.h.name a
    let kd := s.h.name d
    notSpilled [k, kd]
    notEmpty [k]
    complete [k]
    let e := s.entry k
    let p := (s.rx b).toNat
    cutCheck (decide (p = e.len) || bytePos e.tag p) k e.tag
    within (decide (p ≤ e.len)) k (s.rx b)
    let cutTail := cut k e.segs (bytesFor e.tag p) (bytesFor e.tag e.len)
    let cutHead := if kd = k then [] else cut k e.segs 0 (bytesFor e.tag p)
    holdSegs cutTail
    holdSegs cutHead
    let tail ← buildAct e.tag (e.len - p) (cutTail.map (·.1))
    if kd = k then retireAct kd tail
    else do
      let head ← buildAct e.tag p (cutHead.map (·.1))
      retireAct kd tail
      retireAct k head
    modify fun s => s.advance) s

/-- cslice (R137): start position in the low half of xb, count in the high half. -/
def execCslice (d a b : Reg) (s : State) : Out :=
  vecFinish (chainWord d a b 7#4) (do
    let s ← get
    let k := s.h.name a
    notSpilled [k, s.h.name d]
    notEmpty [k]
    complete [k]
    let e := s.entry k
    let p := (s.rx b).toNat % 2 ^ 32
    let n := (s.rx b).toNat / 2 ^ 32
    cutCheck (decide (n = 0) || bytePos e.tag p) k e.tag
    within (decide (p + n ≤ e.len)) k (BitVec.ofNat 64 (p + n))
    let v ← cutVersion k e (bytesFor e.tag p) (if n = 0 then bytesFor e.tag p else bytesFor e.tag (p + n)) n
    retireAct (s.h.name d) v
    modify fun s => s.advance) s

/-- The version `e` is that of name `k` from now on, also where another hart shows it under another name; one that has given up
its references, or would when its producer retires, holds them again (R123, log 15). -/
def State.moveVersion (s : State) (k : Nat) (e : Entry) : State :=
  let s1 := if e.id ∈ s.t.gone then
      (if s.builds e.id then s else s.holdAll e.swatches).keepVersion e.id
    else s
  if 1 < (s1.shows.filter fun p => p.2.id = e.id).length then
    { s1 with t := { s1.t with moved := (e.id, k) :: s1.t.moved.filter fun m => m.1 != e.id } }
  else s1

/-- cmovv (R139): va's version moves, pending or live, and va is left empty. It waits only where vd shows a version whose
producer has not retired (R126). -/
def execCmovv (d a : Reg) (s : State) : Out :=
  vecFinish (chainWord d a 0#7 9#4) (do
    let s ← get
    let k := s.h.name a
    let kd := s.h.name d
    notSpilled [k, kd]
    notEmpty [k]
    if kd = k then pure ()
    else do
      let s ← get
      if ((s.entry kd).behind.any fun i => !(i ∈ s.h.builds)) then waitAct .other
      else modify fun s =>
        let e := s.entry k
        ((s.emptyName k).retireName kd e).moveVersion kd e
    modify fun s => s.advance) s

/-- Elements of type `t` in `b` bytes, where the bytes divide into whole elements (R140). -/
def retypeLen (t : ElemType) (b : Nat) : Option Nat :=
  match t with
  | .b1 => some (8 * b)
  | .cb8x2 => if b % 2 = 0 then some (8 * (b / 2)) else none
  | _ =>
    if isSix t then (if b % 3 = 0 then some (4 * (b / 3)) else none)
    else if elemBits t = 4 then some (2 * b)
    else if b % (elemBits t / 8) = 0 then some (b / (elemBits t / 8)) else none

/-- cretype (R140). -/
def execCretype (d a : Reg) (ty : ElemType) (s : State) : Out :=
  vecFinish (chainWord d a (ty.code.setWidth 7) 10#4) (do
    let s ← get
    let k := s.h.name a
    notSpilled [k, s.h.name d]
    notEmpty [k]
    complete [k]
    let e := s.entry k
    match retypeLen ty (bytesFor e.tag e.len) with
    | none => cutCheck false k e.tag
    | some n =>
      let v ← sameSegs k e fun e => { e with tag := ty, len := n, prog := n }
      retireAct (s.h.name d) v
      modify fun s => s.advance) s

/-! ### Mailboxes (R144, R145) -/

/-- Whether another hart of the cluster has waited for the same slot for longer (R145: first in, first out). -/
def State.queuedBefore (s : State) (p : WaitKind → Bool) : Bool :=
  let mine := match s.h.wait with
    | some w => if p w.kind then w.since else s.time
    | none => s.time
  let others := s.t.harts ++ (s.tasks.filter fun t => t.home = s.cl.num).flatMap (·.harts)
  others.any fun h =>
    match h.wait with
    | some w => p w.kind && decide (w.since < mine)
    | none => false

/-- A hart that waits to post to `slot`. -/
def WaitKind.posts (slot : Nat) : WaitKind → Bool
  | .cpost n => decide (n = slot)
  | _ => false

/-- A hart that waits to take from `slot`. -/
def WaitKind.takes (slot : Nat) : WaitKind → Bool
  | .ctake n _ => decide (n = slot)
  | _ => false

/-- The slot number, or the trap of one above 63 (R144). -/
def slotCheck (x : Word) : Act Unit := requireAct (decide (x.toNat ≤ 63)) { cause := .access, val := x }

/-- A version moves to a mailbox slot with its references; one that has given them up is held anew, and what other harts show
of it holds none (R144, log 15). -/
def State.mailVersion (s : State) (slot : Nat) (e : Entry) : State :=
  let s1 := if e.id ∈ s.t.gone then s.holdAll e.swatches
    else if s.named e.id then { s with t := { s.t with gone := e.id :: s.t.gone } }
    else s
  { s1 with cl := { s1.cl with mail := setEntry s1.cl.mail slot e } }

/-- cpost (R144, R145): the hart's stores are committed first. WTMO bounds the wait for the slot; the wait for a pending
vd is the one of R126 and has no limit (log 70). -/
def execCpost (d b : Reg) (s : State) : Out :=
  vecFinish (chainWord d 0#7 b 11#4) (do
    let s ← get
    let k := s.h.name d
    let slot := (s.rx b).toNat
    notSpilled [k]
    notEmpty [k]
    slotCheck (s.rx b)
    complete [k]
    readsRetired
    if (s.cl.mail.any fun m => m.1 = slot) || s.queuedBefore (WaitKind.posts slot) then waitAct (.cpost slot)
    else do
      modify fun s => s.drain
      modify fun s =>
        ((s.emptyName k).mailVersion slot (s.entry k)).advance) s

/-- ctake (R144, R145). -/
def execCtake (d a b : Reg) (s : State) : Out :=
  vecFinish (chainWord d a b 12#4) (do
    let s ← get
    let k := s.h.name d
    let slot := (s.rx b).toNat
    notSpilled [k]
    slotCheck (s.rx b)
    match s.cl.mail.find? fun m => m.1 = slot with
    | some (_, e) =>
      if s.queuedBefore (WaitKind.takes slot) then waitAct (.ctake slot a)
      else do
        modify fun s => { s with cl := { s.cl with mail := s.cl.mail.filter fun m => m.1 != slot } }
        let v ← (fun s => let (v, s') := s.withId e; .ok (v, s') : Act Entry)
        retireAct k v
        modify fun s => s.acquire.put a 0#64
    | none => waitAct (.ctake slot a)) s

/-- Whether the hart's wait has lasted longer than WTMO, which is not 0. -/
def State.waitedOut (s : State) (w : Wait) : Bool := s.h.wtmo != 0#64 && decide (w.since + s.h.wtmo.toNat < s.time)

/-- The wait of a `cpost` exceeds WTMO (R144): it traps 0x1B and keeps vd. -/
def execCpostTimeout (s : State) : Out :=
  .next (match s.h.wait with
    | some w =>
      match w.kind with
      | .cpost slot =>
        if s.waitedOut w then takeTrap { cause := .deadline, val := BitVec.ofNat 64 slot, val2 := 1#64 } false s else s
      | _ => s
    | none => s)

/-- The wait of a `ctake` exceeds WTMO (R144): it writes 2 to xa and leaves vd and the slot. -/
def execCtakeTimeout (s : State) : Out :=
  .next (match s.h.wait with
    | some w =>
      match w.kind with
      | .ctake _ a => if s.waitedOut w then s.put a 2#64 else s
      | _ => s
    | none => s)

/-! ### Queries (R143) and single elements (R141, R142) -/

/-- clen (R143). -/
def execClen (d a : Reg) (s : State) : Out :=
  vecFinish (chainqWord d a 0#7 0#4) (modify fun s => s.put d (BitVec.ofNat 64 (s.entry (s.h.name a)).len)) s

/-- The code of a state (R119). -/
def EState.code : EState → Nat
  | .empty => 0
  | .live => 1
  | .pending => 2
  | .spilled => 3

/-- A Boolean as a bit. -/
def bitNat (b : Bool) : Nat := if b then 1 else 0

/-- The word of cinfo (R143); an empty name holds no chain, so it is not packed. DESIGN CHOICE: a spilled name, which holds
no segment, gives SEGS 0, MAP 0 and PACKED 1 (log 109). -/
def Entry.info (e : Entry) : Nat :=
  e.state.code + e.tag.code.toNat * 2 ^ 2 + bitNat (e.state != .empty && packedSegs e.segs) * 2 ^ 7 + bitNat e.dirty * 2 ^ 8 +
    bitNat e.map.isSome * 2 ^ 9 + e.segs.length * 2 ^ 10 + e.prog * 2 ^ 17 + e.version.toNat * 2 ^ 35

/-- cinfo (R143). -/
def execCinfo (d a : Reg) (s : State) : Out :=
  vecFinish (chainqWord d a 0#7 1#4) (modify fun s => s.put d (BitVec.ofNat 64 (s.entry (s.h.name a)).info)) s

/-- cpool (R143). -/
def execCpool (d : Reg) (s : State) : Out :=
  vecFinish (chainqWord d 0#7 0#7 2#4) (modify fun s =>
    s.put d (BitVec.ofNat 64 (s.t.poolq.toNat - s.poolUse s.t.uid + s.cl.freeCount * 2 ^ 32))) s

/-- The value that vget gives for a code of type `t` (R141). -/
def elementWord (t : ElemType) (i c : Nat) : Word :=
  if isInt t then BitVec.ofInt 64 (intOf (isSigned t) (elemBits t) c)
  else if t = .cb8x2 then BitVec.ofNat 64 (f32Fmt.deliver .rne (valueOf t i c)).1
  else BitVec.ofNat 64 c

/-- vget (R141). -/
def execVget (d a b : Reg) (s : State) : Out :=
  vecFinish (chainqWord d a b 3#4) (do
    let s ← get
    let k := s.h.name a
    notSpilled [k]
    notEmpty [k]
    let e := s.entry k
    let i := (s.rx b).toNat
    if e.state = .pending && decide (e.len = 0) then waitAct .other  -- a vcompr's length is not settled (R173)
    within (decide (i < e.len)) k (s.rx b)
    if e.prog ≤ i then waitAct .other
    else do
      let c ← elementAct e.tag e.segs i
      modify fun s => s.put d (elementWord e.tag i c)) s

/-- Whether a swatch is shown in the cluster other than by the version of the hart's name `k` there (R125, log 15). -/
def State.shownElsewhere (s : State) (k i : Nat) : Bool :=
  ((s.h.shows.filter fun e => e.1 != k || e.2.id != (s.entry k).id) ++ s.t.shows ++
    (s.tasks.filter fun t => t.home = s.cl.num).flatMap Task.shows).any fun e => decide (i ∈ e.2.swatches)

/-- Whether anything but the version of name `k` holds a swatch or still reads it (R142, R125): a version that has given up
its references holds none of those that the swatch has (log 15). -/
def State.sharedSwatch (s : State) (k i : Nat) : Bool :=
  decide ((if (s.entry k).id ∈ s.t.gone then 0 else 1) < s.refs i) || s.shownElsewhere k i

/-- The segments of a `vput` on name `k` (R142), and whether each is copied: one that holds one of bytes `b0` to `b1 - 1`
and is shared. -/
def State.vputPlan (s : State) (k b0 b1 : Nat) : List Seg → Nat → List (Seg × Bool)
  | [], _ => []
  | g :: r, pos =>
    (g, decide (b0 < pos + g.count) && decide (pos < b1) && s.sharedSwatch k g.swatch) :: s.vputPlan k b0 b1 r (pos + g.count)

/-- Copy the segments that the plan copies, each whole to the head of a fresh swatch (R142). -/
def copyPlan : List (Seg × Bool) → Act (List Seg)
  | [] => pure []
  | (g, c) :: r => do
    let s ← get
    let g' ← (if c then do
        let w := (s.cl.swatch? g.swatch).getD { idx := 0, data := [], refs := 0, poison := false, owner := 0#6, charge := none }
        requireAct (!w.poison) (swatchPoison g.swatch)
        let i ← allocAct (overlay (List.replicate 256 0#8) 0 ((w.data.drop g.first).take g.count))
        pure { swatch := i, first := 0, count := g.count }
      else pure g : Act Seg)
    let r' ← copyPlan r
    pure (g' :: r')

/-- vput (R142): the element is replaced in a new version, in place where nothing else holds its swatch. -/
def execVput (d a b : Reg) (s : State) : Out :=
  vecFinish (chainqWord d a b 4#4) (do
    let s ← get
    let k := s.h.name d
    notSpilled [k]
    notEmpty [k]
    complete [k]
    let e := s.entry k
    let i := (s.rx b).toNat
    within (decide (i < e.len)) k (s.rx b)
    let (b0, n) := elemSpan e.tag i
    let plan := s.vputPlan k b0 (b0 + n) e.segs 0
    let freshMap := (e.map.any fun m => s.sharedSwatch k m) && plan.any (·.2)
    holdSegs ((plan.filter fun p => !p.2).map fun p => (p.1, k))
    match e.map with
    | some m => if freshMap then pure () else holdAct m k
    | none => pure ()
    let segs ← copyPlan plan
    let m ← (if freshMap then (do let i ← allocAct (mapBytes segs); pure (some i)) else pure e.map : Act (Option Nat))
    modify fun s =>
      let (g0, gn) := granuleSpan e.tag i
      let new := putElement e.tag (s.cl.rawBytes e.segs g0 gn) i (s.rx a).toNat
      let c := match m with
        | some m => s.cl.mapSwatch m fun w => { w with data := mapBytes segs }
        | none => s.cl
      { s with cl := c.putBytes segs b0 ((new.drop (b0 - g0)).take n) }
    let v ← (fun s => let (v, s') := s.withId { e with segs := segs, map := m }; .ok (v, s') : Act Entry)
    retireAct k v
    modify fun s => s.advance) s

end Sys2Proof.Machine
end

