-- ==== Sys2Proof/Config.lean ====
section
/-! DEFINITION. What the DLH-1A manual leaves to the part and gives no value for: free values, which no proof can see. -/

namespace Sys2Proof

/-- On which side of node `node` (heap numbers, 1 the root) of the tree of a vredsum over `vl` elements element `i`
lies, for the given GVL and LGMASK (02_numbers R49 leaves the shape of the tree to the part). Free value, log 8. -/
opaque Config.redTree (gvl : Nat) (lgmask : BitVec 8) (vl node i : Nat) : Bool

/-- On which side of node `node` of the tree of a free kred sum over `n` members member `i` lies (15_collectives R327
leaves the order of the sum to the part). Free value, log 9. -/
opaque Config.kredTree (n node i : Nat) : Bool

/-- TRAPVAL (`which` 0) and TRAPVAL2 (`which` 1) of a trap for which the manual states none, at the moment `time`.
Free value, log 20. -/
opaque Config.trapValue (time which : Nat) : BitVec 64

/-- What a graph element reads from load streamer `j` where it is disabled, at data element `i` of a part run at moment
`time` (14_weir R299, R301 load only the enabled streamers). Free value, log 22. -/
opaque Config.idleStreamer (time i j : Nat) : BitVec 32

/-- The scratch aperture of the task on core `core` of cluster `cluster`, in units of 8 MiB (09_vmem R198 gives its size
and alignment only, R197 its 55 bits). Free value, log 26. -/
opaque Config.aperture (cluster core : Nat) : BitVec 32

/-- What the Headgate of another node answers to a `wqpost` that waits at moment `time` (16_launch R348). Free value,
log 27. -/
opaque Config.remoteAnswer (time : Nat) : BitVec 64

/-- EPRIO of a queue that has no next launch (16_launch R349), read at moment `time`. Free value, log 28. -/
opaque Config.idlePriority (time : Nat) : BitVec 3

/-- Byte `off` of the ENGINES part of a save area written at moment `time`, where R357 gives no layout. Free value,
log 25. -/
opaque Config.engineByte (time off : Nat) : BitVec 8

/-- What a grant of work queue `queue` at moment `time` fixes of it: the priority ceiling (`which` 0), the weight (1),
UALink admission (2), the connection (3) (16_launch R333 gives no operand for them). Free value, log 13. -/
opaque Config.queueGrant (time queue which : Nat) : BitVec 16

/-- Whether a remote store that got an error response at moment `time` has landed at its home node (15_collectives
R318). Free value, log 27. -/
opaque Config.remoteLanded (time : Nat) : Bool

/-- The 16 bytes of a message to the host that carries an event's code, value and TIME (18_partitions R378 gives no layout of
them). Free value, log 101. -/
opaque Config.hostMessage (code val time : BitVec 64) : BitVec 128

end Sys2Proof
end

