-- ==== Sys2Proof/Machine/Lanes.lean ====
section
/-! DEFINITION. The element functions of the vector instructions (07_vector R158 to R177): codes in, code and flags
out. -/

namespace Sys2Proof.Machine

/-- A Boolean as the code of a b1 element. -/
def bitCode (b : Bool) : Nat := if b then 1 else 0

/-! ### Integers (R158 to R163) -/

/-- Clamp to the range of a type, with IOV where the value moves (R159). -/
def clamp (sg : Bool) (n : Nat) (v : Int) : Nat × Flags :=
  let lo := intLo sg n
  let hi := intHi sg n
  (codeOf n (max lo (min hi v)), flagIf (decide (v < lo) || decide (hi < v)) fIOV)

/-- Divide of R160: quotient, remainder, flags. -/
def divide (sg : Bool) (n : Nat) (a b : Int) : Int × Int × Flags :=
  if b = 0 then (2 ^ n - 1, a, fIDZ)
  else if sg && decide (a = intLo true n) && decide (b = -1) then (a, 0, fIOV)
  else (a.tdiv b, a.tmod b, 0#9)

/-- Shifts of R162 by `k` on `n` bits. -/
def shiftCode (op : VBin) (n a k : Nat) : Nat :=
  let top := decide (2 ^ (n - 1) ≤ a)
  match op with
  | .sll => if k < n then a * 2 ^ k % 2 ^ n else 0
  | .srl => if k < n then a / 2 ^ k else 0
  | .sra =>
    let j := Nat.min k n
    a / 2 ^ j + (if top then 2 ^ n - 2 ^ (n - j) else 0)
  | _ =>
    let j := k % n
    (a / 2 ^ j + a % 2 ^ j * 2 ^ (n - j)) % 2 ^ n

/-- A two-operand integer function on codes of `n` bits; for the shifts `b` is the amount. -/
def binInt (op : VBin) (sg : Bool) (n a b : Nat) : Nat × Flags :=
  let x := intOf sg n a
  let y := intOf sg n b
  match op with
  | .add => (codeOf n (x + y), 0#9)
  | .sub => (codeOf n (x - y), 0#9)
  | .rsub => (codeOf n (y - x), 0#9)
  | .mul => (codeOf n (x * y), 0#9)
  | .adds => clamp sg n (x + y)
  | .subs => clamp sg n (x - y)
  | .mulh => (codeOf n (x * y / 2 ^ n), 0#9)
  | .avg => (codeOf n ((x + y + 1) / 2), 0#9)
  | .div => let r := divide sg n x y; (codeOf n r.1, r.2.2)
  | .rem => let r := divide sg n x y; (codeOf n r.2.1, r.2.2)
  | .min => (if y < x then b else a, 0#9)
  | .max => (if x < y then b else a, 0#9)
  | .and => (a &&& b, 0#9)
  | .or => (a ||| b, 0#9)
  | .xor => (a ^^^ b, 0#9)
  | .andn => (a &&& ((2 ^ n - 1) ^^^ b), 0#9)
  | .ceq => (bitCode (a == b), 0#9)
  | .cne => (bitCode (a != b), 0#9)
  | .clt => (bitCode (decide (x < y)), 0#9)
  | .cle => (bitCode (decide (x ≤ y)), 0#9)
  | op => (shiftCode op n a b, 0#9)

/-- The shift members. -/
def VBin.isShift : VBin → Bool
  | .sll | .srl | .sra | .rot => true
  | _ => false

/-- The members whose result is b1. -/
def VBin.isCompare : VBin → Bool
  | .ceq | .cne | .clt | .cle | .fceq | .fclt | .fcle | .fcun => true
  | _ => false

/-- The members that work on floats. -/
def VBin.isFloatOp : VBin → Bool
  | .fadd | .fsub | .fmul | .fdiv | .fmin | .fmax | .fma | .fms | .fceq | .fclt | .fcle | .fcun | .scale | .fnma | .fsgn => true
  | _ => false

/-- The members that read vd as accumulator (R166, R169). -/
def VBin.accumulates : VBin → Bool
  | .fma | .fms | .fnma => true
  | _ => false

/-! ### Floats (R164 to R169) -/

/-- vfmin and vfmax (R166): which operand is returned, none for the canonical NaN. -/
def pick (op : VBin) (x y : FVal) : Option Bool :=
  match x.isNan, y.isNan with
  | true, true => none
  | true, false => some true
  | false, true => some false
  | false, false =>
    match op with
    | .fmin => some (fvBelow y x)
    | _ => some (fvBelow x y)

/-- A two-operand float function: format, mode, code and value of a, code and value of b (the scalar has a value and no
code of the format), value of c. vfmin and vfmax deliver a scalar that they return rounded once (R154, log 80). -/
def binFloat (op : VBin) (f : Fmt) (rm : Rounding) (ac : Nat) (x : FVal) (bc : Option Nat) (y c : FVal) : Nat × Flags :=
  let sig := x.isSig || y.isSig
  let anyNan := x.isNan || y.isNan
  match op with
  | .fsub => f.deliverInv rm ((fvAdd rm x y.negate).1, (fvAdd rm x y.negate).2 || sig)
  | .fmul => f.deliverInv rm (fvMul x y)
  | .fdiv => f.div rm x y
  | .fma => f.deliverInv rm (fvFma rm x y c)
  | .fms => f.deliverInv rm (fvFma rm x y c.negate)
  | .fnma => f.deliverInv rm (fvFma rm x.negate y c)
  | .fceq => (bitCode (fvEq x y), flagIf sig fNV)
  | .fclt => (bitCode (fvLt x y), flagIf anyNan fNV)
  | .fcle => (bitCode (fvLt x y || fvEq x y), flagIf anyNan fNV)
  | .fcun => (bitCode anyNan, flagIf sig fNV)
  | .fmin | .fmax =>
    match pick op x y with
    | none => (f.nanResult.1, f.nanResult.2 ||| flagIf sig fNV)
    | some false => (ac, flagIf sig fNV)
    | some true =>
      match bc with
      | some k => (k, flagIf sig fNV)
      | none => let r := f.deliver rm y; (r.1, r.2 ||| flagIf sig fNV)
  | _ => f.deliverInv rm (fvAdd rm x y)

/-- vfsgn (R169): a with the sign bit of b. -/
def copySign (f : Fmt) (ac : Nat) (neg : Bool) : Nat :=
  ac % 2 ^ (f.eb + f.mb) + (if neg then 2 ^ (f.eb + f.mb) else 0)

/-- vscale of one element (R168). -/
def scaleElem (dst : Fmt) (rm : Rounding) (x : FVal) (e : Nat) : Nat × Flags :=
  if e = 255 then (dst.nan, 0#9) else dst.deliver rm (scaleBy x e)

/-! ### The unary family (R170, R171) -/

/-- The category of a float code (R170, vfcat). -/
def category (f : Fmt) (c : Nat) : Nat :=
  let e := c / 2 ^ f.mb % 2 ^ f.eb
  let m := c % 2 ^ f.mb
  let cat := match f.decode c with
    | .nan s => if s then 5 else 4
    | .inf _ => 3
    | .fin _ _ _ => if e = 0 then (if m = 0 then 0 else 1) else 2
  cat + (if f.signOf c then 8 else 0) + e * 256

/-- A one-operand function on the code `a` of element `i` of type `t`. -/
def unElem (op : VUn) (t : ElemType) (i a : Nat) : Nat × Flags :=
  let f := fmtOf t
  let n := elemBits t
  let sg := isSigned t
  let v := intOf sg n a
  match op with
  | .fsqrt => f.sqrt (f.decode a)
  | .frcp => f.div .rne (.fin false 1 0) (f.decode a)
  | .frsqrt => f.rsqrt (f.decode a)
  | .flog2 => f.log2 (f.decode a)
  | .fexp2 => f.exp2 (f.decode a)
  | .ftanh => f.tanh (f.decode a)
  | .fabs => (copySign f a false, 0#9)
  | .fneg => (copySign f a (!f.signOf a), 0#9)
  | .abs => (codeOf n (if v < 0 then -v else v), flagIf (sg && decide (v = intLo true n)) fIOV)
  | .neg => (codeOf n (-v), flagIf (sg && decide (v = intLo true n)) fIOV)
  | .not => ((2 ^ n - 1) ^^^ a, 0#9)
  | .clz => (n - bitLen a, 0#9)
  | .popc => (ones n a, 0#9)
  | .fcat => (category f a, 0#9)
  | .mov => (a, 0#9)
  | .id => (i % 2 ^ n, 0#9)

/-! ### Scalars of the scalar form (R154) -/

/-- The scalar as the code of an element of type `t`: the low bits of xb (R154). -/
def scalarCode (t : ElemType) (x : Word) : Nat := x.toNat % 2 ^ elemBits t

/-- The scalar as an f32 value. -/
def scalarVal (x : Word) : FVal := f32Fmt.decode (x.toNat % 2 ^ 32)

/-- The scalar of a broadcast (R175): a code, with flags where a float type rounds it. -/
def scalarElem (t : ElemType) (rm : Rounding) (x : Word) : Nat × Flags :=
  if isFloat t then (fmtOf t).deliver rm (scalarVal x) else (scalarCode t x, 0#9)

/-- A two-operand member on the codes of its elements: `b` is the code of the vector form, `none` the scalar form. -/
def binElem (op : VBin) (t : ElemType) (rm : Rounding) (a : Nat) (b : Option Nat) (xb : Word) (c : Nat) : Nat × Flags :=
  if op.isFloatOp then
    let f := fmtOf t
    let y := match b with | some k => f.decode k | none => scalarVal xb
    match op with
    | .fsgn => (copySign f a (match b with | some k => f.signOf k | none => bitOf xb.toNat 31), 0#9)
    | .scale =>
      scaleElem (if isMx t then f32Fmt else f) rm (f.decode a) (match b with | some k => k | none => xb.toNat % 256)
    | op => binFloat op f rm a (f.decode a) b y (f.decode c)
  else
    let y := match b with
      | some k => k
      | none => if op.isShift then xb.toNat else scalarCode t xb
    binInt op (isSigned t) (elemBits t) a y

/-! ### The coin (08_draws R188) -/

/-- A 32-bit word. -/
abbrev W32 := BitVec 32

/-- The 24-bit value whose 2^−24th part is Coin(n). -/
def coinBits (dkey : Word) (dstream : W32) (dctr : Word) (n : Nat) : Nat :=
  let h := (dkey.extractLsb' 0 32 ^^^ dkey.extractLsb' 32 32) ^^^ (dstream * 0x9E3779B9#32) ^^^
    (dctr.extractLsb' 0 32 * 0x85EBCA6B#32) ^^^ (BitVec.ofNat 32 n * 0xC2B2AE35#32)
  let h := (h ^^^ (h >>> 16)) * 0x7FEB352D#32
  let h := (h ^^^ (h >>> 15)) * 0x846CA68B#32
  let h := h ^^^ (h >>> 16)
  (h >>> 8).toNat

/-- The value of a coin. -/
def coinVal (dkey : Word) (dstream : W32) (dctr : Word) (n : Nat) : FVal := .fin false (coinBits dkey dstream dctr n) (-24)

/-- The f32 code of a coin. -/
def coinCode (dkey : Word) (dstream : W32) (dctr : Word) (n : Nat) : Nat :=
  (f32Fmt.deliver .rne (coinVal dkey dstream dctr n)).1

end Sys2Proof.Machine
end

