-- ==== Sys2Proof/Machine/Vector.lean ====
section
/-! DEFINITION. How a vector instruction runs (07_vector R149 to R157, 06_chains R134, 09_vmem R200 to R208): its
checks and captures at issue, its elements in ascending order, its stops, and its retirement. -/

namespace Sys2Proof.Machine

/-! ### What an instruction asks for -/

/-- An instruction as the issue sees it: the fields of its word and what they mean. -/
structure VSpec where
  word   : Fields
  op     : VOp
  masked : Bool := false
  bsel   : BSel := .none
  nf     : Nat := 1
  deriving DecidableEq, Repr

/-- The type of the destination, where the instruction builds a chain (R152). -/
def VOp.destType (op : VOp) (ty a : ElemType) : Option ElemType :=
  match op with
  | .bin .scale => some (if isMx ty then .f32 else ty)
  | .bin o => some (if o.isCompare then .b1 else ty)
  | .un .fcat => some .n16
  | .cvt _ _ t => some t
  | .mask .count | .mask .low => none
  | .mask _ => some .b1
  | .red .rand => some .f32
  | .red _ => none
  | .store _ => none
  | .pack => some a
  | _ => some ty

/-- Whether the family accepts a VTYPE (R152, R179, R200). -/
def VOp.accepts (op : VOp) (ty : ElemType) : Bool :=
  match op with
  | .bin .scale => isWide ty || isMx ty
  | .bin o => if o.isFloatOp then isFloat ty else isInt ty
  | .un o =>
    match o with
    | .fsqrt | .frcp | .frsqrt | .flog2 | .fexp2 | .ftanh | .fcat => isWide ty
    | .fabs | .fneg => isFloat ty
    | .mov => ty != .cb8x2
    | _ => isInt ty
  | .perm _ => ty != .cb8x2
  | .red o =>
    match o with
    | .draw | .drawt | .drawp | .rand => ty = .f32
    | _ => isInt ty || isFloat ty
  | .load f | .store f =>
    match f with
    | .unit => true
    | _ => !isPacked ty
  | _ => true

/-- Whether the instruction reads va. -/
def VOp.readsA (op : VOp) : Bool :=
  match op with
  | .un .id | .perm .bcast | .red .rand | .load _ | .store _ => false
  | _ => true

/-- Whether inactive elements keep vd (R155): every masked writer but vmerge. -/
def Flight.keepsOld (f : Flight) : Bool :=
  f.masked && f.op != .perm .merge

/-- Elements of va that an instruction requires (R153, R173, R174); vslup needs VL − s. -/
def needA (op : VOp) (vl : Nat) (xb : Word) : Nat :=
  match op with
  | .perm .slup => vl - xb.toNat
  | .perm .sldn | .perm .unzip => 0
  | .perm .rgath => 1
  | .perm .zip => (vl + 1) / 2
  | .pack => 0
  | _ => vl

/-- Elements of vb that an instruction requires. -/
def needB (op : VOp) (vl : Nat) (blk : BlockLen) : Nat :=
  match op with
  | .bin .scale => (vl + (if blk = .b16 then 15 else 31)) / (if blk = .b16 then 16 else 32)
  | .perm .bcast => 1
  | .perm .zip => vl / 2
  | _ => vl

/-- Whether `t` may be the tag of va. -/
def tagA (op : VOp) (ty t : ElemType) : Bool :=
  match op with
  | .cvt _ _ _ => t != .b1
  | .mask _ => t = .b1
  | .pack => true
  | .red .drawp => t = .i32 || t = .n32
  | _ => t = ty

/-- Whether `t` may be the tag of vb. -/
def tagB (op : VOp) (ty t : ElemType) : Bool :=
  match op with
  | .bin .scale => t = .e8m0
  | .perm .rgath => isInt t
  | .perm .compr | .mask _ => t = .b1
  | .load _ | .store _ => t = .i32 || t = .n32 || t = .i64 || t = .n64
  | _ => t = ty

/-! ### Issue -/

/-- The name that field `j` of a segment form selects (09_vmem R203). -/
def fieldName (h : Hart) (d : Reg) (j : Nat) : Nat := h.name (d + BitVec.ofNat 7 j)

/-- The names of the d fields of an instruction that builds or reads chains there. -/
def VSpec.dNames (v : VSpec) (h : Hart) : List Nat := (List.range v.nf).map fun j => fieldName h v.word.d j

/-- A source as the checks see it: its name, whether its tag is allowed, whether a refusal is VTYPE's (bit 9), the
elements required. -/
structure Source where
  name  : Nat
  entry : Entry
  tagOk : Bool
  bit9  : Bool
  need  : Nat
  deriving DecidableEq, Repr

/-- The sources of an instruction in the order of R156 and, for a store, of 09_vmem R204: va, vb, the accumulator, or the
data chains and the index chain, then the mask chain (R152 to R155; log 34). -/
def VSpec.sources (v : VSpec) (s : State) : List Source :=
  let h := s.h
  let vl := h.vl.toNat
  let src (k : Nat) (ok : ElemType → Bool) (b9 : Bool) (need : Nat) : Source :=
    { name := k, entry := s.entry k, tagOk := ok (s.entry k).tag, bit9 := b9, need := need }
  let isCvt := match v.op with | .cvt _ _ _ => true | _ => false
  let a := if v.op.readsA then [src (h.name v.word.a) (tagA v.op h.ty) isCvt (needA v.op vl (s.rx v.word.b))] else []
  let b := if v.bsel = .vec then [src (h.name v.word.b) (tagB v.op h.ty) false (needB v.op vl h.blk)] else []
  let d := match v.op with
    | .bin o => if o.accumulates then [src (h.name v.word.d) (· = h.ty) false vl] else []
    | .store _ => (v.dNames h).map fun k => src k (· = h.ty) false vl
    | _ => []
  let m := if v.masked then [src h.vmsel.toNat (· = .b1) false vl] else []
  match v.op with
  | .store _ => d ++ b ++ m
  | _ => a ++ b ++ d ++ m

/-- A vcompr destination that is not settled yet: its length is not known (R173). -/
def Entry.unsettled (e : Entry) : Bool := decide (e.state = .pending) && decide (e.len = 0)

/-- Check 4 of R156 for a source. -/
def tagCheck : List Source → Act Unit
  | [] => pure ()
  | x :: r => do
    requireAct x.tagOk
      { cause := .typeMismatch, val := nameWord x.name,
        val2 := if x.bit9 then tagWord x.entry.tag ||| 0x200#64 else tagWord x.entry.tag }
    tagCheck r

/-- Check 5 of R156 for a source. -/
def lenCheck : List Source → Act Unit
  | [] => pure ()
  | x :: r => do
    within (decide (x.need ≤ x.entry.len)) x.name (BitVec.ofNat 64 x.need)
    lenCheck r

/-- The checks 2 to 6 of R156, 09_vmem R204 and, for cpack, R129. What a refused destination of vcvt reports, and its place
before the tags of the sources, are log 81. -/
def VSpec.check (v : VSpec) : Act Unit := do
  let s ← get
  let srcs := v.sources s
  let h := s.h
  let a := s.entry (h.name v.word.a)
  let dest := v.op.destType h.ty a.tag
  let ds := if dest.isSome then v.dNames h else []
  let len := if v.op = VOp.pack then a.len else h.vl.toNat
  notSpilled (srcs.map (·.name) ++ ds)
  notEmpty (srcs.map (·.name))
  let kept := if v.masked && v.op != .perm .merge then ds.map s.entry else []
  if (srcs.map (·.entry) ++ kept).any Entry.unsettled then waitAct .other
  let refused : Trap :=
    { cause := .typeMismatch,
      val := nameWord (match dest, v.op with
        | none, .store _ => h.name v.word.d
        | none, _ => h.name v.word.a
        | some _, _ => h.name v.word.d),
      val2 := tagWord (match v.op with | .cvt _ _ t => t | _ => h.ty) ||| 0x200#64 }
  requireAct (v.op.accepts h.ty && (match v.op with | .cvt _ _ t => t != .b1 && t != .cb8x2 | _ => true)) refused
  tagCheck srcs
  match dest with
  | none => pure ()
  | some t =>
    if v.masked && v.op != .perm .merge then
      match ds.find? fun k => (s.entry k).state != .empty && (s.entry k).tag != t with
      | some k => trapAct .typeMismatch (nameWord k) (tagWord (s.entry k).tag)
      | none => pure ()
  lenCheck srcs
  match dest with
  | none => pure ()
  | some t => fits ((bytesFor t len + 255) / 256) (bytesFor t len)

/-- Captures at issue (03_words R74): the flight of an instruction that has passed its checks. DESIGN CHOICE: one that is no
resumption and finds VSTART other than 0 starts at VSTART too, and the elements below, of which its fresh destination
reads 0, count as produced (07_vector R156, 05_control R111, log 110). -/
def VSpec.capture (v : VSpec) (s : State) : Flight :=
  let h := s.h
  let ea := s.entry (h.name v.word.a)
  let ed := s.entry (h.name v.word.d)
  let acc := match v.op with | .bin o => o.accumulates | _ => false
  let keeps := v.masked && v.op != .perm .merge && (v.op.destType h.ty ea.tag).isSome
  { word := joinWord v.word, op := v.op, masked := v.masked, bsel := v.bsel, d := v.word.d, a := v.word.a,
    b := v.word.b, nf := v.nf, xa := s.rx v.word.a, xb := s.rx v.word.b,
    vl := if v.op = VOp.pack then ea.len else h.vl.toNat, ty := h.ty, blk := h.blk, vwb := h.vwb, vmsel := h.vmsel,
    frm := h.frm, dkey := h.dkey, dstream := h.dstream, dctr := h.dctr, dtemp := h.dtemp,
    va := if v.op.readsA then some ea else none,
    vb := if v.bsel = .vec then some (s.entry (h.name v.word.b)) else none,
    mask := if v.masked then some (s.entry h.vmsel.toNat) else none,
    vd := if (acc || keeps) && ed.state != .empty then some ed else none,
    datas := match v.op with | .store _ => (v.dNames h).map s.entry | _ => [],
    dests := [], k := h.vstart.toNat, flags := 0#9, boltSince := none, born := s.time }

/-- Pending versions for the destinations, seen by the hart from issue on (R150); each retires behind what is ahead of it
(06_chains R124, R126). -/
def openDests (t : ElemType) (len : Nat) : List Nat → State → List (Nat × Entry × Entry) × State
  | [], s => ([], s)
  | k :: r, s =>
    let old := s.entry k
    let (e0, s1) := s.withId { state := .pending, tag := t, dirty := old.dirty, len := len, counts := old.counts }
    let e := { e0 with behind := e0.id :: s.awaited old, stamp := e0.id }
    let (l, s2) := openDests t len r (s1.setName k e)
    ((k, e, old) :: l, s2)

/-- A member that draws, and so takes a value of DCTR at issue (08_draws R184). -/
def VOp.draws : VOp → Bool
  | .red .draw | .red .drawt | .red .drawp | .red .rand => true
  | _ => false

/-- Issue: the captures, the pending destinations, the FEX registers at all ones (R73; cpack is a chain instruction),
and for a draw the counter's step (R184). -/
def VSpec.issue (v : VSpec) (s : State) : State :=
  let f := v.capture s
  let s1 := s.holdAll f.holds
  let (ds, s2) := match v.op.destType s.h.ty (s.entry (s.h.name v.word.a)).tag with
    | some t => openDests t (if v.op = VOp.perm .compr then 0 else f.vl) (v.dNames s.h) s1
    | none => ([], s1)
  let h := if v.op = VOp.pack then s2.h else s2.h.clearFex
  { s2 with h := { h with dctr := if v.op.draws then h.dctr + 1#64 else h.dctr, flight := some { f with dests := ds } } }

/-! ### Elements -/

/-- Element `i` of a captured chain, once it is produced (R126, R150). -/
def srcElem (e : Entry) (i : Nat) : Act Nat :=
  if e.prog ≤ i && decide (e.state = .pending) then waitAct .other else elementAct e.tag e.segs i

/-- Element `i` of a captured chain; 0 where there is none. -/
def optElem (e : Option Entry) (i : Nat) : Act Nat :=
  match e with
  | some e => srcElem e i
  | none => pure 0

/-- Whether element `i` is active (R155). -/
def Flight.active (f : Flight) (i : Nat) : Act Bool :=
  match f.mask with
  | some m => do let c ← srcElem m i; pure (decide (c = 1))
  | none => pure true

/-- Element `i` of the version that an inactive element keeps: 0 where it is empty or too short (R155). -/
def oldElem (old : Entry) (i : Nat) : Act Nat :=
  if old.state != .empty && decide (i < old.len) then srcElem old i else pure 0

/-- Position of va that element `i` of a permute takes, none for 0, and the flag (R173, R174). -/
def permIndex (f : Flight) (op : VPerm) (i k : Nat) : Option Nat × Flags :=
  let la := (f.va.map (·.len)).getD 0
  match op with
  | .slup => (if f.xb.toNat ≤ i then some (i - f.xb.toNat) else none, 0#9)
  | .sldn => (if i + f.xb.toNat < la then some (i + f.xb.toNat) else none, 0#9)
  | .rgath => if k < la then (some k, 0#9) else (none, fIDX)
  | .unzip => let p := 2 * i + f.xb.toNat % 2; (if p < la then some p else none, 0#9)
  | .rev => (some (f.vl - 1 - i), 0#9)
  | _ => (some i, 0#9)

/-- The code that active element `i` receives, with its flags: the functions of R158 to R177. DEDUCED: the scalar of vbcast
and vmerge enters as R154 has it, a NaN as the canonical one with NV where it is signalling (log 93). -/
def opElem (f : Flight) (i : Nat) : Act (Nat × Flags) :=
  match f.op with
  | .bin .scale => do
    let a ← optElem f.va i
    let b ← (match f.vb with
      | some e => (do let k ← srcElem e (i / (if f.blk = .b16 then 16 else 32)); pure (some k))
      | none => pure none : Act (Option Nat))
    pure (binElem .scale f.ty f.frm a b f.xb 0)
  | .bin o => do
    let a ← optElem f.va i
    let b ← (match f.vb with
      | some e => (do let k ← srcElem e i; pure (some k))
      | none => pure none : Act (Option Nat))
    let c ← if o.accumulates then optElem f.vd i else pure 0
    pure (binElem o f.ty f.frm a b f.xb c)
  | .un .id => pure (unElem .id f.ty i 0)
  | .un o => do let a ← optElem f.va i; pure (unElem o f.ty i a)
  | .cvt sat rm t => do
    let a ← optElem f.va i
    pure (convert rm sat ((f.va.map (·.tag)).getD .f32) t i a)
  | .perm .bcast =>
    match f.vb with
    | some e => do let b ← srcElem e 0; pure (b, 0#9)
    | none => pure (scalarElem f.ty f.frm f.xb)
  | .perm .merge =>
    match f.vb with
    | some e => do let b ← srcElem e i; pure (b, 0#9)
    | none => pure (scalarElem f.ty f.frm f.xb)
  | .perm .zip => do
    let c ← optElem (if i % 2 = 0 then f.va else f.vb) (i / 2)
    pure (c, 0#9)
  | .perm o => do
    let k ← (match o, f.vb with
      | .rgath, some e => srcElem e i
      | _, _ => pure f.xb.toNat : Act Nat)
    let (p, fl) := permIndex f o i k
    match p with
    | some j => do let c ← optElem f.va j; pure (c, fl)
    | none => pure (0, fl)
  | .mask o => do
    let a ← optElem f.va i
    let b ← optElem f.vb i
    pure (match o with
      | .and => a &&& b
      | .or => a ||| b
      | .xor => a ^^^ b
      | _ => 1 - a, 0#9)
  | .pack => do let a ← optElem f.va i; pure (a, 0#9)
  | .red .rand => pure (coinCode f.dkey f.dstream f.dctr (0x00100000 + i), 0#9)
  | _ => pure (0, 0#9)

/-! ### Writing a destination (06_chains R134) -/

/-- One swatch for a stream: a full quota traps for element `k`, an empty free list waits, and so does one that earlier
requests empty (R134). -/
def streamAlloc (k : Nat) (since : Option Nat) : Act Nat := fun s =>
  match s.allocTurn since (List.replicate 256 0#8) with
  | .error .quota => .error (.trap (NoRoom.quota.trap k))
  | .error .bolt => .error (.wait .bolt)
  | .ok r => .ok r

/-- The version with its segments grown until they cover `need` of `total` bytes: one swatch for each, and the map
before the fifth (R134). -/
def grow (k : Nat) (since : Option Nat) (need total : Nat) : Nat → Entry → Act Entry
  | 0, e => pure e
  | n + 1, e =>
    if need ≤ 256 * e.segs.length then pure e
    else do
      let m ← (if e.segs.length = 4 && e.map.isNone then (do let i ← streamAlloc k since; pure (some i)) else pure e.map : Act (Option Nat))
      let i ← streamAlloc k since
      let segs := e.segs ++ [{ swatch := i, first := 0, count := Nat.min 256 (total - 256 * e.segs.length) }]
      match m with
      | some j => modify fun s => { s with cl := s.cl.mapSwatch j fun w => { w with data := mapBytes segs } }
      | none => pure ()
      grow k since need total n { e with segs := segs, map := m }

/-- The version with the code `c` at position `j`; `total` is the length it will have, and the swatches for it are
allocated for element `k`. -/
def writeElem (k : Nat) (since : Option Nat) (e : Entry) (total j c : Nat) : Act Entry := do
  let sp := elemSpan e.tag j
  let need := if j + 1 = total then bytesFor e.tag total else sp.1 + sp.2
  let e' ← grow k since need (bytesFor e.tag total) 65 e
  modify fun s =>
    let (g0, gn) := granuleSpan e.tag j
    let new := putElement e.tag (s.cl.rawBytes e'.segs g0 gn) j c
    { s with cl := s.cl.putBytes e'.segs sp.1 ((new.drop (sp.1 - g0)).take sp.2) }
  pure { e' with prog := j + 1 }

/-- The state with destination `j` of the flight replaced. -/
def State.withDest (s : State) (j : Nat) (e : Entry) : State :=
  { s with h := { s.h with flight := s.h.flight.map fun f =>
    { f with dests := (List.range f.dests.length).zipWith (fun n d => if n = j then (d.1, e, d.2.2) else d) f.dests } } }

/-- Replace destination `j` of the flight. -/
def setDest (j : Nat) (e : Entry) : Act Unit := modify fun s => s.withDest j e

/-- Growth as far as swatches last, and whether all came: what a stopped instruction has taken it holds, a map before
its fifth swatch too (R134). -/
def growHeld (k : Nat) (since : Option Nat) (need total : Nat) : Nat → Entry → State → (Entry × State) × Bool
  | 0, e, s => ((e, s), true)
  | n + 1, e, s =>
    if need ≤ 256 * e.segs.length then ((e, s), true)
    else
      let taken : Option (Entry × State) :=
        if e.segs.length = 4 && e.map.isNone then
          match streamAlloc k since s with
          | .ok (j, s1) => some ({ e with map := some j }, { s1 with cl := s1.cl.mapSwatch j fun w => { w with data := mapBytes e.segs } })
          | .error _ => none
        else some (e, s)
      match taken with
      | none => ((e, s), false)
      | some (e1, s1) =>
        match grow k since (256 * e1.segs.length + 1) total 1 e1 s1 with
        | .ok (e2, s2) => growHeld k since need total n e2 s2
        | .error _ => ((e1, s1), false)

/-- The destinations of a stopped element, from `j` on, with the swatches that it has taken (R134). -/
def holdDests (f : Flight) : Nat → List (Nat × Entry × Entry) → State → State
  | _, [], s => s
  | j, d :: r, s =>
    let e := d.2.1
    let p := if f.op = VOp.perm .compr then e.prog else f.k
    let sp := elemSpan e.tag p
    let need := if p + 1 = f.vl then bytesFor e.tag f.vl else sp.1 + sp.2
    let (g, all) := growHeld f.k f.boltSince need (bytesFor e.tag f.vl) 65 e s
    let s1 := g.2.withDest j g.1
    if all then holdDests f (j + 1) r s1 else s1

/-- The state in which an element has stopped: for want of a swatch, what it has taken is held (R134). -/
def State.stoppedAt (s : State) (st : Stop) : State :=
  let short : Bool := match st with
    | .trap tr => decide (tr.cause = .pool)
    | .wait k => decide (k = .bolt)
    | .fault _ => false
  match s.h.flight with
  | some f => if short then holdDests f 0 f.dests s else s
  | none => s

/-! ### Memory elements (09_vmem R201, R202, R204) -/

/-- Values of an element fault (R204). -/
def faultVal2 (k fld : Nat) (store : Bool) : Word :=
  BitVec.ofNat 64 (k + (if store then 2 ^ 32 else 0) + fld * 2 ^ 33)

/-- Byte address and size of element `k`, field `fld` (R201); `idx` is the element of the index chain, read as its
type. -/
def Flight.addr (f : Flight) (form : VMemForm) (k fld : Nat) (idx : Int) : Nat × Nat :=
  let e := elemBits f.ty / 8
  match form with
  | .unit =>
    let sp := elemSpan f.ty k
    ((f.xa.toNat + sp.1) % 2 ^ 64, sp.2)
  | .strided => (((f.xa.toNat : Int) + k * f.xb.toInt) % 2 ^ 64 |>.toNat, e)
  | .indexed => (((f.xa.toNat : Int) + idx) % 2 ^ 64 |>.toNat, e)
  | .seg => ((f.xa.toNat + (k * f.nf + fld) * e) % 2 ^ 64, e)

/-- Element `k` of the index chain, sign-extended for the signed types (R201). -/
def Flight.index (f : Flight) (k : Nat) : Act Int :=
  match f.vb with
  | some e => do let c ← srcElem e k; pure (intOf (isSigned e.tag) (elemBits e.tag) c)
  | none => pure 0

/-- The alignment of R202 of an element at `a`. -/
def vmemAlign (t : ElemType) (a k fld : Nat) (store : Bool) : Act Unit :=
  requireAct (isPacked t || decide (a % Nat.min (elemBits t / 8) 8 = 0))
    { cause := .misaligned, val := BitVec.ofNat 64 a, val2 := faultVal2 k fld store }

/-! ### Pinning (09_vmem R205) -/

/-- Whether the index of cb8x2 that holds element `k` is active: some coordinate of it below VL is (R207). -/
def Flight.indexActive (f : Flight) (k : Nat) : Act Bool := do
  let l ← ((List.range 8).filter fun j => decide (k / 8 * 8 + j < f.vl)).mapM fun j => f.active (k / 8 * 8 + j)
  pure (l.any id)

/-- Pin the page of byte `va`, the first of `n`, for element `k` and field `fld`: a scratch access is tested against the
granted bytes, any other is translated. The walk has read its tables; the bits of the page itself, and the TLBs, follow
with the first access through it (13_ordering R291). -/
def pinPage (store : Bool) (va n k fld : Nat) : Act Unit := do
  let s ← get
  match s.scratchOff va, s.h.flight with
  | some off, _ =>
    requireAct (decide (off + n ≤ s.t.scrb)) { cause := .access, val := BitVec.ofNat 64 va, val2 := faultVal2 k fld store }
  | none, none => pure ()
  | none, some f =>
    if f.pins.any fun p => p.1 = va / 65536 then pure ()
    else
      match s.stage1 s.t.part s.t.sub s.t.asid.toNat s.h.handler va (if store then .store else .load) with
      | .error e => raiseAct (e.trap (BitVec.ofNat 64 va) (faultVal2 k fld store))
      | .ok x =>
        let y : Xlat := { x with pa := x.pa - x.pa % 65536, pp := x.pp - x.pp % 65536, reads := [], seen := [] }
        let s1 := s.walked x.reads x.seen
        set { s1 with h := { s1.h with flight := some { f with pins := f.pins ++ [(va / 65536, y)] } } }

/-- Pin what field `fld` and those after it, `n` in all, of element `k` touch. -/
def pinFields (f : Flight) (form : VMemForm) (store : Bool) (k : Nat) (idx : Int) : Nat → Nat → Act Unit
  | 0, _ => pure ()
  | n + 1, fld => do
    let (a, len) := f.addr form k fld idx
    if form != .unit then vmemAlign f.ty a k fld store
    if isPacked f.ty then do
      pinPage store a 1 k fld
      pinPage store ((a + len - 1) % 2 ^ 64) 1 k fld
    else pinPage store a len k fld
    pinFields f form store k idx n (fld + 1)

/-- Poison that a memory instruction meets in a chain is an element fault: TRAPVAL is the swatch, and TRAPVAL2 has the
element, the field and the direction (R204). -/
def chainPoison {α : Type} (k fld : Nat) (store : Bool) (a : Act α) : Act α := fun s =>
  match a s with
  | .error (.trap tr) => .error (.trap (if tr.cause = .poison then { tr with val2 := faultVal2 k fld store } else tr))
  | r => r

/-- Whether element `k` of a memory instruction moves data: it is active, and for cb8x2 the first of its index. DESIGN
CHOICE: an index of cb8x2 moves, and reports its faults, at its first weight, also where the mask leaves that one out
and another in; an index in which VSTART lies does not move again (R207, log 112). -/
def Flight.moves (f : Flight) (store : Bool) (k : Nat) : Act Bool :=
  chainPoison k 0 store (if f.ty = .cb8x2 then (if k % 8 != 0 then pure false else f.indexActive k) else f.active k)

/-- The address offset of element `k` from the index chain, 0 in the other forms. -/
def Flight.offset (f : Flight) (form : VMemForm) (store : Bool) (k : Nat) : Act Int :=
  if form = .indexed then chainPoison k 0 store (f.index k) else pure 0

/-- Pin for element `k`; a unit-stride access has the alignment of xa tested at its first element (R202). DEDUCED (log 104):
so also where the mask leaves that element out, and TRAPVAL is the element's own address. -/
def pinElem (f : Flight) (form : VMemForm) (store : Bool) (k : Nat) : Act Unit := do
  if form = .unit && decide (k = f.k) then
    requireAct (isPacked f.ty || decide (f.xa.toNat % Nat.min (elemBits f.ty / 8) 8 = 0))
      { cause := .misaligned, val := BitVec.ofNat 64 (f.addr form k 0 0).1, val2 := faultVal2 k 0 store }
  let on ← f.moves store k
  if on then do
    let idx ← f.offset form store k
    pinFields f form store k idx f.nf 0

/-- The leaf entry of stage 1 of a pinned page, which tells a page of 512 MiB from those of 64 KiB. -/
def pinLeaf (x : Xlat) : Nat := (x.entry.bind fun e => e.marks.head?).getD 0

/-- Whether 512 distinct pages are pinned. -/
def Flight.pinsFull (f : Flight) : Bool :=
  decide (512 ≤ f.pins.length) && decide (512 ≤ (f.pins.map fun p => pinLeaf p.2).eraseDups.length)

/-- The pinning of elements from `k` on, at most `n` of them: up to the last, to the 512th page, or to the lowest element
with a fault or poison, which is noted. What the mask and the index chain do not give yet is waited for. -/
def pinFrom (f : Flight) (form : VMemForm) (store : Bool) : Nat → Nat → Act Unit
  | 0, k => modify fun s => { s with h := { s.h with flight := s.h.flight.map fun g => { g with pinEnd := k } } }
  | n + 1, k => fun s =>
    let done := fun (fault : Option (Nat × Trap)) =>
      .ok ((), { s with h := { s.h with flight := s.h.flight.map fun g => { g with pinEnd := k, pinFault := fault } } })
    if s.h.flight.any Flight.pinsFull then done none
    else
      match pinElem f form store k s with
      | .ok (_, s') => pinFrom f form store n (k + 1) s'
      | .error (.trap tr) => done (some (k, tr))
      | .error st => .error st

/-- The next group of pages of a memory instruction, where its elements have come to it. -/
def State.pinFlight (s : State) : Except Stop State :=
  match s.h.flight with
  | none => .ok s
  | some f =>
    let go := fun form store =>
      if f.k < f.pinEnd || f.pinFault.isSome then .ok s
      else
        let s1 := { s with h := { s.h with flight := some { f with pins := [] } } }
        match pinFrom f form store (f.vl - f.k) f.k s1 with
        | .ok (_, s') => .ok s'
        | .error st => .error st
    match f.op with
    | .load form => go form false
    | .store form => go form true
    | _ => .ok s

/-- Read `n` bytes byte by byte where they may cross a line. -/
def loadBytes (a : Nat) (val2 : Word) : Nat → Act (List Byte)
  | 0 => pure []
  | n + 1 => fun s =>
    match loadAt (a % 2 ^ 64) 1 .load val2 s with
    | .error e => .error e
    | .ok (b, s1) => s.keepMarks (a % 2 ^ 64) ((do let r ← loadBytes (a + 1) val2 n; pure (b ++ r) : Act (List Byte)) s1)

/-- The code of element `k` from memory; the packed types have their bits within the bytes of their span. -/
def memElem (f : Flight) (form : VMemForm) (k fld : Nat) (idx : Int) : Act Nat := do
  let (a, n) := f.addr form k fld idx
  if form != .unit then vmemAlign f.ty a k fld false
  if isPacked f.ty then do
    let bs ← loadBytes a (faultVal2 k fld false) n
    if f.ty = .cb8x2 then pure (ofBytes bs)
    else pure (ofBytes bs / 2 ^ (k * elemBits f.ty % 8) % 2 ^ elemBits f.ty)
  else do
    let bs ← loadAt a n .load (faultVal2 k fld false)
    pure (ofBytes bs)

/-- The bytes and masks that element `k` stores (R207). -/
def storeCells (t : ElemType) (k n c : Nat) : List (Byte × Byte) :=
  if isPacked t && t != .cb8x2 then
    let lo := k * elemBits t % 8
    (bytesOf n (c * 2 ^ lo)).zip (bytesOf n ((2 ^ elemBits t - 1) * 2 ^ lo))
  else whole (bytesOf n c)

/-- Store cells one by one where they may cross a line. -/
def storeEach (a : Nat) (val2 : Word) : List (Byte × Byte) → Act Unit
  | [] => pure ()
  | c :: r => do
    storeCellsAt (a % 2 ^ 64) [c] val2
    storeEach (a + 1) val2 r

/-- Store element `k`. -/
def storeElem (f : Flight) (form : VMemForm) (k fld : Nat) (idx : Int) (c : Nat) : Act Unit := do
  let (a, n) := f.addr form k fld idx
  if form != .unit then vmemAlign f.ty a k fld true
  if isPacked f.ty then storeEach a (faultVal2 k fld true) (storeCells f.ty k n c)
  else storeCellsAt a (storeCells f.ty k n c) (faultVal2 k fld true)

/-! ### One element -/

/-- The fields of element `k` of a load, from field `j` on. -/
def loadFields (f : Flight) (form : VMemForm) (k : Nat) (idx : Int) : Nat → List (Nat × Entry × Entry) → Act Unit
  | _, [] => pure ()
  | j, d :: r => do
    let c ← memElem f form k j idx
    let e ← writeElem k f.boltSince d.2.1 f.vl k c
    setDest j e
    loadFields f form k idx (j + 1) r

/-- The undisturbed element `k` of every destination, from `j` on. -/
def keepFields (f : Flight) (k : Nat) : Nat → List (Nat × Entry × Entry) → Act Unit
  | _, [] => pure ()
  | j, d :: r => do
    let c ← chainPoison k j false (oldElem d.2.2 k)
    let e ← writeElem k f.boltSince d.2.1 f.vl k c
    setDest j e
    keepFields f k (j + 1) r

/-- The fields of element `k` of a store. -/
def storeFields (f : Flight) (form : VMemForm) (k : Nat) (idx : Int) : Nat → List Entry → Act Unit
  | _, [] => pure ()
  | j, e :: r => do
    let c ← chainPoison k j true (srcElem e k)
    storeElem f form k j idx c
    storeFields f form k idx (j + 1) r

/-- Element `k` of the instruction (R156, R207): the flags that it raises. -/
def stepElem (f : Flight) : Act Flags := do
  let k := f.k
  match f.op with
  | .load form =>
    if f.ty = .cb8x2 && k % 8 != 0 then pure 0#9
    else do
      let on ← f.moves false k
      if on then do
        let idx ← f.offset form false k
        loadFields f form k idx 0 f.dests
      else keepFields f k 0 f.dests
      pure 0#9
  | .store form =>
    do
      let on ← f.moves true k
      if on then do
        let idx ← f.offset form true k
        storeFields f form k idx 0 f.datas
      pure 0#9
  | .perm .compr => do
    let b ← optElem f.vb k
    match f.dests with
    | d :: _ =>
      if b = 1 then do
        let a ← optElem f.va k
        let e ← writeElem k f.boltSince { d.2.1 with len := 0 } f.vl d.2.1.prog a
        setDest 0 e
    | [] => pure ()
    pure 0#9
  | _ =>
    match f.dests with
    | [] => pure 0#9
    | d :: _ => do
      let on ← f.active k
      let (c, fl) ← (if on then opElem f k
        else if f.op = VOp.perm .merge then (do let a ← optElem f.va k; pure (a, 0#9))
        else (do let c ← oldElem d.2.2 k; pure (c, 0#9)) : Act (Nat × Flags))
      let e ← writeElem k f.boltSince d.2.1 f.vl k c
      setDest 0 e
      pure fl

/-- The state after an element: the next one, its flags raised (R157, R73); a swatch waited for has come. -/
def State.afterElem (s : State) (k : Nat) (fl : Flags) : State :=
  { s with h := { s.h with
    fex := fexAfter s.h.fex fl k,
    wait := none,
    flight := s.h.flight.map fun f => { f with k := k + 1, flags := f.flags ||| fl, boltSince := none } } }

/-- Elements in ascending order, at most `n` of them, until one stops the instruction (R156, R157). -/
def runElems : Nat → State → State × Option Stop
  | 0, s => (s, none)
  | n + 1, s0 =>
    match s0.h.flight with
    | none => (s0, none)
    | some f0 =>
      if f0.vl ≤ f0.k then (s0, none)
      else
        match s0.pinFlight with
        | .error st => (s0, some st)
        | .ok s =>
          let f := s.h.flight.getD f0
          match (match f.pinFault with
            | some (k, tr) => if k = f.k then raiseAct tr s else stepElem f s
            | none => stepElem f s) with
          | .ok (fl, s') =>
            let s2 := s'.afterElem f.k fl
            let en := s2.h.enabled fl
            if en != 0#9 then
              (s2, some (.trap { cause := flagCause en, val := BitVec.ofNat 64 f.k, val2 := fl.setWidth 64 }))
            else runElems n s2
          | .error st => (s.stoppedAt st, some st)

/-! ### Stopping, retiring, squashing -/

/-- The destinations with progress index `k`; a vcompr's counts the elements it has taken. -/
def Flight.shown (f : Flight) : List (Nat × Entry × Entry) :=
  if f.op = VOp.perm .compr then f.dests else f.dests.map fun d => (d.1, { d.2.1 with prog := Nat.min f.k f.vl }, d.2.2)

/-- The destinations as their names and captures see them (R126). The length of a vcompr's reads as 0 (R173). -/
def syncDests : List (Nat × Entry × Entry) → Bool → State → State
  | [], _, s => s
  | d :: r, hide, s => syncDests r hide (s.showVersion (if hide then { d.2.1 with len := 0, prog := 0 } else d.2.1))

/-- The instruction waits before its next element: VSTART names it, and the destinations stay pending. -/
def State.pauseFlight (s : State) : State :=
  match s.h.flight with
  | none => s
  | some f =>
    let s1 := syncDests f.shown (f.op = VOp.perm .compr) s
    { s1 with h := { s1.h with vstart := BitVec.ofNat 18 f.k, flight := s1.h.flight.map fun g =>
      { g with dests := g.dests.zipWith (fun d e => (d.1, e.2.1, d.2.2)) f.shown } } }

/-- The instruction stops at its next element (R134, R157): VSTART names it, the flags of the performed elements join
FFLAGS, and the destinations stay pending. -/
def State.parkFlight (s : State) : State := let s1 := s.pauseFlight; { s1 with h := s1.h.halt }

/-- Retirement of the destinations (R124): each replaces the version it was built over. One whose name a later
instruction has taken is released (R132). -/
def retireDests : List (Nat × Entry × Entry) → State → State
  | [], s => s
  | d :: r, s => retireDests r (s.retireVersion s.h.id d.1 d.2.1 d.2.2)

/-- The destinations with the swatches of their full length, and a vcompr's with the length it has (R173). -/
def closeDests (f : Flight) : List (Nat × Entry × Entry) → Act (List (Nat × Entry × Entry))
  | [] => pure []
  | d :: r => do
    let e := d.2.1
    let len := if f.op = VOp.perm .compr then e.prog else e.len
    let total := bytesFor e.tag len
    let e' ← grow (f.vl - 1) f.boltSince total total 65 e
    let segs := (List.range e'.segs.length).zipWith (fun n (g : Seg) => { g with count := Nat.min 256 (total - 256 * n) }) e'.segs
    match e'.map with
    | some j => modify fun s => { s with cl := s.cl.mapSwatch j fun w => { w with data := mapBytes segs } }
    | none => pure ()
    let r' ← closeDests f r
    pure ((d.1, { e' with segs := segs, len := len }, d.2.2) :: r')

/-- The instruction retires (R124, R150, R157): its flags join FFLAGS, its captures are released, VSTART is 0. -/
def retireAll : Act Unit := do
  let s ← get
  match s.h.flight with
  | none => pure ()
  | some f =>
    let ds ← closeDests f f.dests
    modify fun s =>
      let s1 := (retireDests ds { s with h := { s.h with flight := none } }).releaseAll f.holds
      ({ s1 with h := { s1.h with fflags := s1.h.fflags ||| f.flags, vstart := 0#18 } }).advance

/-- The names of a squashed instruction return to the versions they had (R124, R147). -/
def dropDests : List (Nat × Entry × Entry) → State → State
  | [], s => s
  | d :: r, s => dropDests r (s.undoVersion d.1 d.2.1 d.2.2)

/-- A squash of the stopped or waiting instruction, if there is one (R124, R147, R184): it contributes no flag, and the
FEX registers are as at its issue, all ones (R73; log 69). What it had stored or marked in memory stays, and so do the
flags that joined FFLAGS when it stopped before (R157; log 69). -/
def State.squash (s : State) : State :=
  match s.h.flight with
  | none => s
  | some f =>
    let s1 := (dropDests f.dests { s with h := { s.h with flight := none } }).releaseAll f.holds
    let h := if f.op = VOp.pack then s1.h else s1.h.clearFex
    { s1 with h := { h with vstart := 0#18, dctr := if f.op.draws then f.dctr else s1.h.dctr } }

/-- The fields of element `k` of a store's data, from field `j` on, are read. -/
def probeFields (k : Nat) : Nat → List Entry → Act Unit
  | _, [] => pure ()
  | j, e :: r => do
    let _ ← chainPoison k j true (srcElem e k)
    probeFields k (j + 1) r

/-- The elements that a store will read of its chains, from element `k` on, at most `n` of them: poison among them stops
it before its first element, and so does an element that is not produced (09_vmem R206, R207). -/
def probeStore (f : Flight) : Nat → Nat → Act Unit
  | 0, _ => pure ()
  | n + 1, k =>
    if f.vl ≤ k then pure ()
    else do
      let on ← chainPoison k 0 true (f.active k)
      if on then do
        probeFields k 0 f.datas
        if f.op = .store .indexed then (do let _ ← f.offset .indexed true k)
      probeStore f n (k + 1)

/-- Elements of a store from `k` on, at most `n` of them, as they would be performed. -/
def tryStore (f : Flight) : Nat → Nat → Act Unit
  | 0, _ => pure ()
  | n + 1, k =>
    if f.vl ≤ k then pure ()
    else do
      let _ ← stepElem { f with k := k }
      tryStore f n (k + 1)

/-- Poison that a store will meet at an element below `stop`, or the poison `tr` that its pinning has found there, squashes it
before its first element, unless an element below, or an earlier field of its own, stops it with a fault that only shows when it
is performed (R204, R206): then the elements before that one are performed. -/
def State.storePoison (s : State) (f : Flight) (stop : Nat) (tr : Trap) : Option Stop :=
  match tryStore f (stop - f.k) f.k s with
  | .error (.trap x) => if x.cause = .poison then some (.trap x) else none
  | _ => some (.trap tr)

/-- What keeps a store from its first element (09_vmem R206, R207): data that is not produced, or that holds poison, of the
elements below the one whose pinning has found a fault, which is taken first (R204, R205); poison that the pinning has
found; an earlier mread of the hart, which has not retired. -/
def State.storeHeld (s : State) : Option Stop :=
  match s.h.flight with
  | some f =>
    if f.datas.isEmpty then none
    else
      let stop := (f.pinFault.map (·.1)).getD f.vl
      let held := if (s.readsOf s.h.id).isEmpty then none else some (.wait .other)
      match probeStore f (stop - f.k) f.k s, f.pinFault with
      | .error (.trap tr), _ => if tr.cause = .poison then s.storePoison f stop tr else some (.trap tr)
      | .error st, _ => some st
      | .ok _, some (_, tr) => if tr.cause = .poison then s.storePoison f stop tr else held
      | .ok _, none => held
  | none => none

/-- Whether an instruction that has all its elements cannot retire yet: the hart's earlier mreads have not, or the producer of
a version that it supersedes, or one that its version has met at a barrier (R108, R124). -/
def State.retireHeld (s : State) : Bool :=
  s.h.flight.any fun f => !(s.readsOf s.h.id).isEmpty ||
    f.dests.any fun d => !(s.awaited d.2.2).isEmpty || s.heldBack d.2.1.id

/-- What becomes of the elements performed so far and of the stop, if there is one; poison squashes the instruction (R147,
R206). -/
def settleRun (r : State × Option Stop) : Out :=
  match r with
  | (s, none) =>
    if s.h.flight.any fun f => decide (f.k < f.vl) then .next s.pauseFlight
    else if s.retireHeld then .next (s.pauseFlight.enterWait .other)
    else
      match retireAll s with
      | .ok (_, s') => .next s'
      | .error (.trap tr) => .next (takeTrap tr false s.parkFlight)
      | .error (.wait k) => .next (s.pauseFlight.enterWait k)
      | .error (.fault f) => .fault f
  | (s, some (.trap tr)) =>
    if tr.cause = .poison then .next (takeTrap tr false s.squash) else .next (takeTrap tr false s.parkFlight)
  | (s, some (.wait k)) =>
    let s1 := s.pauseFlight.enterWait k
    .next { s1 with h := { s1.h with flight := s1.h.flight.map fun f =>
      { f with boltSince := if k = .bolt then some (f.boltSince.getD s.time) else f.boltSince } } }
  | (_, some (.fault f)) => .fault f

/-- Elements that an instruction still has. -/
def State.elemsLeft (s : State) : Nat :=
  match s.h.flight with
  | some f => f.vl - f.k
  | none => 0

/-- Run the issued instruction from its next element, at most `n` elements. A memory instruction pins first, and a store
has all its data before its first element. The hart issues nothing later meanwhile (log 84). -/
def runFlight (n : Nat) (s : State) : Out :=
  match (if s.elemsLeft = 0 then .ok s else s.pinFlight) with
  | .error st => settleRun (s, some st)
  | .ok s1 =>
    match s1.storeHeld with
    | some st => settleRun (s1, some st)
    | none => settleRun (runElems n s1)

/-- A streaming vector instruction: checks, issue, elements, retirement. -/
def execVec (v : VSpec) (s : State) : Out :=
  let w := wordOf (some v.word)
  if s.who = .user then
    match s.vectorContext with
    | .error save => .next (takeTrap { cause := .vswitch, val := save } false s)
    | .ok s1 =>
      match v.check s1 with
      | .error (.trap tr) => .next (takeTrap tr false s1)
      | .error (.wait k) => .next (s1.enterWait k)
      | .error (.fault f) => .fault f
      | .ok _ => let s2 := v.issue s1; runFlight s2.elemsLeft s2
  else .next (takeTrap { cause := .illegal, val := w } false s)

/-- The stopped instruction continues at VSTART with its captures (17_traps R353). -/
def resumeFlight (s : State) : Out :=
  let s1 := { s with h := { s.h with flight := s.h.flight.map fun f => { f with k := s.h.vstart.toNat } } }
  runFlight s1.elemsLeft s1

/-- A wait for a swatch that has lasted 10 µs stops the instruction (R134; 10_matrix R233 for mread). -/
def execBoltWaitTimeout (s : State) : Out :=
  .next (match s.h.flight with
    | some f =>
      match f.boltSince with
      | some t =>
        if t + 10000 ≤ s.time then
          let s1 := { s with h := { s.h with flight := some { f with boltSince := none } }.halt }
          takeTrap (NoRoom.bolt.trap s.h.vstart.toNat) false s1
        else s
      | none => s
    | none =>
      match s.h.wait with
      | some w => if w.kind = .bolt && decide (w.since + 10000 ≤ s.time) then takeTrap (NoRoom.bolt.trap 0) false s else s
      | none => s)

/-- The element after the last of the piece that holds element `k`: an element belongs to the piece of its first byte, so
one of a 6-bit type that straddles two pieces to the earlier (R149). -/
def pieceEnd (t : ElemType) (k : Nat) : Nat :=
  ((k * elemBits t / 2048 + 1) * 2048 + elemBits t - 1) / elemBits t

/-- A waiting instruction executes its next piece of 256 destination bytes (R149), or as much of it as its sources
allow. -/
def execVectorPieceExecute (s : State) : Out :=
  match s.h.flight with
  | none => .next s
  | some f =>
    match f.op with
    | .red .rand | .bin _ | .un _ | .cvt _ _ _ | .perm _ | .mask _ | .load _ | .store _ | .pack =>
      let s1 := { s with h := { s.h with flight := some { f with k := s.h.vstart.toNat } } }
      let t := (f.dests.map (·.2.1.tag)).headD f.ty
      runFlight (pieceEnd t s.h.vstart.toNat - s.h.vstart.toNat) s1
    | .red _ => .next s

end Sys2Proof.Machine
end

