-- ==== Sys2Proof/Machine/VectorInstr.lean ====
section
/-! DEFINITION. The vector arithmetic instructions, one meaning each (07_vector R158 to R177), and cpack (06_chains
R138): what each asks of the machinery of Vector.lean. -/

namespace Sys2Proof.Machine

/-- A two-operand instruction of the vector convention (03_words R63). -/
def vec2 (op : VBin) (major : BitVec 7) (code : BitVec 2) (m sc : Bool) (d a b : Reg) (s : State) : Out :=
  execVec { word := fmtA major d a b (vecFn m sc code), op := .bin op, masked := m, bsel := if sc then .scalar else .vec } s

/-- A unary instruction (R170): the sub-operation in b. -/
def vec1 (op : VUn) (sub : BitVec 7) (m : Bool) (d a : Reg) (s : State) : Out :=
  execVec { word := fmtA 0x34#7 d a sub (vecFn m false 0#2), op := .un op, masked := m } s

/-- A permute of major 0x36 or 0x37 (R173, R174). -/
def vecP (op : VPerm) (major : BitVec 7) (code : BitVec 2) (m sc : Bool) (bsel : BSel) (d a b : Reg) (s : State) : Out :=
  execVec { word := fmtA major d a b (vecFn m sc code), op := .perm op, masked := m, bsel := bsel } s

/-- A mask instruction (R176). -/
def vecM (op : VMaskOp) (code : BitVec 2) (bsel : BSel) (d a b : Reg) (s : State) : Out :=
  execVec { word := fmtA 0x39#7 d a b (vecFn false false code), op := .mask op, bsel := bsel } s

/-- vadd (R158). -/
def execVadd (m sc : Bool) (d a b : Reg) (s : State) : Out := vec2 .add 0x2A#7 0#2 m sc d a b s
/-- vsub (R158). -/
def execVsub (m sc : Bool) (d a b : Reg) (s : State) : Out := vec2 .sub 0x2A#7 1#2 m sc d a b s
/-- vrsub (R158). -/
def execVrsub (m sc : Bool) (d a b : Reg) (s : State) : Out := vec2 .rsub 0x2A#7 2#2 m sc d a b s
/-- vmul (R158). -/
def execVmul (m sc : Bool) (d a b : Reg) (s : State) : Out := vec2 .mul 0x2A#7 3#2 m sc d a b s
/-- vadds (R159). -/
def execVadds (m sc : Bool) (d a b : Reg) (s : State) : Out := vec2 .adds 0x2B#7 0#2 m sc d a b s
/-- vsubs (R159). -/
def execVsubs (m sc : Bool) (d a b : Reg) (s : State) : Out := vec2 .subs 0x2B#7 1#2 m sc d a b s
/-- vmulh (R159). -/
def execVmulh (m sc : Bool) (d a b : Reg) (s : State) : Out := vec2 .mulh 0x2B#7 2#2 m sc d a b s
/-- vavg (R159). -/
def execVavg (m sc : Bool) (d a b : Reg) (s : State) : Out := vec2 .avg 0x2B#7 3#2 m sc d a b s
/-- vdiv (R160). -/
def execVdiv (m sc : Bool) (d a b : Reg) (s : State) : Out := vec2 .div 0x2C#7 0#2 m sc d a b s
/-- vrem (R160). -/
def execVrem (m sc : Bool) (d a b : Reg) (s : State) : Out := vec2 .rem 0x2C#7 1#2 m sc d a b s
/-- vmin (R160). -/
def execVmin (m sc : Bool) (d a b : Reg) (s : State) : Out := vec2 .min 0x2C#7 2#2 m sc d a b s
/-- vmax (R160). -/
def execVmax (m sc : Bool) (d a b : Reg) (s : State) : Out := vec2 .max 0x2C#7 3#2 m sc d a b s
/-- vand (R161). -/
def execVand (m sc : Bool) (d a b : Reg) (s : State) : Out := vec2 .and 0x2D#7 0#2 m sc d a b s
/-- vor (R161). -/
def execVor (m sc : Bool) (d a b : Reg) (s : State) : Out := vec2 .or 0x2D#7 1#2 m sc d a b s
/-- vxor (R161). -/
def execVxor (m sc : Bool) (d a b : Reg) (s : State) : Out := vec2 .xor 0x2D#7 2#2 m sc d a b s
/-- vandn (R161). -/
def execVandn (m sc : Bool) (d a b : Reg) (s : State) : Out := vec2 .andn 0x2D#7 3#2 m sc d a b s
/-- vsll (R162). -/
def execVsll (m sc : Bool) (d a b : Reg) (s : State) : Out := vec2 .sll 0x2E#7 0#2 m sc d a b s
/-- vsrl (R162). -/
def execVsrl (m sc : Bool) (d a b : Reg) (s : State) : Out := vec2 .srl 0x2E#7 1#2 m sc d a b s
/-- vsra (R162). -/
def execVsra (m sc : Bool) (d a b : Reg) (s : State) : Out := vec2 .sra 0x2E#7 2#2 m sc d a b s
/-- vrot (R162). -/
def execVrot (m sc : Bool) (d a b : Reg) (s : State) : Out := vec2 .rot 0x2E#7 3#2 m sc d a b s
/-- vceq (R163). -/
def execVceq (m sc : Bool) (d a b : Reg) (s : State) : Out := vec2 .ceq 0x2F#7 0#2 m sc d a b s
/-- vcne (R163). -/
def execVcne (m sc : Bool) (d a b : Reg) (s : State) : Out := vec2 .cne 0x2F#7 1#2 m sc d a b s
/-- vclt (R163). -/
def execVclt (m sc : Bool) (d a b : Reg) (s : State) : Out := vec2 .clt 0x2F#7 2#2 m sc d a b s
/-- vcle (R163). -/
def execVcle (m sc : Bool) (d a b : Reg) (s : State) : Out := vec2 .cle 0x2F#7 3#2 m sc d a b s
/-- vfadd (R165). -/
def execVfadd (m sc : Bool) (d a b : Reg) (s : State) : Out := vec2 .fadd 0x30#7 0#2 m sc d a b s
/-- vfsub (R165). -/
def execVfsub (m sc : Bool) (d a b : Reg) (s : State) : Out := vec2 .fsub 0x30#7 1#2 m sc d a b s
/-- vfmul (R165). -/
def execVfmul (m sc : Bool) (d a b : Reg) (s : State) : Out := vec2 .fmul 0x30#7 2#2 m sc d a b s
/-- vfdiv (R165). -/
def execVfdiv (m sc : Bool) (d a b : Reg) (s : State) : Out := vec2 .fdiv 0x30#7 3#2 m sc d a b s
/-- vfmin (R166). -/
def execVfmin (m sc : Bool) (d a b : Reg) (s : State) : Out := vec2 .fmin 0x31#7 0#2 m sc d a b s
/-- vfmax (R166). -/
def execVfmax (m sc : Bool) (d a b : Reg) (s : State) : Out := vec2 .fmax 0x31#7 1#2 m sc d a b s
/-- vfma (R166). -/
def execVfma (m sc : Bool) (d a b : Reg) (s : State) : Out := vec2 .fma 0x31#7 2#2 m sc d a b s
/-- vfms (R166). -/
def execVfms (m sc : Bool) (d a b : Reg) (s : State) : Out := vec2 .fms 0x31#7 3#2 m sc d a b s
/-- vfceq (R167). -/
def execVfceq (m sc : Bool) (d a b : Reg) (s : State) : Out := vec2 .fceq 0x32#7 0#2 m sc d a b s
/-- vfclt (R167). -/
def execVfclt (m sc : Bool) (d a b : Reg) (s : State) : Out := vec2 .fclt 0x32#7 1#2 m sc d a b s
/-- vfcle (R167). -/
def execVfcle (m sc : Bool) (d a b : Reg) (s : State) : Out := vec2 .fcle 0x32#7 2#2 m sc d a b s
/-- vfcun (R167). -/
def execVfcun (m sc : Bool) (d a b : Reg) (s : State) : Out := vec2 .fcun 0x32#7 3#2 m sc d a b s
/-- vscale (R168). -/
def execVscale (m sc : Bool) (d a b : Reg) (s : State) : Out := vec2 .scale 0x33#7 0#2 m sc d a b s
/-- vfnma (R169). -/
def execVfnma (m sc : Bool) (d a b : Reg) (s : State) : Out := vec2 .fnma 0x33#7 1#2 m sc d a b s
/-- vfsgn (R169). -/
def execVfsgn (m sc : Bool) (d a b : Reg) (s : State) : Out := vec2 .fsgn 0x33#7 2#2 m sc d a b s
/-- vfsqrt (R170). -/
def execVfsqrt (m : Bool) (d a : Reg) (s : State) : Out := vec1 .fsqrt 0#7 m d a s
/-- vfrcp (R170). -/
def execVfrcp (m : Bool) (d a : Reg) (s : State) : Out := vec1 .frcp 1#7 m d a s
/-- vfrsqrt (R170). -/
def execVfrsqrt (m : Bool) (d a : Reg) (s : State) : Out := vec1 .frsqrt 2#7 m d a s
/-- vflog2 (R170). -/
def execVflog2 (m : Bool) (d a : Reg) (s : State) : Out := vec1 .flog2 3#7 m d a s
/-- vfexp2 (R170). -/
def execVfexp2 (m : Bool) (d a : Reg) (s : State) : Out := vec1 .fexp2 4#7 m d a s
/-- vftanh (R170). -/
def execVftanh (m : Bool) (d a : Reg) (s : State) : Out := vec1 .ftanh 5#7 m d a s
/-- vfabs (R170). -/
def execVfabs (m : Bool) (d a : Reg) (s : State) : Out := vec1 .fabs 6#7 m d a s
/-- vfneg (R170). -/
def execVfneg (m : Bool) (d a : Reg) (s : State) : Out := vec1 .fneg 7#7 m d a s
/-- vabs (R170). -/
def execVabs (m : Bool) (d a : Reg) (s : State) : Out := vec1 .abs 8#7 m d a s
/-- vneg (R170). -/
def execVneg (m : Bool) (d a : Reg) (s : State) : Out := vec1 .neg 9#7 m d a s
/-- vnot (R170). -/
def execVnot (m : Bool) (d a : Reg) (s : State) : Out := vec1 .not 10#7 m d a s
/-- vclz (R170). -/
def execVclz (m : Bool) (d a : Reg) (s : State) : Out := vec1 .clz 11#7 m d a s
/-- vpopc (R170). -/
def execVpopc (m : Bool) (d a : Reg) (s : State) : Out := vec1 .popc 12#7 m d a s
/-- vfcat (R170). -/
def execVfcat (m : Bool) (d a : Reg) (s : State) : Out := vec1 .fcat 13#7 m d a s
/-- vmov (R170). -/
def execVmov (m : Bool) (d a : Reg) (s : State) : Out := vec1 .mov 14#7 m d a s
/-- vid (R170). -/
def execVid (m : Bool) (d : Reg) (s : State) : Out := vec1 .id 15#7 m d 0#7 s
/-- vcvt (R172). -/
def execVcvt (m sat : Bool) (rm : Rounding) (d a : Reg) (ty : ElemType) (s : State) : Out :=
  execVec { word := fmtA 0x35#7 d a (ty.code.setWidth 7) (vecFn m sat rm.code), op := .cvt sat rm ty, masked := m } s
/-- vslup (R173). -/
def execVslup (m : Bool) (d a b : Reg) (s : State) : Out := vecP .slup 0x36#7 0#2 m true .scalar d a b s
/-- vsldn (R173). -/
def execVsldn (m : Bool) (d a b : Reg) (s : State) : Out := vecP .sldn 0x36#7 1#2 m true .scalar d a b s
/-- vrgath (R173). -/
def execVrgath (m sc : Bool) (d a b : Reg) (s : State) : Out :=
  vecP .rgath 0x36#7 2#2 m sc (if sc then .scalar else .vec) d a b s
/-- vcompr (R173). -/
def execVcompr (d a b : Reg) (s : State) : Out := vecP .compr 0x36#7 3#2 false false .vec d a b s
/-- vzip (R174). -/
def execVzip (m : Bool) (d a b : Reg) (s : State) : Out := vecP .zip 0x37#7 0#2 m false .vec d a b s
/-- vunzip (R174). -/
def execVunzip (m : Bool) (d a b : Reg) (s : State) : Out := vecP .unzip 0x37#7 1#2 m true .scalar d a b s
/-- vrev (R174). -/
def execVrev (m : Bool) (d a : Reg) (s : State) : Out := vecP .rev 0x37#7 2#2 m false .none d a 0#7 s
/-- vmerge (R174). -/
def execVmerge (sc : Bool) (d a b : Reg) (s : State) : Out :=
  vecP .merge 0x37#7 3#2 true sc (if sc then .scalar else .vec) d a b s
/-- vbcast (R175). -/
def execVbcast (m sc : Bool) (d b : Reg) (s : State) : Out :=
  execVec { word := fmtA 0x38#7 d 0#7 b (vecFn m sc 0#2), op := .perm .bcast, masked := m,
            bsel := if sc then .scalar else .vec } s
/-- vmand (R176). -/
def execVmand (d a b : Reg) (s : State) : Out := vecM .and 0#2 .vec d a b s
/-- vmor (R176). -/
def execVmor (d a b : Reg) (s : State) : Out := vecM .or 1#2 .vec d a b s
/-- vmxor (R176). -/
def execVmxor (d a b : Reg) (s : State) : Out := vecM .xor 2#2 .vec d a b s
/-- vmnot (R176). -/
def execVmnot (d a : Reg) (s : State) : Out := vecM .not 3#2 .none d a 0#7 s
/-- cpack (06_chains R138): a streaming copy of va. -/
def execCpack (d a : Reg) (s : State) : Out :=
  execVec { word := fmtA 0x28#7 d a 0#7 8#4, op := .pack } s

end Sys2Proof.Machine
end

