-- ==== Sys2Proof/Machine/Reduce.lean ====
section
/-! DEFINITION. The reductions and draws (08_draws R179 to R195), and vmcount and vmlow (07_vector R177). -/

namespace Sys2Proof.Machine

/-- What a reduction or draw gives: the value for xd, that for x(d+1) where it writes a pair, and the flags raised with
the elements they are attributed to. -/
structure RedOut where
  lo    : Word
  hi    : Option Word := none
  flags : List (Nat × Flags) := []
  deriving DecidableEq, Repr

/-- No element qualified (R180). -/
def noIndex : Nat := 0xFFFFFFFF

/-- An f32 code as a register value. -/
def f32Word (c : Nat) : Word := BitVec.ofNat 64 c

/-- An element converted exactly to f32, with NV for a signalling NaN (R180, R182). -/
def toF32 (t : ElemType) (i c : Nat) : Nat × Flags := convert .rne false t .f32 i c

/-- Whether an f32 code is a NaN. -/
def nanCode (c : Nat) : Bool := (f32Fmt.decode c).isNan

/-- A sum rounded to f32 under RNE. -/
def addF32 (a b : Nat) : Nat × Flags := f32Fmt.deliverInv .rne (fvAdd .rne (f32Fmt.decode a) (f32Fmt.decode b))

/-- The canonical NaN in place of any NaN (R180). -/
def canonF32 (c : Nat) : Nat := if nanCode c then f32Fmt.nan else c

/-- The ordered sum of f32 codes (02_numbers R48) after `acc`. -/
def orderedSum : Nat → List (Nat × Nat) → Nat × List (Nat × Flags)
  | acc, [] => (acc, [])
  | acc, (i, c) :: r =>
    let s := addF32 acc c
    let t := orderedSum s.1 r
    (t.1, (i, s.2) :: t.2)

/-- The sum over some binary tree (02_numbers R49): `side` says on which side of a node an element lies; a node that has
all on one side splits off its first. Gives the sum, the lowest element and the flags. -/
def treeSum (side : Nat → Nat → Bool) : Nat → Nat → List (Nat × Nat) → Nat × Nat × List (Nat × Flags)
  | 0, _, _ => (0, 0, [])
  | _ + 1, _, [] => (0, 0, [])
  | _ + 1, _, [(i, c)] => (c, i, [])
  | n + 1, node, x :: r =>
    let l := (x :: r).filter fun y => side node y.1
    let g := (x :: r).filter fun y => !side node y.1
    let lg := if l.isEmpty || g.isEmpty then ([x], r) else (l, g)
    let a := treeSum side n (2 * node) lg.1
    let b := treeSum side n (2 * node + 1) lg.2
    let s := addF32 a.1 b.1
    let low := Nat.min a.2.1 b.2.1
    (s.1, low, a.2.2 ++ b.2.2 ++ [(low, s.2)])

/-- The free sum (02_numbers R49): where an operand is NaN or infinite every tree gives the same, so that only the NaNs
and the infinities count: opposite infinities are invalid where they meet, and no finite part raises a flag. DEDUCED: log
72. -/
def freeSum (side : Nat → Nat → Bool) (l : List (Nat × Nat)) : Nat × List (Nat × Flags) :=
  let inf := fun c => (f32Fmt.decode c).isInf
  if l.any fun x => nanCode x.2 || inf x.2 then
    let s := treeSum side l.length 1 (l.map fun x => (x.1, if inf x.2 then x.2 else 0))
    (if l.any fun x => nanCode x.2 then f32Fmt.nan else s.1, s.2.2)
  else
    let s := treeSum side l.length 1 l
    (s.1, s.2.2)

/-- A value of an integer type as a register value (R180). -/
def intWord (v : Int) : Word := BitVec.ofInt 64 v

/-- The extreme of integer elements: value and lowest index (R180). -/
def intExtreme (max : Bool) : List (Nat × Int) → Option (Nat × Int)
  | [] => none
  | (i, v) :: r =>
    match intExtreme max r with
    | none => some (i, v)
    | some (j, w) => if (if max then decide (v < w) else decide (w < v)) then some (j, w) else some (i, v)

/-- The extreme of the numbers among float elements, in the order of R181: value and lowest index. -/
def floatExtreme (max : Bool) : List (Nat × FVal) → Option (Nat × FVal)
  | [] => none
  | (i, v) :: r =>
    match floatExtreme max r with
    | none => if v.isNan then none else some (i, v)
    | some (j, w) =>
      if v.isNan then some (j, w)
      else if (if max then fvBelow v w else fvBelow w v) then some (j, w) else some (i, v)

/-- vredmax to vredmini (R180, R181) of the active elements of type `t`. -/
def extreme (max : Bool) (t : ElemType) (l : List (Nat × Nat)) : Word × Nat × List (Nat × Flags) :=
  if isInt t then
    match intExtreme max (l.map fun x => (x.1, intOf (isSigned t) (elemBits t) x.2)) with
    | some (i, v) => (intWord v, i, [])
    | none => (intWord (if max then intLo (isSigned t) (elemBits t) else intHi (isSigned t) (elemBits t)), noIndex, [])
  else
    let vs := l.map fun x => (x.1, (fmtOf t).decode x.2)
    match l with
    | [] => (f32Word (f32Fmt.infinity max), noIndex, [])
    | (i0, _) :: _ =>
      match floatExtreme max vs with
      | some (i, v) => (f32Word (f32Fmt.deliver .rne v).1, i, vs.map fun x => (x.1, flagIf x.2.isSig fNV))
      | none => (f32Word f32Fmt.nan, noIndex, [(i0, fNV)])

/-- A reduction of the active elements (R180). -/
def reduce (op : VRed) (gvl : Nat) (lg : BitVec 8) (vl : Nat) (t : ElemType) (l : List (Nat × Nat)) : RedOut :=
  match op with
  | .max => let r := extreme true t l; { lo := r.1, flags := r.2.2 }
  | .min => let r := extreme false t l; { lo := r.1, flags := r.2.2 }
  | .maxi => let r := extreme true t l; { lo := r.1, hi := some (BitVec.ofNat 64 r.2.1), flags := r.2.2 }
  | .mini => let r := extreme false t l; { lo := r.1, hi := some (BitVec.ofNat 64 r.2.1), flags := r.2.2 }
  | _ =>
    if isInt t then { lo := intWord ((l.map fun x => intOf (isSigned t) (elemBits t) x.2).sum) }
    else
      let conv := l.map fun x => (x.1, toF32 t x.1 x.2)
      let cs := conv.map fun x => (x.1, x.2.1)
      let fs := conv.map fun x => (x.1, x.2.2)
      match cs with
      | [] => { lo := 0#64 }
      | (_, c) :: r =>
        match op with
        | .osum => let s := orderedSum c r; { lo := f32Word (canonF32 s.1), flags := fs ++ s.2 }
        | _ =>
          let s := freeSum (Config.redTree gvl lg vl) cs
          { lo := f32Word (canonF32 s.1), flags := fs ++ s.2 }

/-! ### Draws (R186, R187) -/

/-- Whether an f32 code is a zero weight. -/
def zeroW (c : Nat) : Bool := c % 2 ^ 31 = 0

/-- The merge step of R186 at node `m` of two (index, weight) pairs: the pair carried, and whether the total overflows. -/
def mergePair (coin : Nat → FVal) (m : Nat) (l r : Nat × Nat) : (Nat × Nat) × Bool :=
  if zeroW r.2 then (l, false)
  else if zeroW l.2 then (r, false)
  else
    let t := addF32 l.2 r.2
    let p := f32Fmt.deliverInv .rne (fvMul (coin m) (f32Fmt.decode t.1))
    let right := fvLt (f32Fmt.decode p.1) (f32Fmt.decode r.2)
    ((if right then r.1 else l.1, t.1), t.2 &&& fOF != 0#9)

/-- One level of the tree: nodes from `m` on, `w` leaves under each; the pairs of the level above and the overflows. -/
def drawLevel (coin : Nat → FVal) (w : Nat) : Nat → Nat → List (Nat × Nat) → List (Nat × Nat) × List (Nat × Flags)
  | m, low, x :: y :: r =>
    let p := mergePair coin m x y
    let q := drawLevel coin w (m + 1) (low + w) r
    (p.1 :: q.1, (low, flagIf p.2 fOF) :: q.2)
  | _, _, l => (l, [])

/-- The tree of R186 from its leaves up: `k` levels, `base` the number of the first node of the next level. -/
def drawTree (coin : Nat → FVal) : Nat → Nat → Nat → List (Nat × Nat) → (Nat × Nat) × List (Nat × Flags)
  | 0, _, _, l => (l.headD (noIndex, 0), [])
  | k + 1, base, w, l =>
    let q := drawLevel coin w base 0 l
    let r := drawTree coin k (base / 2) (2 * w) q.1
    (r.1, q.2 ++ r.2)

/-- Levels of a tree of `n` leaves: the least k with n ≤ 2^k. -/
def levels (n : Nat) : Nat := bitLen (n - 1)

/-- An input weight as R187 counts it: NaN and negative weights as 0 with NV. -/
def leafWeight (c : Nat) : Nat × Flags :=
  match f32Fmt.decode c with
  | .nan _ => (0, fNV)
  | v => if v.neg && !v.isZero then (0, fNV) else (c, 0#9)

/-- The f32 code of +∞. -/
def infCode : Nat := f32Fmt.infinity false
/-- The f32 code of 1. -/
def oneCode : Nat := 0x3F800000

/-- The draw of R186 and R187 over leaves of (element, index, weight). -/
def drawOver (coin : Nat → FVal) (leaves : List (Nat × Nat × Nat)) : RedOut :=
  let ws := leaves.map fun x => (x.1, x.2.1, leafWeight x.2.2)
  let nv := ws.map fun x => (x.1, x.2.2.2)
  let anyInf := ws.any fun x => x.2.2.1 = infCode
  let ps := ws.map fun x => (x.2.1, if anyInf then (if x.2.2.1 = infCode then oneCode else 0) else x.2.2.1)
  let k := levels leaves.length
  let full := ps ++ List.replicate (2 ^ k - leaves.length) (noIndex, 0)
  let r := drawTree coin k (2 ^ k / 2) 2 full
  if zeroW r.1.2 then
    { lo := BitVec.ofNat 64 noIndex, hi := some 0#64, flags := nv ++ r.2 ++ [(0, fZM)] }
  else
    { lo := BitVec.ofNat 64 r.1.1, hi := some (f32Word (if anyInf then infCode else r.1.2)), flags := nv ++ r.2 }

/-- The weights that vdrawt forms (R192) from (element, logit) pairs, with the overflow of each. DEDUCED: with DTEMP 0 a
difference that overflows to −∞ gives NaN, by the pseudocode (log 94). -/
def logitWeights (dtemp : Nat) (l : List (Nat × Nat)) : List (Nat × Nat × Flags) :=
  let d := f32Fmt.decode
  match floatExtreme true (l.map fun x => (x.1, d x.2)) with
  | none => l.map fun x => (x.1, x.2, 0#9)
  | some (_, m) => l.map fun x =>
    let v := d x.2
    if v.isNan then (x.1, f32Fmt.nan, 0#9)
    else if m = .inf false then (x.1, if v = .inf false then infCode else 0, 0#9)
    else if v = .inf true then (x.1, 0, 0#9)
    else if fvEq v m then (x.1, oneCode, 0#9)
    else
      let a := f32Fmt.deliverInv .rne (fvAdd .rne v m.negate)
      let b := f32Fmt.deliverInv .rne (fvMul (d a.1) (d dtemp))
      let w := f32Fmt.exp2 (d b.1)
      (x.1, w.1, (a.2 ||| b.2 ||| w.2) &&& fOF)

/-- A draw over the `vl` elements; `active` holds the active ones (R191 to R193); an inactive leaf has weight 0. DESIGN
CHOICE: a carried i32 index goes to xd as its 32-bit code, zero-extended (log 95). -/
def draw (op : VRed) (coin : Nat → FVal) (dtemp vl : Nat) (active ixs : List (Nat × Nat)) : RedOut :=
  let ws : List (Nat × Nat × Flags) := match op with
    | .drawt => logitWeights dtemp active
    | _ => active.map fun x => (x.1, x.2, 0#9)
  let leaves := (List.range vl).map fun i =>
    match ws.find? fun x => x.1 = i with
    | some x => (i, if op = .drawp then ((ixs.find? fun y => y.1 = i).map (·.2)).getD noIndex else i, x.2.1)
    | none => (i, i, 0)
  let r := drawOver coin leaves
  { r with flags := (ws.map fun x => (x.1, x.2.2)) ++ r.flags }

/-! ### Running -/

/-- The complete captured chain's elements from `i` on, `n` of them, that are active. -/
def activeElems (f : Flight) (e : Option Entry) : Nat → Nat → Act (List (Nat × Nat))
  | 0, _ => pure []
  | n + 1, i => do
    let on ← f.active i
    let r ← (if on then (do let c ← optElem e i; pure [(i, c)]) else pure [] : Act (List (Nat × Nat)))
    let rest ← activeElems f e n (i + 1)
    pure (r ++ rest)

/-- The result of a flight that folds its elements. -/
def foldElems (f : Flight) : Act RedOut := do
  let s ← get
  match f.op with
  | .mask .count => do
    let l ← activeElems f f.va f.vl 0
    pure { lo := BitVec.ofNat 64 (l.filter fun x => x.2 = 1).length }
  | .mask _ => do
    let l ← activeElems f f.va f.vl 0
    pure { lo := BitVec.ofNat 64 (((l.find? fun x => x.2 = 1).map (·.1)).getD f.vl) }
  | .red .draw => do
    let l ← activeElems f f.va f.vl 0
    pure (draw .draw (coinVal f.dkey f.dstream f.dctr) f.dtemp.toNat f.vl l [])
  | .red .drawt => do
    let l ← activeElems f f.va f.vl 0
    pure (draw .drawt (coinVal f.dkey f.dstream f.dctr) f.dtemp.toNat f.vl l [])
  | .red .drawp => do
    let l ← activeElems f f.vb f.vl 0
    let ixs ← activeElems f f.va f.vl 0
    pure (draw .drawp (coinVal f.dkey f.dstream f.dctr) f.dtemp.toNat f.vl l ixs)
  | .red op => do
    let l ← activeElems f f.va f.vl 0
    pure (reduce op s.t.gvl.toNat s.h.lgmask f.vl f.ty l)
  | _ => pure { lo := 0#64 }

/-- FEX registers after a list of raised flags. -/
def fexAll (fex : Vector (BitVec 32) 9) : List (Nat × Flags) → Vector (BitVec 32) 9
  | [] => fex
  | (i, fl) :: r => fexAll (fexAfter fex fl i) r

/-- The flags of a list of raised flags. -/
def flagsAll (l : List (Nat × Flags)) : Flags := l.foldl (fun a x => a ||| x.2) 0#9

/-- The trap of an instruction that completes in full (R185): the lowest element at which an enabled flag was raised. -/
def lateTrap (h : Hart) (l : List (Nat × Flags)) : Option Trap :=
  let hits := l.filter fun x => h.enabled x.2 != 0#9
  match hits with
  | [] => none
  | x :: r =>
    let low := r.foldl (fun m y => Nat.min m y.1) x.1
    let at_ := (hits.filter fun y => y.1 = low).foldl (fun a y => a ||| h.enabled y.2) 0#9
    some { cause := flagCause at_, val := BitVec.ofNat 64 low, val2 := (flagsAll l).setWidth 64 }

/-- The hart after a fold: registers, flags, and the trap held for the next boundary (R180, R185). -/
def Hart.afterFold (h : Hart) (d : Reg) (r : RedOut) : Hart :=
  let h1 := { h with fflags := h.fflags ||| flagsAll r.flags, fex := fexAll h.fex r.flags, vstart := 0#18,
                     held := h.held ++ (lateTrap h r.flags).toList }
  match r.hi with
  | some v => (h1.wx d r.lo).wx (nextReg d) v
  | none => h1.wx d r.lo

/-- Whether an operation begins only once its sources are complete (R183); vmcount and vmlow read as elements are produced
(R126, R177). -/
def VOp.wholeSources : VOp → Bool
  | .red .rand => false
  | .red _ => true
  | _ => false

/-- Perform the issued fold, if its sources are complete as far as it needs them; else it goes on waiting. -/
def runFold (s : State) : Out :=
  match s.h.flight with
  | none => .next s
  | some f =>
    if f.op.wholeSources && f.captured.any fun e => e.state = .pending then .next (s.enterWait .other)
    else
      match foldElems f s with
      | .ok (r, s1) =>
        let s2 := s1.releaseAll f.holds
        .next ({ s2 with h := { s2.h.afterFold f.d r with flight := none } }).advance
      | .error (.trap tr) => .next (takeTrap tr false s.squash)
      | .error (.wait k) => .next (s.enterWait k)
      | .error (.fault e) => .fault e

/-- A reduction, a draw that is no vrand, vmcount or vmlow: checks, issue, and the fold (R183). -/
def execFold (v : VSpec) (s : State) : Out :=
  let w := wordOf (some v.word)
  if s.who = .user then
    match s.vectorContext with
    | .error save => .next (takeTrap { cause := .vswitch, val := save } false s)
    | .ok s1 =>
      match v.check s1 with
      | .error (.trap tr) => .next (takeTrap tr false s1)
      | .error (.wait k) => .next (s1.enterWait k)
      | .error (.fault f) => .fault f
      | .ok _ => runFold (v.issue s1)
  else .next (takeTrap { cause := .illegal, val := w } false s)

/-- Whether an operation folds its elements into x-registers. -/
def VOp.folds : VOp → Bool
  | .red .rand => false
  | .red _ | .mask .count | .mask .low => true
  | _ => false

/-- The instruction that the hart has issued and not finished goes on. -/
def continueFlight (s : State) : Out :=
  match s.h.flight with
  | none => .next s
  | some f => if f.op.folds then runFold s else resumeFlight s

/-- A waiting reduction or draw begins once its sources are complete (R183). -/
def execReductionBegin (s : State) : Out :=
  match s.h.flight with
  | none => .next s
  | some f => if f.op.folds then runFold s else .next s

/-! ### The instructions -/

/-- A reduction of major 0x40 (R179). -/
def vecRed (op : VRed) (code : BitVec 3) (m : Bool) (d a : Reg) (s : State) : Out :=
  execFold { word := fmtA 0x40#7 d a 0#7 (BitVec.ofBool m ++ code), op := .red op, masked := m } s

/-- vredsum (R180). -/
def execVredsum (m : Bool) (d a : Reg) (s : State) : Out := vecRed .sum 0#3 m d a s
/-- vredosum (R180). -/
def execVredosum (m : Bool) (d a : Reg) (s : State) : Out := vecRed .osum 1#3 m d a s
/-- vredmax (R180). -/
def execVredmax (m : Bool) (d a : Reg) (s : State) : Out := vecRed .max 2#3 m d a s
/-- vredmin (R180). -/
def execVredmin (m : Bool) (d a : Reg) (s : State) : Out := vecRed .min 3#3 m d a s
/-- vredmaxi (R180). -/
def execVredmaxi (m : Bool) (d a : Reg) (s : State) : Out := vecRed .maxi 4#3 m d a s
/-- vredmini (R180). -/
def execVredmini (m : Bool) (d a : Reg) (s : State) : Out := vecRed .mini 5#3 m d a s

/-- vdraw (R191). -/
def execVdraw (m : Bool) (d a : Reg) (s : State) : Out :=
  execFold { word := fmtA 0x41#7 d a 0#7 (BitVec.ofBool m ++ 0#3), op := .red .draw, masked := m } s
/-- vdrawt (R192). -/
def execVdrawt (m : Bool) (d a : Reg) (s : State) : Out :=
  execFold { word := fmtA 0x41#7 d a 0#7 (BitVec.ofBool m ++ 1#3), op := .red .drawt, masked := m } s
/-- vdrawp (R193). -/
def execVdrawp (m : Bool) (d a b : Reg) (s : State) : Out :=
  execFold { word := fmtA 0x41#7 d a b (BitVec.ofBool m ++ 2#3), op := .red .drawp, masked := m, bsel := .vec } s
/-- vrand (R195): an element-wise writer. -/
def execVrand (m : Bool) (d : Reg) (s : State) : Out :=
  execVec { word := fmtA 0x41#7 d 0#7 0#7 (BitVec.ofBool m ++ 4#3), op := .red .rand, masked := m } s

/-- The merge of two partial draws (R194). -/
def mergeDraws (coin : Nat → FVal) (l r : Nat × Nat) : RedOut :=
  let wl := leafWeight l.2
  let wr := leafWeight r.2
  let anyInf := wl.1 = infCode || wr.1 = infCode
  let fix := fun c => if anyInf then (if c = infCode then oneCode else 0) else c
  let p := mergePair coin 0x7FFFFFFF (l.1, fix wl.1) (r.1, fix wr.1)
  let fl := wl.2 ||| wr.2 ||| flagIf p.2 fOF
  if zeroW p.1.2 then { lo := BitVec.ofNat 64 noIndex, hi := some 0#64, flags := [(0, fl ||| fZM)] }
  else { lo := BitVec.ofNat 64 p.1.1, hi := some (f32Word (if anyInf then infCode else p.1.2)), flags := [(0, fl)] }

/-- xdmerge (R194): it reads its four sources before it writes, and takes a value of DCTR (R184). -/
def execXdmerge (d a b : Reg) (s : State) : Out :=
  regFinish (wordOf (some (fmtA 0x41#7 d a b 3#4))) (modify fun s =>
    let lo := fun (r : Reg) => (s.rx r).toNat % 2 ^ 32
    let r := mergeDraws (coinVal s.h.dkey s.h.dstream s.h.dctr) (lo a, lo (nextReg a)) (lo b, lo (nextReg b))
    let h := ({ s.h with dctr := s.h.dctr + 1#64 }).clearFex
    ({ s with h := h.afterFold d r }).advance) s

/-- vmcount (R177). -/
def execVmcount (m : Bool) (d a : Reg) (s : State) : Out :=
  execFold { word := fmtA 0x3A#7 d a 0#7 (vecFn m false 0#2), op := .mask .count, masked := m } s
/-- vmlow (R177). -/
def execVmlow (m : Bool) (d a : Reg) (s : State) : Out :=
  execFold { word := fmtA 0x3A#7 d a 0#7 (vecFn m false 1#2), op := .mask .low, masked := m } s

end Sys2Proof.Machine
end

