-- ==== Sys2Proof/Machine/Control.lean ====
section
/-! DEFINITION. Vector length, window, repetition and harts (05_control R103 to R110, 03_words R65 to R67). -/

namespace Sys2Proof.Machine

/-! ### Vector length (R103) -/

/-- The grant of R103 for a request of `n` elements of type `t` under `gvl` bytes. -/
def grant (gvl : Nat) (t : ElemType) (n : Nat) : Nat :=
  let m := gvl * 8 / elemBits t
  let most := if isSix t then m - m % 4 else m
  let q := if isSix t then 4 else if t = .cb8x2 then 8 else 1
  if most ≤ n then most else if q ≤ n then n - n % q else n

/-- vsetl (R103). -/
def execVsetl (d a : Reg) (blk : BlockLen) (ty : ElemType) (s : State) : Out :=
  let n := grant s.t.gvl.toNat ty (s.rx a).toNat
  let s1 := { s with h := { s.h with vl := BitVec.ofNat 18 n, ty := ty, blk := blk } }
  .next (s1.put d (BitVec.ofNat 64 n))

/-- vsetrun (09_vmem R213): a strip that stays within a block of a paged sequence. -/
def execVsetrun (d a b : Reg) (s : State) : Out :=
  regFinish (wordOf (some (fmtA 0x48#7 d a b 0#4))) (modify fun s =>
    let bs := (s.rx b).toNat % 2 ^ 32
    let p := (s.rx b).toNat / 2 ^ 32
    let want := if bs = 0 then (s.rx a).toNat else Nat.min (s.rx a).toNat (bs - p % bs)
    let n := grant s.t.gvl.toNat s.h.ty want
    let s1 := { s with h := { s.h with vl := BitVec.ofNat 18 n } }
    (s1.wpair d (BitVec.ofNat 64 n) (BitVec.ofNat 64 (if bs = 0 then 0 else p / bs))).advance) s

/-! ### Window and hints -/

/-- vwin (R105): xa is read before xd is written. -/
def execVwin (d a : Reg) (s : State) : Out :=
  let s1 := { s with h := { s.h with vwb := s.h.vwb + (s.rx a).setWidth 9 } }
  .next (s1.put d (s.h.vwb.setWidth 64))

/-- nop (R110). -/
def execNop (s : State) : Out := .next s.advance

/-- yield (R110): no effect; the turn passes to another hart, as the schedule lets it (log 1). -/
def execYield (s : State) : Out := .next s.advance

/-! ### Forks and joins (R106 to R108) -/

/-- What the hart with the turn sees of the names: its table, or what a save area holds of it (17_traps R358). -/
def State.view (s : State) : List (Nat × Entry) := ((s.t.savedViews.find? fun v => v.1 = s.h.id).map (·.2)).getD s.h.names

/-- Change what the hart with the turn sees of the names, where it stands. -/
def State.onView (s : State) (f : State → State) : State :=
  if s.t.savedViews.any fun v => v.1 = s.h.id then
    let s1 := f { s with h := { s.h with names := s.view }, t := { s.t with savedViews := s.t.savedViews.filter fun v => v.1 != s.h.id } }
    { s1 with h := { s1.h with names := [] }, t := { s1.t with savedViews := s1.t.savedViews ++ [(s1.h.id, s1.h.names)] } }
  else f s

/-- The view of the names that a save area holds for hart `id`, if any. -/
def Task.savedView (t : Task) (id : BitVec 3) : List (BitVec 3 × List (Nat × Entry)) := t.savedViews.filter fun v => v.1 = id

/-- The lane groups of a mask, in rising order. -/
def laneGroups (m : BitVec 8) : List Nat := (List.range 8).filter fun g => m.getLsbD g

/-- The mask of a list of lane groups. -/
def maskOf (l : List Nat) : BitVec 8 := BitVec.ofNat 8 ((l.map fun g => 2 ^ g).sum)

/-- The child of `lfork` (R106, 03_words R71), which owns `groups`. It has the parent's scalar registers but for xd, its
x127 among them (R94). -/
def Hart.child (h : Hart) (groups : List Nat) (d : Reg) : Hart :=
  { (h.wx d 0#64) with
    id := BitVec.ofNat 3 (groups.headD 0), lgmask := maskOf groups, pc := h.pc + 4#64, vstart := 0#18, repcnt := 0#6,
    fflags := 0#9, late := 0#9, trapcause := 0#8, trapasync := false, fex := Vector.replicate 9 0xFFFFFFFF#32, handler := false,
    parent := some h.id, run := .ready, trapRec := none, flight := none, stopped := none, stoppedGen := none, trapGen := none, rep := none,
    wait := none, held := [], sb := [], mirror := .agree,
    lastOp := Vector.replicate 9 0 }

/-- lfork (R106): the stores made before it are committed, so that the child finds them. In a handler it waits for the
stopped vector instruction (step 1, log 71). Of an uneven number of lane groups, which joins out of order can leave, the
lower half, rounded down, stays (log 71). A service core, which has no lane groups (01_machine R10), makes none (log 14). -/
def execLfork (d : Reg) (s : State) : Out :=
  let gs := laneGroups s.h.lgmask
  if s.who != .user || gs.length < 2 then .next (s.put d (BitVec.allOnes 64))
  else if s.h.stopped.isSome then .next (s.enterWait .other)
  else
    let keep := gs.take (gs.length / 2)
    let give := gs.drop (gs.length / 2)
    let s1 := s.drain
    let c := s1.h.child give d
    .next (({ s1 with h := { s1.h with lgmask := maskOf keep }, t := { s1.t with
      harts := s1.t.harts ++ [c],
      savedViews := s1.t.savedViews ++ (s1.t.savedView s1.h.id).map fun (v : BitVec 3 × List (Nat × Entry)) => (c.id, v.2) } }).put d
      (c.id.setWidth 64))

/-- Whether an instruction that has not retired is to supersede the version `id` of name `k`. -/
def State.replaces (s : State) (k id : Nat) : Bool :=
  (s.h :: s.t.harts).any (fun h => (h.flight.toList ++ h.stopped.toList).any fun f => f.dests.any fun d => d.1 = k && d.2.2.id = id) ||
    s.t.reads.any fun m => m.name = k && m.old.id = id

/-- Of two versions of name `k` that meet, `lost` is superseded by `win` (R108): one that `win` is to supersede when it
retires gives up its references then. -/
def State.loseVersion (s : State) (k : Nat) (win lost : Entry) : State :=
  if win.id = lost.id || (!win.behind.isEmpty && s.replaces k lost.id) then s else s.dropVersion k lost

/-- The versions that another hart shows become visible to the hart with the turn: of two of one name the one retired
later remains (R108). -/
def mergeView : List (Nat × Entry) → State → State
  | [], s => s
  | (k, e) :: r, s =>
    let mine := s.entry k
    let win := laterEntry mine e
    mergeView r ((s.setName k win).loseVersion k win mine)

/-- The versions of a view that has gone are superseded where the hart with the turn shows others (R108). -/
def State.dropView (s : State) (l : List (Nat × Entry)) : State :=
  (l.foldl (fun s p => s.loseVersion p.1 (s.entry p.1) p.2) s).settleAll l

/-- The versions published at barriers are dropped, once no other hart is left to read them, and with them what is known of
versions that no view shows (log 15). -/
def State.dropPubs (s : State) : State :=
  let s1 := ({ s with t := { s.t with pubs := [] } } : State).settleAll (s.t.pubs.flatMap (·.2.2))
  { s1 with t := { s1.t with gone := s1.t.gone.filter fun i => s1.named i || s1.builds i,
                             moved := s1.t.moved.filter fun m => s1.named m.1 || s1.builds m.1 } }

/-- The hart with the turn takes back the lane groups of a child that has ended (R107). -/
def State.takeBack (s : State) (c : Hart) : State :=
  let s1 := { s with
    t := { s.t with harts := s.t.harts.filter fun h => h.id != c.id },
    h := { s.h with lgmask := s.h.lgmask ||| c.lgmask, fflags := s.h.fflags ||| c.fflags } }
  let names := c.names ++ (s.t.savedView c.id).flatMap (·.2)
  let s2 := ({ s1 with t := { s1.t with savedViews := s1.t.savedViews.filter fun v => v.1 != c.id } } : State).onView fun s =>
    (mergeView names s).dropView names
  if s2.t.harts.isEmpty then s2.dropPubs else s2

/-- The live child of lowest HARTID. -/
def State.firstChild (s : State) : Option Hart :=
  (s.t.harts.filter fun h => h.parent = some s.h.id).foldl (fun m h =>
    match m with
    | some g => if h.id.toNat < g.id.toNat then some h else m
    | none => some h) none

/-- Join the children in ascending HARTID as far as they have ended; whether all are joined. -/
def joinAll : Nat → State → State × Bool
  | 0, s => (s, s.firstChild.isNone)
  | n + 1, s =>
    match s.firstChild with
    | none => (s, true)
    | some c => if c.run = .ended then joinAll n (s.takeBack c) else (s, false)

/-- Whether the operations of hart `id`, or of every hart, have completed, and its mreads have retired: matrix queue, Flume, Weir and collective
commands (R107, R112). -/
def Task.idle (t : Task) (p : BitVec 3 → Bool) : Bool :=
  !((t.matrix.queue ++ t.matrix.done).any fun m => p m.hart) && !(t.flume.any fun c => c.cmds.any fun m => p m.hart) &&
    !(t.weir.any fun c => c.cmds.any fun m => p m.hart) && !(t.coll.any fun c => c.cmds.any fun m => p m.hart)

/-- ljoin (R107). A child ends once its commands have completed, their traps are delivered and no vector instruction of it
is left, a stopped one among them (log 71). -/
def execLjoin (a : Reg) (s : State) : Out :=
  let v := s.rx a
  if v = 0#64 then
    let (s1, done) := joinAll 8 s
    if !done then .next (s1.enterWait .other)
    else if s1.h.parent.isNone then .next s1.advance
    else if !s1.t.idle (fun h => h = s1.h.id) || !s1.h.held.isEmpty || s1.h.stopped.isSome then .next (s1.enterWait .other)
    else
      let s2 := s1.drain
      .next { s2 with h := { s2.h with run := .ended, wait := none } }
  else
    match s.t.harts.find? fun h => h.parent = some s.h.id && h.id.setWidth 64 = v with
    | none =>
      .next (takeTrap { cause := .illegal, val := wordOf (some (fmtA 0x20#7 0#7 a 0#7 2#4)), val2 := v } false s)
    | some c => if c.run = .ended then .next (s.takeBack c).advance else .next (s.enterWait .other)

/-! ### Repetition (03_words R65 to R67) -/

/-- What an instruction uses a register field as, for the steps of `rep`: not a register, a scalar or vector register, a
tile. -/
inductive Use where
  | no | reg | tile
  deriving DecidableEq, Repr

/-- The fields d, a and b of a repeatable instruction (R66); none for the others. -/
def repUses : Instr → Option (Use × Use × Use)
  | .add _ _ _ | .sub _ _ _ | .and _ _ _ | .or _ _ _ | .xor _ _ _ | .sll _ _ _ | .srl _ _ _ | .sra _ _ _
  | .slt _ _ _ | .sltn _ _ _ | .min _ _ _ | .max _ _ _ | .minn _ _ _ | .maxn _ _ _ | .andn _ _ _ | .orn _ _ _
  | .mul _ _ _ | .mulh _ _ _ | .mulhn _ _ _ | .div _ _ _ | .divn _ _ _ | .rem _ _ _ | .remn _ _ _
  | .bext _ _ _ | .bins _ _ _ | .lddX _ _ _ | .ldwX _ _ _ | .ldwnX _ _ _ | .ldh _ _ _ | .ldhn _ _ _ | .ldb _ _ _
  | .ldbnX _ _ _ | .stdX _ _ _ | .stwX _ _ _ | .sth _ _ _ | .stbX _ _ _
  | .cseam _ _ _ | .chemh _ _ _ | .chemt _ _ _ | .csplit _ _ _ | .cslice _ _ _ | .vget _ _ _ | .vput _ _ _
  | .vadd _ _ _ _ _ | .vsub _ _ _ _ _ | .vrsub _ _ _ _ _ | .vmul _ _ _ _ _ | .vadds _ _ _ _ _ | .vsubs _ _ _ _ _
  | .vmulh _ _ _ _ _ | .vavg _ _ _ _ _ | .vdiv _ _ _ _ _ | .vrem _ _ _ _ _ | .vmin _ _ _ _ _ | .vmax _ _ _ _ _
  | .vand _ _ _ _ _ | .vor _ _ _ _ _ | .vxor _ _ _ _ _ | .vandn _ _ _ _ _ | .vsll _ _ _ _ _ | .vsrl _ _ _ _ _
  | .vsra _ _ _ _ _ | .vrot _ _ _ _ _ | .vceq _ _ _ _ _ | .vcne _ _ _ _ _ | .vclt _ _ _ _ _ | .vcle _ _ _ _ _
  | .vfadd _ _ _ _ _ | .vfsub _ _ _ _ _ | .vfmul _ _ _ _ _ | .vfdiv _ _ _ _ _ | .vfmin _ _ _ _ _ | .vfmax _ _ _ _ _
  | .vfma _ _ _ _ _ | .vfms _ _ _ _ _ | .vfceq _ _ _ _ _ | .vfclt _ _ _ _ _ | .vfcle _ _ _ _ _ | .vfcun _ _ _ _ _
  | .vscale _ _ _ _ _ | .vfnma _ _ _ _ _ | .vfsgn _ _ _ _ _ | .vslup _ _ _ _ | .vsldn _ _ _ _ | .vrgath _ _ _ _ _
  | .vcompr _ _ _ | .vzip _ _ _ _ | .vunzip _ _ _ _ | .vmerge _ _ _ _ | .vmand _ _ _ | .vmor _ _ _ | .vmxor _ _ _
  | .vlds _ _ _ _ _ | .vldx _ _ _ _ _ | .vsts _ _ _ _ _ | .vstx _ _ _ _ _ => some (.reg, .reg, .reg)
  | .clz _ _ | .ctz _ _ | .popc _ _ | .addi _ _ _ | .andi _ _ _ | .ori _ _ _ | .xori _ _ _ | .slli _ _ _ | .srli _ _ _
  | .srai _ _ _ | .slti _ _ _ | .sltni _ _ _ | .ldd _ _ _ | .ldw _ _ _ | .ldwn _ _ _ | .ldbn _ _ _ | .std _ _ _
  | .stw _ _ _ | .stb _ _ _ | .cnew _ _ | .cshare _ _ | .cpack _ _ | .cmovv _ _ | .cretype _ _ _ | .clen _ _ | .cinfo _ _
  | .vfsqrt _ _ _ | .vfrcp _ _ _ | .vfrsqrt _ _ _ | .vflog2 _ _ _ | .vfexp2 _ _ _ | .vftanh _ _ _ | .vfabs _ _ _
  | .vfneg _ _ _ | .vabs _ _ _ | .vneg _ _ _ | .vnot _ _ _ | .vclz _ _ _ | .vpopc _ _ _ | .vfcat _ _ _ | .vmov _ _ _
  | .vcvt _ _ _ _ _ _ | .vrev _ _ _ | .vmnot _ _ | .vmcount _ _ _ | .vmlow _ _ _ | .vld _ _ _ _ | .vst _ _ _ _
  | .vlseg _ _ _ _ _ | .vsseg _ _ _ _ _ => some (.reg, .reg, .no)
  | .cdrop _ | .cpool _ | .vid _ _ => some (.reg, .no, .no)
  | .vbcast _ _ _ _ => some (.reg, .no, .reg)
  | .mread _ _ _ => some (.reg, .tile, .reg)
  | .mwrite _ _ _ => some (.tile, .reg, .reg)
  | .mmaf _ _ _ _ _ _ | .mmao _ _ _ _ _ _ => some (.tile, .reg, .reg)
  | _ => none

/-- Whether a field may take the steps: it is not stepped, or it is a register, or a tile that stays within t0 to t3. -/
def stepOk (stepped : Bool) (u : Use) (f : Reg) (count stride : Nat) : Bool :=
  !stepped ||
    match u with
    | .no => false
    | .reg => true
    | .tile => decide (f.toNat + (count - 1) * stride ≤ 3)

/-- Whether the word after a `rep` may be repeated so (R66). -/
def repAllowed (next : IWord) (count : Nat) (sd sa sb : Bool) (stride : Nat) : Bool :=
  let f := splitWord next
  match decodeLow f with
  | .error _ => false
  | .ok i =>
    match repUses i with
    | none => false
    | some (ud, ua, ub) => stepOk sd ud f.d count stride && stepOk sa ua f.a count stride && stepOk sb ub f.b count stride

/-- The word of a `rep`. -/
def repWord (count : BitVec 6) (sd sa sb : Bool) (stride : BitVec 3) : Word :=
  (0x22#7 ++ count ++ BitVec.ofBool sd ++ BitVec.ofBool sa ++ BitVec.ofBool sb ++ stride ++ 0#13).setWidth 64

/-- rep (R65 to R67): the next word is looked at, and from the next step on it issues with its fields stepped by
REPCNT. -/
def execRep (count : BitVec 6) (sd sa sb : Bool) (stride : BitVec 3) (s : State) : Out :=
  match fetchAt ((s.h.pc + 4#64).toNat) s with
  | .error st => finish (fun _ => .error st) s
  | .ok (w, u) =>
    finish (do
      requireAct (repAllowed w (count.toNat + 1) sd sa sb (stride.toNat + 1))
        { cause := .illegal, val := repWord count sd sa sb stride }
      modify fun s =>
        if count.toNat < s.h.repcnt.toNat then
          { s with h := { s.h with repcnt := 0#6, pc := s.h.pc + 8#64 } }
        else
          { s with h := { s.h with rep := some { count := count.toNat + 1, sd := sd, sa := sa, sb := sb, stride := stride.toNat + 1 } } }) u

/-- The word that repeat `i` issues, its fields stepped (R65); a trap that reports the word of the instruction reports this
one (log 46). -/
def Rep.word (r : Rep) (i : Nat) (w : IWord) : IWord :=
  let f := splitWord w
  let st := BitVec.ofNat 7 (i * r.stride)
  joinWord { f with d := if r.sd then f.d + st else f.d, a := if r.sa then f.a + st else f.a,
                    b := if r.sb then f.b + st else f.b }

/-- After a repeat that has retired, which leaves the program counter four beyond the `rep` at `pc0`: the next repeat,
or the end (R67). -/
def Hart.afterRepeat (h : Hart) (pc0 : Word) : Hart :=
  match h.rep with
  | none => h
  | some r =>
    if h.pc = pc0 + 4#64 then
      if h.repcnt.toNat + 1 < r.count then { h with repcnt := h.repcnt + 1#6, pc := pc0 }
      else { h with repcnt := 0#6, pc := pc0 + 8#64, rep := none }
    else h

end Sys2Proof.Machine
end

