-- ==== Sys2Proof/Machine/Vmem.lean ====
section
/-! DEFINITION. The vector memory instructions (09_vmem R200 to R208), whose elements Vector.lean performs, and the
stash windows (R214 to R217). -/

namespace Sys2Proof.Machine

/-- The function code of a vector memory instruction (R200): mask, non-temporal hint, code. -/
def memFn (m nt : Bool) (code : BitVec 2) : BitVec 4 := BitVec.ofBool m ++ BitVec.ofBool nt ++ code

/-- vld (R207). -/
def execVld (m nt : Bool) (d a : Reg) (s : State) : Out :=
  execVec { word := fmtA 0x46#7 d a 0#7 (memFn m nt 0#2), op := .load .unit, masked := m } s
/-- vlds (R207). -/
def execVlds (m nt : Bool) (d a b : Reg) (s : State) : Out :=
  execVec { word := fmtA 0x46#7 d a b (memFn m nt 1#2), op := .load .strided, masked := m, bsel := .scalar } s
/-- vldx (R207). -/
def execVldx (m nt : Bool) (d a b : Reg) (s : State) : Out :=
  execVec { word := fmtA 0x46#7 d a b (memFn m nt 2#2), op := .load .indexed, masked := m, bsel := .vec } s
/-- vlseg (R203); the literal is the number of fields less one. -/
def execVlseg (m nt : Bool) (d a : Reg) (n : BitVec 3) (s : State) : Out :=
  execVec { word := fmtA 0x46#7 d a (n.setWidth 7) (memFn m nt 3#2), op := .load .seg, masked := m, nf := n.toNat + 1 } s
/-- vst (R207). -/
def execVst (m nt : Bool) (d a : Reg) (s : State) : Out :=
  execVec { word := fmtA 0x47#7 d a 0#7 (memFn m nt 0#2), op := .store .unit, masked := m } s
/-- vsts (R207). -/
def execVsts (m nt : Bool) (d a b : Reg) (s : State) : Out :=
  execVec { word := fmtA 0x47#7 d a b (memFn m nt 1#2), op := .store .strided, masked := m, bsel := .scalar } s
/-- vstx (R208). -/
def execVstx (m nt : Bool) (d a b : Reg) (s : State) : Out :=
  execVec { word := fmtA 0x47#7 d a b (memFn m nt 2#2), op := .store .indexed, masked := m, bsel := .vec } s
/-- vsseg (R203). -/
def execVsseg (m nt : Bool) (d a : Reg) (n : BitVec 3) (s : State) : Out :=
  execVec { word := fmtA 0x47#7 d a (n.setWidth 7) (memFn m nt 3#2), op := .store .seg, masked := m, nf := n.toNat + 1 } s

/-! ### Stash windows -/

/-- Write back line `l` of a window, where it is dirty; it stays valid (R216). -/
def State.flushLine (s : State) (w : Window) (l : Nat) : State :=
  match w.linePa l with
  | some pa => s.recall (pa / 256) false
  | none => s

/-- Write back every dirty line of a window. -/
def State.flushWindow (s : State) (w : Window) : State :=
  (w.lines.filter (·.dirty)).foldl (fun s l => s.flushLine w l.line) s

/-- Write back every dirty line of every window of the task with the turn. -/
def State.flushAll (s : State) : State := s.t.windows.foldl State.flushWindow s

/-- The word of a window instruction. -/
def smapWord (d a b : Reg) (fn : BitVec 4) : Word := wordOf (some (fmtA 0x48#7 d a b fn))

/-- A trap whose values the manual does not state: free values (log 20). -/
def openTrap (c : Cause) (s : State) : Trap :=
  { cause := c, val := Config.trapValue s.time 0, val2 := Config.trapValue s.time 1 }

/-- Translate the 64 KiB pages of a global range, `n` of them from `va` on, in ascending order (R215); a fault reports the
64 KiB base, in a page of 512 MiB too (log 82). -/
def pinPages : Nat → Nat → Act (List (Option WindowPin))
  | 0, _ => pure []
  | n + 1, va => do
    let s ← get
    match s.windowPage va with
    | .error e => raiseAct (e.trap (BitVec.ofNat 64 (va / 65536 * 65536)) 0#64)
    | .ok (p, ms) =>
      afterWalk ms do
        modify fun s => s.setMarks false ms
        let r ← pinPages n (va / 65536 * 65536 + 65536)
        pure (some p :: r)

/-- The window number that smap binds: the lowest that is not in use (log 106). -/
def Task.freeWindow (t : Task) : Option Nat :=
  (List.range 16).find? fun n => !(t.windows.any fun w => w.num = n)

/-- smap (R215). -/
def execSmap (d a b : Reg) (s : State) : Out :=
  vecFinish (smapWord d a b 1#4) (do
    let s ← get
    let g := (s.rx a).toNat
    let o := (s.rx b).toNat % 2 ^ 32
    let len := (s.rx b).toNat / 2 ^ 32
    requireAct (decide (g % 256 = 0) && decide (o % 256 = 0) && decide (len % 256 = 0) && decide (len ≠ 0))
      (openTrap .misaligned s)
    requireAct (decide (len ≤ 2 ^ 23) && decide (o + len ≤ s.t.scrb) &&
      !(s.t.windows.any fun w => overlaps w.off w.len o len || overlaps w.va.toNat w.len g len)) (openTrap .access s)
    match s.t.freeWindow with
    | none => modify fun s => s.put d (BitVec.allOnes 64)
    | some n =>
      let ps ← pinPages ((g % 65536 + len + 65535) / 65536) g
      modify fun s =>
        let w : Window := { num := n, off := o, len := len, va := s.rx a, pages := ps, lines := [] }
        ({ s with t := { s.t with windows := s.t.windows ++ [w] } } : State).put d (BitVec.ofNat 64 n)) s

/-- The live window whose number stands in a register; none traps 0x07 (R216). -/
def windowAct (x : Word) : Act Window := do
  let s ← get
  match s.t.windows.find? fun w => BitVec.ofNat 64 w.num = x with
  | some w => pure w
  | none => trapAct .access x

/-- sunmap (R216): the lines are written back and the binding ends. -/
def execSunmap (a : Reg) (s : State) : Out :=
  vecFinish (smapWord 0#7 a 0#7 2#4) (do
    let s ← get
    let w ← windowAct (s.rx a)
    modify fun s =>
      let s1 := s.flushWindow w
      ({ s1 with t := { s1.t with windows := s1.t.windows.filter fun v => v.num != w.num } }).advance) s

/-- sflush (R216): of one window, or of every window where xa is all ones. -/
def execSflush (a : Reg) (s : State) : Out :=
  vecFinish (smapWord 0#7 a 0#7 3#4) (do
    let s ← get
    if s.rx a = BitVec.allOnes 64 then modify fun s => s.flushAll.advance
    else do
      let w ← windowAct (s.rx a)
      modify fun s => (s.flushWindow w).advance) s

/-- The directory evicts a line of a window of the task with the turn: it is written back and no longer held
(01_machine R24). -/
def execStashEviction (win line : Nat) (s : State) : Out :=
  .next (match s.t.windows.find? fun w => w.num = win with
    | some w =>
      let s1 := s.flushLine w line
      { s1 with t := s1.t.mapWindow win fun w => { w with lines := w.lines.filter fun l => l.line != line } }
    | none => s)

end Sys2Proof.Machine
end

