-- ==== Sys2Proof/Machine/Matrix.lean ====
section
/-! DEFINITION. The matrix engine (10_matrix R218 to R241): attachment, shape, the queue, its operations and score
programs. -/

namespace Sys2Proof.Machine

/-! ### The version of a name that an engine fills -/

/-- A pending version that an engine will fill: its swatches, `n` of them for `bytes` bytes, are taken at once (R230,
11_flume R251). `waits` says that it waits for the free list (R233); while it waits it holds none (log 48). -/
def engineVersion (waits : Bool) (tag : ElemType) (len bytes : Nat) : Act Entry := do
  let s ← get
  let n := (bytes + 255) / 256
  let total := if 4 < n then n + 1 else n
  requireAct (decide (s.poolUse s.t.uid + total ≤ s.t.poolq.toNat) || decide (total = 0)) (NoRoom.quota.trap 0)
  let since := s.h.boltSince
  if s.cl.freeCount < total + s.boltAhead since && decide (total ≠ 0) then
    (if waits then waitAct .bolt else raiseAct (NoRoom.bolt.trap 0))
  else do
    let m ← (if 4 < n then (do let i ← streamAlloc 0 since; pure (some i)) else pure none : Act (Option Nat))
    let is ← (List.range n).mapM fun _ => streamAlloc 0 since
    let segs := (List.range n).zipWith (fun j i => ({ swatch := i, first := 0, count := Nat.min 256 (bytes - 256 * j) } : Seg)) is
    match m with
    | some i => modify fun s => { s with cl := s.cl.mapSwatch i fun w => { w with data := mapBytes segs } }
    | none => pure ()
    fun s => let (e, s') := s.withId { state := .pending, tag := tag, segs := segs, map := m, len := len }; .ok (e, s')

/-- The destination of an fgov, which retires at issue: the pending version replaces the old one, and the Flume holds it
as a capture (11_flume R251, 06_chains R146). -/
def flumeDest (k : Nat) (e : Entry) : Act Unit := do
  producerRetired k
  modify fun s => (s.retireName k e).holdAll e.held

/-- The destination of an mread, which retires once it has been filled: the name shows the pending version, and the old
one, given back, is kept until then (R124, R236). It retires behind what that one waits for and the hart's earlier mreads
(06_chains R124, R126). -/
def matrixDest (k : Nat) (e : Entry) : Act Entry := fun s =>
  let old := s.entry k
  .ok (old, s.setName k { e with counts := old.counts, dirty := old.dirty, behind := e.id :: s.awaited old, stamp := e.id })

/-! ### MSHAPE (R222, R223) -/

/-- The fields of MSHAPE. -/
structure Shape where
  m : Nat
  n : Nat
  k : Nat
  ea : ElemType
  eb : ElemType
  nMajor : Bool
  ablk : Nat
  bblk : Nat
  sname : Nat
  deriving DecidableEq, Repr

/-- Elements of a block of a block code: 16 or 32. -/
def blockLen (code : Nat) : Nat := if code = 1 then 16 else 32

/-- Types that A may have; B may also be e2m1 or cb8x2 (R223). -/
def aTypeOk (t : ElemType) : Bool :=
  match t with
  | .e4m3 | .e5m2 | .e3m2 | .e2m3 | .f16 | .bf16 => true
  | _ => false

/-- A block code that goes with a type (02_numbers R30). -/
def blkOk (code : Nat) (t : ElemType) : Bool :=
  match code with
  | 0 => true
  | 1 => isMx t
  | 2 => isMx t || t = .cb8x2
  | _ => false

/-- The shape that a value of MSHAPE stands for, where it is valid (R223). -/
def shapeOf (v : Word) : Option Shape :=
  let w := v.toNat
  match ElemType.ofCode (BitVec.ofNat 5 (bitsOf w 37 33)), ElemType.ofCode (BitVec.ofNat 5 (bitsOf w 42 38)) with
  | some ta, some tb =>
    let x : Shape := {
      m := bitsOf w 8 0 + 1, n := bitsOf w 16 9 + 1, k := bitsOf w 32 17 + 1, ea := ta, eb := tb,
      nMajor := bitOf w 43, ablk := bitsOf w 45 44, bblk := bitsOf w 47 46, sname := bitsOf w 56 48 }
    let wideB := tb = .e2m1 || tb = .cb8x2
    if aTypeOk ta && (aTypeOk tb || wideB) && (!wideB || ta = .e4m3 || ta = .e5m2) &&
        (tb != .cb8x2 || (x.nMajor && x.bblk = 2 && decide (x.k % 8 = 0))) &&
        blkOk x.ablk ta && blkOk x.bblk tb && (x.ablk = 0 || isMx ta) && (x.bblk = 0 || isMx tb || tb = .cb8x2) &&
        decide (x.k % granule ta = 0) &&
        (if x.nMajor then decide (x.k % granule tb = 0) else decide (x.n % granule tb = 0)) &&
        decide (bytesFor ta x.k ≤ 16384) && decide (bytesFor tb x.k ≤ 16384) && decide (bitsOf w 63 57 = 0) then some x
    else none
  | _, _ => none

/-- The trap of a refused MSHAPE value (R223). -/
def shapeTrap (v : Word) : Trap := { cause := .typeMismatch, val := v, val2 := 1#64 }

/-- Write MSHAPE, or trap on an invalid value (R223, R224). -/
def setShape (v : Word) : Act Unit := do
  requireAct (shapeOf v).isSome (shapeTrap v)
  modify fun s => { s with t := { s.t with mshape := v } }

/-- The word of an instruction of major 0x50. -/
def mctlWord (d a b : Reg) (fn : BitVec 4) : Word := wordOf (some (fmtA 0x50#7 d a b fn))

/-- A tile field. -/
def tileField (t : BitVec 2) : Reg := t.setWidth 7

/-- mattach (R220, R237). -/
def execMattach (d a : Reg) (s : State) : Out :=
  regFinish (mctlWord d a 0#7 0#4) (modify fun s =>
    if 0 < s.t.matrix.bands then s.put d (BitVec.ofNat 64 s.t.matrix.bands)
    else
      let want := Nat.min (s.rx a).toNat 8
      let res := s.t.matrix.reserved
      let g := Nat.min want (if s.t.pm then res / 2 else res)
      ({ s with t := { s.t with matrix := { s.t.matrix with bands := g, cells := [] } } } : State).put d (BitVec.ofNat 64 g)) s

/-- mdetach (R221): it waits for the queue; with no attachment it has no effect. -/
def execMdetach (s : State) : Out :=
  regFinish (mctlWord 0#7 0#7 0#7 1#4) (do
    let s ← get
    if s.t.matrix.queue.isEmpty then
      modify fun s => ({ s with t := { s.t with matrix := { s.t.matrix with bands := 0, cells := [], prog := [] } } }).advance
    else waitAct .other) s

/-- mshape (R224). -/
def execMshape (a : Reg) (s : State) : Out :=
  regFinish (mctlWord 0#7 a 0#7 2#4) (do
    let s ← get
    setShape (s.rx a)
    modify fun s => s.advance) s

/-! ### The queue (R219, R233) -/

/-- Rows of a tile. -/
def State.tileRows (s : State) : Nat := 64 * s.t.matrix.bands

/-- A hart whose next queue instruction finds the queue full is not ready: it has not issued, and makes no check yet
(R219). Then check 2 of R233. -/
def attached (w : Word) : Act Unit := do
  let s ← get
  if 16 ≤ s.t.matrix.queue.length then waitAct .other
  requireAct (decide (0 < s.t.matrix.bands)) { cause := .notAttached, val := w }

/-- The hart with the turn has issued operation `n` on context `c` (12_sync R269). -/
def Hart.issued (h : Hart) (c n : Nat) : Hart := { h with lastOp := h.lastOp.setIfInBounds c n }

/-- Put an instruction at the end of the queue: it takes the next number of the matrix timeline, and its captures hold
their swatches (R219, R225). -/
def enqueueOp (m : MOp) : Act Unit := modify fun s =>
  let s1 := s.holdAll m.holds
  let n := s1.t.matrix.issued + 1
  ({ s1 with h := s1.h.issued 4 n, t := { s1.t with matrix := { s1.t.matrix with
    issued := n, queue := s1.t.matrix.queue ++ [{ m with n := n, hart := s.h.id }] } } }).advance

/-- The refusal of check 5 of R233. -/
def refuse (b : Bool) (val : Word) (reason : Nat) : Act Unit :=
  requireAct b { cause := .typeMismatch, val := val, val2 := BitVec.ofNat 64 reason }

/-- A queue instruction that has no number yet. -/
def newOp (w : Word) (kind : MKind) (tile : BitVec 2) : MOp :=
  { n := 0, hart := 0#3, word := w.setWidth 32, kind := kind, tile := tile.toNat }

/-- mzero (R229). -/
def execMzero (d : BitVec 2) (s : State) : Out :=
  let w := mctlWord (tileField d) 0#7 0#7 3#4
  vecFinish w (do
    attached w
    enqueueOp (newOp w .zero d)) s

/-- The region that xb describes (R230). -/
structure Region where
  row0 : Nat
  nr : Nat
  col0 : Nat
  nc : Nat
  deriving DecidableEq, Repr

/-- The region of a word. -/
def regionOf (x : Word) : Region :=
  let v := x.toNat
  { row0 := bitsOf v 15 0, nr := bitsOf v 31 16, col0 := bitsOf v 47 32, nc := bitsOf v 63 48 }

/-- The bounds of a region (R230). -/
def regionCheck (x : Word) : Act Unit := do
  let s ← get
  let r := regionOf x
  requireAct (decide (r.row0 + r.nr ≤ s.tileRows) && decide (r.col0 + r.nc ≤ 256)) { cause := .short, val := 0#64, val2 := x }

/-- The size of a region (check 7 of R233). -/
def regionSize (x : Word) : Act Unit :=
  let r := regionOf x
  requireAct (decide (r.nr * r.nc ≤ 4096))
    { cause := .segOver, val := BitVec.ofNat 64 ((r.nr * r.nc + 63) / 64), val2 := BitVec.ofNat 64 (r.nr * r.nc * 4) }

/-- mread (R230): its destination is pending from issue until the engine has filled it, with every swatch taken. -/
def execMread (d : Reg) (a : BitVec 2) (b : Reg) (s : State) : Out :=
  let w := mctlWord d (tileField a) b 4#4
  vecFinish w (do
    attached w
    let s ← get
    let k := s.h.name d
    let r := regionOf (s.rx b)
    notSpilled [k]
    regionCheck (s.rx b)
    regionSize (s.rx b)
    let e ← engineVersion true .f32 (r.nr * r.nc) (r.nr * r.nc * 4)
    let old ← matrixDest k e
    enqueueOp { newOp w .read a with xb := s.rx b, dest := some e, name := k, old := old }) s

/-- mwrite (R230). Of a chain that is too short and a region out of bounds the first is reported (log 83). -/
def execMwrite (d : BitVec 2) (a b : Reg) (s : State) : Out :=
  let w := mctlWord (tileField d) a b 5#4
  vecFinish w (do
    attached w
    let s ← get
    let k := s.h.name a
    let e := s.entry k
    let r := regionOf (s.rx b)
    notSpilled [k]
    notEmpty [k]
    if e.unsettled then waitAct .other
    refuse (e.tag = .f32) (nameWord k) 5
    within (decide (r.nr * r.nc ≤ e.len)) k (BitVec.ofNat 64 (r.nr * r.nc))
    regionCheck (s.rx b)
    regionSize (s.rx b)
    enqueueOp { newOp w .write d with xb := s.rx b, a := some (.chain e) }) s

/-! ### Score programs (R238 to R240) -/

/-- The sources that an opcode reads: s1, s2, s3 (R239). -/
def scoreReads (op : Nat) : Nat :=
  if op = 0 then 0
  else if op = 4 || op = 11 then 3
  else if op = 7 || op = 12 || op = 13 || op = 14 then 1
  else 2

/-- Whether an operation word of a score program is accepted (R238). -/
def scoreOk (w : Nat) : Bool :=
  let op := bitsOf w 7 0
  let n := scoreReads op
  let src := fun i => bitsOf w (14 + 4 * i) (11 + 4 * i)
  decide (op ≤ 0x0E) && decide (bitsOf w 31 23 = 0) && (op != 0 || decide (bitsOf w 10 8 = 0)) &&
    ((List.range 3).all fun i => if i < n then decide (src i < 12) else decide (src i = 0))

/-- msprog (R238): the program is read by the hart at issue, as scalar loads. Its alignment and the read come after the
check of the attachment and before that of the program (log 91). -/
def execMsprog (a : Reg) (s : State) : Out :=
  let w := mctlWord 0#7 a 0#7 6#4
  vecFinish w (do
    attached w
    let s ← get
    let at_ := s.rx a
    requireAct (aligned at_ 8) { cause := .misaligned, val := at_ }
    withBlock at_ 10 fun bytes => do
      refuse ((List.range 16).all fun i => scoreOk (field bytes (16 + 4 * i) 4)) w 7
      enqueueOp { newOp w .prog 0#2 with bytes := bytes }) s

/-- msmod (R240). DESIGN CHOICE: an RPH above 512 is used as it stands, since the checks refuse 0 only (log 90). -/
def execMsmod (d : BitVec 2) (a b : Reg) (s : State) : Out :=
  let w := mctlWord (tileField d) a b 7#4
  vecFinish w (do
    attached w
    let s ← get
    let x := (s.rx b).toNat
    refuse (decide (bitsOf x 15 0 ≠ 0)) w 7
    requireAct (decide (bitsOf x 47 32 ≤ s.tileRows) && decide (bitsOf x 63 48 ≤ 256))
      { cause := .short, val := 0#64, val2 := s.rx b }
    enqueueOp { newOp w .smod d with xa := s.rx a, xb := s.rx b }) s

/-- An f32 code that a computing operation passes on: a NaN becomes the canonical one, and NV is raised where it is
signalling (02_numbers R36). -/
def passF32 (c : Nat) : Nat × Flags :=
  let v := f32Fmt.decode c
  (if v.isNan then f32Fmt.nan else c, flagIf v.isSig fNV)

/-- The selection of a float operation: `b` where `a` is not ±0, else `c`. DEDUCED: NaN operands as R36 has them for
arithmetic, log 73. -/
def selF32 (a b c : Nat) : Nat × Flags :=
  let x := f32Fmt.decode a
  let r := passF32 (if x.isZero then c else b)
  (r.1, r.2 ||| flagIf x.isSig fNV)

/-- The comparison result of a score program. -/
def scoreBit (b : Bool) : Nat := if b then 0x3F800000 else 0

/-- One operation of a score program on f32 codes (R239). -/
def scoreOp (op a b c : Nat) : Nat × Flags :=
  let f := f32Fmt
  let x := f.decode a
  let y := f.decode b
  match op with
  | 1 => f.deliverInv .rne (fvAdd .rne x y)
  | 2 => binFloat .fsub f .rne a x (some b) y (.fin false 0 0)
  | 3 => f.deliverInv .rne (fvMul x y)
  | 4 => f.deliverInv .rne (fvFma .rne x y (f.decode c))
  | 5 => binFloat .fmin f .rne a x (some b) y (.fin false 0 0)
  | 6 => binFloat .fmax f .rne a x (some b) y (.fin false 0 0)
  | 7 => f.tanh x
  | 8 => (scoreBit (fvLt x y), flagIf (x.isNan || y.isNan) fNV)
  | 9 => (scoreBit (fvLt x y || fvEq x y), flagIf (x.isNan || y.isNan) fNV)
  | 10 => (scoreBit (fvEq x y), flagIf (x.isSig || y.isSig) fNV)
  | 11 => selF32 a b c
  | 12 => if x.isNan then passF32 a else (copySign f a false, 0#9)
  | 13 => f.div .rne (.fin false 1 0) x
  | _ => (a, 0#9)

/-- Run operations of a score program from number `i` on, at most `n` of them, on the registers e0 to e7. -/
def runScore (prog : List Byte) : Nat → Nat → List Nat → Flags → List Nat × Flags
  | 0, _, e, fl => (e, fl)
  | n + 1, i, e, fl =>
    let w := field prog (16 + 4 * i) 4
    let op := bitsOf w 7 0
    if op = 0 then (e, fl)
    else
      let get := fun j =>
        let sel := bitsOf w (14 + 4 * j) (11 + 4 * j)
        if sel < 8 then e.getD sel 0 else field prog (4 * (sel - 8)) 4
      let r := scoreOp op (get 0) (get 1) (get 2)
      runScore prog n (i + 1) (setAt e (bitsOf w 10 8) r.1) (fl ||| r.2)

/-- A number as an f32 code, rounded under RNE, with the flags of the rounding (R240). -/
def natF32 (v : Nat) : Nat × Flags := f32Fmt.deliver .rne (.fin false v 0)

/-! ### Multiply-accumulate (R225 to R227) -/

/-- The scratch pair of an operand (R226). -/
structure Pair where
  off : Nat
  rp : Nat
  tp : Nat
  rot : Nat
  deriving DecidableEq, Repr

/-- The pair of two words. -/
def pairOf (lo hi : Word) : Pair :=
  { off := bitsOf lo.toNat 31 0, rp := bitsOf lo.toNat 63 32, tp := bitsOf hi.toNat 31 0, rot := bitsOf hi.toNat 36 32 }

/-- Scratch offset of byte `b` of run `i`; `along` says that K lies along the run (R226). -/
def Pair.place (p : Pair) (along : Bool) (i b : Nat) : Nat :=
  let l := if along then p.off + b / 256 * p.tp + i * p.rp + b % 256 else p.off + i * p.rp + b
  let line := bitsOf l 12 8
  l - line * 256 + (line + i * p.rot) % 32 * 256

/-- Run and position of element (i, k) of an operand: A and N-major B run along K. -/
def Shape.runs (x : Shape) (isA : Bool) : Nat × Nat × Bool :=
  if isA then (x.m, x.k, true) else if x.nMajor then (x.n, x.k, true) else (x.k, x.n, false)

/-- Why an operand cannot be read: the swatch index or scratch offset that holds poison (R234). DEDUCED (log 83): of several
the first that is met, and the offset of the byte itself. -/
abbrev MRead := Except Nat

/-- Element `j` of run `i` of an operand of type `t` whose runs have `len` elements. -/
def State.operand (s : State) (src : MSrc) (t : ElemType) (len : Nat) (along : Bool) (i j : Nat) : MRead Nat :=
  match src with
  | .chain e => s.cl.element t e.segs (i * len + j)
  | .scratch lo hi =>
    let p := pairOf lo hi
    let g := granuleSpan t j
    let addrs := (List.range g.2).map fun o => p.place along i (g.1 + o)
    match addrs.find? fun a => s.t.scrPoison.any fun m => decide (m.idx = a / 256) with
    | some a => .error a
    | none => .ok (elemOf t (addrs.map fun a => cellGet s.t.scratch a) (j % granule t))

/-- The value of element `j` of run `i`, with its block's scale (R38, R41). -/
def State.operandVal (s : State) (src : MSrc) (t : ElemType) (len : Nat) (along : Bool) (sc : Option Entry) (blk k i j row : Nat) :
    MRead FVal := do
  let c ← s.operand src t len along i j
  let v := valueOf t j c
  match sc with
  | none => pure v
  | some e =>
    let bl := blockLen blk
    let n := (k + bl - 1) / bl
    let kk := if along then j else i
    let x ← s.cl.element .e8m0 e.segs (row * n + kk / bl)
    pure (scaleBy v x)

/-- The length G of the groups of mmaf (02_numbers R51). -/
def groupLen (x : Shape) : Nat :=
  if x.eb = .e2m1 || x.eb = .cb8x2 then 64
  else if isWide x.ea || isWide x.eb then 16
  else 32

/-- An exact sum of products, with whether it is invalid (R51, R52, R402). -/
def sumProducts : FVal × Bool → List (FVal × Bool) → FVal × Bool
  | acc, [] => acc
  | acc, p :: r => let s := fvAdd .rne acc.1 p.1; sumProducts (s.1, acc.2 || p.2 || s.2) r

/-- Infinities of opposite sign among the terms of a cell: they are invalid, NaNs among the terms or not (R52). -/
def cellClash (l : List FVal) : Bool := l.any (· == .inf false) && l.any (· == .inf true)

/-- The accumulator after the products of one instruction: one by one for mmao, in groups for mmaf. -/
def accumulate (ordered : Bool) (g : Nat) : Nat → Nat → List (FVal × Bool) → Flags → Nat × Flags
  | 0, acc, _, fl => (acc, fl)
  | _ + 1, acc, [], fl => (acc, fl)
  | n + 1, acc, p :: r, fl =>
    let grp := if ordered then [] else r.take (g - 1)
    let rest := if ordered then r else r.drop (g - 1)
    let s := sumProducts p grp
    let q := fvAdd .rne (f32Fmt.decode acc) s.1
    let d := f32Fmt.deliverInv .rne (q.1, q.2 || s.2)
    accumulate ordered g n d.1 rest (fl ||| d.2)

/-- Cell (row, col) of a tile. -/
def cellOf (cells : List (Nat × Nat × BitVec 32)) (tile row col : Nat) : Nat :=
  match cells.find? fun c => c.1 = tile && c.2.1 = 256 * row + col with
  | some c => c.2.2.toNat
  | none => 0

/-- The cells with a value at (row, col), in no cell that is +0. -/
def setCell (cells : List (Nat × Nat × BitVec 32)) (tile row col v : Nat) : List (Nat × Nat × BitVec 32) :=
  let i := 256 * row + col
  let before := cells.filter fun c => decide (c.1 < tile) || (decide (c.1 = tile) && decide (c.2.1 < i))
  let after := cells.filter fun c => decide (tile < c.1) || (decide (c.1 = tile) && decide (i < c.2.1))
  if v = 0 then before ++ after else before ++ [(tile, i, BitVec.ofNat 32 v)] ++ after

/-- The products of cell (m, n). -/
def State.products (s : State) (o : MOp) (x : Shape) (m n : Nat) : MRead (List (FVal × Bool)) :=
  match o.a, o.b with
  | some a, some b =>
    (List.range x.k).mapM fun k => do
      let u ← s.operandVal a x.ea x.k true o.ascale x.ablk x.k m k m
      let v ← if x.nMajor then s.operandVal b x.eb x.k true o.bscale x.bblk x.k n k n
        else s.operandVal b x.eb x.n false o.bscale x.bblk x.k k n n
      pure (fvMul u v)
  | _, _ => .ok []

/-- Fill the window line that scratch byte `a` lies in (09_vmem R216): the state, or the trap of a fill that fails, whose
TRAPVAL is the scratch offset (DEDUCED from R234, log 83). -/
def State.fillByte (s : State) (a : Nat) : Except (Trap × State) State :=
  match s.t.windowAt a with
  | none => .ok s
  | some w =>
    match fillLine w ((a - w.off) / 256) a 0#64 s with
    | .ok (_, s') => .ok s'
    | .error (.trap tr) => .error ({ tr with val := BitVec.ofNat 64 a }, s)
    | .error _ => .ok s

/-- Fill the window lines that a scratch operand touches, its runs and their bytes in ascending order. -/
def State.fillOperand (s : State) (src : Option MSrc) (t : ElemType) (runs len : Nat) (along : Bool) :
    Except (Trap × State) State :=
  match src with
  | some (.scratch lo hi) =>
    if s.t.windows.isEmpty then .ok s
    else
      (List.range runs).foldlM (fun s i => (List.range (bytesFor t len)).foldlM (fun (s : State) b =>
        s.fillByte ((pairOf lo hi).place along i b)) s) s
  | _ => .ok s

/-- mmaf and mmao at issue (R227, R233); within one check the operands and reasons come in the order of log 83, and of several
scratch bytes outside the granted ones step 8 reports the lowest of the lowest run. -/
def issueMma (ordered z bScr aScr : Bool) (d : BitVec 2) (a b : Reg) (s : State) : Out :=
  let w := wordOf (some (fmtA 0x51#7 (tileField d) a b
    (BitVec.ofBool z ++ BitVec.ofBool bScr ++ BitVec.ofBool aScr ++ BitVec.ofBool ordered)))
  vecFinish w (do
    attached w
    let s ← get
    let ka := s.h.name a
    let kb := s.h.name b
    let sh := shapeOf s.t.mshape
    let blkA := sh.any fun x => x.ablk != 0
    let blkB := sh.any fun x => x.bblk != 0
    let sa := (sh.map (·.sname)).getD 0
    let sb := (sa + 1) % 512
    let names := (if aScr then [] else [ka]) ++ (if bScr then [] else [kb]) ++ (if blkA then [sa] else []) ++ (if blkB then [sb] else [])
    notSpilled names
    notEmpty names
    if names.any fun k => (s.entry k).unsettled then waitAct .other
    match sh with
    | none => refuse false w 1
    | some x =>
      refuse (decide (x.m ≤ s.tileRows)) w 2
      let pa := s.rpair a
      let pb := s.rpair b
      refuse (!aScr || decide (bitsOf pa.2.toNat 63 37 = 0)) w 3
      refuse (!bScr || (decide (bitsOf pb.2.toNat 63 37 = 0) && (x.nMajor || decide (bitsOf pb.2.toNat 31 0 = 0)))) w 3
      let ea := s.entry ka
      let eb := s.entry kb
      refuse (aScr || ea.tag = x.ea) (nameWord ka) 4
      refuse (bScr || eb.tag = x.eb) (nameWord kb) 4
      refuse (!blkA || (s.entry sa).tag = .e8m0) (nameWord sa) 6
      refuse (!blkB || (s.entry sb).tag = .e8m0) (nameWord sb) 6
      let short := fun (use : Bool) k need => within (!use || decide (need ≤ (s.entry k).len)) k (BitVec.ofNat 64 need)
      short (!aScr) ka (x.m * x.k)
      short (!bScr) kb (x.n * x.k)
      short blkA sa (x.m * ((x.k + blockLen x.ablk - 1) / blockLen x.ablk))
      short blkB sb (x.n * ((x.k + blockLen x.bblk - 1) / blockLen x.bblk))
      let bad := fun (scr isA : Bool) (lo hi : Word) (t : ElemType) =>
        if scr then
          let r := x.runs isA
          (List.range r.1).findSome? fun i => (List.range (bytesFor t r.2.1)).findSome? fun o =>
            let p := (pairOf lo hi).place r.2.2 i o
            if s.t.scrb ≤ p then some p else none
        else none
      match bad aScr true pa.1 pa.2 x.ea with
      | some p => trapAct .access (BitVec.ofNat 64 p)
      | none => pure ()
      match bad bScr false pb.1 pb.2 x.eb with
      | some p => trapAct .access (BitVec.ofNat 64 p)
      | none => pure ()
      enqueueOp { newOp w (.acc ordered z) d with
        shape := s.t.mshape, a := some (if aScr then .scratch pa.1 pa.2 else .chain ea),
        b := some (if bScr then .scratch pb.1 pb.2 else .chain eb),
        ascale := if blkA then some (s.entry sa) else none, bscale := if blkB then some (s.entry sb) else none }) s

/-- mmaf (R227). -/
def execMmaf (z bScr aScr : Bool) (d : BitVec 2) (a b : Reg) (s : State) : Out := issueMma false z bScr aScr d a b s

/-- mmao (R227). -/
def execMmao (z bScr aScr : Bool) (d : BitVec 2) (a b : Reg) (s : State) : Out := issueMma true z bScr aScr d a b s

/-! ### Execution (R231, R234, R236, R237) -/

/-- Whether an instruction writes its tile. -/
def MKind.writes : MKind → Bool
  | .zero | .write | .smod | .acc _ _ => true
  | _ => false

/-- Whether an instruction touches a tile at all. -/
def MKind.touches : MKind → Bool
  | .prog => false
  | _ => true

/-- msprog and msmod keep their order among themselves. -/
def MKind.scores : MKind → Bool
  | .prog | .smod => true
  | _ => false

/-- Whether the earlier instruction `e` holds back `o` (R231). -/
def MOp.before (e o : MOp) : Bool :=
  decide (e.n < o.n) &&
    ((e.kind.touches && o.kind.touches && decide (e.tile = o.tile) && (e.kind.writes || o.kind.writes)) ||
      (e.kind.scores && o.kind.scores))

/-- Whether the `n` elements that an instruction needs of a captured chain are produced (R225, 06_chains R126). -/
def entryReady (n : Nat) (e : Option Entry) : Bool :=
  match e with
  | some e => e.state != .pending || (decide (n ≤ e.prog) && !e.unsettled)
  | none => true

/-- Whether the elements that a queued instruction needs are produced. -/
def MOp.ready (o : MOp) : Bool :=
  match o.kind with
  | .write => entryReady ((regionOf o.xb).nr * (regionOf o.xb).nc) (o.a.bind MSrc.entry?)
  | .acc _ _ =>
    match shapeOf o.shape with
    | some x =>
      entryReady (x.m * x.k) (o.a.bind MSrc.entry?) && entryReady (x.n * x.k) (o.b.bind MSrc.entry?) &&
        entryReady (x.m * ((x.k + blockLen x.ablk - 1) / blockLen x.ablk)) o.ascale &&
        entryReady (x.n * ((x.k + blockLen x.bblk - 1) / blockLen x.bblk)) o.bscale
    | none => true
  | _ => true

/-- Whether instruction `n` of the queue may execute now. -/
def Matrix.eligible (x : Matrix) (o : MOp) : Bool :=
  !o.executed && o.ready && !(x.queue.any fun e => e.before o)

/-- New cells of a region, in order: tile cells, flags by cell. -/
abbrev Cells := List (Nat × Nat × BitVec 32)

/-- The result of an operation on cells. -/
structure MRes where
  cells : Cells
  flags : Flags := 0#9
  low   : Vector (BitVec 32) 9 := Vector.replicate 9 0xFFFFFFFF#32

/-- Apply `f` to cells (row, col) of a region in ascending order. -/
def eachCell (tile : Nat) (f : Nat → Nat → MRead (Nat × Flags)) : List (Nat × Nat) → MRes → MRead MRes
  | [], r => .ok r
  | (m, n) :: l, r =>
    match f m n with
    | .error e => .error e
    | .ok (v, fl) =>
      eachCell tile f l { cells := setCell r.cells tile m n v, flags := r.flags ||| fl, low := fexAfter r.low fl (256 * m + n) }

/-- The cells of `m` rows and `n` columns in ascending order. -/
def grid (m n : Nat) : List (Nat × Nat) := (List.range m).flatMap fun i => (List.range n).map fun j => (i, j)

/-- What an instruction does to the cells (R227, R229, R230, R240). Poison is met cell by cell, then by k, in A before B, in
an element before its scale (log 83). -/
def State.mResult (s : State) (o : MOp) : MRead MRes :=
  let old := s.t.matrix.cells
  match o.kind with
  | .zero => .ok { cells := old.filter fun c => c.1 != o.tile }
  | .write =>
    let r := regionOf o.xb
    match o.a with
    | some (.chain e) =>
      eachCell o.tile (fun m n => do
        let c ← s.cl.element .f32 e.segs ((m - r.row0) * r.nc + (n - r.col0))
        pure (c, 0#9)) ((grid r.nr r.nc).map fun p => (p.1 + r.row0, p.2 + r.col0)) { cells := old }
    | _ => .ok { cells := old }
  | .smod =>
    let x := o.xb.toNat
    let rph := bitsOf x 15 0
    eachCell o.tile (fun m n =>
      let q := natF32 ((bitsOf o.xa.toNat 31 0 + m % rph) % 2 ^ 32)
      let k := natF32 ((bitsOf o.xa.toNat 63 32 + n) % 2 ^ 32)
      let h := natF32 (bitsOf x 31 16 + m / rph)
      let r := runScore s.t.matrix.prog 16 0 [cellOf old o.tile m n, q.1, k.1, h.1, 0, 0, 0, 0] (q.2 ||| k.2 ||| h.2)
      .ok (r.1.headD 0, r.2)) (grid (bitsOf x 47 32) (bitsOf x 63 48)) { cells := old }
  | .acc ordered z =>
    match shapeOf o.shape with
    | none => .ok { cells := old }
    | some x =>
      eachCell o.tile (fun m n => do
        let ps ← s.products o x m n
        let acc := if z then 0 else cellOf old o.tile m n
        let clash := cellClash (f32Fmt.decode acc :: ps.map (·.1))
        pure (accumulate ordered (groupLen x) (x.k + 1) acc ps (flagIf clash fNV))) (grid x.m x.n) { cells := old }
  | _ => .ok { cells := old }

/-- The queue with instruction `n` changed. -/
def State.mapOp (s : State) (n : Nat) (f : MOp → MOp) : State :=
  { s with t := { s.t with matrix := { s.t.matrix with queue := s.t.matrix.queue.map fun o => if o.n = n then f o else o } } }

/-- Hold an asynchronous trap that an engine reports for a hart of the task with the turn (17_traps R403). -/
def State.holdTrap (s : State) (hart : BitVec 3) (tr : Trap) : State :=
  s.mapHart hart fun h => { h with held := h.held ++ [{ tr with engine := true }] }

/-- The bytes of an mread: the region's cells in order. -/
def readBytes (cells : Cells) (tile : Nat) (r : Region) : List Byte :=
  (grid r.nr r.nc).flatMap fun p => bytesOf 4 (cellOf cells tile (p.1 + r.row0) (p.2 + r.col0))

/-- What Lydar logs of a mismatch that the engine reports for a hart (R237, log 87). -/
def State.engineRecord (s : State) (hart : BitVec 3) (tr : Trap) : TrapRec :=
  { s.trapRecord tr true with
    pc := ((s.hart? hart).map (·.pc)).getD 0#64, taskid := s.t.taskid, hartid := hart, task := some s.t.uid,
    nested := ((s.hart? hart).map (·.handler)).getD false, fromS := false, fromP := false }

/-- Instruction `n` of the queue executes, if it may: under protected mode `mm` says what the comparison of the pair
finds (R237). -/
def execMatrixOpExecute (n : Nat) (mm : Mismatch) (s : State) : Out :=
  .next (match s.t.matrix.queue.find? fun o => o.n = n with
    | none => s
    | some o =>
      if !s.t.matrix.eligible o then s
      else
        let x := (shapeOf o.shape).getD { m := 0, n := 0, k := 0, ea := .f32, eb := .f32, nMajor := false, ablk := 0, bblk := 0, sname := 0 }
        match (s.fillOperand o.a x.ea (x.runs true).1 (x.runs true).2.1 true).bind fun s =>
          s.fillOperand o.b x.eb (x.runs false).1 (x.runs false).2.1 (x.runs false).2.2 with
        | .error (tr, s1) => (s1.mapOp n fun o => { o with executed := true, failed := true }).holdTrap o.hart tr
        | .ok s1 =>
        let bad := s.t.pm && o.kind.writes && mm == .persists
        match s1.mResult o with
        | .error p =>
          (s1.mapOp n fun o => { o with executed := true, failed := true }).holdTrap o.hart
            { cause := .poison, val := BitVec.ofNat 64 p }
        | .ok r =>
          if bad then
            let tr : Trap := { cause := .mismatch, val := Config.trapValue s.time 0, val2 := Config.trapValue s.time 1 }
            let s2 := (s1.mapOp n fun o => { o with executed := true, failed := true }).holdTrap o.hart tr
            { s2 with lydarLog := s2.lydarLog ++ [s.engineRecord o.hart tr] }
          else
            let s2 := if s.t.pm && o.kind.writes && mm == .retried then { s1 with t := { s1.t with mm := true } } else s1
            let s3 := { s2 with t := { s2.t with matrix := { s2.t.matrix with
              cells := r.cells, prog := if o.kind == MKind.prog then o.bytes else s2.t.matrix.prog } } }
            let s4 := match o.dest with
              | some e =>
                let s4 := { s3 with cl := s3.cl.putBytes e.segs 0 (readBytes s3.t.matrix.cells o.tile (regionOf o.xb)) }
                s4.showVersion { e with prog := e.len }
              | none => s3
            s4.mapOp n fun o => { o with executed := true, flags := r.flags, low := r.low })

/-- The timeline after instruction `n` has completed with a status. -/
def Matrix.complete (x : Matrix) (n st : Nat) : Matrix :=
  let q := x.queue.filter fun o => o.n != n
  { x with queue := q, status := if st = 0 then x.status else x.status ++ [(n, st)],
           reached := match q with | o :: _ => o.n - 1 | [] => x.issued }

/-- An mread that has completed awaits its retirement, in order of issue. -/
def Matrix.await (x : Matrix) (o : MOp) : Matrix :=
  { x with done := x.done.filter (fun m => decide (m.n < o.n)) ++ [o] ++ x.done.filter fun m => decide (o.n < m.n) }

/-- Instruction `n` completes once it has executed (R219, R236): its flags join those of its hart, its captures are
released, and its number is reached. The destination of an mread retires once the hart's earlier mreads have, in program order
(06_chains R124). DESIGN CHOICE: FTRAPEN is that of the hart at this moment (log 111). -/
def execMatrixOpComplete (n : Nat) (s : State) : Out :=
  .next (match s.t.matrix.queue.find? fun o => o.n = n with
    | none => s
    | some o =>
      if !o.executed then s
      else
        let s1 := ({ s with t := { s.t with matrix := s.t.matrix.complete n (if o.failed then 1 else 0) } }).releaseAll o.holds
        let s2 := match o.dest with
          | some _ =>
            let s2 : State := { s1 with t := { s1.t with matrix := s1.t.matrix.await o } }
            s2.retireReads s2.t.matrix.done.length
          | none => s1
        let s3 := s2.mapHart o.hart fun h => h.joinFlags o.flags
        let en := ((s.hart? o.hart).map fun h => h.enabled o.flags).getD 0#9
        if en = 0#9 then s3
          else
            let low := (List.range 9).foldl (fun m j => if en.getLsbD j then Nat.min m (o.low.toList.getD j 0#32).toNat else m) (2 ^ 32)
            s3.holdTrap o.hart { cause := .fpExc, val := BitVec.ofNat 64 low, val2 := o.flags.setWidth 64 })

end Sys2Proof.Machine
end

