-- ==== Sys2Proof/Machine/Packet.lean ====
section
/-! DEFINITION. The fields of the launch packet (16_launch R336) and of the work-identifier space (01_machine R16 to
R18). -/

namespace Sys2Proof.Machine

/-- A launch packet: 128 bytes. -/
abbrev Packet := List Byte

/-- PROG. -/
def pkProg (p : Packet) : Nat := field p 0 8
/-- ARGS. -/
def pkArgs (p : Packet) : Nat := field p 8 8
/-- COMPL. -/
def pkCompl (p : Packet) : Nat := field p 16 8
/-- REPORT. -/
def pkReport (p : Packet) : Nat := field p 24 8
/-- LASTID. -/
def pkLast (p : Packet) : Nat := field p 32 8
/-- The widths word. -/
def pkWidths (p : Packet) : Nat := field p 40 8
/-- Width w_k. -/
def pkWidth (p : Packet) (k : Nat) : Nat := bitsOf (pkWidths p) (7 * k + 6) (7 * k)
/-- Dispatch depth d. -/
def pkDisp (p : Packet) : Nat := bitsOf (pkWidths p) 44 42
/-- Affinity depth a. -/
def pkAff (p : Packet) : Nat := bitsOf (pkWidths p) 47 45
/-- The settings word at byte 48. -/
def pkSet (p : Packet) : Nat := field p 48 8
/-- GVLC. -/
def pkGvlc (p : Packet) : Nat := bitsOf (pkSet p) 2 0
/-- LGC. -/
def pkLgc (p : Packet) : Nat := bitsOf (pkSet p) 4 3
/-- BANDS. -/
def pkBands (p : Packet) : Nat := bitsOf (pkSet p) 8 5
/-- PRIO. -/
def pkPrio (p : Packet) : Nat := bitsOf (pkSet p) 11 9
/-- GANG. -/
def pkGang (p : Packet) : Bool := bitOf (pkSet p) 12
/-- SERIAL. -/
def pkSerial (p : Packet) : Bool := bitOf (pkSet p) 13
/-- PROT. -/
def pkProt (p : Packet) : Bool := bitOf (pkSet p) 14
/-- RERUN. -/
def pkRerun (p : Packet) : Bool := bitOf (pkSet p) 15
/-- DLACT, the deadline action (12_sync R275). -/
def pkDlact (p : Packet) : Bool := bitOf (pkSet p) 16
/-- QUOTA. -/
def pkQuota (p : Packet) : Nat := bitsOf (pkSet p) 47 32
/-- ASID. -/
def pkAsid (p : Packet) : Nat := bitsOf (pkSet p) 59 48
/-- SCRB. -/
def pkScrb (p : Packet) : Nat := bitsOf (field p 56 8) 23 0
/-- DFIRST. -/
def pkDfirst (p : Packet) : Nat := field p 64 4
/-- DEND. -/
def pkDend (p : Packet) : Nat := field p 68 4
/-- BUDGET. -/
def pkBudget (p : Packet) : Nat := field p 72 8
/-- Dependence `j`: whether it is valid, its queue and its value. -/
def pkDep (p : Packet) (j : Nat) : Bool × Nat × Nat :=
  (bitOf (field p (112 + 2 * j) 2) 15, bitsOf (field p (112 + 2 * j) 2) 11 0, field p (80 + 8 * j) 8)

/-- Lowest bit of field `k` of a work identifier: field 5 is the lowest (R16). -/
def pkShift (p : Packet) (k : Nat) : Nat := ((List.range 6).map fun j => if k < j then pkWidth p j else 0).sum

/-- Field `k` of a work identifier. -/
def wiField (p : Packet) (wi k : Nat) : Nat := wi / 2 ^ pkShift p k % 2 ^ pkWidth p k

/-- Count of field `k`: field `k` of LASTID, plus 1. -/
def pkCount (p : Packet) (k : Nat) : Nat := wiField p (pkLast p) k + 1

end Sys2Proof.Machine
end

