-- ==== Sys2Proof/Machine/Sync.lean ====
section
/-! DEFINITION. Atomics, acquire loads and release stores, the fence, barriers and waits (12_sync R263 to R278). -/

namespace Sys2Proof.Machine

/-- The outcome of an instruction on the contexts of its task that runs at every level (14_weir R303, 15_collectives
R322): the service core runs no task, and its contexts hold nothing (log 14). -/
def levelFinish (vector : Bool) (w : Word) (a : Act Unit) (s : State) : Out :=
  if vector && s.who = .user then vecFinish w a s else finish a s

/-! ### Atomics (R264 to R267) -/

/-- An atomic on `n` bytes: `f` gives from the old value the new one, or none for no write. An acquire-release form has
the hart's earlier stores committed first (R267). -/
def atomic (ar : Bool) (n : Nat) (f : State → Nat → Option Nat) (d a : Reg) (s : State) : Out :=
  finish (do
    let s ← get
    requireAct (aligned (s.rx a) n) { cause := .misaligned, val := s.rx a, val2 := 2#64 }
    let old ← amoAt (s.rx a).toNat n fun bs => (f s (ofBytes bs)).map fun v => bytesOf n v
    modify fun s =>
      let s1 := if ar then s.drain else s
      s1.put d (BitVec.ofNat 64 (ofBytes old))) (if ar then s.drain else s)

/-- A 64-bit atomic whose new value is a function of the word and xb. -/
def atomic64 (ar : Bool) (f : Word → Word → Word) (d a b : Reg) (s : State) : Out :=
  atomic ar 8 (fun s m => some (f (BitVec.ofNat 64 m) (s.rx b)).toNat) d a s

/-- amocas: xd is the expected value. -/
def atomicCas (ar : Bool) (d a b : Reg) (s : State) : Out :=
  atomic ar 8 (fun s m => if BitVec.ofNat 64 m = s.rx d then some (s.rx b).toNat else none) d a s

/-- amofadd (R265). -/
def atomicFadd (ar : Bool) (d a b : Reg) (s : State) : Out :=
  atomic ar 4 (fun s m =>
    some (f32Fmt.deliver .rne (fvAdd .rne (f32Fmt.decode m) (f32Fmt.decode ((s.rx b).toNat % 2 ^ 32))).1).1) d a s

/-- amoadd (R264). -/
def execAmoadd (d a b : Reg) (s : State) : Out := atomic64 false (fun m x => m + x) d a b s
/-- amoand (R264). -/
def execAmoand (d a b : Reg) (s : State) : Out := atomic64 false (fun m x => m &&& x) d a b s
/-- amoor (R264). -/
def execAmoor (d a b : Reg) (s : State) : Out := atomic64 false (fun m x => m ||| x) d a b s
/-- amoxor (R264). -/
def execAmoxor (d a b : Reg) (s : State) : Out := atomic64 false (fun m x => m ^^^ x) d a b s
/-- amomin (R264). -/
def execAmomin (d a b : Reg) (s : State) : Out := atomic64 false sminW d a b s
/-- amomax (R264). -/
def execAmomax (d a b : Reg) (s : State) : Out := atomic64 false smaxW d a b s
/-- amominn (R264). -/
def execAmominn (d a b : Reg) (s : State) : Out := atomic64 false uminW d a b s
/-- amomaxn (R264). -/
def execAmomaxn (d a b : Reg) (s : State) : Out := atomic64 false umaxW d a b s
/-- amoswp (R264). -/
def execAmoswp (d a b : Reg) (s : State) : Out := atomic64 false (fun _ x => x) d a b s
/-- amocas (R264). -/
def execAmocas (d a b : Reg) (s : State) : Out := atomicCas false d a b s
/-- amofadd (R264, R265). -/
def execAmofadd (d a b : Reg) (s : State) : Out := atomicFadd false d a b s
/-- amoadd.ar (R264, R267). -/
def execAmoaddAr (d a b : Reg) (s : State) : Out := atomic64 true (fun m x => m + x) d a b s
/-- amoand.ar (R264, R267). -/
def execAmoandAr (d a b : Reg) (s : State) : Out := atomic64 true (fun m x => m &&& x) d a b s
/-- amoor.ar (R264, R267). -/
def execAmoorAr (d a b : Reg) (s : State) : Out := atomic64 true (fun m x => m ||| x) d a b s
/-- amoxor.ar (R264, R267). -/
def execAmoxorAr (d a b : Reg) (s : State) : Out := atomic64 true (fun m x => m ^^^ x) d a b s
/-- amomin.ar (R264, R267). -/
def execAmominAr (d a b : Reg) (s : State) : Out := atomic64 true sminW d a b s
/-- amomax.ar (R264, R267). -/
def execAmomaxAr (d a b : Reg) (s : State) : Out := atomic64 true smaxW d a b s
/-- amominn.ar (R264, R267). -/
def execAmominnAr (d a b : Reg) (s : State) : Out := atomic64 true uminW d a b s
/-- amomaxn.ar (R264, R267). -/
def execAmomaxnAr (d a b : Reg) (s : State) : Out := atomic64 true umaxW d a b s
/-- amoswp.ar (R264, R267). -/
def execAmoswpAr (d a b : Reg) (s : State) : Out := atomic64 true (fun _ x => x) d a b s
/-- amocas.ar (R264, R267). -/
def execAmocasAr (d a b : Reg) (s : State) : Out := atomicCas true d a b s
/-- amofadd.ar (R264, R265, R267). -/
def execAmofaddAr (d a b : Reg) (s : State) : Out := atomicFadd true d a b s

/-! ### Acquire loads, release stores, fences (R268, R269) -/

/-- ldacq (R268). -/
def execLdacq (d a : Reg) (imm : BitVec 11) (s : State) : Out :=
  finish (do
    modify State.acquire
    let s ← get
    let at_ := s.memImm a imm 8
    requireAct (aligned at_ 8) { cause := .misaligned, val := at_ }
    let bs ← loadAt at_.toNat 8 .load 0#64
    modify fun s => s.put d (BitVec.ofNat 64 (ofBytes bs))) s

/-- Mark the newest buffered store as a release. -/
def markRelease : List SbEntry → List SbEntry
  | [] => []
  | [e] => [{ e with rel := true }]
  | e :: r => e :: markRelease r

/-- Whether a store at `va` performs at once: into scratch, or on a strongly ordered page of this node. -/
def State.storesAtOnce (s : State) (va : Nat) : Bool :=
  (s.scratchOff va).isSome ||
    match s.translate va .store with
    | .ok x => x.ord = .strong && s.isLocal x.pa
    | .error _ => false

/-- strel (R268): a store that the interposer commits only after the hart's earlier ones. -/
def execStrel (d a : Reg) (imm : BitVec 11) (s : State) : Out :=
  finish (do
    let s ← get
    let at_ := s.memImm a imm 8
    requireAct (aligned at_ 8) { cause := .misaligned, val := at_, val2 := 1#64 }
    let now := s.storesAtOnce at_.toNat
    if now then modify State.drain
    storeAt at_.toNat (bytesOf 8 (s.rx d).toNat) 1#64
    modify fun s => (if now then s else { s with h := { s.h with sb := markRelease s.h.sb } }).advance) s

/-- Operations issued on context `c` (R277: 0 to 3 Flume, 4 matrix, 5 and 6 Weir, 7 and 8 collective). -/
def Task.ctxIssued (t : Task) (c : Nat) : Nat :=
  if c < 4 then (t.flume.toList.getD c {}).issued
  else if c = 4 then t.matrix.issued
  else if c < 7 then (t.weir.toList.getD (c - 5) {}).issued
  else (t.coll.toList.getD (c - 7) {}).issued

/-- The counter of context `c`: the largest n for which every operation numbered n or lower has completed (R277). -/
def Task.ctxReached (t : Task) (c : Nat) : Nat :=
  if c < 4 then (t.flume.toList.getD c {}).reached
  else if c = 4 then t.matrix.reached
  else if c < 7 then (t.weir.toList.getD (c - 5) {}).reached
  else (t.coll.toList.getD (c - 7) {}).reached

/-- The statuses that are not 0 of context `c`. -/
def Task.ctxStatus (t : Task) (c : Nat) : List (Nat × Nat) :=
  if c < 4 then (t.flume.toList.getD c {}).status
  else if c = 4 then t.matrix.status
  else if c < 7 then (t.weir.toList.getD (c - 5) {}).status
  else (t.coll.toList.getD (c - 7) {}).status

/-- Whether every operation that the hart has issued on an engine has completed, with all before it (R269). -/
def State.enginesDone (s : State) : Bool :=
  (List.range 9).all fun c => decide (s.h.lastOp.toList.getD c 0 ≤ s.t.ctxReached c)

/-- Code of a fence scope (R64). -/
def FenceScope.code : FenceScope → Nat
  | .hart => 0
  | .core => 1
  | .cluster => 2
  | .device => 3
  | .domain => 4

/-- fence (R269): with an empty class field it orders nothing. Bits 0 to 3 of a class are loads, stores, instruction
fetch and engines. -/
def execFence (scope : FenceScope) (pred succ : BitVec 4) (s : State) : Out :=
  if pred = 0#4 || succ = 0#4 then .next s.advance
  else
    finish (do
      if pred.getLsbD 1 then do
        modify State.drain
        if decide (3 ≤ scope.code) then modify fun s => if s.who = .user then s.flushAll else s
      let s ← get
      if pred.getLsbD 3 && s.who = .user && !s.enginesDone then waitAct .other
      modify fun s => s.acquire.advance) s

/-! ### Barriers (R270 to R275) -/

/-- The affinity group that shares a cluster-scope barrier. -/
def Task.groupKey (t : Task) : Nat × Nat × Nat := (t.queue.toNat, t.launch, t.group)

/-- The launch of the task with the turn. -/
def State.myLaunch (s : State) : Option Launch :=
  (s.queue? s.t.queue.toNat).bind fun q => q.launches.find? fun l => l.num = s.t.launch

/-- The shared barrier `num` of scope `sc` that the task's group or launch has. -/
def State.sharedBarrier (s : State) (sc num : Nat) : Option Barrier :=
  if sc = 1 then (s.barriers.find? fun p => p.1 = s.t.groupKey && p.2.num = num).map (·.2)
  else s.myLaunch.bind fun l => l.barriers.find? fun b => b.num = num

/-- The barrier that a number refers to in the task, and its scope (R270). -/
def State.barrier? (s : State) (num : Nat) : Option (Nat × Barrier) :=
  match s.t.barriers.find? fun b => b.num = num with
  | some b => some (0, b)
  | none =>
    match s.t.shared.find? fun p => p.1 = num with
    | some (_, sc) => (s.sharedBarrier sc num).map fun b => (sc, b)
    | none => none

/-- A list of barriers with `b` in place of that of its number. -/
def putBarrier (l : List Barrier) (b : Barrier) : List Barrier := l.filter (fun x => x.num != b.num) ++ [b]

/-- The state with barrier `b` of scope `sc` as given; a shared one that no task has any more is dropped. -/
def State.setBarrier (s : State) (sc : Nat) (b : Barrier) : State :=
  match sc with
  | 0 => { s with t := { s.t with barriers := putBarrier s.t.barriers b } }
  | 1 =>
    let rest := s.barriers.filter fun p => !(p.1 = s.t.groupKey && p.2.num = b.num)
    { s with barriers := if b.by_.isEmpty then rest else rest ++ [(s.t.groupKey, b)] }
  | _ => s.mapLaunch s.t.queue.toNat s.t.launch fun l =>
      { l with barriers := if b.by_.isEmpty then l.barriers.filter fun x => x.num != b.num else putBarrier l.barriers b }

/-- The task has the shared barrier `num` of scope `sc`. -/
def State.joinShared (s : State) (sc num : Nat) : State :=
  { s with t := { s.t with shared := (s.t.shared.filter fun p => p.1 != num) ++ [(num, sc)] } }

/-- The versions of a phase are dropped with its barrier. -/
def State.dropPubsOf (s : State) (num : Nat) : State :=
  ({ s with t := { s.t with pubs := s.t.pubs.filter fun p => p.1 != num } } : State).settleAll
    ((s.t.pubs.filter fun p => p.1 = num).flatMap (·.2.2))

/-- The task leaves its barrier `num`, which stays for its other participants (R272). -/
def State.leaveBarrier (s : State) (sc : Nat) (b : Barrier) : State :=
  if sc = 0 then ({ s with t := { s.t with barriers := s.t.barriers.filter fun x => x.num != b.num } }).dropPubsOf b.num
  else
    let s1 := s.setBarrier sc { b with by_ := b.by_.filter fun u => u != s.t.uid }
    { s1 with t := { s1.t with shared := s1.t.shared.filter fun p => p.1 != b.num } }

/-- The trap of R273. -/
def barrierTrap (xa : Word) (reason : Nat) : Trap := { cause := .access, val := xa, val2 := BitVec.ofNat 64 reason }

/-- A barrier number, or the trap of one above 255 (R273). -/
def barrierNum (xa : Word) : Act Nat := do
  requireAct (decide (xa.toNat < 256)) (barrierTrap xa 0)
  pure xa.toNat

/-- Join of R272: the barrier as another task has it, or a new one with generation `g`. -/
def enterBarrier (xa : Word) (sc num n : Nat) (g : Word) : Act Unit := do
  let s ← get
  let uid := s.t.uid
  match (if sc = 0 then none else s.sharedBarrier sc num) with
  | some b =>
    requireAct (decide (b.n = n) || decide (b.a = 0)) (barrierTrap xa 4)
    modify fun s => (s.setBarrier sc { b with n := n, by_ := if uid ∈ b.by_ then b.by_ else b.by_ ++ [uid] }).joinShared sc num
  | none =>
    let b : Barrier := { num := num, n := n, a := 0, g := g, by_ := if sc = 0 then [] else [uid] }
    modify fun s => if sc = 0 then s.setBarrier 0 b else (s.setBarrier sc b).joinShared sc num

/-- The word of a barrier instruction. -/
def barrierWord (d a b : Reg) (fn : BitVec 4) : Word := wordOf (some (fmtA 0x61#7 d a b fn))

/-- binit (R272, R273). -/
def execBinit (a b : Reg) (s : State) : Out :=
  taskFinish (do
    let s ← get
    let xa := s.rx a
    let v := (s.rx b).toNat
    let n := bitsOf v 15 0
    let sc := bitsOf v 17 16
    let num ← barrierNum xa
    requireAct (decide (n ≠ 0) && decide (sc ≠ 3) && decide (bitsOf v 63 18 = 0) && (decide (sc ≠ 0) || decide (n ≤ 8))) (barrierTrap xa 5)
    requireAct (decide (sc ≠ 2) || pkGang s.t.packet) (barrierTrap xa 3)
    match s.barrier? num with
    | none => enterBarrier xa sc num n 0#64
    | some (sc0, old) =>
      if old.n = n && sc0 = sc then pure ()
      else do
        requireAct (decide (old.a = 0)) (barrierTrap xa 1)
        if sc0 = sc then modify fun s => s.setBarrier sc { old with n := n }
        else do
          modify fun s => s.leaveBarrier sc0 old
          enterBarrier xa sc num n old.g
    modify fun s => s.advance) s

/-- The barrier that an instruction other than binit names (R273). -/
def barrierAct (xa : Word) : Act (Nat × Barrier) := do
  let num ← barrierNum xa
  let s ← get
  match s.barrier? num with
  | some r => pure r
  | none => raiseAct (barrierTrap xa 2)

/-- Whether phase `g` is complete at generation count `G` (R271). -/
def phaseDone (G g : Word) : Bool :=
  let k := (G - g).setWidth 32
  decide (k ≠ 0#32) && !k.getLsbD 31

/-- The publications of barrier `num` for generation `g` joined by a table. -/
def State.publish (s : State) (num : Nat) (g : Word) (table : List (Nat × Entry)) : State :=
  let mine := fun (p : Nat × Nat × List (Nat × Entry)) => p.1 = num && p.2.1 = g.toNat
  let old := ((s.t.pubs.find? fun p => mine p).map (·.2.2)).getD []
  ({ s with t := { s.t with pubs := (s.t.pubs.filter fun p => !mine p) ++ [(num, g.toNat, mergeTables old table)] } } : State).settleAll old

/-- When phase `g` of a hart-scope barrier completes, the versions of its earlier phases join its own: one view remains
for each barrier, and a swatch that no view shows any more is freed (R274, log 15). -/
def State.closePhase (s : State) (num : Nat) (g : Word) : State :=
  let old := s.t.pubs.filter fun p => p.1 = num && p.2.1 != g.toNat
  let s1 := { s with t := { s.t with pubs := s.t.pubs.filter fun p => !(p.1 = num && p.2.1 != g.toNat) } }
  let s2 := old.foldl (fun s p => s.publish num g p.2.2) s1
  s2.settleAll (old.flatMap (·.2.2))

/-- An arrival (R272, R274): the hart's stores have performed, its versions are published, those of a save area among them, and the phase completes when
it is the last. It gives the generation joined. -/
def arrive (sc : Nat) (b : Barrier) : Act Word := fun s =>
  let s1 := s.drain
  let s2 := if sc = 0 && !s1.t.harts.isEmpty then s1.publish b.num b.g s1.view else s1
  if b.a + 1 = b.n then
    let s3 := s2.setBarrier sc { b with a := 0, g := ((b.g.setWidth 32) + 1#32).setWidth 64 }
    .ok (b.g, if sc = 0 then s3.closePhase b.num b.g else s3)
  else .ok (b.g, s2.setBarrier sc { b with a := b.a + 1 })

/-- The end of a successful wait (R274): it acquires, and at hart scope the published versions become visible. -/
def State.pass (s : State) (sc : Nat) (b : Barrier) : State :=
  let s1 := s.acquire
  if sc = 0 then
    s1.onView fun s => (s.t.pubs.filter fun p => p.1 = b.num && phaseDone b.g (BitVec.ofNat 64 p.2.1)).foldl (fun s p => mergeView p.2.2 s) s
  else s1

/-- barr (R272). -/
def execBarr (d a : Reg) (s : State) : Out :=
  taskFinish (do
    let s ← get
    let (sc, b) ← barrierAct (s.rx a)
    let g ← arrive sc b
    modify fun s => s.put d g) s

/-- bwait (R272). -/
def execBwait (a b : Reg) (s : State) : Out :=
  taskFinish (do
    let s ← get
    let (sc, x) ← barrierAct (s.rx a)
    if phaseDone x.g (s.rx b) then modify fun s => (s.pass sc x).advance
    else waitAct .other) s

/-- barw (R272, R273, R403): xd holds the generation from the arrival on, and a wait whose arrival stands does not
arrive again. -/
def execBarw (d a : Reg) (s : State) : Out :=
  match s.h.wait with
  | some { kind := .barw x, .. } =>
    taskFinish (do
      let (sc, b) ← barrierAct (BitVec.ofNat 64 x.num)
      if phaseDone b.g x.gen then modify fun s => (s.pass sc b).advance
      else waitAct (.barw x)) s
  | _ =>
    taskFinish (do
      let s ← get
      let (sc, b) ← barrierAct (s.rx a)
      let g ← arrive sc b
      modify fun s => s.wx d g
      let x : BarwWait := { word := (barrierWord d a 0#7 3#4).setWidth 32, num := b.num, gen := g }
      match (← get).barrier? b.num with
      | some (_, y) =>
        if phaseDone y.g g then modify fun s => (s.pass sc y).advance
        else modify fun s => s.enterWait (.barw x)
      | none => modify fun s => s.enterWait (.barw x)) s

/-- Whether BDEADL has passed (R275). -/
def State.deadlinePassed (s : State) : Bool :=
  s.h.bdeadl != 0#64 && decide (s.h.bdeadl.toNat ≤ s.timeOf s.t.part)

/-- The deadline action of the launch (R275). -/
def State.deadlineEnd (s : State) (d : Reg) (num : Nat) (gen : Word) : State :=
  if pkDlact s.t.packet then
    let s1 := s.advance
    { s1 with h := { s1.h with held := s1.h.held ++ [{ cause := .deadline, val := BitVec.ofNat 64 (num + gen.toNat % 2 ^ 32 * 2 ^ 8), val2 := 3#64 }] } }
  else s.put d 2#64

/-- bwaitd (R272, R275). -/
def execBwaitd (d a b : Reg) (s : State) : Out :=
  taskFinish (do
    let s ← get
    let (sc, x) ← barrierAct (s.rx a)
    if phaseDone x.g (s.rx b) then modify fun s => (s.pass sc x).put d 0#64
    else if s.deadlinePassed then modify fun s => s.deadlineEnd d x.num (s.rx b)
    else waitAct (.bwaitd d x.num (s.rx b))) s

/-- bgen, the member of the barrier family (R272). -/
def execBgenBar (d a : Reg) (s : State) : Out :=
  taskFinish (do
    let s ← get
    let (_, b) ← barrierAct (s.rx a)
    modify fun s => s.put d b.g) s

/-- A waiting bwaitd reaches its deadline (R275). -/
def execBarrierDeadline (s : State) : Out :=
  .next (match s.h.wait with
    | some { kind := .bwaitd d num gen, .. } =>
      match s.barrier? num with
      | some (_, b) => if !phaseDone b.g gen && s.deadlinePassed then s.deadlineEnd d num gen else s
      | none => s
    | _ => s)

/-! ### Waits (R276 to R278) -/

/-- waddr (R276). Each poll is a load, whose A bits stay while it waits (13_ordering R291). -/
def execWaddr (d a b : Reg) (s : State) : Out :=
  finish (do
    modify State.acquire
    let s ← get
    requireAct (aligned (s.rx a) 8) { cause := .misaligned, val := s.rx a }
    let bs ← loadAt (s.rx a).toNat 8 .load 0#64
    let v := BitVec.ofNat 64 (ofBytes bs)
    if v = s.rx b then modify fun s => s.enterWait (.waddr d (s.rx b) (s.rx a))
    else modify fun s => s.put d v) s

/-- tread (R277). -/
def execTread (d : Reg) (c : BitVec 4) (s : State) : Out :=
  taskFinish (modify fun s => s.put d (BitVec.ofNat 64 (s.t.ctxReached c.toNat))) s

/-- The status of operation `n`, which the counter has reached (R278). -/
def Task.opStatus (t : Task) (c n : Nat) : Nat :=
  if n + 1024 < t.ctxReached c then 4
  else ((t.ctxStatus c).find? fun p => p.1 = n).elim 0 (·.2)

/-- twait (R278). -/
def execTwait (d : Reg) (c : BitVec 4) (b : Reg) (s : State) : Out :=
  taskFinish (do
    let s ← get
    let n := (s.rx b).toNat
    if n = 0 then modify fun s => s.put d 0#64
    else do
      requireAct (decide (n ≤ s.t.ctxIssued c.toNat)) { cause := .timeline, val := s.rx b, val2 := c.setWidth 64 }
      if n ≤ s.t.ctxReached c.toNat then
        modify fun s => s.acquire.put d (BitVec.ofNat 64 (s.t.opStatus c.toNat n))
      else waitAct (.twait d c.toNat n)) s

/-- The wait of a waddr exceeds WTMO (R276): xd takes the old value, and nothing is acquired. -/
def execWaddrTimeout (s : State) : Out :=
  .next (match s.h.wait with
    | some { kind := .waddr d old va, since := t } =>
      if s.waitedOut { kind := .waddr d old va, since := t } then s.put d old else s
    | _ => s)

/-- The wait of a twait exceeds WTMO before the counter has reached its number (R278): 2 to xd. -/
def execTwaitTimeout (s : State) : Out :=
  .next (match s.h.wait with
    | some { kind := .twait d c n, since := t } =>
      if s.waitedOut { kind := .twait d c n, since := t } && decide (s.t.ctxReached c < n) then s.put d 2#64 else s
    | _ => s)

end Sys2Proof.Machine
end

