-- ==== Sys2Proof/Machine/Flume.lean ====
section
/-! DEFINITION. The Flume (11_flume R242 to R262): channels, copy commands, completions, faults and encryption. One
`FLUME_COMMAND_RUN` performs one elementary copy (log 1). -/

namespace Sys2Proof.Machine

/-! ### Channels -/

/-- Channel `c` of the task with the turn. -/
def State.channel (s : State) (c : Nat) : Channel := s.t.flume.toList.getD c {}

/-- The state with channel `c` changed. -/
def State.mapChannel (s : State) (c : Nat) (f : Channel → Channel) : State :=
  { s with t := { s.t with flume := s.t.flume.mapFinIdx fun i x _ => if i = c then f x else x } }

/-- Elementary copies of a command, N of R243. -/
def copies (l : List FLevel) : Nat := (l.map fun x => x.count.toNat).foldl (fun a b => a * b) 1

/-- Offset that the levels add for copy `e`: level 1 is innermost, and the strides are signed. -/
def copyOffset (f : FLevel → BitVec 32) : List FLevel → Nat → Int
  | [], _ => 0
  | l :: r, e => (e % l.count.toNat : Nat) * (f l).toInt + copyOffset f r (e / l.count.toNat)

/-- Source address of copy `e`. -/
def FCmd.src (m : FCmd) (e : Nat) : Nat := (((m.sb.toNat : Int) + copyOffset (·.sstr) m.levels e) % 2 ^ 64).toNat

/-- Destination address of copy `e`. -/
def FCmd.dst (m : FCmd) (e : Nat) : Nat := (((m.db.toNat : Int) + copyOffset (·.dstr) m.levels e) % 2 ^ 64).toNat

/-- The word of a Flume instruction. -/
def flumeWord (d a b : Reg) (fn : BitVec 4) : Word := wordOf (some (fmtA 0x58#7 d a b fn))

/-- The literal of a channel at level `l`. -/
def chanLit (c : BitVec 2) (l : BitVec 3) : Reg := l.setWidth 7 <<< 2 ||| c.setWidth 7

/-- The trap of R246. -/
def flumeTrap (w : Word) (reason : Nat) : Trap := { cause := .flume, val := w, val2 := BitVec.ofNat 64 reason }

/-- Release at issue (R248): the hart's earlier stores are committed. -/
def releaseIssue : Act Unit := modify State.drain

/-- fsetl (R249). -/
def execFsetl (c : BitVec 2) (l : BitVec 3) (a b : Reg) (s : State) : Out :=
  let w := flumeWord (chanLit c l) a b 0#4
  taskFinish (do
    let s ← get
    let xa := s.rx a
    let xb := s.rx b
    if l = 0#3 then do
      requireAct (decide (xa.toNat ≠ 0) && decide (xa.toNat ≤ 16384) && aligned xb 16) (flumeTrap w 1)
      modify fun s => s.mapChannel c.toNat fun x => { x with size := xa.setWidth 15, tagb := xb }
    else do
      requireAct (decide (xa.toNat ≠ 0) && decide (xa.toNat < 2 ^ 32)) (flumeTrap w 1)
      modify fun s => s.mapChannel c.toNat fun x =>
        { x with levels := setAt x.levels (l.toNat - 1) { count := xa.setWidth 32, sstr := xb.setWidth 32, dstr := (xb >>> 32).setWidth 32 } }
    modify fun s => s.advance) s

/-- Check on the size of a command (R246, reason 2). -/
def sizeCheck (w : Word) (x : Channel) : Act Unit :=
  requireAct (decide (copies x.levels < 2 ^ 40) && decide (copies x.levels * x.size.toNat ≤ 2 ^ 48)) (flumeTrap w 2)

/-- Put a command on channel `c`: it takes the next number and the armed notify (R247, R252). -/
def issueCopy (c : BitVec 2) (m : FCmd) : Act Unit := do
  releaseIssue
  modify fun s =>
    let x := s.channel c.toNat
    let n := x.issued + 1
    let s1 := s.mapChannel c.toNat fun x => { x with issued := n, armed := none, cmds := x.cmds ++ [{ m with n := n }] }
    ({ s1 with h := s1.h.issued c.toNat n }).advance

/-- The settings that a command captures (R242). -/
def newCopy (h : Hart) (x : Channel) (sb db : Word) : FCmd :=
  { n := 0, hart := h.id, size := x.size.toNat, tagb := x.tagb, levels := x.levels, sb := sb, db := db, notify := x.armed,
    handlerMode := h.handler }

/-- fgo (R250). A channel with 16 commands keeps the hart from issuing a next one, so that nothing is checked before (R247). On
a service core the command is gone with the empty task before it copies (log 14). -/
def execFgo (c : BitVec 2) (a b : Reg) (s : State) : Out :=
  let w := flumeWord (chanLit c 0#3) a b 1#4
  taskFinish (do
    let s ← get
    let x := s.channel c.toNat
    if 16 ≤ x.cmds.length then waitAct .other
    sizeCheck w x
    issueCopy c (newCopy s.h x (s.rx a) (s.rx b))) s

/-- fgov (R251): every swatch of the destination is taken at issue. -/
def execFgov (d : Reg) (c : BitVec 2) (b : Reg) (s : State) : Out :=
  let w := flumeWord d (chanLit c 0#3) b 2#4
  vecFinish w (do
    let s ← get
    let x := s.channel c.toNat
    let k := s.h.name d
    if 16 ≤ x.cmds.length then waitAct .other
    notSpilled [k]
    sizeCheck w x
    let bytes := copies x.levels * x.size.toNat
    requireAct (decide (bytes ≤ 16384))
      { cause := .segOver, val := BitVec.ofNat 64 ((bytes + 255) / 256), val2 := BitVec.ofNat 64 bytes }
    match retypeLen s.h.ty bytes with
    | none => trapAct .typeMismatch (nameWord k) 0x100#64
    | some n =>
      let e ← engineVersion false s.h.ty n bytes
      flumeDest k e
      issueCopy c { newCopy s.h x (s.rx b) 0#64 with dest := some e, name := k }) s

/-- fnotify (R252). -/
def execFnotify (c : BitVec 2) (a b : Reg) (s : State) : Out :=
  taskFinish (do
    let s ← get
    requireAct (aligned (s.rx a) 8) { cause := .misaligned, val := s.rx a }
    modify fun s => (s.mapChannel c.toNat fun x => { x with armed := some (s.rx a, s.rx b) }).advance) s

/-- fdrain (R253). -/
def execFdrain (c : BitVec 2) (s : State) : Out :=
  let w := flumeWord (chanLit c 0#3) 0#7 0#7 4#4
  taskFinish (do
    let s ← get
    let mine := (s.channel c.toNat).cmds.filter fun m => m.hart = s.h.id
    requireAct (!(mine.any fun m => m.state = .stopped && m.delivered)) (flumeTrap w 4)
    if mine.isEmpty then modify fun s => s.acquire.advance
    else waitAct (.fdrain c.toNat)) s

/-- The wait of an fdrain exceeds WTMO (R253). -/
def execFdrainTimeout (s : State) : Out :=
  .next (match s.h.wait with
    | some { kind := .fdrain c, since := t } =>
      if s.waitedOut { kind := .fdrain c, since := t } then
        takeTrap { cause := .deadline, val := BitVec.ofNat 64 c, val2 := 2#64 } false s
      else s
    | _ => s)

/-- What the Flume was filling is complete wherever it stands, and the Flume gives up its hold on it (R251, 06_chains
R146). -/
def State.endVersion (s : State) (e : Entry) : State :=
  (s.updateVersion e.id fun v => if v.state = .pending then { v with state := .live, prog := v.len } else v).releaseAll e.held

/-- The version of an fgov that ended early: live, with POISON on every swatch that is not wholly written (R251, R254). -/
def State.spoilVersion (s : State) (e : Entry) (written : Nat) : State :=
  let bad := ((List.range e.segs.length).zip e.segs).filter fun p => decide (written < 256 * p.1 + p.2.count)
  let s1 := { s with cl := bad.foldl (fun (c : Cluster) (p : Nat × Seg) => c.mapSwatch p.2.swatch fun w => { w with poison := true }) s.cl }
  s1.endVersion e

/-- The effect of ending command `m` of the task with the turn before its end (R254, R257). -/
def State.endEarly (s : State) (m : FCmd) : State :=
  match m.dest with
  | some e => s.spoilVersion e (m.first * m.size)
  | none => s

/-- Every command of a channel is cancelled, and an armed notify is discarded, also where the channel is idle (R254; log 107). -/
def State.cancelChannel (s : State) (c : Nat) : State :=
  let x := s.channel c
  let s1 := x.cmds.foldl State.endEarly s
  s1.mapChannel c fun x =>
    { x with cmds := [], armed := none, credit := 0, reached := x.issued, status := x.status ++ x.cmds.map fun m => (m.n, 3) }

/-- fcancel (R254). -/
def execFcancel (c : BitVec 2) (s : State) : Out :=
  taskFinish (modify fun s => (s.cancelChannel c.toNat).advance) s

/-- fresume (R255). -/
def execFresume (c : BitVec 2) (s : State) : Out :=
  let w := flumeWord (chanLit c 0#3) 0#7 0#7 6#4
  taskFinish (do
    let s ← get
    requireAct ((s.channel c.toNat).cmds.any fun m => m.state = .stopped) (flumeTrap w 3)
    modify fun s => (s.mapChannel c.toNat fun x =>
      { x with cmds := x.cmds.map fun m => if m.state = .stopped then { m with state := .running, cause := 0#8, delivered := false } else m }).advance) s

/-- The word of fstat (R256). -/
def Channel.word (x : Channel) : Nat :=
  match x.cmds with
  | [] => 0
  | m :: _ =>
    (if m.state = .stopped then 2 + m.cause.toNat * 2 ^ 8 else 1) + m.first * 2 ^ 16 + x.cmds.length * 2 ^ 56

/-- fstat (R256). -/
def execFstat (d : Reg) (c : BitVec 2) (s : State) : Out :=
  taskFinish (modify fun s => s.put d (BitVec.ofNat 64 (s.channel c.toNat).word)) s

/-! ### Accesses of an engine in the address space of its task (R257) -/

/-- A fault of an engine: cause, byte address, whether on the destination side, stage-2 input address, and what the walk
that failed had read (13_ordering R291). -/
structure EFault where
  cause : Cause
  addr  : Nat
  dst   : Bool
  s2    : Nat := 0
  reads : List Nat := []
  seen  : List Nat := []
  deriving DecidableEq, Repr

/-- A computation of an engine. -/
abbrev Eng (α : Type) := StateT State (Except EFault) α

/-- End in a fault. -/
def engFail {α : Type} (f : EFault) : Eng α := fun _ => .error f

/-- A computation of the harts' accesses, run for an engine at address `va`. -/
def engOf {α : Type} (va : Nat) (dst : Bool) (a : Act α) : Eng α := fun s =>
  match a s with
  | .ok r => .ok r
  | .error (.trap tr) => .error { cause := tr.cause, addr := va, dst := dst, s2 := tr.addr.toNat, reads := tr.reads, seen := tr.seen }
  | .error _ => .error { cause := .access, addr := va, dst := dst }

/-- One side of a copy: an offset in the scratch aperture, or a translated address. -/
inductive Side where
  | scratch (off : Nat)
  | mem (x : Xlat)

/-- Where an address leads an engine of the task with the turn: `scr` says whether the engine reaches scratch, as the
Flume does and the other engines do not (09_vmem R198); `handler` is handler mode at issue. -/
def engPlace (scr handler : Bool) (va n : Nat) (dst : Bool) : Eng Side := fun s =>
  match s.scratchOff va with
  | some off =>
    if scr && decide (off + n ≤ s.t.scrb) then .ok (.scratch off, s)
    else .error { cause := .access, addr := if scr && decide (off < s.t.scrb) then s.t.aperture + s.t.scrb else va, dst := dst }
  | none =>
    match s.stage1 s.t.part s.t.sub s.t.asid.toNat handler va (if dst then .store else .load) with
    | .error e => .error { cause := e.cause, addr := va, dst := dst, s2 := e.addr, reads := e.reads, seen := e.seen }
    | .ok x =>
      if s.noMemory x.pa || (dst && (s.aliasOf s.t.part x.pp).isSome) then
        .error { cause := .access, addr := va, dst := dst, reads := x.reads, seen := x.seen }
      else .ok (.mem x, s.setMarks dst x)

/-- What an engine does after it has a place: where it fails, the A bits of the entries that the walk read through stay,
and where it has made its access there (`done`) those of the page too (13_ordering R291). -/
def engVia {α : Type} (p : Side) (done : Bool) (a : Eng α) : Eng α := fun s =>
  match a s, p with
  | .error f, .mem x => .error { f with reads := x.reads ++ (if done then x.marks else []) ++ f.reads, seen := x.seen ++ f.seen }
  | r, _ => r

/-- Read `n` bytes, within one line, at a place. -/
def engLoad (p : Side) (va n : Nat) : Eng (List Byte) :=
  match p with
  | .scratch off => do
    engOf va false (touchScratch off n va false 0#64)
    fun s =>
      if s.t.scrPoison.any fun m => decide (m.idx = off / 256) then .error { cause := .poison, addr := va, dst := false }
      else .ok (cellsGet s.t.scratch off n, s)
  | .mem x => fun s =>
    match s.aliasOf s.t.part x.pp with
    | some w =>
      match s.aliasRead w x.pp n with
      | some r => .ok r
      | none => .error { cause := .poison, addr := va, dst := false }
    | none =>
      match (List.range n).find? fun i => s.consumes (x.pa + i) with
      | some i => .error { cause := .poison, addr := va + i, dst := false }
      | none => let s' := s.recall (x.pa / 256) false; .ok (cellsGet s'.mem x.pa n, s')

/-- Write bytes, within one line, at a place, committed at once. -/
def engStore (p : Side) (va : Nat) (bs : List Byte) : Eng Unit :=
  match p with
  | .scratch off => do
    engOf va true (touchScratch off bs.length va true 0#64)
    modify fun s => s.storeScratch off (whole bs)
  | .mem x => modify fun s => s.commitCells x.pa (whole bs)

/-- Bytes of a piece from `va` that stay within one line, at most `n`. -/
def pieceLen (va n : Nat) : Nat := Nat.min n (256 - va % 256)

/-- Read `n` bytes from `va` on. -/
def engRead (scr handler : Bool) : Nat → Nat → Nat → Eng (List Byte)
  | 0, _, _ => pure []
  | f + 1, va, n =>
    if n = 0 then pure []
    else do
      let k := pieceLen va n
      let p ← engPlace scr handler va k false
      engVia p true do
        let bs ← engLoad p va k
        let r ← engRead scr handler f ((va + k) % 2 ^ 64) (n - k)
        pure (bs ++ r)

/-- Write bytes from `va` on. -/
def engWrite (scr handler : Bool) : Nat → Nat → List Byte → Eng Unit
  | 0, _, _ => pure ()
  | f + 1, va, bs =>
    if bs.isEmpty then pure ()
    else do
      let k := pieceLen va bs.length
      let p ← engPlace scr handler va k true
      engVia p true do
        engStore p va (bs.take k)
        engWrite scr handler f ((va + k) % 2 ^ 64) (bs.drop k)

/-! ### Encryption (R261, R262, 18_partitions R379) -/

/-- The key under which a subpartition encrypts: that of the lowest-numbered slot that it holds with use, where one is
installed. -/
def State.keyOf (s : State) (sub : Nat) : Option KeySlot :=
  ((List.range 64).find? fun n => s.hasUse (.sub sub) 7 n).bind fun n => s.keys.find? fun k => k.num = n

/-- The counter block of R261 for the line at partition-physical address `pp` under version `v`. -/
def lineIv (pp : Nat) (v : BitVec 32) : List Byte := bytesOf 6 (pp / 256) ++ [0#8, 0#8] ++ bytesOf 4 v.toNat

/-- Whether every base and stride of a command is a multiple of 256 and it has a tag base (R261). -/
def FCmd.cryptOk (m : FCmd) : Bool :=
  decide (m.size % 256 = 0) && aligned m.sb 256 && aligned m.db 256 && m.tagb != 0#64 &&
    m.levels.all fun l => decide (l.sstr.toNat % 256 = 0) && decide (l.dstr.toNat % 256 = 0)

/-- What a piece of a copy needs: nothing, encryption, decryption. -/
inductive Crypt where
  | none | seal | unseal
  deriving DecidableEq, Repr

/-- What a piece from `src` to `dst` needs (R261). -/
def State.cryptOf (s : State) (src dst : Side) : Crypt :=
  match src, dst with
  | .mem x, .mem y =>
    if !s.isLocal y.pa && x.enc then .seal else if !s.isLocal x.pa && y.enc then .unseal else .none
  | _, _ => .none

/-- Partition-physical address of a side. -/
def Side.pp : Side → Nat
  | .mem x => x.pp
  | .scratch _ => 0

/-- Take a value of a key's counter, which adds 1 (R261). -/
def State.takeCounter (s : State) (k : KeySlot) : State :=
  { s with keys := s.keys.map fun x => if x.num = k.num then { x with counter := x.counter + 1#32 } else x }

/-- Whether some line of a command leaves the package from an ENC page, under the translations as they stand (R261). -/
def State.seals (s : State) (m : FCmd) : Bool :=
  m.cryptOk && (List.range (copies m.levels)).any fun e => (List.range (m.size / 256)).any fun j =>
    match engPlace true m.handlerMode (m.src e + 256 * j) 256 false s, engPlace true m.handlerMode (m.dst e + 256 * j) 256 true s with
    | .ok (x, _), .ok (y, _) => s.cryptOf x y = .seal
    | _, _ => false

/-- The version of a command that starts: where it will encrypt, its key's counter, which adds 1 (R261); an fgov encrypts
nothing (R251). A counter that would wrap is not taken. -/
def State.startVersion (s : State) (m : FCmd) : Option (BitVec 32) × State :=
  match m.keyV, (if m.dest.isSome then none else s.keyOf s.t.sub) with
  | none, some k => if k.counter != 0xFFFFFFFF#32 && s.seals m then (some k.counter, s.takeCounter k) else (none, s)
  | v, _ => (v, s)

/-- The version under which a command encrypts: that of its start, or where only a later translation makes it encrypt
that of its first encrypted line (R261, log 36). -/
def takeVersion (m : FCmd) (k : KeySlot) (bad : EFault) : Eng (BitVec 32) := fun s =>
  match m.keyV with
  | some v => .ok (v, s)
  | none => if k.counter = 0xFFFFFFFF#32 then .error bad else .ok (k.counter, s.takeCounter k)

/-- Bytes to write, each with its address. -/
abbrev Writes := List (Nat × List Byte)

/-- What the data of one piece of an elementary copy becomes: `bs` are its bytes at the source. The version it encrypted
under, if it did, and what it writes. -/
def copyData (m : FCmd) (from_ sva dva line : Nat) (src dst : Side) (bs : List Byte) : Eng (Option (BitVec 32) × Writes) := do
  let s ← get
  let bad : EFault := { cause := .access, addr := from_, dst := false }
  let rec_ := (m.tagb.toNat + 16 * line) % 2 ^ 64
  match s.cryptOf src dst, s.keyOf s.t.sub with
  | .none, _ => pure (m.keyV, [(dva, bs)])
  | _, none => engFail bad
  | .seal, some k => do
    let v ← takeVersion m k bad
    let (c, tag) := Aes.sealBytes k.key (lineIv src.pp v) bs
    pure (some v, [(rec_, tag.take 12 ++ bytesOf 4 v.toNat), (dva, c)])
  | .unseal, some k => do
    let r ← engRead true m.handlerMode 3 rec_ 16
    match Aes.openBytes k.key (lineIv dst.pp (BitVec.ofNat 32 (field r 12 4))) bs (r.take 12) with
    | some p => pure (m.keyV, [(dva, p)])
    | none => engFail { cause := .poison, addr := sva, dst := false }

/-- One piece of `n` bytes of an elementary copy, and then the rest of the copy with the version it encrypted under, if it
did, and what it writes. `line` is the number of its line in the command, `from_` the source address of the copy.
DESIGN CHOICE: a copy that has several faults reports that of its first piece in ascending order, and within a piece that
of the source's translation, of the destination's, of the bases and the key, of the source's data (log 115). -/
def copyPiece {α : Type} (m : FCmd) (from_ sva dva n line : Nat) (k : Option (BitVec 32) × Writes → Eng α) : Eng α := do
  let src ← engPlace true m.handlerMode sva n false
  engVia src false do
    let dst ← engPlace true m.handlerMode dva n true
    engVia dst false do
      let s ← get
      if s.cryptOf src dst != .none && (!m.cryptOk || (s.keyOf s.t.sub).isNone) then
        engFail { cause := .access, addr := from_, dst := false }
      else
        engVia src true do
          let bs ← engLoad src sva n
          let v ← copyData m from_ sva dva line src dst bs
          k v

/-- The pieces of an elementary copy, at most `f` of them, and then the rest of the copy. -/
def copyPieces {α : Type} (m : FCmd) (from_ : Nat) (k : Option (BitVec 32) × Writes → Eng α) : Nat → Nat → Nat → Nat → Nat → Writes → Eng α
  | 0, _, _, _, _, ws => k (m.keyV, ws)
  | f + 1, sva, dva, n, line, ws =>
    if n = 0 then k (m.keyV, ws)
    else
      let l := Nat.min (pieceLen sva n) (pieceLen dva n)
      copyPiece m from_ sva dva l line fun v =>
        copyPieces { m with keyV := v.1 } from_ k f ((sva + l) % 2 ^ 64) ((dva + l) % 2 ^ 64) (n - l) (line + 1) (ws ++ v.2)

/-- Elementary copy number FIRST of a command: the version it encrypts under. All of its source is read before any byte
of its destination is written, and a fault leaves nothing of it written (R243, R244, R251). -/
def performCopy (m : FCmd) : Eng (Option (BitVec 32)) := do
  let e := m.first
  match m.dest with
  | some v => do
    let bs ← engRead true m.handlerMode (m.size + 1) (m.src e) m.size
    modify fun s => { s with cl := s.cl.putBytes v.segs (e * m.size) bs }
    pure none
  | none =>
    copyPieces m (m.src e) (fun r => do
      r.2.forM fun w => engWrite true m.handlerMode 3 w.1 w.2
      pure r.1) (m.size + 1) (m.src e) (m.dst e) m.size (e * (m.size / 256)) []

/-! ### Events -/

/-- The trap of a fault of command `m` on channel `c` (R257): its routing follows the underlying cause, and its delivery
is that of the command's fault (R253). -/
def copyTrap (c : Nat) (m : FCmd) (f : EFault) : Trap :=
  { cause := .flume, val := BitVec.ofNat 64 f.addr,
    val2 := BitVec.ofNat 64 (m.first + c * 2 ^ 40 + (if f.dst then 2 ^ 42 else 0) + f.cause.code.toNat * 2 ^ 48),
    addr := BitVec.ofNat 64 f.s2, cmd := some (c, m.n),
    bound := match f.cause with
      | .page2 => some .p
      | .range3 => some .o
      | .poison => some .s
      | _ => none }

/-- The head command of channel `c` changed. -/
def State.mapHead (s : State) (c : Nat) (f : FCmd → FCmd) : State :=
  s.mapChannel c fun x => { x with cmds := match x.cmds with | [] => [] | m :: r => f m :: r }

/-- The head command of channel `c` has ended with a status: its number is reached. -/
def State.endHead (s : State) (c st : Nat) : State :=
  s.mapChannel c fun x =>
    match x.cmds with
    | [] => x
    | m :: r => { x with cmds := r, credit := 0, reached := m.n, status := if st = 0 then x.status else x.status ++ [(m.n, st)] }

/-- A command stops at a fault (R257): on poison it ends as failed, and otherwise it waits for `fresume`. DEDUCED: one that
ends as failed makes no notify write (log 98). -/
def State.copyFault (s : State) (c : Nat) (m : FCmd) (f : EFault) : State :=
  let s1 := (s.walked f.reads f.seen).holdTrap m.hart (copyTrap c m f)
  if f.cause = .poison then (s1.endEarly m).endHead c 1
  else (s1.mapHead c fun m => { m with state := .stopped, cause := f.cause.code, delivered := false }).mapChannel c fun x =>
    { x with credit := 0 }

/-- The progress of an fgov's version: leading elements whose bytes are all committed (R251). -/
def leading (t : ElemType) (len bytes : Nat) : Nat :=
  ((List.range (len + 1)).reverse.find? fun n => decide (bytesFor t n ≤ bytes)).getD 0

/-- The engines' part of a task stands in a save area: its channels run no command (R258). -/
def Task.enginesOut (t : Task) : Bool := t.out.any fun p => p.1 = 5

/-- The channel's next command starts, or goes on, with one elementary copy (R243, R247). -/
def execFlumeCommandRun (c : BitVec 2) (s : State) : Out :=
  .next (match (s.channel c.toNat).cmds with
    | [] => s
    | m :: _ =>
      if m.state = .stopped || s.t.enginesOut then s
      else if copies m.levels ≤ m.first then s.mapHead c.toNat fun m => { m with state := .running }
      else
        let (v0, s0) := if m.state = .queued then s.startVersion m else (m.keyV, s)
        match performCopy { m with keyV := v0 } s0 with
        | .error f => (s0.mapHead c.toNat fun m => { m with keyV := v0 }).copyFault c.toNat m f
        | .ok (v, s1) =>
          let s2 := s1.mapHead c.toNat fun m => { m with state := .running, first := m.first + 1, keyV := v }
          let s3 := s2.mapChannel c.toNat fun x => { x with credit := x.credit - m.size }
          match m.dest with
          | some e => s3.updateVersion e.id fun x => { x with prog := leading e.tag e.len ((m.first + 1) * m.size) }
          | none => s3)

/-- A command whose copies are committed makes its notify write and completes (R248); a fault of the notify write stops
it with FIRST = N (R252). -/
def execFlumeCommandComplete (c : BitVec 2) (s : State) : Out :=
  .next (match (s.channel c.toNat).cmds with
    | [] => s
    | m :: _ =>
      if m.state = .stopped || s.t.enginesOut || decide (m.first < copies m.levels) then s
      else
        match (match m.notify with
          | some (a, v) => engWrite true m.handlerMode 2 a.toNat (bytesOf 8 v.toNat) s
          | none => .ok ((), s) : Except EFault (Unit × State)) with
        | .error f => s.copyFault c.toNat m f
        | .ok (_, s1) =>
          let s2 := s1.endHead c.toNat 0
          match m.dest with
          | some e => s2.endVersion e
          | none => s2)

end Sys2Proof.Machine
end

