-- ==== Sys2Proof/Machine/Events.lean ====
section
/-! DEFINITION. Events that the device sends to the levels (18_partitions R378). -/

namespace Sys2Proof.Machine

/-- The lowest-numbered cluster that `p` holds of. -/
def State.lowestCluster (s : State) (p : Cluster → Bool) : Option Nat :=
  (List.range 32).find? fun n => s.allClusters.any fun c => c.num = n && p c

/-- The record of an event: CAUSE 0, the code and the value (R378). -/
def eventRec (code val : Nat) : TrapRec := { cause := 0#8, val := BitVec.ofNat 64 code, val2 := BitVec.ofNat 64 val }

/-- Put an event at the end of the S queue of a service core; where its 64 entries are taken, the one in hand among them, it
waits (17_traps R354, logs 67 and 77). -/
def State.toS (s : State) (cluster : Nat) (r : TrapRec) : State :=
  s.mapCluster cluster fun c =>
    { c with svc := if c.svc.squeue.length + c.svc.srec.toList.length < 64 then { c.svc with squeue := c.svc.squeue ++ [r] } else { c.svc with sheld := c.svc.sheld ++ [r] } }

/-- Put an event at the end of the P queue of a service core. -/
def State.toP (s : State) (cluster : Nat) (r : TrapRec) : State :=
  s.mapCluster cluster fun c =>
    { c with svc := if c.svc.pqueue.length + c.svc.prec.toList.length < 64 then { c.svc with pqueue := c.svc.pqueue ++ [r] } else { c.svc with pheld := c.svc.pheld ++ [r] } }

/-- The cluster whose service core takes the events of a subpartition: its lowest-numbered (log 21). -/
def State.clusterOfSub (s : State) (sub : Nat) : Option Nat := s.lowestCluster fun c => c.sub = some sub

/-- The cluster whose service core takes the events of a partition (log 21). -/
def State.clusterOfPart (s : State) (part : Nat) : Option Nat :=
  s.lowestCluster fun c => (c.sub.bind fun n => s.partOfSub n) = some part

/-- The cluster whose service core takes an event of a subpartition's task: the task's own, while it is in service and the
subpartition's, else the lowest-numbered (log 21). -/
def State.serviceFor (s : State) (sub : Nat) (home : Option Nat) : Option Nat :=
  (home.filter fun n => s.allClusters.any fun c => c.num = n && c.service && c.sub = some sub).or (s.clusterOfSub sub)

/-- An event goes to the service core of its level, or waits until one is there (log 102). -/
def State.sendEvent (s : State) (dest : Holder) (home : Option Nat) (r : TrapRec) : State :=
  let late : State := { s with lateEvents := s.lateEvents ++ [(dest, r)] }
  match dest with
  | .owner => { s with oqueue := s.oqueue ++ [r] }
  | .part p => ((s.clusterOfPart p).map fun c => s.toP c r).getD late
  | .sub n => ((s.serviceFor n home).map fun c => s.toS c r).getD late

/-- The events that wait are sent, where there is a service core for them now. -/
def State.sendLate (s : State) : State :=
  s.lateEvents.foldl (fun s e => s.sendEvent e.1 none e.2) { s with lateEvents := [] }

/-- An event for S of a subpartition, at the service core of cluster `home` where a task is the cause, with its copy to the
host where PSHOST.EN is set (R376, R378). -/
def State.eventS (s : State) (sub : Nat) (home : Option Nat) (code val : Nat) : State :=
  let s1 := s.sendEvent (.sub sub) home (eventRec code val)
  match s.sub? sub with
  | some p =>
    if p.pshost.getLsbD 0 then
      let time := BitVec.ofNat 64 (s.timeOf ((s.partOfSub sub).getD 0))
      let c := BitVec.ofNat 64 code
      let v := BitVec.ofNat 64 val
      let m : HostMsg := { conn := (p.pshost >>> 16).setWidth 16, code := c, val := v, time := time,
                           bytes := bytesOf 16 (Config.hostMessage c v time).toNat }
      { s1 with hostMsgs := s1.hostMsgs ++ [m] }
    else s1
  | none => s1

/-- An event for S of the subpartition of a queue (R345). -/
def State.eventQueue (s : State) (queue code val : Nat) : State :=
  match s.queue? queue with
  | some q => s.eventS q.sub none code val
  | none => s

/-- An event for P of a partition. -/
def State.eventP (s : State) (part code val : Nat) : State := s.sendEvent (.part part) none (eventRec code val)

/-- An event for O. -/
def State.eventO (s : State) (code val : Nat) : State := s.sendEvent .owner none (eventRec code val)

end Sys2Proof.Machine
end

