-- ==== Sys2Proof/Machine/Weir.lean ====
section
/-! DEFINITION. The Weirs (14_weir R295 to R312): graphs, commands, parts and their completion. One `WEIR_PART_RUN`
performs one part whole, which is one of the orders that R310 allows (log 1). -/

namespace Sys2Proof.Machine

/-! ### Graph images (R296 to R300) -/

/-- Byte `i` of a block. -/
def byteAt (b : List Byte) (i : Nat) : Nat := (b.getD i 0#8).toNat

/-- Stream types of R297. -/
def streamType (code : Nat) : Option ElemType :=
  match ElemType.ofCode (BitVec.ofNat 5 code) with
  | some t =>
    if code < 32 then
      match t with
      | .i8 | .n8 | .i16 | .n16 | .i32 | .n32 | .e4m3 | .e5m2 | .f16 | .bf16 | .f32 => some t
      | _ => none
    else none
  | none => none

/-- The first of the bytes `lo` to `hi - 1` that is not zero. -/
def nonZero (b : List Byte) (lo hi : Nat) : List Nat :=
  ((List.range (hi - lo)).map fun i => lo + i).filter fun i => decide (byteAt b i ≠ 0)

/-- `[i]` where the condition fails. -/
def badAt (ok : Bool) (i : Nat) : List Nat := if ok then [] else [i]

/-- Offending bytes of the sizes in a header (R296). -/
def headErrors (g : List Byte) : List Nat :=
  let npe := byteAt g 3
  let ninit := field g 4 2
  badAt (decide (field g 0 2 = 64 + 16 * npe + 8 * ninit)) 0 ++ badAt (decide (byteAt g 2 = 1)) 2 ++
    badAt (decide (1 ≤ npe) && decide (npe ≤ 64)) 3 ++ badAt (decide (ninit ≤ 376)) 4 ++ nonZero g 6 8

/-- Offending bytes of the streamer descriptor at `o` (R297). -/
def descErrors (g : List Byte) (store : Bool) (o : Nat) : List Nat :=
  if byteAt g o = 0 then nonZero g (o + 1) (o + 4)
  else
    badAt (decide (byteAt g o = 1)) o ++
      badAt ((streamType (byteAt g (o + 1))).isSome || decide (byteAt g (o + 1) = 31)) (o + 1) ++
      badAt (if store then decide (byteAt g (o + 2) < byteAt g 3) else decide (byteAt g (o + 2) = 0)) (o + 2) ++
      badAt (decide (byteAt g (o + 3) = 0)) (o + 3)

/-- Sources that an operation reads (R300). -/
def graphReads (op : Nat) : Nat :=
  if op = 0 then 0
  else if op = 4 || op = 7 || op = 15 then 3
  else if op = 16 || op = 17 || op = 18 then 1
  else 2

/-- Whether element `p` may read through a selector (R299). -/
def selOk (p sel : Nat) : Bool :=
  decide (sel ≤ 0x1A) || (decide (0x40 ≤ sel) && decide (sel < 0x40 + p))

/-- Offending bytes of element entry `p` (R298). -/
def entryErrors (g : List Byte) (p : Nat) : List Nat :=
  let o := 64 + 16 * p
  let n := graphReads (byteAt g o)
  badAt (decide (byteAt g o ≤ 0x12)) o ++
    ((List.range 3).flatMap fun j =>
      let sel := byteAt g (o + 1 + j)
      badAt (if j < n then selOk p sel else decide (sel = 0)) (o + 1 + j)) ++
    badAt (decide (byteAt g (o + 4) < 32)) (o + 4) ++ nonZero g (o + 5) (o + 8) ++ nonZero g (o + 12) (o + 16)

/-- Offending bytes of an image (R296 to R300). -/
def graphErrors (g : List Byte) : List Nat :=
  let npe := byteAt g 3
  headErrors g ++ ((List.range 8).flatMap fun j => descErrors g (decide (4 ≤ j)) (8 + 4 * j)) ++ nonZero g 40 64 ++
    ((List.range npe).flatMap fun p => entryErrors g p) ++
    ((List.range (field g 4 2)).flatMap fun k =>
      let o := 64 + 16 * npe + 8 * k
      badAt (decide (byteAt g o < npe)) o ++ badAt (decide (byteAt g (o + 1) < 16)) (o + 1) ++ nonZero g (o + 2) (o + 4))

/-! ### Issue -/

/-- The word of a Weir instruction. -/
def weirWord (d a b : Reg) (fn : BitVec 4) : Word := wordOf (some (fmtA 0x64#7 d a b fn))

/-- A context literal. -/
def ctxLit (c : BitVec 1) : Reg := c.setWidth 7

/-- The refusals of R304. -/
def weirTrap (val : Word) (reason : Nat) : Trap := { cause := .weir, val := val, val2 := BitVec.ofNat 64 reason }

/-- Weir context `c` of the task with the turn. -/
def State.weirCtx (s : State) (c : Nat) : WeirCtx := s.t.weir.toList.getD c {}

/-- The state with Weir context `c` changed. -/
def State.mapWeir (s : State) (c : Nat) (f : WeirCtx → WeirCtx) : State :=
  { s with t := { s.t with weir := s.t.weir.mapFinIdx fun i x _ => if i = c then f x else x } }

/-- Amount of class `c` that a holder has left (18_partitions R365). -/
def State.amount (s : State) (c : Nat) (h : Holder) : Nat :=
  ((s.amounts.find? fun a => a.1 = c && a.2.1 = h).map (·.2.2)).getD 0

/-- The state with an amount changed. -/
def State.setAmount (s : State) (c : Nat) (h : Holder) (n : Nat) : State :=
  { s with amounts := (s.amounts.filter fun a => !(a.1 = c && a.2.1 = h)) ++ (if n = 0 then [] else [(c, h, n)]) }

/-- The rights that a holder's grants give it on its amount of class `c`, which stand as those of item 0 (18_partitions R366,
log 58). -/
def State.amountRights (s : State) (c : Nat) (h : Holder) : BitVec 3 :=
  if h = .owner then 0b111#3
  else (s.grants.filter fun g => g.holder = h && g.held && g.covers c 0).foldl (fun r g => r ||| g.rights) 0#3

/-- What the tasks of a subpartition may draw of class `c`: its amount, where it has the use right. -/
def State.usableAmount (s : State) (c sub : Nat) : Nat :=
  if (s.amountRights c (.sub sub)).getLsbD 0 then s.amount c (.sub sub) else 0

/-- The Weir and collective contexts that a task has drawn return to its subpartition's amounts (18_partitions R365). -/
def State.returnContexts (s : State) (t : Task) : State :=
  let w := if t.weirDrawn then 2 else 0
  let k := (t.coll.toList.filter (·.drawn)).length
  let s1 := if w = 0 then s else s.setAmount 4 (.sub t.sub) (s.amount 4 (.sub t.sub) + w)
  if k = 0 then s1 else s1.setAmount 5 (.sub t.sub) (s1.amount 5 (.sub t.sub) + k)

/-- A task that has ended, once its last Weir and collective command has completed, is gone (R312, 17_traps R355). -/
def State.reap (s : State) : State :=
  if s.t.run = .ended && s.t.weir.toList.all (fun c => c.cmds.isEmpty) && s.t.coll.toList.all (fun c => c.cmds.isEmpty) then
    { s.returnContexts s.t with who := .idle, h := {}, t := {} }
  else s

/-- A task draws two Weir contexts at its first `nbind` (18_partitions R365); none left traps 0x14 with TRAPVAL2 = 7. A
service core, which has no task, draws none (log 14). -/
def drawWeir : Act Unit := do
  let s ← get
  if s.t.weirDrawn then pure ()
  else do
    let n := s.usableAmount 4 s.t.sub
    requireAct (decide (2 ≤ n) && s.who = .user) (weirTrap (Config.trapValue s.time 0) 7)
    modify fun s =>
      let s1 := s.setAmount 4 (.sub s.t.sub) (n - 2)
      { s1 with t := { s1.t with weirDrawn := true } }

/-- nbind (R305): the image that SIZE gives, of at most 4,096 bytes, is read before it is validated (log 40). -/
def execNbind (c : BitVec 1) (a b : Reg) (s : State) : Out :=
  levelFinish false (weirWord (ctxLit c) a b 0#4) (do
    let s ← get
    let xa := s.rx a
    let slot := s.rx b
    requireAct (aligned xa 256) { cause := .misaligned, val := xa }
    requireAct (decide (slot.toNat < 16)) (weirTrap slot 2)
    withBlock xa 8 fun h =>
      withWords 8 (fun g =>
        match graphErrors g with
        | o :: _ => raiseAct (weirTrap (BitVec.ofNat 64 o) 1)
        | [] => do
          drawWeir
          modify fun s => (s.mapWeir c.toNat fun x =>
            { x with slots := (x.slots.filter fun p => p.1 != slot.toNat) ++ [(slot.toNat, g)] }).advance)
        ((Nat.min (field h 0 2) 4096 - 64) / 8) (xa.toNat + 64) h) s

/-- nunbind (R305). -/
def execNunbind (c : BitVec 1) (b : Reg) (s : State) : Out :=
  levelFinish false (weirWord (ctxLit c) 0#7 b 1#4) (do
    let s ← get
    let slot := s.rx b
    requireAct (decide (slot.toNat < 16)) (weirTrap slot 2)
    modify fun s => (s.mapWeir c.toNat fun x => { x with slots := x.slots.filter fun p => p.1 != slot.toNat }).advance) s

/-- An enabled stream of a command: number, whether it stores, type, base. -/
structure WStream where
  j     : Nat
  store : Bool
  ty    : ElemType
  base  : Nat
  deriving DecidableEq, Repr

/-- Bytes of an element of a stream. -/
def WStream.size (w : WStream) : Nat := elemBits w.ty / 8

/-- The enabled streams of a graph under a command block, loads before stores. -/
def streamsOf (g block : List Byte) : List WStream :=
  (List.range 8).filterMap fun i =>
    let o := 8 + 4 * i
    if byteAt g o = 1 then
      let code := byteAt g (o + 1)
      let ty := (streamType (if code = 31 then bitsOf (field block 0 8) 12 8 else code)).getD .f32
      some { j := i % 4, store := decide (4 ≤ i), ty := ty, base := field block (8 + 8 * (i % 4)) 8 }
    else none

/-- COUNT of a command block. -/
def wCount (block : List Byte) : Nat := bitsOf (field block 0 8) 39 16

/-- Offending bytes of a command block that do not depend on the graph (R306, step 1). -/
def blockErrors (b : List Byte) : List Nat :=
  let w := field b 0 8
  let naddr := field b 56 8
  badAt (decide (bitsOf w 7 6 = 0)) 0 ++ badAt (decide (bitsOf w 15 13 = 0)) 1 ++
    badAt (streamType (bitsOf w 12 8)).isSome 1 ++
    badAt (if bitOf w 4 then decide (naddr % 8 = 0) else decide (naddr = 0)) 56

/-- Virtual 64 KiB pages of `n` bytes from `va` on. -/
def pagesOf (va n : Nat) : List Nat :=
  if n = 0 then [] else (List.range ((va + n - 1) / 65536 - va / 65536 + 1)).map fun i => va / 65536 + i

/-- Whether a page that an engine's range covers lies on another node, whatever rights the task has there; a page with no
translation lies nowhere, and an empty range covers none. -/
def State.pagesRemote (s : State) (va n : Nat) : Bool :=
  (pagesOf va n).any fun p =>
    match s.stage1 s.t.part s.t.sub s.t.asid.toNat true (p * 65536) .locate with
    | .ok x => !s.isLocal x.pa
    | .error _ => false

/-- Whether an engine's range meets the scratch aperture; an empty one does not (DEDUCED, log 40). -/
def State.meetsScratch (s : State) (va n : Nat) : Bool := n != 0 && overlaps va n s.t.aperture (2 ^ 23)

/-- Offending fields of a command block that depend on the graph's streamers (R306, step 3). DESIGN CHOICE: where Lj and Sj
have different TYPEs, which stand in the graph and not in the block, the offending field is BASEj (log 119). -/
def State.streamErrors (s : State) (ws : List WStream) (count : Nat) : List Nat :=
  (ws.flatMap fun w =>
    badAt (decide (w.base % w.size = 0)) (8 + 8 * w.j) ++
      badAt (!s.meetsScratch w.base (count * w.size) && !s.pagesRemote w.base (count * w.size)) (8 + 8 * w.j)) ++
  (ws.flatMap fun w => ws.flatMap fun v =>
    if w = v || decide (v.j < w.j) || (decide (v.j = w.j) && w.store) then []
    else if w.j = v.j then
      badAt (w.ty = v.ty) (8 + 8 * v.j) ++ badAt (w.base = v.base || !overlaps w.base (count * w.size) v.base (count * v.size)) (8 + 8 * v.j)
    else badAt (!overlaps w.base (count * w.size) v.base (count * v.size)) (8 + 8 * v.j))

/-- Translate and pin the pages of a stream (R306, step 4): virtual page, device-physical and partition-physical
address. -/
def pinStream (w : WStream) : List Nat → Act (List (Nat × Nat × Nat))
  | [] => pure []
  | p :: r => do
    let s ← get
    let at_ := Nat.max (p * 65536) w.base
    let val2 : Word := BitVec.ofNat 64 (w.j + if w.store then 2 ^ 32 else 0)
    match s.stage1 s.t.part s.t.sub s.t.asid.toNat s.h.handler at_ (if w.store then .store else .load) with
    | .error e => raiseAct (e.trap (BitVec.ofNat 64 at_) val2)
    | .ok x =>
      afterWalk x do
        requireAct (!(w.store && (s.aliasOf s.t.part x.pp).isSome)) { cause := .access, val := BitVec.ofNat 64 at_, val2 := val2 }
        modify fun s => s.setMarks w.store x
        let l ← pinStream w r
        pure ((p, x.pa - at_ % 65536, x.pp - at_ % 65536) :: l)

/-- The parts of a command (R302): maximal runs of elements over which every stream stays within one 4 KiB chunk. -/
def cutParts (ws : List WStream) (pages : List (Nat × Nat × Nat)) (count : Nat) : Nat → Nat → List WPart
  | 0, _ => []
  | f + 1, i =>
    if count ≤ i then []
    else
      let stop := ws.foldl (fun m w => Nat.min m (i + (4096 - (w.base + i * w.size) % 4096) / w.size)) count
      let weir := match ws with
        | w :: _ =>
          let va := w.base + i * w.size
          match pages.find? fun p => p.1 = va / 65536 with
          | some p => (p.2.1 + va % 65536) / 4096 % 12
          | none => 0
        | [] => 0
      { first := i, stop := stop, weir := weir } :: cutParts ws pages count f stop

/-- ncmd (R306). A context with 16 commands keeps the hart from issuing a next one (R295, 05_control R92), so that nothing
is checked or read before. -/
def execNcmd (c : BitVec 1) (a : Reg) (s : State) : Out :=
  levelFinish false (weirWord (ctxLit c) a 0#7 2#4) (do
    let s ← get
    let xa := s.rx a
    if 16 ≤ (s.weirCtx c.toNat).cmds.length then waitAct .other
    requireAct (aligned xa 64) { cause := .misaligned, val := xa }
    withBlock xa 8 fun block =>
      match blockErrors block with
      | o :: _ => raiseAct (weirTrap (BitVec.ofNat 64 o) 3)
      | [] => do
        let slot := bitsOf (field block 0 8) 3 0
        match (s.weirCtx c.toNat).slots.find? fun p => p.1 = slot with
        | none => raiseAct (weirTrap (BitVec.ofNat 64 slot) 4)
        | some (_, g) => do
          let ws := streamsOf g block
          let count := wCount block
          match s.streamErrors ws count with
          | o :: r => raiseAct (weirTrap (BitVec.ofNat 64 (r.foldl Nat.min o)) 3)
          | [] => do
            let pages ← ws.mapM fun w => pinStream w (pagesOf w.base (count * w.size))
            releaseIssue
            modify fun s =>
              let x := s.weirCtx c.toNat
              let n := x.issued + 1
              let m : WCmd := { n := n, hart := s.h.id, graph := g, block := block, pages := pages.flatten,
                                parts := cutParts ws pages.flatten count count 0 }
              let s1 := s.mapWeir c.toNat fun x => { x with issued := n, cmds := x.cmds ++ [m] }
              ({ s1 with h := s1.h.issued (5 + c.toNat) n }).advance) s

/-- nfence (R308). -/
def execNfence (c : BitVec 1) (s : State) : Out :=
  levelFinish false (weirWord (ctxLit c) 0#7 0#7 3#4) (do
    let s ← get
    let n := match s.h.wait with
      | some { kind := .nfence k n, .. } => if k = c.toNat then n else (s.weirCtx c.toNat).issued
      | _ => (s.weirCtx c.toNat).issued
    if n ≤ (s.weirCtx c.toNat).reached then modify fun s => s.acquire.advance
    else waitAct (.nfence c.toNat n)) s

/-- The wait of an nfence exceeds WTMO (R308). -/
def execNfenceTimeout (s : State) : Out :=
  .next (match s.h.wait with
    | some { kind := .nfence c n, since := t } =>
      if s.waitedOut { kind := .nfence c n, since := t } then
        takeTrap { cause := .deadline, val := BitVec.ofNat 64 (5 + c), val2 := 2#64 } false s
      else s
    | _ => s)

/-- nstat (R309). -/
def execNstat (d : Reg) (c : BitVec 1) (s : State) : Out :=
  levelFinish false (weirWord d (ctxLit c) 0#7 4#4) (modify fun s => s.put d (s.weirCtx c.toNat).last) s

/-! ### Parts (R301, R310, R311) -/

/-- An element of a stream as its 32-bit value (R300, R301). -/
def weirLoad (t : ElemType) (c : Nat) : Nat × Flags :=
  if isInt t then (codeOf 32 (intOf (isSigned t) (elemBits t) c), 0#9)
  else toFloat f32Fmt .rne false (valueOf t 0 c)

/-- A 32-bit value as an element of a stream. -/
def weirStore (t : ElemType) (v : Nat) : Nat × Flags :=
  if isInt t then (v % 2 ^ elemBits t, 0#9) else toFloat (fmtOf t) .rne false (f32Fmt.decode v)

/-- One operation of a graph (R300). -/
def graphOp (op a b c : Nat) : Nat × Flags :=
  let f := f32Fmt
  let x := f.decode a
  let y := f.decode b
  match op with
  | 0 => (0, 0#9)
  | 1 => f.deliverInv .rne (fvAdd .rne x y)
  | 2 => binFloat .fsub f .rne a x (some b) y (.fin false 0 0)
  | 3 => f.deliverInv .rne (fvMul x y)
  | 4 => f.deliverInv .rne (fvFma .rne x y (f.decode c))
  | 5 => binFloat .fmin f .rne a x (some b) y (.fin false 0 0)
  | 6 => binFloat .fmax f .rne a x (some b) y (.fin false 0 0)
  | 7 => selF32 a b c
  | 8 => (scoreBit (fvLt x y), flagIf (x.isNan || y.isNan) fNV)
  | 9 => (scoreBit (fvLt x y || fvEq x y), flagIf (x.isNan || y.isNan) fNV)
  | 10 => ((a + b) % 2 ^ 32, 0#9)
  | 11 => ((a + 2 ^ 32 - b) % 2 ^ 32, 0#9)
  | 12 => (a &&& b, 0#9)
  | 13 => (a ||| b, 0#9)
  | 14 => (a ^^^ b, 0#9)
  | 15 => (if a = 0 then c else b, 0#9)
  | 16 => convert .rne false .i32 .f32 0 a
  | 17 => floatToInt .rtz true 32 x
  | _ => (a, 0#9)

/-- The registers of the elements at the start of a part (R301). -/
def initRegs (g : List Byte) : List (List Nat) :=
  let npe := byteAt g 3
  (List.range (field g 4 2)).foldl (fun r k =>
    let o := 64 + 16 * npe + 8 * k
    let p := byteAt g o
    setAt r p (setAt (r.getD p []) (byteAt g (o + 1)) (field g (o + 4) 4))) (List.replicate npe (List.replicate 16 0))

/-- A source of element entry `p` (R299). -/
def graphSource (g block : List Byte) (regs : List (List Nat)) (loads : List Nat) (res : List Nat) (i p sel : Nat) : Nat :=
  if sel < 0x10 then (regs.getD p []).getD sel 0
  else if sel < 0x14 then loads.getD (sel - 0x10) 0
  else if sel < 0x18 then field block (40 + 4 * (sel - 0x14)) 4
  else if sel = 0x18 then field g (64 + 16 * p + 8) 4
  else if sel = 0x19 then i
  else if sel = 0x1A then (natF32 i).1
  else res.getD (sel - 0x40) 0

/-- The results of the elements for data element `i`, with their flags. -/
def graphRun (g block : List Byte) (regs : List (List Nat)) (loads : List Nat) (i : Nat) : List Nat × Flags :=
  (List.range (byteAt g 3)).foldl (fun acc p =>
    let o := 64 + 16 * p
    let src := fun j => graphSource g block regs loads acc.1 i p (byteAt g (o + 1 + j))
    let r := graphOp (byteAt g o) (src 0) (src 1) (src 2)
    (acc.1 ++ [r.1], acc.2 ||| r.2)) ([], 0#9)

/-- The registers after a data element. -/
def graphRegs (g : List Byte) (regs : List (List Nat)) (res : List Nat) : List (List Nat) :=
  (List.range (byteAt g 3)).foldl (fun r p =>
    let dreg := byteAt g (64 + 16 * p + 4)
    if bitOf dreg 4 then setAt r p (setAt (r.getD p []) (dreg % 16) (res.getD p 0)) else r) regs

/-- Device-physical and partition-physical address of a virtual address of a command. -/
def WCmd.place (m : WCmd) (va : Nat) : Nat × Nat :=
  match m.pages.find? fun p => p.1 = va / 65536 with
  | some p => (p.2.1 + va % 65536, p.2.2 + va % 65536)
  | none => (0, 0)

/-- The load streamers for data element `i`: none where a byte is poisoned or marked (R311). A line that a window holds
is written back and invalidated (R310, 09_vmem R216). -/
def State.weirLoads (s : State) (m : WCmd) (ws : List WStream) (i : Nat) : Option (List Nat × Flags × State) :=
  (List.range 4).foldl (fun acc j =>
    match acc with
    | none => none
    | some (l, fl, s) =>
      match ws.find? fun w => !w.store && w.j = j with
      | none => some (l ++ [(Config.idleStreamer s.time i j).toNat], fl, s)
      | some w =>
        let (pa, pp) := m.place (w.base + i * w.size)
        match s.aliasOf s.t.part pp with
        | some f =>
          (s.aliasRead f pp w.size).map fun (bs, s1) =>
            let r := weirLoad w.ty (ofBytes bs)
            (l ++ [r.1], fl ||| r.2, s1)
        | none =>
          if (List.range w.size).any fun o => s.consumes (pa + o) then none
          else
            let s1 := s.recall (pa / 256) true
            let r := weirLoad w.ty (ofBytes (cellsGet s1.mem pa w.size))
            some (l ++ [r.1], fl ||| r.2, s1)) (some ([], 0#9, s))

/-- The stores of data element `i`. -/
def State.weirStores (s : State) (m : WCmd) (ws : List WStream) (res : List Nat) (i : Nat) : State × Flags :=
  (ws.filter (·.store)).foldl (fun acc w =>
    let (pa, _) := m.place (w.base + i * w.size)
    let src := byteAt m.graph (24 + 4 * w.j + 2)
    let r := weirStore w.ty (res.getD src 0)
    (acc.1.commitCells pa (whole (bytesOf w.size r.1)), acc.2 ||| r.2)) (s, 0#9)

/-- Elements of a part from `i` on, at most `n`: the state, the flags, and the element it stopped at. -/
def runPart (m : WCmd) (ws : List WStream) : Nat → Nat → List (List Nat) → Flags → State → State × Flags × Option Nat
  | 0, _, _, fl, s => (s, fl, none)
  | n + 1, i, regs, fl, s =>
    match s.weirLoads m ws i with
    | none => (s, fl, some i)
    | some (loads, f1, s1) =>
      let (res, f2) := graphRun m.graph m.block regs loads i
      let (s2, f3) := s1.weirStores m ws res i
      runPart m ws n (i + 1) (graphRegs m.graph regs res) (fl ||| f1 ||| f2 ||| f3) s2

/-- Part `k` of the context's first command runs (R301); a part that fails sends event 3 to S (R311, 18_partitions
R378). -/
def execWeirPartRun (c : BitVec 1) (k : Nat) (s : State) : Out :=
  .next (match (s.weirCtx c.toNat).cmds with
    | [] => s
    | m :: _ =>
      match m.parts[k]? with
      | none => s
      | some p =>
        if p.finished then s
        else
          let (s1, fl, fail) := runPart m (streamsOf m.graph m.block) (p.stop - p.first) p.first (initRegs m.graph) 0#9 s
          let s2 := s1.mapWeir c.toNat fun x =>
            { x with cmds := x.cmds.map fun y =>
                if y.n = m.n then { y with parts := setAt y.parts k { p with finished := true, fail := fail }, flags := y.flags ||| fl } else y }
          if fail.isSome then s2.eventS s.t.sub (some s.t.home) 3 (p.weir + m.n * 2 ^ 8) else s2)

/-- The word of nstat (R309). -/
def WCmd.statWord (m : WCmd) : Nat :=
  let bad := m.parts.filter fun p => p.fail.isSome
  (match bad with
    | [] => 0
    | p :: r => 1 + bitNat (!r.isEmpty) * 2 ^ 2 + p.fail.getD 0 * 2 ^ 8 + p.stop * 2 ^ 32) +
    m.flags.toNat % 32 * 2 ^ 3 + m.n % 256 * 2 ^ 56

/-- The routing of a fault that an engine's own access met (R350: as its underlying cause). -/
def EFault.bound (f : EFault) : Option Level :=
  match f.cause with
  | .page2 => some .p
  | .range3 => some .o
  | .poison => some .s
  | _ => none

/-- Whether a command makes a completion write, and where (R306). -/
def WCmd.notifies (m : WCmd) : Option Nat := if bitOf (field m.block 0 8) 4 then some (field m.block 56 8) else none

/-- A fault of the completion write of a command; the A bits that its walk has used are set (13_ordering R291). -/
def State.weirNotifyFault (s : State) (m : WCmd) (f : EFault) : State :=
  (s.walked f.reads f.seen).holdTrap m.hart { cause := .weir, val := BitVec.ofNat 64 (field m.block 56 8), val2 := 6#64, addr := BitVec.ofNat 64 f.s2, bound := f.bound }

/-- The first command `m` of context `c` is complete: its number is reached. -/
def State.finishWeir (s : State) (c : Nat) (m : WCmd) : State :=
  let st := if m.parts.any fun p => p.fail.isSome then 1 else 0
  (s.mapWeir c fun x =>
    { x with cmds := x.cmds.drop 1, reached := m.n, last := BitVec.ofNat 64 m.statWord,
             status := if st = 0 then x.status else x.status ++ [(m.n, st)] }).reap

/-- The context's first command completes once every part has finished (R307). DESIGN CHOICE: its completion write is
translated outside handler mode, whatever the mode of the hart at its ncmd (log 117). -/
def execWeirCommandComplete (c : BitVec 1) (s : State) : Out :=
  .next (match (s.weirCtx c.toNat).cmds with
    | [] => s
    | m :: _ =>
      if m.parts.any fun p => !p.finished then s
      else
        let s1 := match m.notifies with
          | some naddr =>
            match engWrite false false 2 naddr (bytesOf 8 (bitsOf (field m.block 0 8) 63 40)) s with
            | .ok (_, s1) => s1
            | .error f => s.weirNotifyFault m f
          | none => s
        s1.finishWeir c.toNat m)

end Sys2Proof.Machine
end

