-- ==== Sys2Proof/Machine/Collective.lean ====
section
/-! DEFINITION. The collective instructions and the collective engine of this device (15_collectives R320 to R332). What
the other members bring comes with the event `COLLECTIVE_RUN`. -/

namespace Sys2Proof.Machine

/-- The word of a collective instruction. -/
def collWord (c : BitVec 1) (a : Reg) (fn : BitVec 4) : Word := wordOf (some (fmtA 0x68#7 (ctxLit c) a 0#7 fn))

/-- The refusals of R323. -/
def collTrap (val : Word) (reason : Nat) : Trap := { cause := .coll, val := val, val2 := BitVec.ofNat 64 reason }

/-- Collective context `c` of the task with the turn. -/
def State.collCtx (s : State) (c : Nat) : CollCtx := s.t.coll.toList.getD c {}

/-- The state with collective context `c` changed. -/
def State.mapColl (s : State) (c : Nat) (f : CollCtx → CollCtx) : State :=
  { s with t := { s.t with coll := s.t.coll.mapFinIdx fun i x _ => if i = c then f x else x } }

/-! ### Groups (R321, R324) -/

/-- NRANK of a group. -/
def grpN (g : List Byte) : Nat := field g 0 2
/-- MYRANK of a group. -/
def grpMine (g : List Byte) : Nat := field g 2 2
/-- GROUPTAG of a group. -/
def grpTag (g : List Byte) : Nat := field g 4 4
/-- Node of rank `r`. -/
def grpNode (g : List Byte) (r : Nat) : Nat := field g (16 + 4 * r) 4

/-- Offending fields of the 16 bytes at the head of a descriptor (R324). -/
def grpHead (g : List Byte) : List Nat :=
  badAt (decide (1 ≤ grpN g) && decide (grpN g ≤ 1024)) 0 ++ badAt (decide (grpMine g < grpN g)) 2 ++
    badAt (decide (byteAt g 8 ≤ 2)) 8 ++ badAt (decide (field g 9 7 = 0)) 9

/-- Offending fields of the ranks: reserved bits, a node twice, another node at MYRANK. -/
def grpRanks (own : Nat) (g : List Byte) : List Nat :=
  (List.range (grpN g)).flatMap fun r =>
    badAt (decide (grpNode g r < 1024) && !((List.range r).any fun q => grpNode g q = grpNode g r) &&
      (decide (r ≠ grpMine g) || decide (grpNode g r = own))) (16 + 4 * r)

/-- Whether a context other than `c` of the task with the turn has the tag bound on this node. -/
def State.tagBound (s : State) (c tag : Nat) : Bool :=
  (s.tasks.any fun t => t.coll.any fun x => x.group.any fun g => grpTag g = tag) ||
    (List.range 2).any fun k => k != c && (s.collCtx k).group.any fun g => grpTag g = tag

/-- A task draws a collective context at its first `kgrp` on it (18_partitions R365); a service core, which has no task,
draws none (log 14). -/
def drawColl (c : Nat) : Act Unit := do
  let s ← get
  if (s.collCtx c).drawn then pure ()
  else do
    let n := s.usableAmount 5 s.t.sub
    requireAct (decide (1 ≤ n) && s.who = .user) (collTrap (Config.trapValue s.time 0) 7)
    modify fun s => (s.setAmount 5 (.sub s.t.sub) (n - 1)).mapColl c fun x => { x with drawn := true }

/-- kgrp (R324): with x0 it unbinds. -/
def execKgrp (c : BitVec 1) (a : Reg) (s : State) : Out :=
  levelFinish true (collWord c a 0#4) (do
    let s ← get
    requireAct (s.collCtx c.toNat).cmds.isEmpty (collTrap (c.setWidth 64) 5)
    if a = 0#7 then modify fun s => (s.mapColl c.toNat fun x => { x with group := none, pos := 0 }).advance
    else do
      let xa := s.rx a
      requireAct (aligned xa 16) { cause := .misaligned, val := xa }
      withBlock xa 2 fun h =>
        match grpHead h with
        | o :: _ => raiseAct (collTrap (BitVec.ofNat 64 o) 1)
        | [] =>
          withWords 4 (fun g =>
            match grpRanks s.o.onode.toNat g with
            | o :: _ => raiseAct (collTrap (BitVec.ofNat 64 o) 1)
            | [] => do
              requireAct (s.partUse s.ownPart 8 (grpTag g) && !s.tagBound c.toNat (grpTag g)) (collTrap (BitVec.ofNat 64 (grpTag g)) 4)
              drawColl c.toNat
              modify fun s => (s.mapColl c.toNat fun x => { x with group := some g, pos := 0 }).advance)
            (grpN h) (xa.toNat + 16) h) s

/-! ### Command blocks (R325) -/

/-- OP. -/
def kOp (b : List Byte) : Nat := bitsOf (field b 0 8) 3 0
/-- ORDERED. -/
def kOrdered (b : List Byte) : Bool := bitOf (field b 0 8) 4
/-- NOTIFY. -/
def kNotify (b : List Byte) : Bool := bitOf (field b 0 8) 5
/-- The code of TYPE. -/
def kTypeCode (b : List Byte) : Nat := bitsOf (field b 0 8) 12 8
/-- ROOT. -/
def kRoot (b : List Byte) : Nat := bitsOf (field b 0 8) 31 16
/-- COUNT. -/
def kCount (b : List Byte) : Nat := bitsOf (field b 0 8) 63 32
/-- SRC. -/
def kSrc (b : List Byte) : Nat := field b 8 8
/-- DST. -/
def kDst (b : List Byte) : Nat := field b 16 8

/-- TYPE, where the instruction allows it. -/
def kType (k : KKind) (b : List Byte) : Option ElemType :=
  match k, ElemType.ofCode (BitVec.ofNat 5 (kTypeCode b)) with
  | .draw, _ => if kTypeCode b = 0 then some .i64 else none
  | .red, some t =>
    match t with
    | .i32 | .n32 | .i64 | .n64 | .f16 | .bf16 | .f32 => some t
    | _ => none
  | _, some t => if 8 ≤ elemBits t && t != .cb8x2 then some t else none
  | _, none => none

/-- Bytes of an element. -/
def kElem (k : KKind) (b : List Byte) : Nat :=
  match k, kType k b with
  | .draw, _ => 8
  | _, some t => elemBits t / 8
  | _, none => 1

/-- Bytes of one rank's contribution, B. -/
def kBytes (k : KKind) (b : List Byte) : Nat := kCount b * kElem k b

/-- The range of SRC that a rank uses: address and bytes. -/
def kSrcRange (k : KKind) (mine : Nat) (b : List Byte) : Option (Nat × Nat) :=
  if k = .cast && kRoot b != mine then none else some (kSrc b, kBytes k b)

/-- The range of DST that a rank uses. -/
def kDstRange (k : KKind) (n mine : Nat) (b : List Byte) : Option (Nat × Nat) :=
  let bytes := match k with
    | .gat => n * kBytes k b
    | .draw => 8
    | _ => kBytes k b
  if k = .cast || kRoot b = 0xFFFF || kRoot b = mine then some (kDst b, bytes) else none

/-- Whether a used range lies in the scratch aperture or on another node. -/
def State.rangeAway (s : State) (r : Option (Nat × Nat)) : Bool := r.any fun p => s.meetsScratch p.1 p.2 || s.pagesRemote p.1 p.2

/-- Offending fields of a block (R325). -/
def State.blockRefusals (s : State) (k : KKind) (g b : List Byte) : List Nat :=
  let n := grpN g
  let mine := grpMine g
  let w := field b 0 8
  let t := kType k b
  let src := kSrcRange k mine b
  let dst := kDstRange k n mine b
  let al := Nat.min (kElem k b) 8
  let inPlace := match k with
    | .red | .cast => decide (kSrc b = kDst b)
    | .gat => decide (kSrc b = kDst b + mine * kBytes k b)
    | .draw => false
  let meet := match src, dst with
    | some (a, m), some (c, l) => overlaps a m c l
    | _, _ => false
  badAt (if k = .red then decide (kOp b ≤ 5) && (decide (kOp b < 3) || t.all isInt) else decide (kOp b = 0) && !kOrdered b) 0 ++
    badAt (decide (bitsOf w 7 6 = 0)) 0 ++ badAt (decide (bitsOf w 15 13 = 0)) 1 ++ badAt t.isSome 1 ++
    badAt (decide (kRoot b < n) || (decide (kRoot b = 0xFFFF) && k != .cast)) 2 ++
    badAt (decide (kBytes k b ≤ 2 ^ 36) && (k != .gat || decide (n * kBytes k b ≤ 2 ^ 40)) &&
      (k != .draw || (decide (1 ≤ kCount b) && decide (kCount b ≤ 4096)))) 4 ++
    badAt (src.all (fun p => decide (p.1 % al = 0)) && !s.rangeAway src) 8 ++
    badAt (dst.all (fun p => decide (p.1 % al = 0)) && !s.rangeAway dst && (inPlace || !meet)) 16 ++
    badAt (if kNotify b then decide (field b 24 8 % 8 = 0) else decide (field b 24 8 = 0)) 24 ++
    badAt (decide (field b 40 24 = 0)) 40

/-- Translate and pin the pages of a used range (R325). -/
def pinRange (store : Bool) (lo : Nat) : List Nat → Act (List (Nat × Nat × Nat))
  | [] => pure []
  | p :: r => do
    let s ← get
    let at_ := Nat.max (p * 65536) lo
    let val2 := boolWord store
    match s.stage1 s.t.part s.t.sub s.t.asid.toNat s.h.handler at_ (if store then .store else .load) with
    | .error e => raiseAct (e.trap (BitVec.ofNat 64 at_) val2)
    | .ok x =>
      afterWalk x do
        requireAct (!(store && (s.aliasOf s.t.part x.pp).isSome)) { cause := .access, val := BitVec.ofNat 64 at_, val2 := val2 }
        modify fun s => s.setMarks store x
        let l ← pinRange store lo r
        pure ((p, x.pa - at_ % 65536, x.pp - at_ % 65536) :: l)

/-- The pages of a range, pinned. -/
def pinUsed (store : Bool) (r : Option (Nat × Nat)) : Act (List (Nat × Nat × Nat)) :=
  match r with
  | none => pure []
  | some (a, n) => pinRange store a (pagesOf a n)

/-- kred, kgat, kcast and kdraw at issue (R325, R326, R329). A context with 16 commands keeps the hart from issuing a next
one (05_control R92), so that nothing is checked or read before. -/
def issueColl (k : KKind) (fn : BitVec 4) (c : BitVec 1) (a : Reg) (s : State) : Out :=
  let w := collWord c a fn
  levelFinish true w (do
    let s ← get
    let xa := s.rx a
    if 16 ≤ (s.collCtx c.toNat).cmds.length then waitAct .other
    requireAct (aligned xa 64) { cause := .misaligned, val := xa }
    match (s.collCtx c.toNat).group with
    | none => raiseAct (collTrap w 2)
    | some g =>
      withBlock xa 8 fun b =>
        match s.blockRefusals k g b with
        | o :: r => raiseAct (collTrap (BitVec.ofNat 64 (r.foldl Nat.min o)) 3)
        | [] => do
          let ps ← pinUsed false (kSrcRange k (grpMine g) b)
          let pd ← pinUsed true (kDstRange k (grpN g) (grpMine g) b)
          releaseIssue
          modify fun s =>
            let x := s.collCtx c.toNat
            let n := x.issued + 1
            let m : KCmd := { n := n, j := x.pos + 1, kind := k, hart := s.h.id, block := b, dkey := s.h.dkey, dstream := s.h.dstream,
                              dctr := s.h.dctr, pages := ps ++ pd }
            let s1 := s.mapColl c.toNat fun x => { x with issued := n, pos := x.pos + 1, cmds := x.cmds ++ [m] }
            let h := s1.h.issued (7 + c.toNat) n
            ({ s1 with h := { h with dctr := if k == KKind.draw then h.dctr + 1#64 else h.dctr } }).advance) s

/-- kred (R327). -/
def execKred (c : BitVec 1) (a : Reg) (s : State) : Out := issueColl .red 1#4 c a s
/-- kgat (R328). -/
def execKgat (c : BitVec 1) (a : Reg) (s : State) : Out := issueColl .gat 2#4 c a s
/-- kcast (R328). -/
def execKcast (c : BitVec 1) (a : Reg) (s : State) : Out := issueColl .cast 3#4 c a s
/-- kdraw (R329). -/
def execKdraw (c : BitVec 1) (a : Reg) (s : State) : Out := issueColl .draw 4#4 c a s

/-! ### The engine (R326 to R331) -/

/-- The code of an instruction in what a member brings. -/
def KKind.code : KKind → Nat
  | .red => 0
  | .gat => 1
  | .cast => 2
  | .draw => 3

/-- Whether a peer's command agrees with the one of this rank (R330). -/
def peerAgrees (n : Nat) (m : KCmd) (p : PeerPart) : Bool :=
  let same := fun (f : List Byte → Nat) => f p.block = f m.block
  decide (byteAt p.block 64 = m.kind.code) && decide (field p.block 66 2 = n) && same kOp && same (fun b => bitNat (kOrdered b)) &&
    same kTypeCode && same kRoot && same kCount &&
    (m.kind != .draw || (decide (field p.block 68 4 = m.dstream.toNat) && decide (field p.block 72 8 = m.dkey.toNat) &&
      decide (field p.block 80 4 = m.dctr.toNat % 2 ^ 32)))

/-- Device-physical and partition-physical address of a virtual address of a command. -/
def KCmd.place (m : KCmd) (va : Nat) : Nat × Nat :=
  match m.pages.find? fun p => p.1 = va / 65536 with
  | some p => (p.2.1 + va % 65536, p.2.2 + va % 65536)
  | none => (0, 0)

/-- Bytes of SRC of this rank: none where a byte is poisoned. -/
def readSrc (m : KCmd) : Nat → Nat → State → Option (List Byte × State)
  | 0, _, s => some ([], s)
  | n + 1, va, s =>
    let (pa, pp) := m.place va
    let r : Option (List Byte × State) := match s.aliasOf s.t.part pp with
      | some f => s.aliasRead f pp 1
      | none => if s.consumes pa then none else let s1 := s.lookAt (pa / 256); some ([cellGet s1.mem pa], s1)
    r.bind fun r => (readSrc m n (va + 1) r.2).map fun q => (r.1 ++ q.1, q.2)

/-- Write DST of this rank. -/
def writeDst (m : KCmd) : Nat → List Byte → State → State
  | _, [], s => s
  | va, b :: r, s => writeDst m (va + 1) r (s.commitCells (m.place va).1 [(b, 0xFF#8)])

/-- A float element as its exact f32 code. -/
def exactF32 (t : ElemType) (c : Nat) : Nat := (toFloat f32Fmt .rne false (valueOf t 0 c)).1

/-- An integer operation of kred on codes (R327). -/
def redInt (op : Nat) (sg : Bool) (n a b : Nat) : Nat :=
  match op with
  | 0 => (a + b) % 2 ^ n
  | 1 => if intOf sg n a < intOf sg n b then b else a
  | 2 => if intOf sg n b < intOf sg n a then b else a
  | 3 => a &&& b
  | 4 => a ||| b
  | _ => a ^^^ b

/-- One element of the result of kred from the ranks' codes, in rank order (R327). -/
def redElem (t : ElemType) (op : Nat) (ordered : Bool) (codes : List Nat) : Nat :=
  match codes with
  | [] => 0
  | c :: r =>
    if isInt t then r.foldl (redInt op (isSigned t) (elemBits t)) c
    else
      let deliver := fun (v : FVal) => (toFloat (fmtOf t) .rne false v).1
      let fs := (List.range codes.length).zip (codes.map (exactF32 t))
      if op = 0 then
        let x := if ordered then (r.map (exactF32 t)).foldl (fun a b => (addF32 a b).1) (exactF32 t c)
          else (freeSum (Config.kredTree codes.length) fs).1
        deliver (f32Fmt.decode x)
      else
        match floatExtreme (decide (op = 1)) (fs.map fun x => (x.1, f32Fmt.decode x.2)) with
        | some (_, v) => deliver v
        | none => (fmtOf t).nan

/-- What a receiving rank's DST takes from the contributions' chunks in rank order, with the offsets in DST: `off` is
the offset of the chunk in a contribution and `size` the bytes of a contribution (R327 to R329). -/
def collResult (m : KCmd) (size off : Nat) (parts : List (List Byte)) : Writes :=
  match m.kind with
  | .red =>
    let t := (kType .red m.block).getD .i32
    let e := elemBits t / 8
    [(off, (List.range ((parts.headD []).length / e)).flatMap fun i =>
      bytesOf e (redElem t (kOp m.block) (kOrdered m.block) (parts.map fun p => field p (i * e) e)))]
  | .gat => (List.range parts.length).zipWith (fun r p => (r * size + off, p)) parts
  | .cast => [(off, parts.getD (kRoot m.block) [])]
  | .draw =>
    let n := kCount m.block
    let leaves := parts.flatMap fun p => (List.range n).map fun j => (field p (8 * j) 4, field p (8 * j + 4) 4)
    let r := drawOver (coinVal m.dkey m.dstream m.dctr) ((List.range leaves.length).zip leaves)
    [(0, bytesOf 4 r.lo.toNat ++ bytesOf 4 ((r.hi.getD 0#64).toNat))]

/-- Bytes of a chunk (R331). -/
def chunkBytes : Nat := 65536

/-- The contributions in rank order: this rank's and the peers'; none where a rank is missing. -/
def inRankOrder (n mine : Nat) (own : List Byte) (peers : List PeerPart) : Option (List (List Byte)) :=
  (List.range n).mapM fun r => if r = mine then some own else (peers.find? fun p => p.rank = r).map (·.data)

/-- The context's first command has run, well or failed. -/
def State.collRan (s : State) (c n : Nat) (failed : Bool) : State :=
  s.mapColl c fun x => { x with cmds := x.cmds.map fun m => if m.n = n then { m with ran := true, failed := failed } else m }

/-- The collective-fault event (R330, R331, 18_partitions R378). -/
def State.collEvent (s : State) (c : Nat) : State := s.eventS s.t.sub (some s.t.home) 4 c

/-- The context's first command after a chunk of `n` bytes (R331): the chunks before it are acknowledged (log 85), what this
one writes in place is kept, and the command has run with its last. -/
def State.collChunk (s : State) (c : Nat) (m : KCmd) (n size : Nat) (keep : Writes) : State :=
  s.mapColl c fun x => { x with cmds := x.cmds.map fun k =>
    if k.n = m.n then { k with acked := m.done, done := m.done + n, ran := decide (size ≤ m.done + n), held := keep } else k }

/-- A kred whose DST is its SRC (R325). -/
def KCmd.inPlace (m : KCmd) : Bool := m.kind == KKind.red && kSrc m.block = kDst m.block

/-- Make the writes of a chunk, each at its virtual address. -/
def State.collWrite (s : State) (m : KCmd) (ws : Writes) : State := ws.foldl (fun s w => writeDst m w.1 w.2 s) s

/-- The engine runs the next chunk of the context's first command with what the other members bring (R326 to R331). A chunk
that is written in place is written once it is acknowledged, so that SRC is intact until then (R331). -/
def execCollectiveRun (c : BitVec 1) (peers : List PeerPart) (s : State) : Out :=
  .next (match (s.collCtx c.toNat).cmds, (s.collCtx c.toNat).group with
    | m :: _, some g =>
      let n := grpN g
      let mine := grpMine g
      let size := kBytes m.kind m.block
      let len := Nat.min chunkBytes (size - m.done)
      let others := (List.range n).filter fun r => r != mine
      if m.ran || !(others.all fun r => peers.any fun p => p.rank = r) then s
      else
        let mem := peers.filter fun p => decide (p.rank < n) && p.rank != mine
        if !(mem.all (peerAgrees n m)) then
          let s1 := (s.collRan c.toNat m.n true).holdTrap m.hart (collTrap (BitVec.ofNat 64 m.j) 6)
          s1.collEvent c.toNat
        else
          let s := s.collWrite m m.held
          let own := match kSrcRange m.kind mine m.block with
            | some (a, _) => readSrc m len (a + m.done) s
            | none => some ([], s)
          match own with
          | none => (s.collRan c.toNat m.n true).collEvent c.toNat
          | some (bs, s1) =>
            if mem.any fun p => p.faulted then (s1.collRan c.toNat m.n true).collEvent c.toNat
            else
              let ws := match inRankOrder n mine bs (mem.map fun p => { p with data := (p.data.drop m.done).take len }),
                  kDstRange m.kind n mine m.block with
                | some parts, some (a, _) =>
                  if len = 0 then [] else (collResult m size m.done parts).map fun w => (a + w.1, w.2)
                | _, _ => []
              if m.inPlace && decide (m.done + len < size) then s1.collChunk c.toNat m len size ws
              else (s1.collWrite m ws).collChunk c.toNat m len size []
    | _, _ => s)

/-- A fault of the completion write of a command; the A bits that its walk has used are set (13_ordering R291). -/
def State.collNotifyFault (s : State) (m : KCmd) (f : EFault) : State :=
  (s.walked f.reads f.seen).holdTrap m.hart { cause := .coll, val := BitVec.ofNat 64 (field m.block 24 8), val2 := Config.trapValue s.time 1, addr := BitVec.ofNat 64 f.s2, bound := f.bound }

/-- The first command `m` of context `c` is complete: its number is reached. -/
def State.finishColl (s : State) (c : Nat) (m : KCmd) : State :=
  (s.mapColl c fun x =>
    { x with cmds := x.cmds.drop 1, reached := m.n, status := if m.failed then x.status ++ [(m.n, 1)] else x.status }).reap

/-- The context's first command completes (R326): the completion write, then the timeline. -/
def execCollectiveComplete (c : BitVec 1) (s : State) : Out :=
  .next (match (s.collCtx c.toNat).cmds with
    | [] => s
    | m :: _ =>
      if !m.ran then s
      else
        let s1 := if kNotify m.block then
            match engWrite false false 2 (field m.block 24 8) (bytesOf 8 (field m.block 32 8)) s with
            | .ok (_, s1) => s1
            | .error f => s.collNotifyFault m f
          else s
        s1.finishColl c.toNat m)

end Sys2Proof.Machine
end

