-- ==== Sys2Proof/Machine/StateRegs.lean ====
section
/-! DEFINITION. The state registers (03_words R70 to R75; 17_traps R354; 18_partitions R376, R377), sget and sput
(05_control R111). -/

namespace Sys2Proof.Machine

/-- Code of a block length (R30). -/
def blkCode : BlockLen → Nat
  | .none => 0
  | .b16 => 1
  | .b32 => 2

/-- Code of a rounding mode (R42). -/
def frmCode : Rounding → Nat
  | .rne => 0
  | .rtz => 1
  | .rdn => 2
  | .rup => 3

/-- The rounding mode of a code. -/
def frmOf (v : Nat) : Rounding :=
  match v % 4 with
  | 0 => .rne
  | 1 => .rtz
  | 2 => .rdn
  | _ => .rup

/-- The level whose range holds a register number; none for the range that belongs to no level (R70). -/
def regLevel (n : Nat) : Option Level :=
  if n < 0x200 then some .u
  else if n < 0x400 then none
  else if n < 0x600 then some .s
  else if n < 0x700 then some .p
  else some .o

/-- A per-hart register of the user range as a number (R72). -/
def Hart.ureg (h : Hart) (n : Nat) : Option Nat :=
  match n with
  | 0x000 => some h.vl.toNat
  | 0x001 => some (h.ty.code.toNat + blkCode h.blk * 2 ^ 5)
  | 0x003 => some h.vwb.toNat
  | 0x004 => some h.vmsel.toNat
  | 0x005 => some h.vstart.toNat
  | 0x006 => some h.fflags.toNat
  | 0x010 => some (frmCode h.frm)
  | 0x011 => some h.lgmask.toNat
  | 0x012 => some h.id.toNat
  | 0x016 => some h.dkey.toNat
  | 0x017 => some h.dstream.toNat
  | 0x018 => some h.dctr.toNat
  | 0x019 => some h.dtemp.toNat
  | 0x01A => some h.llthr.toNat
  | 0x01E => some h.repcnt.toNat
  | 0x01F => some h.wtmo.toNat
  | 0x020 => some h.bdeadl.toNat
  | 0x022 => some h.ftrapen.toNat
  | 0x100 => some (h.trapcause.toNat + bitNat h.trapasync * 2 ^ 8)
  | 0x101 => some h.trappc.toNat
  | 0x102 => some h.trapval.toNat
  | 0x103 => some h.trapval2.toNat
  | _ => if 7 ≤ n ∧ n ≤ 0xF then some ((h.fex.toList.getD (n - 7) 0#32).toNat) else none

/-- A per-task register of the user range (R71, R72). -/
def State.treg (s : State) (n : Nat) : Option Nat :=
  match n with
  | 0x002 => some s.t.gvl.toNat
  | 0x013 => some s.t.taskid.toNat
  | 0x014 => some s.t.matrix.bands
  | 0x015 => some s.t.mshape.toNat
  | 0x01B => some s.t.poolq.toNat
  | 0x01C => some (s.poolUse s.t.uid)
  | 0x01D => some (s.timeOf s.ownPart)
  | 0x021 => some (bitNat s.t.pm + bitNat s.t.mm * 2)
  | 0x104 => some (s.t.uhandler.toNat * 4)
  | 0x105 => some s.t.utrapmask.toNat
  | _ => none

/-- A register of the S range (17_traps R354). -/
def Service.sreg (v : Service) (n : Nat) : Option Nat :=
  match n with
  | 0x400 => some v.strapcause.toNat
  | 0x401 => some v.strappc.toNat
  | 0x402 => some v.strapval.toNat
  | 0x403 => some v.strapval2.toNat
  | 0x404 => some v.straptask.toNat
  | 0x405 => some v.strapx.toNat
  | 0x406 => some (Nat.min v.squeue.length 63)
  | 0x407 => some (v.shandler.toNat * 4)
  | 0x408 => some v.sscratch.toNat
  | _ => none

/-- A register of the P range (18_partitions R376). -/
def State.preg (s : State) (n : Nat) : Option Nat :=
  let v := s.cl.svc
  let p := (s.sub? v.psel.toNat).getD { num := 0 }
  match n with
  | 0x600 => some v.ptrapcause.toNat
  | 0x601 => some v.ptrappc.toNat
  | 0x602 => some v.ptrapval.toNat
  | 0x603 => some v.ptrapval2.toNat
  | 0x604 => some v.ptraptask.toNat
  | 0x605 => some v.ptrapx.toNat
  | 0x606 => some v.ptrapaddr.toNat
  | 0x607 => some (v.phandler.toNat * 4)
  | 0x608 => some v.pscratch.toNat
  | 0x609 => some v.psel.toNat
  | 0x60A => some p.ps2root.toNat
  | 0x60B => some p.ps1tab.toNat
  | 0x60C => some p.pctxbase.toNat
  | 0x60D => some p.pshost.toNat
  | _ => none

/-- A register of the O range (R377); the keys are write-only and read as zero. -/
def OwnerRegs.oreg (o : OwnerRegs) (n : Nat) : Option Nat :=
  match n with
  | 0x700 => some o.otrapcause.toNat
  | 0x701 => some o.otrappc.toNat
  | 0x702 => some o.otrapval.toNat
  | 0x703 => some o.otrapval2.toNat
  | 0x704 => some o.otraptask.toNat
  | 0x705 => some o.otrapx.toNat
  | 0x706 => some o.otrapaddr.toNat
  | 0x707 => some (o.ohandler.toNat * 4)
  | 0x708 => some o.oscratch.toNat
  | 0x709 => some o.onode.toNat
  | 0x70A => some o.orsel.toNat
  | 0x70B => some o.orange0.toNat
  | 0x70C => some o.orange1.toNat
  | 0x70D => some o.oksel.toNat
  | 0x70E | 0x70F | 0x710 | 0x711 => some 0
  | 0x712 => some o.oplim.toNat
  | 0x713 => some o.ostat.toNat
  | _ => none

/-- The value of a register; none where the number is unassigned. -/
def State.readReg (s : State) (n : Nat) : Option Nat :=
  match regLevel n with
  | some .u => match s.h.ureg n with | some v => some v | none => s.treg n
  | some .s => s.cl.svc.sreg n
  | some .p => s.preg n
  | some .o => s.o.oreg n
  | none => none

/-- The level check of R70, which comes first. -/
def regCheck (n : Nat) : Act Unit := do
  let s ← get
  match regLevel n with
  | some l => requireAct (decide (l.rank ≤ s.level.rank)) { cause := .privilege, val := BitVec.ofNat 64 n }
  | none => trapAct .illegal (BitVec.ofNat 64 n)

/-- Registers whose accesses wait for the hart's earlier vector instructions (R74). -/
def syncReg (n : Nat) : Bool := decide (6 ≤ n ∧ n ≤ 0xF) || decide (n = 0x18)

/-- Whether an access of register `n` waits: one of FFLAGS, an FEX register or DCTR for the hart's earlier vector
instructions (R74), and one of FFLAGS for its mreads too, with whose retirement the flags of their tiles have joined
(10_matrix R236). DEDUCED: in a handler it does not wait for the stopped instruction beneath, which cannot retire before the
handler returns (log 71). -/
def State.regBusy (s : State) (n : Nat) : Bool :=
  s.who = .user && ((syncReg n && s.h.flight.isSome) ||
    (decide (n = 6) && !(s.readsOf s.h.id).isEmpty))

/-- sget (R111). -/
def execSget (d : Reg) (reg : BitVec 11) (s : State) : Out :=
  finish (do
    regCheck reg.toNat
    let s ← get
    if s.regBusy reg.toNat then waitAct .other
    match s.readReg reg.toNat with
    | some v => modify fun s => s.put d (BitVec.ofNat 64 v)
    | none => trapAct .illegal (reg.setWidth 64)) s

/-! ### Writes -/

/-- The bits of UTRAPMASK that can be set (R75). -/
def trapMaskBits : Word := 0x0D3CFF9E#64

/-- A write to a per-hart register of the user range; none where it has no RW field. -/
def Hart.setUreg (h : Hart) (n : Nat) (v : Word) : Option Hart :=
  match n with
  | 0x003 => some { h with vwb := v.setWidth 9 }
  | 0x004 => some { h with vmsel := v.setWidth 9 }
  | 0x005 => some { h with vstart := v.setWidth 18 }
  | 0x006 => some { h with fflags := v.setWidth 9, late := 0#9 }
  | 0x010 => some { h with frm := frmOf v.toNat }
  | 0x016 => some { h with dkey := v }
  | 0x017 => some { h with dstream := v.setWidth 32 }
  | 0x018 => some { h with dctr := v }
  | 0x019 => some { h with dtemp := v.setWidth 32 }
  | 0x01A => some { h with llthr := v.setWidth 32 }
  | 0x01E => some { h with repcnt := v.setWidth 6 }
  | 0x01F => some { h with wtmo := v }
  | 0x020 => some { h with bdeadl := v }
  | 0x022 => some { h with ftrapen := v.setWidth 9 &&& 0x0FF#9 }
  | _ => none

/-- A write to a per-task register of the user range: PROT.MM is cleared where the bit is 1. -/
def Task.setTreg (t : Task) (n : Nat) (v : Word) : Option Task :=
  match n with
  | 0x015 => some { t with mshape := v }
  | 0x021 => some { t with mm := t.mm && !v.getLsbD 1 }
  | 0x104 => some { t with uhandler := (v >>> 2).setWidth 62 }
  | 0x105 => some { t with utrapmask := v &&& trapMaskBits }
  | _ => none

/-- Whether what the owner gave a partition on an item includes manage (R366; a grant onward leaves it, log 24). -/
def State.partManage (s : State) (p c i : Nat) : Bool :=
  ((s.grants.filter fun g => g.holder = .part p && g.covers c i).foldl (fun r g => r ||| g.rights) 0#3).getLsbD 1

/-- Whether a subpartition is the acting partition's, which has manage on every granule of it (R376). -/
def State.managesSub (s : State) (sub : Nat) : Bool :=
  s.partOfSub sub = some s.ownPart && (s.grants.filter fun g => g.holder = .sub sub && g.cls = 1 && g.held).all fun g =>
    (List.range g.count).all fun i => s.partManage s.ownPart 1 (g.first + i)

/-- The subpartition that PSEL names, changed; it is listed from the first write on. -/
def State.mapSel (s : State) (f : SubPart → SubPart) : State :=
  let n := s.cl.svc.psel.toNat
  match s.sub? n with
  | some p => { s with subs := s.subs.map fun q => if q.num = n then f p else q }
  | none => { s with subs := s.subs ++ [f { num := n }] }

/-- The bits of a root register: V and the frame. -/
def rootBits : Word := 0x007FFFFFFFFF0001#64

/-- A trap 0x07 of a write that a level may not make (R376); the manual states no values (log 20). -/
def regTrap (s : State) : Trap := openTrap .access s

/-- Change the service core of the cluster with the turn. -/
def State.mapSvc (s : State) (f : Service → Service) : State := { s with cl := { s.cl with svc := f s.cl.svc } }

/-- A write to a register of P (R376); none where it has no RW field. DESIGN CHOICE: bits [24:16] of a value for PCTXBASE,
whose base is 32 MiB aligned, are not kept (log 92). -/
def setPreg (n : Nat) (v : Word) : Option (Act Unit) :=
  let sel := fun (f : SubPart → SubPart) => (do
    let s ← get
    requireAct (s.managesSub s.cl.svc.psel.toNat) (regTrap s)
    modify fun s => s.mapSel f : Act Unit)
  match n with
  | 0x607 => some (modify fun s => s.mapSvc fun x => { x with phandler := (v >>> 2).setWidth 62 })
  | 0x608 => some (modify fun s => s.mapSvc fun x => { x with pscratch := v })
  | 0x609 => some (do
      let s ← get
      requireAct (s.partOfSub (v.toNat % 64) = some s.ownPart) (regTrap s)
      modify fun s => s.mapSvc fun x => { x with psel := v.setWidth 6 })
  | 0x60A => some (sel fun p => { p with ps2root := v &&& rootBits })
  | 0x60B => some (sel fun p => { p with ps1tab := v &&& rootBits })
  | 0x60C => some (sel fun p => { p with pctxbase := v &&& 0x007FFFFFFE00FFFF#64 })
  | 0x60D => some (sel fun p => { p with pshost := v &&& 0x00000000FFFF0001#64 })
  | _ => none

/-- First granule, granules, offset and node of a stage-3 entry (R374). -/
structure S3 where
  v : Bool
  first : Nat
  count : Nat
  base : Nat
  node : Nat
  deriving DecidableEq, Repr

/-- The fields of an entry. -/
def s3Of (w0 w1 : Word) : S3 :=
  { v := w0.getLsbD 0, first := bitsOf w0.toNat 16 8, count := bitsOf w0.toNat 25 17, base := bitsOf w1.toNat 39 0, node := bitsOf w1.toNat 49 40 }

/-- Result of Lydar's checks on a stage-3 entry `k` of partition `p`: the value of OSTAT (R374, R377). A range lies in
the 768 GiB that every node backs (15_collectives R315). -/
def State.rangeCheck (s : State) (p k : Nat) (w0 w1 : Word) : Nat :=
  let x := s3Of w0 w1
  if bitsOf w0.toNat 7 4 ≠ 0 || bitsOf w0.toNat 63 26 ≠ 0 || bitsOf w1.toNat 63 50 ≠ 0 || x.base % 2 ^ 31 ≠ 0 then 2
  else if !x.v then 0
  else if (s.partition p).stage3.any fun e =>
      let y := s3Of e.2.1 e.2.2
      e.1 != k && y.v && overlaps x.first x.count y.first y.count then 1
  else
    let launch := overlaps x.base (x.count * 2 ^ 31) 0xFF00000000 (256 * 4096)
    let backed := decide (x.base + x.count * 2 ^ 31 ≤ 384 * 2 ^ 31)
    let held := x.node != s.o.onode.toNat || (List.range x.count).all fun i => s.partUse p 1 (x.base / 2 ^ 31 + i)
    if launch || !backed || !held then 3 else 0

/-- The state with partition `p` changed. -/
def State.mapPart (s : State) (p : Nat) (f : Partition → Partition) : State :=
  if s.parts.any fun x => x.num = p then { s with parts := s.parts.map fun x => if x.num = p then f x else x }
  else { s with parts := s.parts ++ [f { num := p }] }

/-- A write of ORANGE1 (R377): the entry that ORSEL names is committed after Lydar's checks, or OSTAT says why not. -/
def State.writeOrange1 (s : State) (v : Word) : State :=
  let p := bitsOf s.o.orsel.toNat 3 0
  let k := bitsOf s.o.orsel.toNat 9 4
  let st := s.rangeCheck p k s.o.orange0 v
  let s1 := { s with o := { s.o with orange1 := v, ostat := BitVec.ofNat 8 st } }
  if st = 0 then s1.mapPart p fun x => { x with stage3 := x.stage3.filter (fun e => e.1 != k) ++ [(k, s.o.orange0, v)] }
  else s1

/-- A write of OKEY3 (R377): the key is installed in the slot that OKSEL names, and its counter is 0. -/
def State.writeOkey3 (s : State) (v : Word) : State :=
  let key := s.o.okey.set 3 v
  let k : KeySlot := { num := s.o.oksel.toNat, key := key.toList.flatMap fun w => bytesOf 8 w.toNat, counter := 0#32 }
  { s with o := { s.o with okey := key }, keys := s.keys.filter (fun x => x.num != k.num) ++ [k] }

/-- A write of OPLIM (R377): the limit is at most 2,500 W (01_machine R15). -/
def State.writeOplim (s : State) (v : Word) : State :=
  { s with o := { s.o with oplim := BitVec.ofNat 12 (Nat.min (v.toNat % 2 ^ 12) 2500) } }

/-- A write to a register of O (R377); none where it has no RW or WO field. -/
def State.setOreg (s : State) (n : Nat) (v : Word) : Option State :=
  match n with
  | 0x707 => some { s with o := { s.o with ohandler := (v >>> 2).setWidth 62 } }
  | 0x708 => some { s with o := { s.o with oscratch := v } }
  | 0x709 => some { s with o := { s.o with onode := v.setWidth 10 } }
  | 0x70A => some { s with o := { s.o with orsel := v.setWidth 10 } }
  | 0x70B => some { s with o := { s.o with orange0 := v } }
  | 0x70C => some (s.writeOrange1 v)
  | 0x70D => some { s with o := { s.o with oksel := v.setWidth 6 } }
  | 0x70E => some { s with o := { s.o with okey := s.o.okey.set 0 v } }
  | 0x70F => some { s with o := { s.o with okey := s.o.okey.set 1 v } }
  | 0x710 => some { s with o := { s.o with okey := s.o.okey.set 2 v } }
  | 0x711 => some (s.writeOkey3 v)
  | 0x712 => some (s.writeOplim v)
  | _ => none

/-- sput (R111): it traps 0x01 on a register with no RW and no W1C field (R70). A service core has no task, and a write
to a per-task register has no effect there (log 14). -/
def execSput (d : Reg) (reg : BitVec 11) (s : State) : Out :=
  finish (do
    let n := reg.toNat
    regCheck n
    let s ← get
    if n = 6 && s.regBusy n then waitAct .other
    let v := s.rx d
    let bad : Act Unit := trapAct .illegal (reg.setWidth 64)
    match regLevel n with
    | some .u =>
      match s.h.setUreg n v with
      | some h => modify fun s => { s with h := h }
      | none =>
        match s.t.setTreg n v with
        | some t => do
          if n = 0x015 then requireAct (shapeOf v).isSome (shapeTrap v)
          if s.who = .user then modify fun s => { s with t := t }
        | none => bad
    | some .s =>
      if n = 0x407 then modify fun s => s.mapSvc fun x => { x with shandler := (v >>> 2).setWidth 62 }
      else if n = 0x408 then modify fun s => s.mapSvc fun x => { x with sscratch := v }
      else bad
    | some .p => (setPreg n v).getD bad
    | some .o =>
      match s.setOreg n v with
      | some s' => set s'
      | none => bad
    | none => bad
    modify fun s => s.advance) s

/-! ### The events of these registers -/

/-- An access of FFLAGS, an FEX register or DCTR performs once every earlier vector, reduction and draw instruction of
the hart has retired (R74). -/
def execFflagsSyncAccess (write : Bool) (d : Reg) (reg : BitVec 11) (s : State) : Out :=
  if s.h.flight.isSome || !syncReg reg.toNat then .next s
  else if write then execSput d reg s else execSget d reg s

/-- A write of MSHAPE (R72, 10_matrix R224). -/
def execMshapeWrite (d : Reg) (s : State) : Out := execSput d 0x015#11 s

/-- A write of PROT: MM is cleared where xd holds 1 (R72). -/
def execProtMmClear (d : Reg) (s : State) : Out := execSput d 0x021#11 s

/-- A write of VSTART or REPCNT, by which a handler restores a saved value (R111). -/
def execVstartRepcntRestore (repcnt : Bool) (d : Reg) (s : State) : Out :=
  execSput d (if repcnt then 0x01E#11 else 0x005#11) s

/-- A write of ORANGE1 by the owner (R377). -/
def execOrange1Write (v : Word) (s : State) : Out := .next (s.writeOrange1 v)

/-- A write of OKEY3 by the owner (R377). -/
def execOkey3Write (v : Word) (s : State) : Out := .next (s.writeOkey3 v)

/-- A write of OPLIM by the owner (R377). -/
def execOplimWrite (v : Word) (s : State) : Out := .next (s.writeOplim v)

end Sys2Proof.Machine
end

