-- ==== Sys2Proof/Machine/Headgate.lean ====
section
/-! DEFINITION. The Headgate (16_launch R333 to R349): arrival, start and dispatch of launches, preloads, completion
records and reports, `wqpost` and `wqstat`; and `wid` and `tdone` (05_control R109, R112 to R114). -/

namespace Sys2Proof.Machine

/-! ### The work-identifier space (01_machine R16 to R18) -/

/-- Product of the counts of fields `lo` to `hi - 1`. -/
def pkProduct (p : Packet) (lo hi : Nat) : Nat :=
  ((List.range (hi - lo)).map fun i => pkCount p (lo + i)).foldl (fun a b => a * b) 1

/-- Tasks of an affinity group (R18). -/
def groupSize (p : Packet) : Nat := pkProduct p (pkAff p) (pkDisp p)

/-- Affinity groups of a launch. -/
def groupCount (p : Packet) : Nat := pkProduct p 0 (pkAff p)

/-- Tasks of a launch (R17). -/
def taskCount (p : Packet) : Nat := pkProduct p 0 (pkDisp p)

/-- Fields 0 to `k - 1` of the work identifier with ordinal `o` among them. -/
def wiGo (p : Packet) : Nat → Nat → Nat
  | 0, _ => 0
  | k + 1, o => o % pkCount p k * 2 ^ pkShift p k + wiGo p k (o / pkCount p k)

/-- Work identifier of the task with ordinal `o` (R17). -/
def wiOf (p : Packet) (o : Nat) : Nat := wiGo p (pkDisp p) o

/-- wid (05_control R109): it reads the launch packet and the work identifier the task started with. -/
def execWid (d : Reg) (k : BitVec 3) (sel : BitVec 2) (s : State) : Out :=
  taskFinish (modify fun s =>
    let p := s.t.packet
    s.put d (match sel with
      | 0#2 => BitVec.ofNat 64 (wiField p s.t.wi.toNat k.toNat)
      | 1#2 => BitVec.ofNat 64 (pkCount p k.toNat)
      | 2#2 => BitVec.ofNat 64 (pkWidth p k.toNat)
      | _ => s.t.wi)) s

/-! ### Checks at arrival (R337) -/

/-- A reserved field, or an entry that is not valid and not zero. -/
def reservedSet (p : Packet) : Bool :=
  bitsOf (pkWidths p) 63 48 != 0 || bitsOf (pkSet p) 31 17 != 0 || bitsOf (pkSet p) 63 60 != 0 ||
    bitsOf (field p 56 8) 63 24 != 0 || field p 120 8 != 0 ||
    (List.range 4).any fun j =>
      let w := field p (112 + 2 * j) 2
      bitsOf w 14 12 != 0 || (!bitOf w 15 && (w != 0 || field p (80 + 8 * j) 8 != 0))

/-- Widths over 64 bits, or a bit of LASTID outside every field. -/
def badWidths (p : Packet) : Bool :=
  let w := ((List.range 6).map fun k => pkWidth p k).sum
  decide (64 < w) || decide (2 ^ w ≤ pkLast p)

/-- A value outside its range, or an address that is not aligned (reason 5). -/
def badValues (p : Packet) : Bool :=
  pkGvlc p = 7 || (pkProt p && pkGvlc p = 0) || pkQuota p = 0 || decide (32768 < pkQuota p) ||
    decide (pkScrb p % 256 ≠ 0) || decide (2 ^ 23 < pkScrb p) || decide (pkDfirst p % 256 ≠ 0) ||
    decide (pkDend p % 256 ≠ 0) || decide (pkDend p < pkDfirst p) || decide (pkScrb p < pkDend p) ||
    decide (pkProg p % 4 ≠ 0) || decide (pkCompl p % 8 ≠ 0) || decide (pkReport p % 32 ≠ 0) ||
    decide (8 < pkBands p * groupSize p) || decide (2 ^ 23 < pkScrb p * groupSize p)

/-- Whether an ASID is live (18_partitions R370), and the state after the read of its entry (13_ordering R291, 09_vmem
R216). An entry that holds poison is not live (log 100). -/
def State.asidRead (s : State) (sub asid : Nat) : Bool × State :=
  let tab := ((s.sub? sub).map (·.ps1tab.toNat)).getD 0
  let part := (s.partOfSub sub).getD 0
  if s.hasUse (.sub sub) 3 asid && bitOf tab 0 then
    match s.stage2 part sub (frameOf tab + 8 * asid) .load with
    | .ok x =>
      (((s.readAt part x.pp x.pa 8).map fun bs => bitOf (ofBytes bs) 0).getD false,
        (s.setMarks false x).lookAll (s.readSeen part x.pp x.pa))
    | .error e => (false, s.walked e.reads e.seen)
  else (false, s)

/-- An ASID is live (18_partitions R370). -/
def State.asidLive (s : State) (sub asid : Nat) : Bool := (s.asidRead sub asid).1

/-- Affinity groups that one empty cluster holds at once. -/
def perCluster (p : Packet) : Nat :=
  let n := groupSize p
  let a := 8 / n
  let b := if pkBands p = 0 then a else Nat.min a (8 / (pkBands p * n))
  if pkScrb p = 0 then b else Nat.min b (2 ^ 23 / (pkScrb p * n))

/-- The clusters in service that a subpartition holds. -/
def State.clustersOf (s : State) (sub : Nat) : List Cluster := s.allClusters.filter fun c => c.service && c.sub = some sub

/-- Whether a queue's subpartition has the use right on it (18_partitions R366, R369). -/
def State.queueOpen (s : State) (q : Queue) : Bool := s.hasUse (.sub q.sub) 2 q.num

/-- The lowest reason for which a queue rejects a packet (R337). A queue whose use was revoked belongs to no subpartition
(18_partitions R369). -/
def State.rejectReason (s : State) (q : Queue) (p : Packet) : Option Nat :=
  if reservedSet p then some 1
  else if badWidths p then some 2
  else if 6 < pkDisp p || pkDisp p < pkAff p then some 3
  else if 8 < groupSize p then some 4
  else if badValues p then some 5
  else if !s.asidLive q.sub (pkAsid p) then some 6
  else if pkGang p && decide ((s.clustersOf q.sub).length * perCluster p < groupCount p) then some 7
  else if (List.range 4).any fun j =>
      let (v, n, _) := pkDep p j
      v && !((s.queue? n).any fun x => x.sub = q.sub && s.queueOpen x) then some 8
  else if 256 ≤ (q.launches.filter fun l => !l.finished).length then some 9
  else none

/-! ### Records that the Headgate writes (R345, R346) -/

/-- Write a list of 64-bit words at rising addresses in the address space of a launch; a fault ends it and sends event
5 to S of the queue with `val`. -/
def State.recordWords (s : State) (q : Queue) (asid : Nat) (val : Nat) : List (Nat × Nat) → State
  | [] => s
  | (a, w) :: r =>
    match s.taskWrite ((s.partOfSub q.sub).getD 0) q.sub asid (a % 2 ^ 64) (bytesOf 8 w) with
    | some s1 => s1.recordWords q asid val r
    | none => (s.walkedTo ((s.partOfSub q.sub).getD 0) q.sub asid (a % 2 ^ 64) .store).eventQueue q.num 5 val

/-- The last two fields of the completion record: LOST first (R345). -/
def State.writeRecord (s : State) (q : Queue) (p : Packet) (state reason number lost : Nat) : State :=
  let a := pkCompl p
  s.recordWords q (pkAsid p) a [(a + 24, lost), (a + 16, state + reason * 2 ^ 8 + number % 2 ^ 48 * 2 ^ 16)]

/-- What the Headgate reports of a rejected launch (R337). -/
def State.reportRejection (s : State) (q : Queue) (p : Packet) (reason : Nat) : State :=
  if pkCompl p = 0 then s
  else if reason = 6 || pkCompl p % 8 ≠ 0 then s.eventQueue q.num 5 (pkCompl p)
  else s.writeRecord q p 3 reason 0 0

/-- A packet arrives at a queue that admits it (R334, R337): its number, or the reason for which it is rejected. -/
def State.arrive (s0 : State) (q : Queue) (p : Packet) : Except Nat Nat × State :=
  let why := s0.rejectReason q p
  let s := if why.any fun r => decide (r < 6) then s0 else (s0.asidRead q.sub (pkAsid p)).2
  match why with
  | some r => (.error r, s.reportRejection q p r)
  | none =>
    let n := q.accepted + 1
    (.ok n, s.mapQueue q.num fun q => { q with accepted := n, launches := q.launches ++ [{ num := n, packet := p }] })

/-- What the sender of a launch learns (R348): its number, or 2^63 + the reason for which it is rejected. -/
def launchAnswer : Except Nat Nat → Word
  | .ok n => BitVec.ofNat 64 n
  | .error e => BitVec.ofNat 64 (2 ^ 63 + e)

/-- A launch message over Ultra Ethernet (R335): on any connection but the queue's it is dropped. -/
def execLaunchMessage (queue : BitVec 12) (conn : BitVec 16) (packet : List Byte) (s : State) : Out :=
  .next (match s.queue? queue.toNat with
    | some q =>
      if q.conn = conn && s.queueOpen q && packet.length = 128 then (s.arrive q packet).2
      else { s with replies := s.replies ++ [.nak conn] }
    | none => { s with replies := s.replies ++ [.nak conn] })

/-- A launch over UALink (R335): a queue that admits it answers, with reason 6 where its use right is missing (R348). -/
def execLaunchWriteUalink (queue : BitVec 12) (packet : List Byte) (s : State) : Out :=
  .next (match s.queue? queue.toNat with
    | some q =>
      if q.ualink && packet.length = 128 then
        let (r, s1) := if s.queueOpen q then s.arrive q packet else (.error 6, s.reportRejection q packet 6)
        { s1 with replies := s1.replies ++ [.launch (launchAnswer r)] }
      else { s with replies := s.replies ++ [.error] }
    | none => { s with replies := s.replies ++ [.error] })

/-! ### Room (R341) -/

/-- The core that a task stands on. -/
def Task.onCore (t : Task) : Option Nat :=
  match t.run with
  | .resident c | .preloaded c => some c
  | _ => none

/-- The tasks that keep state on cluster `n`. -/
def State.tasksOf (s : State) (n : Nat) : List Task := s.allTasks.filter fun t => t.home = n

/-- The free cores of cluster `n`, in ascending order. -/
def State.freeCores (s : State) (n : Nat) : List Nat :=
  (List.range 8).filter fun c => !((s.tasksOf n).any fun t => t.onCore = some c)

/-- Free bands of a list of tasks' cluster. -/
def freeBands (l : List Task) : Nat := 8 - (l.map fun t => t.matrix.reserved).sum

/-- Free scratch bytes of a list of tasks' cluster. -/
def freeScratch (l : List Task) : Nat := 2 ^ 23 - (l.map fun t => t.scrb).sum

/-- Whether a task is a preload, which is not architectural and holds no room (R343). -/
def Task.isPreload (t : Task) : Bool :=
  match t.run with
  | .preloaded _ => true
  | _ => false

/-- The tasks that hold bands and scratch of cluster `n`. -/
def State.holdersOf (s : State) (n : Nat) : List Task := (s.tasksOf n).filter fun t => !t.isPreload

/-- Whether cluster `c` may take group `k` of queue `q`: in service, of its subpartition, not reserved for another group
(R340). -/
def Cluster.takes (c : Cluster) (q : Queue) (k : Option (Nat × Nat × Nat)) : Bool :=
  c.service && c.sub = some q.sub && (c.reservedFor = none || c.reservedFor = k)

/-- Whether cluster `c` has free cores, bands and scratch for `n` tasks that need `bands` and `scrb` each. -/
def State.hasRoom (s : State) (c : Cluster) (n bands scrb : Nat) : Bool :=
  decide (n ≤ (s.freeCores c.num).length) && decide (bands * n ≤ freeBands (s.holdersOf c.num)) &&
    decide (scrb * n ≤ freeScratch (s.holdersOf c.num))

/-- The lowest-numbered cluster that may take, and has room for, the `n` tasks of a packet that are group `k` (R341). -/
def State.roomFor (s : State) (q : Queue) (k : Option (Nat × Nat × Nat)) (p : Packet) (n : Nat) : Option Nat :=
  s.lowestCluster fun c => c.takes q k && s.hasRoom c n (pkBands p) (pkScrb p)

/-! ### Starting tasks (R338, 05_control R93) -/

/-- The hart that a task starts with. -/
def startHart (p : Packet) (aperture : Nat) : Hart :=
  let h : Hart := {}
  let g := 2 ^ pkLgc p
  let top := (aperture + pkScrb p) / 16 * 16
  let h1 := ((h.wx 2#7 (BitVec.ofNat 64 (pkArgs p))).wx 3#7 (BitVec.ofNat 64 aperture)).wx 4#7 (BitVec.ofNat 64 (pkCompl p))
  { h1.wx 127#7 (if pkScrb p = 0 then 0#64 else BitVec.ofNat 64 top) with
    pc := BitVec.ofNat 64 (pkProg p),
    lgmask := BitVec.ofNat 8 (2 ^ (if pkProt p then Nat.min g 4 else g) - 1) }

/-- The base of the aperture of a core: a multiple of 8 MiB (09_vmem R198, log 26). -/
def apertureOf (cluster core : Nat) : Nat := (Config.aperture cluster core).toNat * 2 ^ 23

/-- The task with ordinal `o` of a launch as it starts on a core. -/
def newTask (s : State) (q : Queue) (l : Launch) (o cluster : Nat) (run : TaskRun) (aperture : Nat) : Task :=
  let p := l.packet
  let gvl := 256 * 2 ^ pkGvlc p
  { used := true, uid := s.nextUid, queue := BitVec.ofNat 12 q.num, launch := l.num, ord := o,
    wi := BitVec.ofNat 64 (wiOf p o), group := o / groupSize p, asid := BitVec.ofNat 12 (pkAsid p),
    part := (s.partOfSub q.sub).getD 0, sub := q.sub, packet := p, run := run, home := cluster, since := s.time,
    gvl := BitVec.ofNat 15 (if pkProt p then gvl / 2 else gvl), poolq := BitVec.ofNat 16 (pkQuota p), pm := pkProt p,
    aperture := aperture, scrb := pkScrb p, matrix := { reserved := pkBands p }, harts := [startHart p aperture] }

/-- What the Headgate keeps of group `g`, changed. -/
def Launch.mapRec (l : Launch) (g : Nat) (f : GroupRec → GroupRec) : Launch :=
  if l.recs.any fun r => r.g = g then { l with recs := l.recs.map fun r => if r.g = g then f r else r }
  else { l with recs := l.recs ++ [f { g := g }] }

/-- The cores of a cluster that ran a task of the group (R346). -/
def GroupRec.coresOn (r : GroupRec) (cluster : Nat) : BitVec 8 := ((r.cores.find? fun x => x.1 = cluster).map (·.2)).getD 0#8

/-- A residency of a task of group `g` starts on a core (R346). -/
def GroupRec.run (r : GroupRec) (cluster core now : Nat) : GroupRec :=
  { r with cluster := cluster, runs := Nat.min 255 (r.runs + 1), start := if r.started then r.start else now, started := true,
           cores := (r.cores.filter fun x => x.1 != cluster) ++ [(cluster, r.coresOn cluster ||| BitVec.ofNat 8 (2 ^ core))] }

/-- Record the start of a residency of task `t`. -/
def State.countRun (s : State) (t : Task) (cluster core : Nat) : State :=
  s.mapLaunch t.queue.toNat t.launch fun l => l.mapRec t.group fun r => r.run cluster core (s.timeOf t.part)

/-- Start the tasks with the ordinals listed on the free cores of a cluster, in order. -/
def State.startTasks (s : State) (q : Queue) (l : Launch) (cluster : Nat) : List (Nat × Nat) → State
  | [] => s
  | (o, core) :: r =>
    let t := newTask s q l o cluster (.resident core) (apertureOf cluster core)
    let s1 := { s with tasks := s.tasks ++ [t], nextUid := s.nextUid + 1 }
    (s1.countRun t cluster core).startTasks q l cluster r

/-- Start group `g` of a launch whole on a cluster (R341). -/
def State.startGroup (s : State) (q : Queue) (l : Launch) (g cluster : Nat) : State :=
  let n := groupSize l.packet
  s.startTasks q l cluster (((List.range n).map fun j => g * n + j).zip (s.freeCores cluster))

/-! ### What a queue has to place (R339, R340) -/

/-- The next group of a launch that is not dispatched. One that stands preloaded is not yet (R343). -/
def Launch.nextGroup (l : Launch) : Option Nat := if l.groups < groupCount l.packet then some l.groups else none

/-- The launch with group `g` dispatched. -/
def Launch.took (l : Launch) (g : Nat) : Launch := { l with groups := g + 1 }

/-- The oldest launch of a queue that has groups to dispatch. -/
def Queue.next (q : Queue) : Option Launch := q.launches.find? fun l => !l.finished && l.nextGroup.isSome

/-- What a queue's next placement is. -/
inductive Item where
  | rerun (l : Launch) (uids : List Nat)
  | resume (uids : List Nat)
  | group (l : Launch) (g : Nat)
  | gang (l : Launch)

/-- The waiting tasks of a queue that stand in state `r`. -/
def State.waiting (s : State) (q : Queue) (r : TaskRun) : List Task :=
  s.allTasks.filter fun t => t.used && t.queue.toNat = q.num && t.run = r

/-- The front of a list of waiting tasks: of the oldest launch, the one that was put there last (17_traps R355). -/
def frontTask (l : List Task) : Option Task :=
  l.foldl (fun m t =>
    match m with
    | none => some t
    | some u => if t.launch < u.launch || (t.launch = u.launch && u.turn < t.turn) then some t else m) none

/-- Whether a task comes before another in work-identifier order, of the older launch first (R341). -/
def Task.precedes (t u : Task) : Bool :=
  decide (t.launch < u.launch) || (t.launch = u.launch && decide (t.ord < u.ord))

/-- Put a task in its place. -/
def insertTask (t : Task) : List Task → List Task
  | [] => [t]
  | u :: r => if u.precedes t then u :: insertTask t r else t :: u :: r

/-- Tasks in that order. -/
def inOrder (l : List Task) : List Task := l.foldr insertTask []

/-- The tasks of a list that are of the launch and group of `t`. -/
def Task.mates (t : Task) (l : List Task) : List Task := l.filter fun u => u.launch = t.launch && u.group = t.group

/-- The first placement of a queue: a group to be rerun, in the order of R341; the waiting tasks of a group, which come back
together (R342); the next group of a launch that has begun. -/
def State.front (s : State) (q : Queue) : Option Item :=
  match inOrder (s.waiting q .rerun) with
  | t :: r =>
    match q.launches.find? fun l => l.num = t.launch with
    | some l => some (.rerun l ((t.mates (t :: r)).map (·.uid)))
    | none => none
  | [] =>
    match frontTask (s.waiting q .parked) with
    | some t => some (.resume ((inOrder (t.mates (s.waiting q .parked))).map (·.uid)))
    | none =>
      match q.next with
      | some l => if l.begun then l.nextGroup.map fun g => .group l g else none
      | none => none

/-- What a queue has to place of group `k` (queue, launch, group): its tasks to be rerun, its waiting tasks, or all of it. -/
def State.itemOf (s : State) (q : Queue) (k : Nat × Nat × Nat) : Option Item :=
  let mine := fun (r : TaskRun) => inOrder ((s.waiting q r).filter fun t => t.groupKey = k)
  match q.launches.find? fun l => l.num = k.2.1 with
  | none => none
  | some l =>
    if !(mine .rerun).isEmpty then some (.rerun l ((mine .rerun).map (·.uid)))
    else if !(mine .parked).isEmpty then some (.resume ((mine .parked).map (·.uid)))
    else if l.begun && !l.finished && l.nextGroup = some k.2.2 then some (.group l k.2.2)
    else none

/-- The group that a placement is of; a GANG launch is of none. -/
def State.itemKey (s : State) (q : Queue) : Item → Option (Nat × Nat × Nat)
  | .rerun _ uids | .resume uids => (uids.head?.bind s.task?).map Task.groupKey
  | .group l g => some (q.num, l.num, g)
  | .gang _ => none

/-- Whether a launch has dispatched every task (R339). -/
def Launch.dispatchedAll (m : Launch) : Bool := m.nextGroup.isNone

/-- Whether the queue's launch before `l` has dispatched every task, or has retired (R339); one that the queue holds no
longer has retired. -/
def Queue.turnOf (q : Queue) (l : Launch) : Bool :=
  q.launches.all fun m => m.num + 1 != l.num || m.finished || (!pkSerial l.packet && m.dispatchedAll)

/-- Whether the dependences of a launch hold (R339). -/
def State.depsHold (s : State) (p : Packet) : Bool :=
  (List.range 4).all fun j =>
    let (v, n, x) := pkDep p j
    !v || ((s.queue? n).map fun q => decide (x ≤ q.tl)).getD false

/-- Place every group of a GANG launch, or none (R341). -/
def placeGang (q : Queue) (l : Launch) : Nat → Nat → State → Option State
  | 0, _, s => some s
  | n + 1, g, s =>
    match s.roomFor q none l.packet (groupSize l.packet) with
    | none => none
    | some c => placeGang q l n (g + 1) (s.startGroup q l g c)

/-- Whether a GANG launch fits whole now (R339, R341). -/
def State.gangFits (s : State) (q : Queue) (l : Launch) : Bool :=
  decide (groupCount l.packet ≤ 256) && (placeGang q l (groupCount l.packet) 0 s).isSome

/-- Whether a task's names or captures hold a reference on swatches of its cluster (17_traps R356), those of the Flume on
what an fgov fills among them (06_chains R146). -/
def Task.holdsSwatches (t : Task) : Bool :=
  t.savedNames.any (fun p => !p.2.swatches.isEmpty) ||
    t.savedViews.any (fun v => v.2.any fun p => !p.2.swatches.isEmpty) ||
    t.flume.toList.any (fun x => x.cmds.any fun m => m.dest.any fun e => !e.swatches.isEmpty) || !t.drops.isEmpty ||
    t.harts.any fun h => h.names.any (fun p => !p.2.swatches.isEmpty) ||
      (h.flight.toList ++ h.stopped.toList).any fun f =>
        !f.holds.isEmpty || f.dests.any fun d => !d.2.1.swatches.isEmpty || !d.2.2.swatches.isEmpty

/-- Whether a parked task may resume on another cluster: every part of it is saved (17_traps R356, R358). -/
def Task.mayMove (t : Task) : Bool :=
  t.matrix.reserved = 0 && t.scrb = 0 && t.out.any (fun p => p.1 = 5) && !t.holdsSwatches

/-- The bands and the scratch that a task needs beyond what it keeps. -/
def Task.wants (t : Task) : Nat × Nat :=
  (pkBands t.packet - t.matrix.reserved, pkScrb t.packet - t.scrb)

/-- The parked tasks of a list. -/
def State.parkedOf (s : State) (uids : List Nat) : List Task := uids.filterMap s.task?

/-- Whether tasks of a group may resume on cluster `n`: it is the cluster of those that cannot move, and of those of their
group that stand on a core (R342, 17_traps R356). -/
def State.mayResume (s : State) (ts : List Task) (n : Nat) : Bool :=
  ts.all (fun t => t.mayMove || t.home = n) &&
    s.allTasks.all fun u => u.home = n || u.onCore.isNone || !(ts.any fun t => t.queue = u.queue && t.launch = u.launch && t.group = u.group)

/-- The bands and the scratch that tasks need beyond what they keep. -/
def wantsOf (ts : List Task) : Nat × Nat := ((ts.map fun t => t.wants.1).sum, (ts.map fun t => t.wants.2).sum)

/-- The cluster where the next placement of a queue fits now. -/
def State.itemCluster (s : State) (q : Queue) (i : Item) : Option Nat :=
  let k := s.itemKey q i
  match i with
  | .rerun l uids => s.roomFor q k l.packet uids.length
  | .group l _ => s.roomFor q k l.packet (groupSize l.packet)
  | .gang l =>
    if s.gangFits q l then s.roomFor q none l.packet (groupSize l.packet) else none
  | .resume uids =>
    let ts := s.parkedOf uids
    let w := wantsOf ts
    s.lowestCluster fun c => c.takes q k && s.mayResume ts c.num && decide (ts.length ≤ (s.freeCores c.num).length) &&
      decide (w.1 ≤ freeBands (s.holdersOf c.num)) && decide (w.2 ≤ freeScratch (s.holdersOf c.num))

/-- The group of a queue that has a cluster reserved, once it fits: it goes there as soon as it does (R340). -/
def State.reservedItem (s : State) (q : Queue) : Option Item :=
  s.allClusters.findSome? fun c => c.reservedFor.bind fun k =>
    if k.1 = q.num then (s.itemOf q k).filter fun i => (s.itemCluster q i).isSome else none

/-- The next placement of a queue: a group with a reservation that fits, else its first. -/
def State.item (s : State) (q : Queue) : Option Item := if s.queueOpen q then (s.reservedItem q).or (s.front q) else none

/-- What a queue has ready to place: its next placement, or the launch that can start (R339, R340). -/
def State.ready (s : State) (q : Queue) : Option Item :=
  match s.item q with
  | some i => some i
  | none =>
    match q.launches.find? fun l => !l.begun with
    | some l =>
      if s.queueOpen q && q.turnOf l && s.depsHold l.packet then some (if pkGang l.packet then .gang l else .group l 0) else none
    | none => none

/-- What a queue has ready that is startable: a GANG launch is while it fits whole (R339). -/
def State.startItem (s : State) (q : Queue) : Option Item :=
  (s.ready q).filter fun i => match i with
    | .gang l => s.gangFits q l
    | _ => true


/-- Effective priority of a launch on its queue (R340). -/
def effPrio (q : Queue) (l : Launch) : Nat := Nat.min 7 (Nat.min (pkPrio l.packet) q.pc.toNat + bitNat q.aged)

/-- Rank of a queue's next placement: reruns before every priority. -/
def State.itemRank (s : State) (q : Queue) : Item → Nat
  | .rerun _ _ => 8
  | .group l _ => effPrio q l
  | .gang l => effPrio q l
  | .resume uids =>
    match (s.parkedOf uids).head? with
    | some t => ((q.launches.find? fun l => l.num = t.launch).map (effPrio q)).getD 0
    | none => 0

/-- Put a queue in its place of the round: the one whose last turn is the longest ago comes first. -/
def insertTurn (q : Queue) : List Queue → List Queue
  | [] => [q]
  | p :: r => if q.turn ≤ p.turn then q :: p :: r else p :: insertTurn q r

/-- The queues of `q`'s subpartition whose ready placement fits and has rank `r`, in the order of the round (R340). -/
def State.rivals (s : State) (q : Queue) (r : Nat) : List Queue :=
  (s.queues.filter fun p => decide (p.sub = q.sub) &&
    match s.ready p with
    | some i => (s.itemCluster p i).isSome && decide (s.itemRank p i = r)
    | none => false).foldr insertTurn []

/-- The turns after which a queue's deficit is at least 1 (R340). -/
def Queue.turnsToServe (q : Queue) : Nat :=
  if 1 ≤ q.deficit then 0 else ((1 - q.deficit).toNat + q.wt.toNat - 1) / Nat.max 1 q.wt.toNat

/-- The queue of a round that is served first: a deficit of at least 1, else the one whose turns bring it there first. -/
def firstServed (l : List Queue) : Option Queue :=
  l.foldl (fun m p =>
    match m with
    | none => some p
    | some q => if p.turnsToServe < q.turnsToServe then some p else m) none

/-- Whether queue `q`, with rank `r`, is served now: nothing of the same subpartition that is ready and fits has a higher
rank, and within the rank the deficit round-robin has come to it (R340). -/
def State.served (s : State) (q : Queue) (r : Nat) : Bool :=
  (s.queues.all fun p => p.num = q.num || p.sub != q.sub ||
    match s.ready p with
    | none => true
    | some i => (s.itemCluster p i).isNone || decide (s.itemRank p i ≤ r)) &&
  (firstServed (s.rivals q r)).any fun p => p.num = q.num

/-- The turns of a round up to the one in which queue `q` is served (R340): each gives a queue its weight. -/
def State.takeTurnsIn (s : State) (round : List Queue) (q : Queue) : State :=
  let before := (round.takeWhile fun p => p.num != q.num).map (·.num)
  let n := q.turnsToServe
  let last := (s.queues.map (·.turn)).foldl Nat.max 0
  if n = 0 then s
  else
    { s with queues := s.queues.map fun p =>
        if p.num = q.num then { p with deficit := p.deficit + n * p.wt.toNat, turn := last + before.length + 1 }
        else if p.num ∈ before then { p with deficit := p.deficit + n * p.wt.toNat, turn := last + before.idxOf p.num + 1 }
        else if round.any fun x => x.num = p.num then { p with deficit := p.deficit + (n - 1 : Nat) * p.wt.toNat }
        else p }

/-- The turns of the round of rank `r`. -/
def State.takeTurns (s : State) (q : Queue) (r : Nat) : State := s.takeTurnsIn (s.rivals q r) q

/-- Whether a placement is of tasks to be rerun, which comes before every priority (R340). -/
def Item.isRerun : Item → Bool
  | .rerun _ _ => true
  | _ => false

/-- The highest effective priority of a subpartition: that of what its queues have ready that is startable (R340). -/
def State.topPrio (s : State) (sub : Nat) : Nat :=
  (s.queues.filterMap fun p => if p.sub = sub then (s.startItem p).bind fun i => if i.isRerun then none else some (s.itemRank p i) else none).foldl
    Nat.max 0

/-- Whether a queue's next placement is at the highest effective priority of its subpartition and fits nowhere. -/
def State.stuckAtTop (s : State) (p : Queue) : Bool :=
  match s.item p with
  | some i => !i.isRerun && (s.itemCluster p i).isNone && decide (s.itemRank p i = s.topPrio p.sub)
  | none => false

/-- Queue `q` dispatches: the other queues of its subpartition whose group is at the highest effective priority and does
not fit are passed over (R340). -/
def State.passOver (s : State) (q : Queue) : State :=
  { s with queues := s.queues.map fun p =>
      if p.num != q.num && p.sub = q.sub then
        { p with passed := if s.stuckAtTop p then ((s.item p).bind (s.itemKey p)).map fun k =>
            (k, match p.passed with | some (k0, t) => if k0 = k then t else s.time | none => s.time) else none }
      else p }

/-- The queue after it has dispatched the `n` tasks of group `k` (R340): the reservation of that group, its raise and its wait
end. -/
def State.afterDispatch (s : State) (q : Queue) (k : Option (Nat × Nat × Nat)) (n : Nat) : State :=
  let s1 := s.mapClusters fun c => if c.reservedFor = k then { c with reservedFor := none } else c
  let more := ((s1.queue? q.num).bind fun q => s1.startItem q).isSome
  s1.mapQueue q.num fun p =>
    { p with deficit := if more then p.deficit - n else 0, since := if more then some s1.time else none, aged := false, passed := none }

/-! ### Resuming (17_traps R356) is in Traps.lean; what follows places groups and reruns. -/

/-- A task to be rerun has started as the new task of its ordinal: what the chiplet reset did not reach, its Weir and
collective contexts, goes on (01_machine R22, 14_weir R312, 15_collectives R320). -/
def State.inherit (s : State) (old : Task) : State :=
  { s with tasks := s.tasks.map fun (t : Task) =>
      if t.queue = old.queue && t.launch = old.launch && t.ord = old.ord && t.run != .ended then
        { t with weir := old.weir, weirDrawn := old.weirDrawn, coll := old.coll, harts := t.harts.map fun h =>
            { h with lastOp := Vector.ofFn fun c => if 5 ≤ c.val then old.ctxIssued c.val else 0 } }
      else t }

/-- Start the tasks of a rerun group on a cluster, in ascending order of work identifiers (01_machine R25). -/
def State.restart (s : State) (q : Queue) (l : Launch) (cluster : Nat) (uids : List Nat) : State :=
  let olds := inOrder (s.tasks.filter fun t => t.uid ∈ uids)
  let os := olds.map fun t => t.ord
  let s1 := { s with tasks := s.tasks.filter fun t => !(t.uid ∈ uids) }
  olds.foldl State.inherit (s1.startTasks q l cluster (os.zip (s1.freeCores cluster)))

/-! ### Events of the Headgate -/

/-- The oldest launch that has not begun starts, where R339 lets it; a GANG launch starts every task at once, and until
the round comes to it its queue has a startable launch that waits (R340). -/
def execLaunchStart (queue : BitVec 12) (s : State) : Out :=
  .next (match s.queue? queue.toNat with
    | none => s
    | some q =>
      match q.launches.find? fun l => !l.begun with
      | none => s
      | some l =>
        if !s.queueOpen q || !q.turnOf l || !s.depsHold l.packet then s
        else
          let begin := fun (s : State) => s.mapLaunch q.num l.num fun l => { l with begun := true }
          let wait := fun (s : State) => s.mapQueue q.num fun q => { q with since := some (q.since.getD s.time) }
          if pkGang l.packet then
            if !s.gangFits q l then s
            else if !s.served q (effPrio q l) then wait s
            else
              match placeGang q l (groupCount l.packet) 0 ((s.passOver q).takeTurns q (effPrio q l)) with
              | none => s
              | some s1 =>
                ((begin s1).mapLaunch q.num l.num fun l => { l with groups := groupCount l.packet }).afterDispatch q
                  none (taskCount l.packet)
          else wait (begin s))

/-- The preloads of group `k` are discarded. -/
def State.unpreload (s : State) (k : Option (Nat × Nat × Nat)) : State :=
  { s with tasks := s.tasks.filter fun t => !(t.isPreload && some t.groupKey = k) }

/-- The place where the next group of a queue fits is found, and the group starts there whole (R340, R341); where it stands
preloaded on a core that is busy, the preload is discarded. A queue whose placement is not served first, or does not fit,
dispatches nothing. -/
def dispatchWith (resume : List Nat → Nat → State → Option State) (queue : BitVec 12) (s : State) : State :=
  match s.queue? queue.toNat with
  | none => s
  | some q =>
    match s.item q with
    | none => s
    | some i =>
      match s.itemCluster q i with
      | none => s
      | some c =>
        if !s.served q (s.itemRank q i) then s
        else
          let k := s.itemKey q i
          let s1 := ((s.passOver q).takeTurns q (s.itemRank q i)).unpreload k
          match i with
          | .gang _ => s
          | .rerun l uids => (s1.restart q l c uids).afterDispatch q k uids.length
          | .resume uids =>
            match resume uids c s1 with
            | some s2 => s2.afterDispatch q k uids.length
            | none => s1.mapQueue q.num fun p => { p with deficit := p.deficit - uids.length }
          | .group l g =>
            ((s1.startGroup q l g c).mapLaunch q.num l.num fun l => l.took g).afterDispatch q k (groupSize l.packet)

/-- Whether a queue has a startable launch or one whose tasks are being dispatched (R339, R340). -/
def State.startable (s : State) (q : Queue) : Bool := (s.startItem q).isSome

/-- A queue with a startable launch that has waited for more than 10 ms without dispatching is raised (R340); one that has
none any more waits no longer. -/
def execPriorityAgeing (queue : BitVec 12) (s : State) : Out :=
  .next (s.mapQueue queue.toNat fun q =>
    match q.since with
    | some t => if !s.startable q then { q with since := none } else if t + 10000000 < s.time then { q with aged := true } else q
    | none => q)

/-- The lowest-numbered cluster that could hold the next placement of a queue once its running tasks retire (R340): what
parked tasks keep of its bands and scratch stays theirs. -/
def State.couldHold (s : State) (q : Queue) : Item → Option Nat
  | .resume uids =>
    let ts := s.parkedOf uids
    s.lowestCluster fun c => c.takes q none && s.mayResume ts c.num && fits c (wantsOf ts).1 (wantsOf ts).2
  | .gang _ => none
  | .rerun l uids => s.lowestCluster fun c => c.takes q none && fits c (pkBands l.packet * uids.length) (pkScrb l.packet * uids.length)
  | .group l _ =>
    s.lowestCluster fun c => c.takes q none && fits c (pkBands l.packet * groupSize l.packet) (pkScrb l.packet * groupSize l.packet)
where
  fits (c : Cluster) (bands scrb : Nat) : Bool :=
    let l := (s.tasksOf c.num).filter fun t => t.onCore.isNone
    decide (bands ≤ freeBands l) && decide (scrb ≤ freeScratch l)

/-- The groups of a queue that wait to be rerun, in the order of R341. -/
def State.rerunGroups (s : State) (q : Queue) : List Item :=
  ((inOrder (s.waiting q .rerun)).map Task.groupKey).eraseDups.filterMap (s.itemOf q)

/-- The cluster that R340 reserves for a placement of a queue: a group at the highest effective priority of the
subpartition that has been passed over for 10 ms, and a rerun group at once; one that is placed next anyway, or that has
a reservation, takes none. -/
def State.clusterFor (s : State) (q : Queue) (i : Item) : Option Nat :=
  let k := s.itemKey q i
  let due := i.isRerun || (s.stuckAtTop q && q.passed.any fun p => some p.1 = k && decide (p.2 + 10000000 ≤ s.time))
  let next := decide ((s.item q).bind (s.itemKey q) = k) && (s.itemCluster q i).isSome
  if !due || next || s.allClusters.any (fun c => c.reservedFor = k && k.isSome) then none else s.couldHold q i

/-- The cluster to reserve for a queue, and the group it is for (R340): its next placement, else the first of its other groups
to be rerun that needs one. -/
def State.reserveFor (s : State) (q : Queue) : Option (Nat × Option (Nat × Nat × Nat)) :=
  if s.queueOpen q then
    ((s.item q).toList ++ s.rerunGroups q).findSome? fun i => (s.clusterFor q i).map fun n => (n, s.itemKey q i)
  else none

/-- A group of a queue that needs it gets the cluster reserved that R340 gives it. -/
def execGroupReservation (queue : BitVec 12) (s : State) : Out :=
  .next (match s.queue? queue.toNat with
    | some q =>
      match s.reserveFor q with
      | some (n, k) => s.mapCluster n fun c => { c with reservedFor := k }
      | none => s
    | none => s)

/-! ### Preloads (R343) -/

/-- Whether cluster `c` could take a placement once its core `core` becomes free (R343): the task that runs there holds
nothing then. -/
def State.couldFollow (s : State) (c : Cluster) (core : Nat) (i : Item) : Bool :=
  let rest := (s.holdersOf c.num).filter fun t => t.onCore != some core
  let room := fun (n bands scrb : Nat) => decide (n ≤ (s.freeCores c.num).length + 1) &&
    decide (bands ≤ freeBands rest) && decide (scrb ≤ freeScratch rest)
  match i with
  | .group l _ => room (groupSize l.packet) (pkBands l.packet * groupSize l.packet) (pkScrb l.packet * groupSize l.packet)
  | .rerun l uids => room uids.length (pkBands l.packet * uids.length) (pkScrb l.packet * uids.length)
  | .gang _ => false
  | .resume uids =>
    let ts := s.parkedOf uids
    s.mayResume ts c.num && room ts.length (wantsOf ts).1 (wantsOf ts).2

/-- Whether group `k` stands preloaded on a core. -/
def State.hasPreload (s : State) (k : Option (Nat × Nat × Nat)) : Bool := s.tasks.any fun t => t.isPreload && some t.groupKey = k

/-- What R340 and R341 would place next on core `core` of cluster `n` when it becomes free: what has no room anywhere now and does
not stand on another core, and its queue. -/
def State.preloadChoice (s : State) (n core : Nat) : Option (Queue × Item) :=
  let c := (s.allClusters.find? fun c => c.num = n).getD {}
  let cands := s.queues.filterMap fun q =>
    (s.item q).bind fun i =>
      if c.takes q (s.itemKey q i) && (s.itemCluster q i).isNone && s.couldFollow c core i && !s.hasPreload (s.itemKey q i) then
        some (q, i, s.itemRank q i)
      else none
  let top := (cands.map fun x => x.2.2).foldl Nat.max 0
  let best := cands.filter fun x => x.2.2 = top
  let round := (best.map (·.1)).foldr insertTurn []
  (firstServed round).bind fun q => (best.find? fun x => x.1.num = q.num).map fun x => (q, x.2.1)

/-- The task with ordinal `o` of a launch stands preloaded on a core. -/
def State.preloadTask (s : State) (q : Queue) (l : Launch) (o cluster core : Nat) : State :=
  { s with tasks := s.tasks ++ [newTask s q l o cluster (.preloaded core) (apertureOf cluster core)], nextUid := s.nextUid + 1 }

/-- A core that runs a task is preloaded with the next one (R343). A group of more tasks than one, and a task that has run
already, start only when their cores are free. The queue dispatches the task when it starts (log 50). -/
def execPreload (cluster core : Nat) (s : State) : Out :=
  .next (
    let here := (s.tasksOf cluster).filter fun t => t.onCore = some core
    if here.length != 1 || here.any Task.isPreload then s
    else
      match s.preloadChoice cluster core with
      | some (q, .group l g) => if groupSize l.packet = 1 then s.preloadTask q l g cluster core else s
      | some (q, .rerun l [uid]) =>
        match s.task? uid with
        | some t => if groupSize l.packet = 1 then s.preloadTask q l t.ord cluster core else s
        | none => s
      | _ => s)

/-- A preload is discarded: its task has not started and is dispatched again (R343). -/
def State.dropPreload (s : State) (t : Task) : State := { s with tasks := s.tasks.filter fun u => u.uid != t.uid }

/-- The preload `t` starts on its core, as its queue's dispatch of `i` (R343). -/
def State.runPreload (s : State) (t : Task) (q : Queue) (i : Item) (core : Nat) : State :=
  let k := some t.groupKey
  let s1 := ((s.passOver q).takeTurnsIn [q] q).dropPreload t
  let t1 : Task := { t with run := .resident core, since := s.time }
  let s2 : State := match i with
    | .rerun _ uids =>
      let r := { s1 with tasks := (s1.tasks.filter fun u => !(u.uid ∈ uids)) ++ [t1] }
      (uids.filterMap s1.task?).foldl State.inherit r
    | _ => { s1 with tasks := s1.tasks ++ [t1] }.mapLaunch q.num t.launch fun l => l.took t.group
  (s2.countRun t1 t.home core).afterDispatch q k 1

/-- A core has become free: its preload starts, and its queue has dispatched it (R343); one that has no room any more, on a
cluster that is reserved for another group among others, is discarded. -/
def State.startPreload (s : State) (cluster core : Nat) : State :=
  match s.tasks.find? fun t => t.home = cluster && t.run = .preloaded core with
  | none => s
  | some t =>
    let rest := s.dropPreload t
    match s.queue? t.queue.toNat with
    | none => rest
    | some q =>
      match s.itemOf q t.groupKey with
      | some (.resume _) | some (.gang _) | none => rest
      | some i =>
        if s.allClusters.any fun c => c.num = cluster && c.takes q (some t.groupKey) && rest.hasRoom c 1 (pkBands t.packet) (pkScrb t.packet) then
          s.runPreload t q i core
        else rest

/-! ### How tasks and launches end (R345, R346) -/

/-- The residency record of a group whose last task has ended (R346). -/
def State.writeReport (s : State) (q : Queue) (l : Launch) (r : GroupRec) : State :=
  let p := l.packet
  if pkReport p = 0 then s
  else
    let a := pkReport p + 32 * r.g
    let gs := if 0 < r.lost then 1 else if r.rerun then 2 else 0
    s.recordWords q (pkAsid p) a
      [(a, wiOf p (r.g * groupSize p)), (a + 8, r.cluster + (r.coresOn r.cluster).toNat * 2 ^ 8 + gs * 2 ^ 16 + r.runs * 2 ^ 24),
       (a + 16, r.start % 2 ^ 64), (a + 24, r.ended % 2 ^ 64)]

/-- TL after the launches that have finished (R334). -/
def advanceTl : List Launch → Nat → Nat × List Launch
  | [], tl => (tl, [])
  | l :: r, tl => if l.finished && l.num = tl + 1 then advanceTl r (tl + 1) else (tl, l :: r)

/-- A launch whose last task has ended: its record, its queue's timeline, the event of an empty queue (R345), and the end of
the cluster-scope barriers of its groups. -/
def State.finishLaunch (s : State) (q : Queue) (l : Launch) : State :=
  let s1 := if pkCompl l.packet = 0 then s
    else s.writeRecord q l.packet (if 0 < l.lost then 2 else 1) 0 l.num l.lost
  let s1 := { s1 with barriers := s1.barriers.filter fun x => !(x.1.1 = q.num && x.1.2.1 = l.num) }
  let s2 := s1.mapQueue q.num fun q =>
    let (tl, ls) := advanceTl (q.launches.map fun m => if m.num = l.num then { m with finished := true } else m) q.tl
    { q with tl := tl, launches := ls }
  if (s2.queue? q.num).any fun q => q.launches.all fun m => m.finished then s2.eventQueue q.num 1 q.num else s2

/-- A task of a launch has retired or is lost (R345, R346). -/
def State.taskEnded (s : State) (queue launch group part : Nat) (lost : Bool) : State :=
  let s1 := s.mapLaunch queue launch fun l =>
    let l1 := l.mapRec group fun r =>
      { r with ended := s.timeOf part, retired := r.retired + bitNat (!lost), lost := r.lost + bitNat lost }
    { l1 with retired := l.retired + bitNat (!lost), lost := l.lost + bitNat lost }
  match s1.queue? queue with
  | none => s1
  | some q =>
    match q.launches.find? fun l => l.num = launch with
    | none => s1
    | some l =>
      let s2 := match l.recs.find? fun r => r.g = group with
        | some r => if r.retired + r.lost = groupSize l.packet then s1.writeReport q l r else s1
        | none => s1
      if l.retired + l.lost = taskCount l.packet then s2.finishLaunch q l else s2

/-! ### tdone (05_control R112 to R114) -/

/-- The names that stand in a save area give up their versions (R112). -/
def State.dropSaved (s : State) : State :=
  let all := s.t.savedNames ++ s.t.savedViews.flatMap (·.2)
  let once := all.foldl (fun l p => if l.any fun (e : Entry) => e.id = p.2.id then l else l ++ [p.2]) []
  let s1 := { s with t := { s.t with savedNames := [], savedViews := [], kept := [] } }
  let s2 := (once.filter fun e => !(e.id ∈ s.t.gone)).foldl (fun s e => s.releaseAll e.swatches) s1
  s2.settleAll all

/-- Every name of the hart with the turn gives up its version (R112). -/
def State.releaseNames (s : State) : State :=
  let old := s.h.names
  let s1 := old.foldl (fun s p => s.dropVersion p.1 p.2) { s with h := { s.h with names := [] } }
  (s1.dropPubs.settleAll old).dropSaved

/-- The charges of a task that ends move to the pool account of its subpartition, while swatches are still referenced
(06_chains R117). -/
def State.moveCharges (s : State) (uid : Nat) : State :=
  s.mapClusters fun c => { c with bolt := c.bolt.map fun w => if w.charge = some uid then { w with charge := none } else w }

/-- The vector context of a core whose owner is `uid` becomes empty (R112, 17_traps R359). -/
def Cluster.disown (c : Cluster) (uid : Nat) : Cluster :=
  { c with cores := c.cores.map fun k => if k.owner = some uid then { k with owner := none, ownerSave := 0#64 } else k }

/-- A context slot is free again (18_partitions R376). -/
def State.freeSlot (s : State) (t : Task) : State :=
  { s with subs := s.subs.map fun p => if p.num = t.sub then { p with slots := p.slots.filter fun x => x.2 != t.uid } else p }

/-- The device without the task with the turn, which has one hart and nothing under way. The shared barriers that it has
initialised stay (12_sync R272). -/
def State.vacate (s : State) : State :=
  let t := s.t
  let s1 := s.releaseNames.moveCharges t.uid
  let s2 := { s1 with cl := s1.cl.disown t.uid }
  { (s2.returnContexts t).freeSlot t with who := .idle, h := {}, t := {} }

/-- The task with the turn, with one hart and nothing under way, leaves its core; the core's preload starts. -/
def State.leaveCore (s : State) (lost : Bool) : State :=
  let t := s.t
  let s1 := s.vacate.taskEnded t.queue.toNat t.launch t.group t.part lost
  match t.onCore with
  | some c => s1.startPreload t.home c
  | none => s1

/-- The word of tdone. -/
def tdoneWord : Word := wordOf (some (fmtA 0x20#7 0#7 0#7 0#7 6#4))

/-- Translate one doubleword of the completion record for a store (R112, R113): its device-physical address; none in
the scratch aperture, which is freed with the task. -/
def recordCell (va : Nat) : Act (Option Nat) := do
  let s ← get
  match s.scratchOff va with
  | some off =>
    requireAct (decide (off + 8 ≤ s.t.scrb)) { cause := .access, val := BitVec.ofNat 64 va, val2 := 1#64 }
    pure none
  | none =>
    match s.translate va .store with
    | .error e => raiseAct (e.trap (BitVec.ofNat 64 va) 1#64)
    | .ok x => do
      requireAct ((s.aliasOf s.t.part x.pp).isNone)
        (({ cause := .access, val := BitVec.ofNat 64 va, val2 := 1#64 } : Trap).past x)
      requireAct (!((List.range 8).any fun i => s.consumes (x.pa + i))) ((poisonTrap va 1#64).via x)
      modify fun s => s.setMarks true x
      pure (some x.pa)

/-- Apply `f` to the doubleword at a device-physical address. -/
def State.updateWord (s : State) (pa : Option Nat) (f : Nat → Nat) : State :=
  match pa with
  | some a => s.commitBytes a (bytesOf 8 (f (ofBytes (s.coherentBytes a 8))))
  | none => s

/-- The last steps of tdone, on a task whose work is done (R112): the record is pinned, and the Headgate retires the
task. -/
def retireTask : Act Unit := do
  let s ← get
  let rec_ := pkCompl s.t.packet
  if rec_ = 0 then modify fun s => s.leaveCore false
  else do
    let p0 ← recordCell rec_
    let p1 ← recordCell ((rec_ + 8) % 2 ^ 64)
    modify fun s =>
      let fl := s.h.fflags.toNat
      ((s.updateWord p0 fun v => v ||| fl).updateWord p1 fun v => (v + 1) % 2 ^ 64).leaveCore false

/-- tdone (R112): the steps already done stay done where it waits or traps (R114). A stopped vector instruction and the
traps that a handler holds are waited for (log 71). -/
def execTdone (s : State) : Out :=
  if s.who = .user && s.h.id = 0#3 then
    let (s1, joined) := joinAll 8 s
    if !joined || !s1.t.idle (fun _ => true) || !s1.h.held.isEmpty || s1.h.stopped.isSome then .next (s1.enterWait .other)
    else finish retireTask { s1.drain.flushAll with t := { s1.drain.flushAll.t with windows := [] } }
  else .next (takeTrap { cause := .illegal, val := tdoneWord } false s)

/-! ### wqpost and wqstat (R347 to R349) -/

/-- The word of a queue instruction. -/
def queueWord (d a b : Reg) (fn : BitVec 4) : Word := wordOf (some (fmtA 0x6C#7 d a b fn))

/-- The selector in xb: queue, node, and whether it names this device (R347). -/
def State.selector (s : State) (xb : Word) : Nat × Nat × Bool :=
  let v := xb.toNat
  let node := bitsOf v 21 12
  (bitsOf v 11 0, node, decide (node = s.o.onode.toNat) || (!bitOf v 22 && decide (node = 0)))

/-- The trap of R347. -/
def queueTrap (xb : Word) (reason : Nat) : Trap := { cause := .access, val := xb, val2 := BitVec.ofNat 64 reason }

/-- Whether the level of the agent with the turn may use a queue: its subpartition at U and S, its partition at P
(18_partitions R366). -/
def State.mayPost (s : State) (q : Nat) : Bool :=
  match s.level with
  | .u | .s => s.hasUse (.sub s.ownSub) 2 q
  | .p => s.partUse s.ownPart 2 q
  | .o => s.hasUse .owner 2 q

/-- wqpost (R348): a queue of this device answers at once, that of another after one turn (log 27). -/
def execWqpost (d a b : Reg) (s : State) : Out :=
  finish (do
    let s ← get
    let xa := s.rx a
    let xb := s.rx b
    requireAct (decide (xb.toNat < 2 ^ 23)) (queueTrap xb 1)
    let (q, _, here) := s.selector xb
    requireAct (!here || s.mayPost q) (queueTrap xb 2)
    requireAct (aligned xa 128) { cause := .misaligned, val := xa }
    let p ← (List.range 16).mapM fun i => loadAt (xa.toNat + 8 * i) 8 .load 0#64
    modify State.drain
    if here then
      let s ← get
      match s.queue? q with
      | none => modify fun s => s.put d (BitVec.ofNat 64 (2 ^ 63 + 6))
      | some q =>
        let (r, s1) := s.arrive q p.flatten
        set (s1.put d (launchAnswer r))
    else
      let s ← get
      match s.h.wait with
      | some { kind := .wqpost _, .. } => modify fun s => s.put d (Config.remoteAnswer s.time)
      | _ => modify fun s => s.enterWait (.wqpost d)) s

/-- The wait of a wqpost for the answer of another node exceeds WTMO (R348). -/
def execWqpostTimeout (s : State) : Out :=
  .next (match s.h.wait with
    | some { kind := .wqpost d, since := t } =>
      if s.waitedOut { kind := .wqpost d, since := t } then s.put d (BitVec.ofNat 64 (2 ^ 63 + 255)) else s
    | _ => s)

/-- The status word of a queue (R349). -/
def State.queueStatus (s : State) (q : Queue) : Nat :=
  let w := (q.launches.filter fun l => !l.finished).length
  let ep := match q.next with
    | some l => effPrio q l
    | none => (Config.idlePriority s.time).toNat
  let dep := q.next.any fun l => !l.begun && !s.depsHold l.packet
  let ser := q.next.any fun l => !l.begun && pkSerial l.packet && q.launches.any fun m => m.num + 1 = l.num && !m.finished
  w + ep * 2 ^ 9 + q.pc.toNat * 2 ^ 12 + bitNat q.aged * 2 ^ 15 + q.wt.toNat * 2 ^ 16 + bitNat dep * 2 ^ 24 + bitNat ser * 2 ^ 25

/-- wqstat (R349). -/
def execWqstat (d a b : Reg) (s : State) : Out :=
  finish (do
    let s ← get
    let xb := s.rx b
    requireAct (decide (xb.toNat < 2 ^ 23)) (queueTrap xb 1)
    let (n, _, here) := s.selector xb
    requireAct (!here || s.mayPost n) (queueTrap xb 2)
    requireAct here (queueTrap xb 3)
    let q := (s.queue? n).getD { num := n, sub := 0, pc := 0#3, wt := 0#8, ualink := false, conn := 0#16 }
    match (s.rx a).toNat with
    | 0 => modify fun s => s.put d (BitVec.ofNat 64 (s.queueStatus q))
    | 1 => modify fun s => s.put d (BitVec.ofNat 64 q.tl)
    | 2 => modify fun s => s.put d (BitVec.ofNat 64 q.accepted)
    | _ => trapAct .illegal (queueWord d a b 8#4)) s

end Sys2Proof.Machine
end

