-- ==== Sys2Proof/Machine/Context.lean ====
section
/-! DEFINITION. Save areas and the movement of context (17_traps R355 to R360): hart records, name images, tiles,
scratch and engines, `ctxsave` and `ctxload`, parking, pre-emption and resumption. -/

namespace Sys2Proof.Machine

/-! ### Focus for a while -/

/-- The state `p` with the turn given back to the agent that had it in `s0`. -/
def State.refocus (s0 p : State) : State :=
  match s0.who with
  | .service => p.focusService s0.cl.num
  | .lydar => { p.packed with who := .lydar, h := s0.h }
  | .user => p.focusHart s0.t.uid s0.h.id
  | .idle => p.packed

/-- Run a computation with hart `hid` of task `uid` at the turn. -/
def onHart {α : Type} (uid : Nat) (hid : BitVec 3) (a : Act α) : Act α := fun s =>
  match a (s.focusHart uid hid) with
  | .ok (v, p) => .ok (v, s.refocus p)
  | .error e => .error e

/-- The hart of a task by which the task is reached: its first. -/
def State.leadHart (s : State) (uid : Nat) : BitVec 3 := (((s.task? uid).bind fun t => t.harts.head?).map (·.id)).getD 0#3

/-- Run a computation with task `uid` at the turn. -/
def onTask {α : Type} (uid : Nat) (a : Act α) : Act α := fun s => onHart uid (s.leadHart uid) a s

/-! ### Save areas -/

/-- A save area: the level whose addresses it is given in, the partition and subpartition, its base (R357). -/
structure Area where
  lvl  : Level
  part : Nat
  sub  : Nat
  base : Nat

/-- Where an address of an area's space leads (R364). -/
def State.areaXlat (s : State) (r : Area) (a : Nat) (k : Acc) : Except TErr Xlat :=
  match r.lvl with
  | .p =>
    match s.stage3 r.part none a k 0 with
    | .error e => .error e
    | .ok pa => .ok { pa := pa, pp := a, ord := .rc }
  | .o => .ok { pa := a, pp := a, ord := .rc }
  | _ => s.stage2 r.part r.sub a k

/-- A place in an area's space for `k`, or the trap of R99. -/
def areaAt (r : Area) (a : Nat) (k : Acc) : Act Xlat := fun s =>
  let a := a % 2 ^ 64
  match s.areaXlat r a k with
  | .error e => .error (.trap (e.trap (BitVec.ofNat 64 a) k.val2))
  | .ok x =>
    if s.noMemory x.pa then .error (.fault (.noMemory x.pa))
    else if k.writes && (s.aliasOf r.part x.pp).isSome then
      .error (.trap (({ cause := .access, val := BitVec.ofNat 64 a, val2 := 1#64 } : Trap).past x))
    else .ok (x, s.setMarks k.writes x)

/-- Write bytes from address `a` on, line by line, committed (R358). -/
def areaPutGo (r : Area) : Nat → Nat → List Byte → Act Unit
  | 0, _, _ => pure ()
  | f + 1, a, bs =>
    if bs.isEmpty then pure ()
    else do
      let k := pieceLen a bs.length
      let x ← areaAt r a .store
      modify fun s => s.commitCells x.pa (whole (bs.take k))
      areaPutGo r f (a + k) (bs.drop k)

/-- Write bytes at address `a` of an area's space. -/
def areaPut (r : Area) (a : Nat) (bs : List Byte) : Act Unit := areaPutGo r (bs.length / 256 + 2) a bs

/-- Read `n` bytes from address `a` on, line by line. -/
def areaGetGo (r : Area) : Nat → Nat → Nat → Act (List Byte)
  | 0, _, _ => pure []
  | f + 1, a, n =>
    if n = 0 then pure []
    else do
      let k := pieceLen a n
      let x ← areaAt r a .load
      let bs ← physLoad r.part x a k 0#64
      let rest ← areaGetGo r f (a + k) (n - k)
      pure (bs ++ rest)

/-- Read bytes at address `a` of an area's space. -/
def areaGet (r : Area) (a n : Nat) : Act (List Byte) := areaGetGo r (n / 256 + 2) a n

/-- Read a doubleword of an area's header. -/
def headWord (r : Area) (off : Nat) : Act Nat := do return ofBytes (← areaGet r (r.base + off) 8)

/-! ### Name images (06_chains R119) -/

/-- The 32-byte image of an entry. -/
def Entry.image (e : Entry) : List Byte :=
  let w0 := e.state.code + e.tag.code.toNat * 2 ^ 2 + bitNat e.dirty * 2 ^ 7 + bitNat e.map.isSome * 2 ^ 8 +
    e.segs.length * 2 ^ 9 + e.len * 2 ^ 16 + (if e.state = .live then e.len else e.prog) * 2 ^ 34
  let w1 := e.version.toNat + e.map.getD 0 * 2 ^ 16
  bytesOf 8 w0 ++ bytesOf 8 w1 ++
    (List.range 4).flatMap fun i => bytesOf 4 (if e.map.isSome then 0 else ((e.segs[i]?).map descOf).getD 0)

/-- The entry that an image stands for; a map swatch holds the descriptors of a longer chain (R120). A reserved type code
reads as b1 (log 76). -/
def State.ofImage (s : State) (b : List Byte) : Entry :=
  let w0 := field b 0 8
  let w1 := field b 8 8
  let n := bitsOf w0 15 9
  let m := if bitOf w0 8 then some (bitsOf w1 30 16) else none
  let from_ : List Byte := match m with
    | some i => ((s.cl.swatch? i).map (·.data)).getD []
    | none => b.drop 16
  { state := match bitsOf w0 1 0 with
      | 0 => .empty
      | 1 => .live
      | 2 => .pending
      | _ => .spilled,
    tag := (ElemType.ofCode (BitVec.ofNat 5 (bitsOf w0 6 2))).getD .b1, dirty := bitOf w0 7,
    segs := (List.range n).map fun i => segOf (field from_ (4 * i) 4), map := m, len := bitsOf w0 33 16,
    prog := bitsOf w0 51 34, counts := [(0, w1 % 2 ^ 16)] }

/-- Whether an image is that of `e`, whatever has been produced of it since. -/
def Entry.sameAs (e i : Entry) : Bool :=
  e.tag = i.tag && e.segs = i.segs && e.map = i.map && e.len = i.len && e.version = i.version

/-! ### Hart records (R357) -/

/-- The captured vd of a flight's record: the accumulator or undisturbed version, or the data chain of a store. -/
def Flight.vdImage (f : Flight) : Option Entry := f.vd.or f.datas.head?

/-- The values captured at the issue of a stopped instruction, bytes 1368 to 1407. -/
def Flight.captures (f : Flight) : List Byte :=
  bytesOf 4 f.word.toNat ++ bytesOf 4 f.vl ++ bytesOf 1 (f.ty.code.toNat + blkCode f.blk * 2 ^ 5) ++ bytesOf 1 (frmCode f.frm) ++
    bytesOf 2 f.vwb.toNat ++ bytesOf 2 f.vmsel.toNat ++ [0#8, 0#8] ++ bytesOf 4 f.dstream.toNat ++ bytesOf 4 f.dtemp.toNat ++
    bytesOf 8 f.dkey.toNat ++ bytesOf 8 f.dctr.toNat

/-- The image of a capture; STATE 0 where there is none. -/
def imageOr (e : Option Entry) : List Byte := (e.map Entry.image).getD (List.replicate 32 0#8)

/-- The barw of a hart whose arrival stands, wherever it was broken off (R403). -/
def Hart.anyBarw (h : Hart) : Option BarwWait := h.trapGen.or (h.stoppedGen.or h.barwGen)

/-- Bytes 1368 to 1407 for a barw stopped in its wait, which captures nothing at issue but its word. -/
def BarwWait.captures (w : BarwWait) : List Byte := bytesOf 4 w.word.toNat ++ List.replicate 36 0#8

/-- The record of the hart with the turn. Where both a vector instruction and a barw are stopped, bytes 1368 to 1407 are
those of the vector instruction (log 25). -/
def State.hartRecord (s : State) : List Byte :=
  let h := s.h
  let f := h.flight.or h.stopped
  let w := h.anyBarw
  ((List.range 128).flatMap fun i => bytesOf 8 (h.rx (BitVec.ofNat 7 i)).toNat) ++ bytesOf 8 h.pc.toNat ++
    ((List.range 0x23).flatMap fun n => bytesOf 8 ((s.readReg n).getD 0)) ++
    ((List.range 6).flatMap fun n => bytesOf 8 ((s.readReg (0x100 + n)).getD 0)) ++
    bytesOf 8 (bitNat h.handler + bitNat (f.isSome || w.isSome) * 2 + (h.parent.getD 0#3).toNat * 4) ++
    (((f.map Flight.captures).or (w.map BarwWait.captures)).getD (List.replicate 40 0#8)) ++ bytesOf 8 (w.elim 0 (·.gen.toNat)) ++
    imageOr (f.bind (·.va)) ++ imageOr (f.bind (·.vb)) ++ imageOr (f.bind (·.mask)) ++ imageOr (f.bind Flight.vdImage) ++
    List.replicate 504 0#8

/-- A fold that waits for its sources is undone, where the hart stops (R351, 08_draws R184). -/
def State.undoFold (s : State) : State := if s.h.flight.any (fun f => f.op.folds) then s.squash else s

/-- The two-operand members by major and code, from major 0x2A on (07_vector). -/
def binTable : List VBin :=
  [.add, .sub, .rsub, .mul, .adds, .subs, .mulh, .avg, .div, .rem, .min, .max, .and, .or, .xor, .andn,
   .sll, .srl, .sra, .rot, .ceq, .cne, .clt, .cle, .fadd, .fsub, .fmul, .fdiv, .fmin, .fmax, .fma, .fms,
   .fceq, .fclt, .fcle, .fcun, .scale, .fnma, .fsgn]

/-- The members of vunary by sub-operation (R170). -/
def unTable : List VUn :=
  [.fsqrt, .frcp, .frsqrt, .flog2, .fexp2, .ftanh, .fabs, .fneg, .abs, .neg, .not, .clz, .popc, .fcat, .mov, .id]

/-- The form of a vector memory access by code (09_vmem R200). -/
def memForm (c : Nat) : VMemForm :=
  match c with
  | 0 => .unit
  | 1 => .strided
  | 2 => .indexed
  | _ => .seg

/-- What a streaming vector instruction's word asks for: the issue of the instructions of VectorInstr, Vmem and Reduce
that stop and resume. -/
def specOf (w : IWord) : Option VSpec :=
  let f := splitWord w
  let m := f.fn.getLsbD 3
  let sc := f.fn.getLsbD 2
  let c := f.fn.toNat % 4
  let op := f.op.toNat
  let bs : BSel := if sc then .scalar else .vec
  if 0x2A ≤ op && op ≤ 0x33 then (binTable[(op - 0x2A) * 4 + c]?).map fun o => { word := f, op := .bin o, masked := m, bsel := bs }
  else match op with
    | 0x28 => some { word := f, op := .pack }
    | 0x34 => (unTable[f.b.toNat]?).map fun o => { word := f, op := .un o, masked := m }
    | 0x35 => (ElemType.ofCode (f.b.setWidth 5)).map fun t => { word := f, op := .cvt sc (frmOf c) t, masked := m }
    | 0x36 => match c with
      | 0 => some { word := f, op := .perm .slup, masked := m, bsel := .scalar }
      | 1 => some { word := f, op := .perm .sldn, masked := m, bsel := .scalar }
      | 2 => some { word := f, op := .perm .rgath, masked := m, bsel := bs }
      | _ => some { word := f, op := .perm .compr, bsel := .vec }
    | 0x37 => match c with
      | 0 => some { word := f, op := .perm .zip, masked := m, bsel := .vec }
      | 1 => some { word := f, op := .perm .unzip, masked := m, bsel := .scalar }
      | 2 => some { word := f, op := .perm .rev, masked := m }
      | _ => some { word := f, op := .perm .merge, masked := true, bsel := bs }
    | 0x38 => some { word := f, op := .perm .bcast, masked := m, bsel := bs }
    | 0x39 => match c with
      | 0 => some { word := f, op := .mask .and, bsel := .vec }
      | 1 => some { word := f, op := .mask .or, bsel := .vec }
      | 2 => some { word := f, op := .mask .xor, bsel := .vec }
      | _ => some { word := f, op := .mask .not }
    | 0x41 => if f.fn.toNat % 8 = 4 then some { word := f, op := .red .rand, masked := m } else none
    | 0x46 => some { word := f, op := .load (memForm c), masked := m, bsel := if c = 1 then .scalar else if c = 2 then .vec else .none,
                     nf := if c = 3 then f.b.toNat % 8 + 1 else 1 }
    | 0x47 => some { word := f, op := .store (memForm c), masked := m, bsel := if c = 1 then .scalar else if c = 2 then .vec else .none,
                     nf := if c = 3 then f.b.toNat % 8 + 1 else 1 }
    | _ => none

/-- A capture as an image gives it: the version the machine knows, where the image is its own. -/
def State.capture (s : State) (old : Option Entry) (b : List Byte) : Option Entry :=
  let i := s.ofImage b
  if i.state = .empty then none
  else match old with
    | some e => if e.sameAs i then some e else some i
    | none => some i

/-- The stopped instruction that a hart record holds: `old` is the flight that the machine knows, `h` the hart as
loaded. Scalars are taken from the registers loaded (log 29), and a reserved type code reads as b1 (log 76). -/
def State.loadFlight (s : State) (b : List Byte) (old : Option Flight) (h : Hart) : Option Flight :=
  let w := BitVec.ofNat 32 (field b 1368 4)
  match specOf w with
  | none => none
  | some v =>
    let o := old.bind fun f => if f.word = w then some f else none
    let img := fun (i : Nat) => (b.drop (1416 + 32 * i)).take 32
    let vwb : Name := BitVec.ofNat 9 (field b 1378 2)
    let h' := { h with vwb := vwb }
    let isStore := match v.op with | .store _ => true | _ => false
    let vd := s.capture (o.bind Flight.vdImage) (img 3)
    let own := v.dNames h'
    let vty := field b 1376 1
    let ty := (ElemType.ofCode (BitVec.ofNat 5 vty)).getD .b1
    let va := s.capture (o.bind (·.va)) (img 0)
    let datas := match o with
      | some f => f.datas
      | none => if isStore then (match vd with | some e => [e] | none => []) ++ (own.drop 1).map (entryIn h.names) else []
    let dests := match o with
      | some f => f.dests
      | none => if (v.op.destType ty ((va.map (·.tag)).getD .b1)).isSome then own.map fun k => (k, entryIn h.names k, vd.getD {}) else []
    some {
      word := w, op := v.op, masked := v.masked, bsel := v.bsel, d := v.word.d, a := v.word.a, b := v.word.b, nf := v.nf,
      xa := h.rx v.word.a, xb := h.rx v.word.b, vl := field b 1372 4 % 2 ^ 18, ty := ty,
      blk := (BlockLen.ofCode (BitVec.ofNat 2 (vty / 32))).getD .none, vwb := vwb,
      vmsel := BitVec.ofNat 9 (field b 1380 2), frm := frmOf (field b 1377 1 % 4), dkey := BitVec.ofNat 64 (field b 1392 8),
      dstream := BitVec.ofNat 32 (field b 1384 4), dctr := BitVec.ofNat 64 (field b 1400 8), dtemp := BitVec.ofNat 32 (field b 1388 4),
      va := va, vb := s.capture (o.bind (·.vb)) (img 1), mask := s.capture (o.bind (·.mask)) (img 2),
      vd := if isStore then none else vd, datas := datas, dests := dests, k := h.vstart.toNat, flags := 0#9, boltSince := none }

/-- The barw that a hart record holds as stopped in its wait: the one that the machine knows, where the record is its own;
else the number is read from xa as loaded (log 25). -/
def loadBarw (b : List Byte) (old : Option BarwWait) (h : Hart) : Option BarwWait :=
  let word : IWord := BitVec.ofNat 32 (field b 1368 4)
  let gen := BitVec.ofNat 64 (field b 1408 8)
  let f := splitWord word
  if f.op = 0x61#7 && f.fn = 3#4 then
    some (match old with
      | some w => if w.word = word && w.gen = gen then w else { word := word, num := (h.rx f.a).toNat % 256, gen := gen }
      | none => { word := word, num := (h.rx f.a).toNat % 256, gen := gen })
  else old.filter fun w => w.gen = gen

/-- A hart as its record gives it; what the record does not hold stays as the machine knows it, and so do the flags that have
joined since it was saved (10_matrix R236). PC and TRAPPC are
multiples of 4 (03_words R53), and a reserved type code reads as b1 (log 76). -/
def State.loadHart (s : State) (id : BitVec 3) (old : Hart) (b : List Byte) : Hart :=
  let reg := fun (n : Nat) => field b (1032 + 8 * n) 8
  let ur := fun (n : Nat) => field b (1312 + 8 * n) 8
  let w := field b 1360 8
  let h : Hart := { old with
    id := id, x := Vector.ofFn fun i => BitVec.ofNat 64 (field b (8 * i.val) 8), pc := BitVec.ofNat 64 (field b 1024 8 / 4 * 4),
    vl := BitVec.ofNat 18 (reg 0), ty := (ElemType.ofCode (BitVec.ofNat 5 (reg 1))).getD .b1,
    blk := (BlockLen.ofCode (BitVec.ofNat 2 (reg 1 / 32))).getD .none, vwb := BitVec.ofNat 9 (reg 3),
    vmsel := BitVec.ofNat 9 (reg 4), vstart := BitVec.ofNat 18 (reg 5), fflags := BitVec.ofNat 9 (reg 6) ||| old.late, late := 0#9,
    fex := Vector.ofFn fun i => BitVec.ofNat 32 (reg (7 + i.val)), frm := frmOf (reg 0x10 % 4),
    lgmask := BitVec.ofNat 8 (reg 0x11), dkey := BitVec.ofNat 64 (reg 0x16), dstream := BitVec.ofNat 32 (reg 0x17),
    dctr := BitVec.ofNat 64 (reg 0x18), dtemp := BitVec.ofNat 32 (reg 0x19), llthr := BitVec.ofNat 32 (reg 0x1A),
    repcnt := BitVec.ofNat 6 (reg 0x1E), wtmo := BitVec.ofNat 64 (reg 0x1F), bdeadl := BitVec.ofNat 64 (reg 0x20),
    ftrapen := BitVec.ofNat 9 (reg 0x22) &&& 0x0FF#9, trapcause := BitVec.ofNat 8 (ur 0), trapasync := bitOf (ur 0) 8,
    trappc := BitVec.ofNat 64 (ur 1 / 4 * 4), trapval := BitVec.ofNat 64 (ur 2), trapval2 := BitVec.ofNat 64 (ur 3),
    handler := bitOf w 0, parent := if id = 0#3 then none else some (BitVec.ofNat 3 (bitsOf w 4 2)) }
  let held := old.flight.or old.stopped
  let f := if bitOf w 1 then s.loadFlight b held h else none
  let g := if bitOf w 1 then loadBarw b old.anyBarw h else none
  let inner := h.handler && old.flight.isNone
  let outer := h.handler && old.trapGen.isNone && old.barwGen.isNone
  { h with
    flight := if inner then none else f,
    stopped := if inner then f else if h.handler then old.stopped else none,
    trapGen := if outer then none else g,
    stoppedGen := if outer then g else if h.handler then old.stoppedGen else none }

/-! ### The scalar part -/

/-- The bits of MSHAPE that are not reserved (10_matrix R222). -/
def mshapeBits : Word := 0x01FFFFFFFFFFFFFF#64

/-- The harts of a task with the LIVE mask of the header. -/
def liveMask (l : List Hart) : Nat := (l.map fun h => 2 ^ h.id.toNat).sum

/-- The first word of a header (R357): VER 1, LOADED, PARTS and DISC. -/
def headOf (loaded : Bool) (parts : Nat) (disc : Bool) : List Byte :=
  bytesOf 8 (1 + bitNat loaded * 2 ^ 16 + parts * 2 ^ 17 + bitNat disc * 2 ^ 23)

/-- Rewrite the first word of a header: the parts `add` besides those it has, LOADED and DISC where they are given. -/
def putHead (r : Area) (add : Nat) (loaded disc : Option Bool) : Act Unit := do
  let w ← headWord r 0
  areaPut r r.base (headOf (loaded.getD (bitOf w 16)) (bitsOf w 22 17 ||| add) (disc.getD (bitOf w 23)))

/-- Start the header of an area for a task: of what stood there it keeps the parts of the task that are still out in this
area, with LOADED for its names and DISC for its scratch (R357). -/
def freshHead (t : Task) (r : Area) : Act Unit := do
  let w ← headWord r 0
  let here := fun (bit : Nat) => t.out.any fun p => p.1 = bit && p.2.1 = r.lvl && p.2.2.toNat = r.base
  let part := fun (bit : Nat) => if here (if bit = 2 then 1 else bit) then bitNat (bitOf w (17 + bit)) * 2 ^ bit else 0
  areaPut r r.base (headOf (here 1 && bitOf w 16) (((List.range 6).map part).sum) (here 4 && bitOf w 23))

/-- A save of the scalar part starts the header anew where it is another task's (R358: it writes the header). -/
def ownHead (t : Task) (r : Area) : Act Unit := do
  let w ← headWord r 0
  let id ← headWord r 8
  if bitsOf w 15 0 = 1 && id = t.taskid.toNat then pure () else freshHead t r

/-- Write the hart records and the header of task `uid` (R357, R358). -/
def saveScalar (uid : Nat) (r : Area) : Act Unit := do
  let s ← get
  match s.task? uid with
  | none => pure ()
  | some t => do
    ownHead t r
    putHead r 1 none none
    let regs ← onTask uid (fun s => .ok (([0x002, 0x014, 0x015, 0x01B, 0x01C, 0x021, 0x104, 0x105].flatMap fun n =>
      bytesOf 8 ((s.readReg n).getD 0)), s))
    areaPut r (r.base + 8) (bytesOf 8 t.taskid.toNat ++ bytesOf 8 t.asid.toNat ++ regs ++ bytesOf 8 (liveMask t.harts))
    areaPut r (r.base + 112) (bytesOf 8 (s.timeOf t.part) ++ List.replicate 136 0#8)
    t.harts.forM fun h => do
      let b ← onHart uid h.id (fun s => .ok (s.undoFold.hartRecord, s))
      areaPut r (r.base + 0x1000 + 2048 * h.id.toNat) b
      onHart uid h.id (modify fun s => { s with h := { s.h with late := 0#9 } })

/-- Whether a hart record holds the stopped instruction `f`. -/
def recordHolds (b : List Byte) (f : Flight) : Bool :=
  bitOf (field b 1360 8) 1 && decide (field b 1368 4 = f.word.toNat) && !f.op.folds

/-- The hart with the turn gives up what it has under way and its record `b` does not hold; beneath an instruction of a handler the
stopped one stays with the handler, as the record has no place for both (log 25). One without a record lives no more,
and what only it shows of the names is released. -/
def State.yieldTo (b : Option (List Byte)) (s : State) : State :=
  let lost := fun (f : Flight) => !(b.any fun b => recordHolds b f)
  let below := fun (f : Flight) => !(b.any fun b => bitOf (field b 1360 8) 0 && (s.h.flight.isSome || recordHolds b f))
  let s1 := if s.h.flight.any lost then s.squash else s
  let s2 := if s1.h.stopped.any below then
      let s2 := ({ s1 with h := { s1.h with flight := s1.h.stopped, stopped := none } } : State).squash
      { s2 with h := { s2.h with flight := s1.h.flight } }
    else s1
  if b.isSome then s2
  else
    let old := s2.view
    let s3 : State := { s2 with h := { s2.h with names := [] }, t := { s2.t with savedViews := s2.t.savedViews.filter fun v => v.1 != s2.h.id } }
    (old.foldl (fun s p => if s.named p.2.id then s else s.dropVersion p.1 p.2) s3).settleAll old

/-- The harts of a task give up what the records do not hold. -/
def yieldHarts (uid : Nat) (recs : List (BitVec 3 × List Byte)) : Act Unit := do
  let s ← get
  match s.task? uid with
  | some t => t.harts.forM fun h => onHart uid h.id (modify (State.yieldTo ((recs.find? fun x => x.1 = h.id).map (·.2))))
  | none => pure ()

/-- Load the hart records and the per-task registers into task `uid`, which lives with the harts of LIVE (R357, R358). DESIGN
CHOICE: a header with LIVE 0 leaves the harts as they are (log 113). -/
def loadScalar (uid : Nat) (r : Area) : Act Unit := do
  let hd ← areaGet r r.base 256
  let live := field hd 88 1
  let recs ← ((List.range 8).filter fun i => bitOf live i).mapM fun i => (do
    let b ← areaGet r (r.base + 0x1000 + 2048 * i) 2048
    pure (BitVec.ofNat 3 i, b) : Act (BitVec 3 × List Byte))
  if !recs.isEmpty then yieldHarts uid recs
  modify fun s =>
    let s1 := s.withCluster (((s.task? uid).map (·.home)).getD s.cl.num)
    let s2 := s1.mapWholeTask uid fun t =>
      let harts := recs.map fun (id, b) =>
        let old := (t.harts.find? fun h => h.id = id).getD
          { names := ((t.harts.head?).map (·.names)).getD [], lastOp := Vector.ofFn fun c => t.ctxIssued c.val }
        s1.loadHart id old b
      { t with harts := if harts.isEmpty then t.harts else harts, gvl := BitVec.ofNat 15 (field hd 24 8),
               mshape := BitVec.ofNat 64 (field hd 40 8) &&& mshapeBits, poolq := BitVec.ofNat 16 (field hd 48 8), pm := bitOf (field hd 64 8) 0,
               mm := bitOf (field hd 64 8) 1, uhandler := BitVec.ofNat 62 (field hd 72 8 / 4),
               utrapmask := BitVec.ofNat 64 (field hd 80 8) &&& trapMaskBits }
    s2.withCluster s.cl.num

/-! ### Names -/

/-- A part of the task with the turn now stands in an area. -/
def State.partOut (s : State) (bit : Nat) (r : Area) : State :=
  { s with t := { s.t with out := s.t.out.filter (fun p => p.1 != bit) ++ [(bit, r.lvl, BitVec.ofNat 64 r.base)] } }

/-- A part of the task with the turn is back. -/
def State.partBack (s : State) (bit : Nat) : State := { s with t := { s.t with out := s.t.out.filter fun p => p.1 != bit } }

/-- The table of the task with the turn when its names go away: of every name the version retired last; no hart shows a
version any more. -/
def gatherNames : Act (List (Nat × Entry)) := fun s =>
  let merged := s.t.harts.foldl (fun s h => mergeView h.names s) s
  let table := merged.h.names
  let lost := s.t.harts.foldl (fun s h => s.dropView h.names) merged
  .ok (table, ((lost.mapHarts fun h => { h with names := [] }).dropPubs).settleAll (s.t.harts.flatMap (·.names)))

/-- Every hart of the task with the turn shows `table`. -/
def State.showNames (s : State) (table : List (Nat × Entry)) : State := s.mapHarts fun h => { h with names := table }

/-- The versions that stopped instructions build: they stay pending (log 30). -/
def State.building (s : State) : List Nat :=
  s.taskHarts.flatMap fun h => ((h.flight.toList ++ h.stopped.toList).flatMap fun f => f.dests.map fun d => d.2.1.id)

/-- Write a poison mark for the lines of memory that receive the bytes of poisoned swatches (log 30). -/
def markPoison (r : Area) (a n : Nat) : Act Unit := do
  let xs ← (List.range ((a % 256 + n + 255) / 256)).mapM fun i => areaAt r (a / 256 * 256 + 256 * i) .store
  modify fun s => { s with poison := xs.foldl (fun p x =>
    if p.any fun m => m.idx = x.pa / 256 then p else p ++ [{ idx := x.pa / 256, written := [] }]) s.poison }

/-- Spill one entry of the table: the data of a dirty name go to its slot, and its references are released (R148, R358).
DESIGN CHOICE: a spilled name holds no segment and no map, and cinfo gives it so (06_chains R143, log 109). -/
def spillName (r : Area) (base : Nat) (k : Nat) (e : Entry) : Act Entry := do
  let s ← get
  match e.state with
  | .live => do
    if e.dirty then
      let n := bytesFor e.tag e.len
      areaPut r (base + 16384 * k) (s.cl.rawBytes e.segs 0 n)
      if e.segs.any fun g => (s.cl.swatch? g.swatch).any (·.poison) then markPoison r (base + 16384 * k) n
    if !(e.id ∈ s.t.gone) then modify fun s => s.releaseAll e.swatches
    pure { e with state := .spilled, dirty := false, segs := [], map := none }
  | _ => pure e

/-- The versions that Flume commands fill which are saved as stopped or queued (11_flume R258). -/
def State.filling (s : State) : List Nat := s.t.flume.toList.flatMap fun x => x.cmds.filterMap fun m => m.dest.map (·.id)

/-- The images of a table. -/
def tableImage (table : List (Nat × Entry)) : List Byte := (List.range 512).flatMap fun k => (entryIn table k).image

/-- The image table of the task with the turn (R357): of every name the version retired last, among those that its harts
have not published too (log 74). -/
def State.imageNames (s : State) : List (Nat × Entry) :=
  match s.taskHarts with
  | [] => []
  | h :: r => r.foldl (fun l h => mergeTables l h.names) h.names

/-- A version whose data have left the bolt. -/
def Entry.spilt (e : Entry) : Entry := { e with state := .spilled, dirty := false, segs := [], map := none }

/-- The live versions under names that the image table does not hold there: those that harts have not published, and those
that barriers will show. They have no slot in the spill region (log 74). -/
def State.unsaved (s : State) (table : List (Nat × Entry)) : List (Nat × Entry) :=
  ((s.t.savedViews.flatMap (·.2)) ++ s.t.pubs.flatMap (·.2.2)).foldl (fun l p =>
    if p.2.state = .live && (entryIn table p.1).id != p.2.id && !(l.any fun q => q.1 = p.1 && q.2.id = p.2.id) then l ++ [p] else l) []

/-- Keep the data of a version that has no slot, and release its references (log 74). -/
def State.keepName (s : State) (p : Nat × Entry) : State :=
  let e := p.2
  let bytes := s.cl.rawBytes e.segs 0 (bytesFor e.tag e.len)
  let bad := e.segs.any fun g => (s.cl.swatch? g.swatch).any (·.poison)
  { s with t := { s.t with kept := s.t.kept ++ [(p.1, e.id, bytes, bad)] } }

/-- The versions listed are spilled in every table of the task. -/
def State.spillIn (s : State) (l : List (Nat × Entry)) : State :=
  s.mapShows fun _ e => if e.state = .live && l.any fun q => q.2.id = e.id then e.spilt else e

/-- The names of the task with the turn that stand in its saved tables are spilled: those of the images into the slots
of the area, and the others are kept; the images are written (R148, R358, R360). -/
def spillTables (r : Area) (base : Nat) : Act Unit := do
  let s ← get
  let table := s.t.savedNames
  let rest := s.unsaved table
  modify fun s => rest.foldl State.keepName s
  let _ ← table.mapM fun p => spillName r base p.1 p.2
  modify fun s =>
    let ids := (rest.map fun p => (p.2.id, p.2)).foldl (fun l x => if l.any (fun y => y.1 = x.1) || table.any (fun p => p.2.id = x.1) then l else l ++ [x]) []
    ids.foldl (fun s x => if x.1 ∈ s.t.gone then s else s.releaseAll x.2.swatches) s
  modify fun s => s.spillIn (table ++ rest)
  let s ← get
  areaPut r (r.base + 0x5000) (tableImage s.t.savedNames)
  modify fun s => s.settleAll (table ++ rest)

/-- Save the names of the task with the turn (R358), with SPILL where `base` is given; its table is gone from the core, and
what each hart saw of it is kept until it is loaded (log 74). Pending names are waited for before a spill, but for those of
stopped instructions and those listed. -/
def saveNames (r : Area) (base : Option Nat) (listed : List Nat) : Act Unit := do
  let s ← get
  let open_ := s.building ++ listed
  if base.isSome && s.taskHarts.any fun h => h.names.any fun p => p.2.state = .pending && !(p.2.id ∈ open_) then waitAct .other
  else do
    let table := s.imageNames
    modify fun s =>
      let views := s.taskHarts.map fun h => (h.id, h.names)
      ({ s with t := { s.t with savedNames := table, savedViews := views } } : State).mapHarts fun h => { h with names := [] }
    match base with
    | some b => spillTables r b
    | none => areaPut r (r.base + 0x5000) (tableImage table)
    putHead r (if base.isSome then 6 else 2) (some false) none
    modify fun s => ({ s with cl := s.cl.disown s.t.uid } : State).partOut 1 r

/-- The 512 images of a vector context that is empty (R358). -/
def saveNoNames (r : Area) (spill : Bool) : Act Unit := do
  areaPut r (r.base + 0x5000) (tableImage [])
  putHead r (if spill then 6 else 2) (some false) none

/-- Spill the names of the task with the turn that stand in its save area (R360): `spare` is the spill region of its
context slot, for an area whose header names none (log 33). -/
def spillSaved (spare : Nat) : Act Unit := do
  let s ← get
  match s.t.out.find? fun p => p.1 = 1 with
  | none => pure ()
  | some (_, lvl, a) => do
    let r : Area := { lvl := lvl, part := s.t.part, sub := s.t.sub, base := a.toNat }
    let base ← headWord r 96
    if base = 0 then areaPut r (r.base + 96) (bytesOf 8 spare)
    spillTables r (if base = 0 then spare else base)
    putHead r 6 none none

/-- Whether names of a task that stand in a save area hold swatches. -/
def Task.unspilled (t : Task) : Bool :=
  (t.out.any fun p => p.1 = 1) &&
    (t.savedNames.any (fun p => !p.2.swatches.isEmpty) || t.savedViews.any fun v => v.2.any fun p => !p.2.swatches.isEmpty)

/-- A name as its image gives it: the version the machine saved, where the image is its own. -/
def State.loadName (s : State) (saved : List (Nat × Entry)) (k : Nat) (b : List Byte) : Act Entry := do
  let i := s.ofImage b
  let e := entryIn saved k
  if i.state = .empty then pure i
  else if e.sameAs i && e.state != .empty then pure e
  else fun s => let (e, s1) := s.withId i; .ok (e, s1)

/-- What a hart sees of a table that is loaded: under each name whose image is as it was saved its own version of then,
else the table's (log 74). -/
def viewOf (table saved : List (Nat × Entry)) (view : Option (List (Nat × Entry))) : List (Nat × Entry) :=
  match view with
  | none => table
  | some v =>
    let same := fun (k : Nat) => decide ((entryIn table k).id = (entryIn saved k).id)
    v.foldl (fun l p => if same p.1 then setEntry l p.1 p.2 else l)
      (table.filter fun p => !(same p.1) || v.any fun q => q.1 = p.1)

/-- Load the names of an area into the task with the turn (R358, R359); `src` is the task whose names the area holds. -/
def loadNames (r : Area) (src : Option Task) : Act Unit := do
  let saved := (src.map (·.savedNames)).getD []
  let views := (src.map (·.savedViews)).getD []
  let b ← areaGet r (r.base + 0x5000) 16384
  let s ← get
  let es ← (List.range 512).mapM fun k => (do let e ← s.loadName saved k ((b.drop (32 * k)).take 32); pure (k, e) : Act (Nat × Entry))
  let table := es.filter fun p => p.2.state != .empty || p.2.version != 0#16
  putHead r 0 (some true) none
  modify fun s =>
    let s0 := s.mapHarts fun h => { h with names := viewOf table saved ((views.find? fun v => v.1 = h.id).map (·.2)) }
    let s1 := { s0 with t := { s0.t with kept := (src.map Task.kept).getD [], savedNames := [], savedViews := [] } }
    let fix := fun (f : Flight) => { f with dests := f.dests.map fun d =>
      if (entryIn table d.1).state = .pending && (entryIn table d.1).id != d.2.1.id then (d.1, entryIn table d.1, d.2.2) else d }
    s1.mapHarts fun h => { h with flight := h.flight.map fix, stopped := h.stopped.map fix }

/-- The vector context of a core becomes empty and has no owner (R358, xa = 0): what its owner's names hold is
released (log 31). -/
def dropContext (core : Nat) : Act Unit := do
  let s ← get
  match (s.cl.cores.toList.getD core {}).owner with
  | none => pure ()
  | some uid => do
    if (s.task? uid).isSome then
      onTask uid (do
        let table ← gatherNames
        modify fun s =>
          let s1 := table.foldl (fun s p => s.dropVersion p.1 p.2) s
          s1.settleAll table)
    modify fun s => { s with cl := s.cl.disown uid }

/-- Take swatches for `n` chain bytes, charged to the task with the turn beyond its quota (R358, ONE). -/
def freshSegs (bs : List Byte) : Nat → Act (List Seg)
  | 0 => pure []
  | f + 1 =>
    if bs.isEmpty then pure []
    else do
      let s ← get
      let piece := bs.take 256
      match s.alloc s.t.uid s.t.sub none (piece ++ List.replicate (256 - piece.length) 0#8) with
      | .error _ => waitAct .other
      | .ok (i, s1) => do
        set s1
        let r ← freshSegs (bs.drop 256) f
        pure ({ swatch := i, first := 0, count := piece.length } :: r)

/-- The spilled versions that harts of the task with the turn see under name `k`, each once. -/
def State.spilledAs (s : State) (k : Nat) : List Entry :=
  s.taskHarts.foldl (fun l h =>
    let e := entryIn h.names k
    if e.state = .spilled && !(l.any fun x => x.id = e.id) then l ++ [e] else l) []

/-- Restore a spilled version of name `k` of the task with the turn: from its slot, or from what was kept of a version that
has none (R358, ONE; log 74). -/
def restoreVersion (r : Area) (base k : Nat) (old : Entry) : Act Unit := do
  let s ← get
  let own := (s.t.kept.find? fun x => x.1 = k && x.2.1 = old.id).map (·.2.2)
  let bs ← (match own with
    | some x => pure x.1
    | none => areaGet r (base + 16384 * k) (bytesFor old.tag old.len) : Act (List Byte))
  let segs ← freshSegs bs 65
  let m ← (if 4 < segs.length then (do
      let s ← get
      match s.alloc s.t.uid s.t.sub none (mapBytes segs) with
      | .error _ => waitAct .other
      | .ok (i, s1) => do set s1; pure (some i)) else pure none : Act (Option Nat))
  modify fun s =>
    let (e, s1) := s.withId { old with state := .live, dirty := false, segs := segs, map := m, prog := old.len }
    let s2 := s1.mapShows fun j v => if j = k && v.id = old.id then { e with stamp := v.stamp, counts := v.counts, behind := v.behind } else v
    let s3 := { s2 with t := { s2.t with kept := s2.t.kept.filter fun x => !(x.1 = k && x.2.1 = old.id) } }
    if own.any (·.2) then
      { s3 with cl := e.held.foldl (fun (c : Cluster) i => c.mapSwatch i fun w => { w with poison := true }) s3.cl }
    else s3

/-- Restore the spilled versions of name `k` of the task with the turn (R358, ONE). -/
def restoreOne (r : Area) (base k : Nat) : Act Unit := do
  let s ← get
  (s.spilledAs k).forM (restoreVersion r base k)

/-! ### Tiles, scratch, engines -/

/-- Save MSHAPE, MEGRANT, the score program and the tiles; the bands are free (R357, R358). -/
def saveTiles (r : Area) : Act Unit := do
  let s ← get
  if !s.t.matrix.queue.isEmpty then waitAct .other
  else do
    let prog := s.t.matrix.prog ++ List.replicate (80 - s.t.matrix.prog.length) 0#8
    areaPut r (r.base + 0xD000) (bytesOf 8 s.t.mshape.toNat ++ bytesOf 8 s.t.matrix.bands ++ prog)
    let h := 64 * s.t.matrix.bands
    (List.range 4).forM fun t => (List.range h).forM fun row =>
      areaPut r (r.base + 0x10000 + t * h * 1024 + row * 1024)
        ((List.range 256).flatMap fun col => bytesOf 4 (cellOf s.t.matrix.cells t row col))
    putHead r 8 none none
    modify fun s => ({ s with t := { s.t with matrix := { s.t.matrix with reserved := 0, bands := 0, cells := [], prog := [] } } }).partOut 3 r

/-- Reserve the bands and load the tiles (R241, R358); with too few bands free, where a preload holds none (16_launch R343),
the load waits. -/
def loadTiles (r : Area) : Act Unit := do
  let s ← get
  let want := pkBands s.t.packet
  if freeBands (s.holdersOf s.t.home) + s.t.matrix.reserved < want then waitAct .other
  else do
    let hd ← areaGet r (r.base + 0xD000) 96
    let bands := Nat.min (field hd 8 8) 8
    let h := 64 * bands
    let cells ← (List.range 4).mapM fun t => (List.range h).mapM fun row => (do
      let bs ← areaGet r (r.base + 0x10000 + t * h * 1024 + row * 1024) 1024
      pure ((List.range 256).filterMap fun col =>
        let v := field bs (4 * col) 4
        if v = 0 then none else some (t, 256 * row + col, BitVec.ofNat 32 v)) : Act (List (Nat × Nat × BitVec 32)))
    modify fun s => ({ s with t := { s.t with mshape := BitVec.ofNat 64 (field hd 0 8) &&& mshapeBits, matrix := { s.t.matrix with
      reserved := want, bands := bands, cells := cells.flatten.flatten, prog := hd.drop 16 } } }).partBack 3

/-- Write back the dirty lines of every window and drop the lines; the bindings stay (R360). -/
def State.emptyWindows (s : State) : State :=
  let s1 := s.flushAll
  { s1 with t := { s1.t with windows := s1.t.windows.map fun w => { w with lines := [] } } }

/-- Save the scratch but for [DFIRST, DEND); it is free then (R357, R358). -/
def saveScratch (r : Area) (base : Nat) : Act Unit := do
  modify State.emptyWindows
  let s ← get
  let lo := pkDfirst s.t.packet
  let hi := pkDend s.t.packet
  (List.range (s.t.scrb / 256)).forM fun i => do
    if !(decide (lo ≤ 256 * i) && decide (256 * i < hi)) then
      areaPut r (base + 256 * i) (cellsGet s.t.scratch (256 * i) 256)
      if s.t.scrPoison.any fun m => decide (m.idx = i) then markPoison r (base + 256 * i) 256
  putHead r 16 none (some (decide (lo < hi)))
  modify fun s => ({ s with t := { s.t with scratch := [], scrPoison := [], scrb := 0 } }).partOut 4 r

/-- Reserve the scratch and load it; [DFIRST, DEND) reads zero. -/
def loadScratch (r : Area) (base : Nat) : Act Unit := do
  let s ← get
  let want := pkScrb s.t.packet
  if freeScratch (s.holdersOf s.t.home) + s.t.scrb < want then waitAct .other
  else do
    let lo := pkDfirst s.t.packet
    let hi := pkDend s.t.packet
    let lines ← (List.range (want / 256)).mapM fun i =>
      (if decide (lo ≤ 256 * i) && decide (256 * i < hi) then pure (List.replicate 256 0#8) else areaGet r (base + 256 * i) 256 : Act (List Byte))
    modify fun s => ({ s with t := { s.t with scratch := cellsSet [] 0 lines.flatten, scrPoison := [], scrb := want } }).partBack 4

/-- The bytes of a channel's levels and its armed notify (R357): seven levels of 16 bytes as `fsetl` takes them. -/
def Channel.image (x : Channel) : List Byte :=
  bytesOf 8 x.size.toNat ++ bytesOf 8 x.tagb.toNat ++
    (x.levels.flatMap fun l => bytesOf 8 l.count.toNat ++ bytesOf 4 l.sstr.toNat ++ bytesOf 4 l.dstr.toNat) ++
    (match x.armed with | some (a, v) => bytesOf 8 a.toNat ++ bytesOf 8 v.toNat | none => List.replicate 16 0#8)

/-- The free bytes of an ENGINES part that was saved at TIME `time`. -/
def engineBytes (time off n : Nat) : List Byte := (List.range n).map fun i => Config.engineByte time (off + i)

/-- The ENGINES part: what R357 lays out, and free bytes where it gives no layout (log 25). -/
def State.enginesImage (s : State) : List Byte :=
  let free := engineBytes s.time
  ((List.range 4).flatMap fun c => (s.channel c).image ++ free (2048 * c + 128) 1920) ++
    ((List.range 5).flatMap fun i => bytesOf 8 (s.t.ctxIssued (4 + i)) ++ bytesOf 8 (s.t.ctxReached (4 + i))) ++
    free (0x2000 + 80) (16384 - 0x2000 - 80)

/-- Save the engines' part: a running fgov completes first, the windows are written back, and the channels are free
(11_flume R258). -/
def saveEngines (r : Area) : Act Unit := do
  let s ← get
  if s.t.flume.toList.any fun x => x.cmds.any fun m => m.dest.isSome && m.state = .running then waitAct .other
  else do
    modify State.emptyWindows
    let s ← get
    areaPut r (r.base + 0x9000) s.enginesImage
    putHead r 32 none none
    modify fun s => ({ s with t := { s.t with enginesTime := s.time } } : State).partOut 5 r

/-- A channel with the settings of its image in a save area (R357); commands stay as the machine knows them (log 25). -/
def Channel.ofImage (x : Channel) (b : List Byte) : Channel :=
  if x.image = b then x
  else
    { x with
      size := BitVec.ofNat 15 (field b 0 8), tagb := BitVec.ofNat 64 (field b 8 8),
      levels := (List.range 6).map fun i =>
        { count := BitVec.ofNat 32 (field b (16 + 16 * i) 8), sstr := BitVec.ofNat 32 (field b (24 + 16 * i) 4),
          dstr := BitVec.ofNat 32 (field b (28 + 16 * i) 4) },
      armed := if field b 112 16 = 0 then none else some (BitVec.ofNat 64 (field b 112 8), BitVec.ofNat 64 (field b 120 8)) }

/-- Whether the `n` bytes at `off` of an ENGINES part are those that the save of TIME `time` wrote. -/
def engineSame (r : Area) (time off n : Nat) : Act Bool := do
  let b ← areaGet r (r.base + 0x9000 + off) n
  pure (b == engineBytes time off n)

/-- A task whose engines' part has been loaded into another. -/
def Task.noEngines (t : Task) : Task :=
  { t with flume := t.flume.map fun x => { x with cmds := [], armed := none }, barriers := [], windows := [], out := t.out.filter fun p => p.1 != 5 }

/-- Load the engines' part: the channels take the settings of the area and the matrix timeline its numbers. Weir and
collective commands have run on, and their counters stand as reached (R360). Commands, barriers and bindings, whose bytes
R357 does not lay out, are those of the task whose area it is, where the area holds the bytes that were saved, and none
where it does not (log 25). -/
def loadEngines (r : Area) (src : Task) : Act Unit := do
  let imgs ← (List.range 4).mapM fun c => areaGet r (r.base + 0x9000 + 2048 * c) 128
  let counts ← areaGet r (r.base + 0xB000) 16
  let cmds ← (List.range 4).mapM fun c => engineSame r src.enginesTime (2048 * c + 128) 1920
  let bars ← engineSame r src.enginesTime 0x2050 2048
  let wins ← engineSame r src.enginesTime 0x2850 256
  modify fun s =>
    let lost := (List.range 4).flatMap fun c => if cmds.getD c false then [] else (src.flume.toList.getD c {}).cmds
    let s := lost.foldl State.endEarly s
    ({ s with t := { s.t with
      flume := src.flume.mapFinIdx fun i x _ => if cmds.getD i false then x.ofImage (imgs.getD i []) else { x.ofImage (imgs.getD i []) with cmds := [] },
      barriers := if bars then src.barriers else [],
      windows := if wins then src.windows else [],
      matrix := { s.t.matrix with issued := field counts 0 8, reached := field counts 8 8 } } } : State).partBack 5

/-! ### ctxsave and ctxload (R358) -/

/-- The task that the header of an area names (R357). -/
def areaTask (r : Area) : Act (Option Task) := do
  let w ← headWord r 8
  let s ← get
  pure (s.allTasks.find? fun t => t.used && t.run != .ended && t.taskid.toNat = w % 2 ^ 44)

/-- The task whose part `bit` stands in an area, where its header names it. -/
def areaOwner (r : Area) (bit : Nat) : Act (Option Task) := do
  return (← areaTask r).filter fun t => t.out.any fun p => p.1 = bit && p.2.1 = r.lvl && p.2.2.toNat = r.base

/-- The record that the level of the agent with the turn answers. -/
def State.curRec (s : State) : Option TrapRec :=
  match s.level with
  | .s => s.cl.svc.srec
  | .p => s.cl.svc.prec
  | .o => s.orec
  | .u => none

/-- The area at `xa`, as the level of the agent with the turn addresses it. -/
def State.areaOf (s : State) (xa : Word) : Area := { lvl := s.level, part := s.ownPart, sub := s.ownSub, base := xa.toNat }

/-- The trap of R358. -/
def ctxTrap (xa : Word) (reason : Nat) : Trap := { cause := .access, val := xa, val2 := BitVec.ofNat 64 reason }

/-- For a management command the cluster of the record is the one that the parts refer to (R377). -/
def atRecord (a : Act Unit) : Act Unit := fun s =>
  match s.who, s.orec with
  | .lydar, some r =>
    match a (s.withCluster r.cluster.toNat) with
    | .ok (_, p) => .ok ((), p.withCluster s.cl.num)
    | .error e => .error e
  | _, _ => a s

/-- The word of an instruction of major 0x6C. -/
def sysWord (d a b : Reg) (fn : BitVec 4) : Word := wordOf (some (fmtA 0x6C#7 d a b fn))

/-- The owner of the vector context of the record's core. -/
def State.recOwner (s : State) : Option Nat :=
  (s.curRec.bind fun r => (s.cl.cores.toList.getD r.core.toNat {}).owner).filter fun u => (s.task? u).isSome

/-- The task of the current record. -/
def State.recTask (s : State) : Option Nat := (s.curRec.bind (·.task)).filter fun u => (s.task? u).isSome

/-- Run a computation on a task, where there is one. -/
def onSome (u : Option Nat) (a : Act Unit) : Act Unit :=
  match u with
  | some uid => onTask uid a
  | none => pure ()

/-- ctxsave (R358). -/
def execCtxsave (a b : Reg) (s : State) : Out :=
  finish (atRecord (do
    requireLevel .s (sysWord 0#7 a b 4#4)
    let s ← get
    let xa := s.rx a
    let v := (s.rx b).toNat
    let p := fun (i : Nat) => bitOf v i
    requireAct (aligned xa 4096) { cause := .misaligned, val := xa }
    requireAct (decide (v < 2 ^ 16) && !p 6 && (!p 2 || p 1)) (ctxTrap xa 1)
    let r := s.areaOf xa
    let task := s.recTask
    let owner := s.recOwner
    let spill ← (if p 2 then headWord r 96 else pure 0 : Act Nat)
    let scr ← (if p 4 then headWord r 104 else pure 0 : Act Nat)
    requireAct (!(p 2 && decide (spill = 0)) && !(p 4 && decide (scr = 0))) (ctxTrap xa 3)
    if p 0 then onSome task (fun s => saveScalar s.t.uid r s)
    if p 1 then
      match owner with
      | some uid => onTask uid (saveNames r (if p 2 then some spill else none) [])
      | none => saveNoNames r (p 2)
    if p 3 then onSome task (saveTiles r)
    if p 4 then onSome task (saveScratch r scr)
    if p 5 then onSome task (saveEngines r)
    modify fun s => s.advance)) s

/-- ctxload of NAMES into the task of the record, which then owns the context of the record's core, with its save area where it
is parked (R358, R359). -/
def ctxloadNames (xa : Word) (r : Area) (task : Option Nat) (core : Nat) : Act Unit := do
  if xa = 0#64 then dropContext core
  else do
    let w ← headWord r 0
    requireAct (!bitOf w 16) (ctxTrap xa 2)
    let t ← areaOwner r 1
    let s ← get
    requireAct (!(t.any fun t => t.home != s.cl.num && t.unspilled)) (ctxTrap xa 5)
    match task with
    | none => pure ()
    | some uid => do
      dropContext core
      onTask uid (loadNames r t)
      modify fun s => { s with cl := s.cl.mapCore core fun c =>
        { c with owner := some uid, ownerSave := (((s.task? uid).bind (·.save)).map (·.2)).getD 0#64 } }
      match t with
      | some t => modify fun s => s.mapTask t.uid fun t => { t with savedNames := [], savedViews := [], out := t.out.filter fun p => p.1 != 1 }
      | none => pure ()

/-- ctxload (R358). -/
def execCtxload (a b : Reg) (s : State) : Out :=
  finish (atRecord (do
    requireLevel .s (sysWord 0#7 a b 5#4)
    let s ← get
    let xa := s.rx a
    let v := (s.rx b).toNat
    let p := fun (i : Nat) => bitOf v i
    requireAct (aligned xa 4096) { cause := .misaligned, val := xa }
    let owner := s.recOwner
    requireAct (decide (v < 2 ^ 16) && !p 2 && (!p 6 || owner.isSome || p 1)) (ctxTrap xa 1)
    let r := s.areaOf xa
    let task := s.recTask
    let core := (s.curRec.map fun r => r.core.toNat).getD 0
    if p 0 then
      match task with
      | some uid => loadScalar uid r
      | none => pure ()
    if p 1 then ctxloadNames xa r task core
    if p 3 then onSome task (loadTiles r)
    if p 4 then do
      let scr ← headWord r 104
      requireAct (decide (scr ≠ 0)) (ctxTrap xa 3)
      onSome task (loadScratch r scr)
    if p 5 then do
      let t ← areaOwner r 5
      onSome task (fun s => loadEngines r (t.getD s.t) s)
      match t, task with
      | some t, some uid => if t.uid = uid then pure () else modify fun s => s.mapWholeTask t.uid Task.noEngines
      | _, _ => pure ()
    if p 6 then do
      let s ← get
      let k := bitsOf v 15 7
      let base ← headWord r 96
      onSome s.recOwner (do
        let s ← get
        requireAct (!(s.spilledAs k).isEmpty) (ctxTrap xa 4)
        restoreOne r base k)
    modify fun s => s.advance)) s

end Sys2Proof.Machine
end

