-- ==== Sys2Proof/Machine/Traps.lean ====
section
/-! DEFINITION. Traps and their answers (17_traps R350 to R363): `trap`, `tret`, `tdecl`, `sret`, the service cores and
Lydar, asynchronous traps, the end of a time slice, budgets, the comparison of protected mode, and `tlbinv`
(18_partitions R375). -/

namespace Sys2Proof.Machine

/-! ### trap, tret, tdecl (R353) -/

/-- trap (R353). -/
def execTrap (code : BitVec 7) (s : State) : Out :=
  .next (takeTrap { cause := .trapInstr, val := code.setWidth 64 } false s)

/-- tret (R353): outside handler mode it traps 0x19 (R69). -/
def execTret (s : State) : Out :=
  if s.h.handler then .next { s with h := s.h.trapReturn s.time }
  else .next (takeTrap { cause := .privilege, val := sysWord 0#7 0#7 0#7 1#4 } false s)

/-- The record of the trap that the user handler declines (R353). -/
def State.declined (s : State) : TrapRec :=
  { (s.trapRecord { cause := .illegal, val := s.h.trapval, val2 := s.h.trapval2 } s.h.trapasync) with
    cause := s.h.trapcause, pc := s.h.trappc, nested := false, decl := true }

/-- The hart outside handler mode at the instruction that its recorded trap stopped. -/
def Hart.leaveHandler (h : Hart) (run : HartRun) : Hart :=
  { h with handler := false, pc := h.trappc, flight := h.stopped, stopped := none, run := run, wait := none, rep := none,
           trapGen := h.stoppedGen, stoppedGen := none }

/-- tdecl (R353): the recorded trap escalates to S. -/
def execTdecl (s : State) : Out :=
  if s.h.handler then
    let r := s.declined
    .next (match s.enqueue .s r with
      | some s1 => { s1 with h := s1.h.leaveHandler .trapped }
      | none => { s with h := { (s.h.leaveHandler (.blocked .s)) with trapRec := some r } })
  else .next (takeTrap { cause := .privilege, val := sysWord 0#7 0#7 0#7 2#4 } false s)

/-! ### The queues of a service core and of Lydar (R354, 18_partitions R376 to R378) -/

/-- A hart of the cluster whose trap waits for room in a queue of its service core. -/
def State.blockedHart (s : State) (lvl : Level) : Option (Nat × Hart) :=
  s.tasks.findSome? fun t =>
    if t.home = s.cl.num then (t.harts.find? fun h => h.run = .blocked lvl).map fun h => (t.uid, h) else none

/-- What waits for room in a queue of the service core of `cl` enters it, where there is room: the service core itself,
then events, then the first hart (R354). -/
def State.letQueue (s : State) (lvl : Level) : State :=
  let v := s.cl.svc
  let put := fun (s : State) (v : Service) => { s with cl := { s.cl with svc := v } }
  match (if lvl = .p then v.hart.trapRec else none), (if lvl = .p then v.pheld else v.sheld) with
  | some r, _ => ((put s { v with hart := { v.hart with trapRec := none } }).enqueue lvl r).getD s
  | none, r :: rest => ((put s (if lvl = .p then { v with pheld := rest } else { v with sheld := rest })).enqueue lvl r).getD s
  | none, [] =>
    match s.blockedHart lvl with
    | none => s
    | some (uid, h) =>
      match h.trapRec.bind fun r => s.enqueue lvl r with
      | none => s
      | some s1 =>
        { s1 with tasks := s1.tasks.map fun (u : Task) =>
            if u.uid = uid then
              { u with harts := u.harts.map fun g => if g.id = h.id then { g with run := .trapped, trapRec := none } else g }
            else u }

/-- The service core with a P entry taken (R354, R376): it breaks off the S code that runs. -/
def Service.takeP (v : Service) (r : TrapRec) (rest : List TrapRec) : Service :=
  { v with
    pqueue := rest, prec := some r, running := some .p,
    broken := if v.running = some .s then some v.hart.pc else v.broken,
    hart := { v.hart with pc := v.phandler ++ 0#2, wait := none, rep := none },
    ptrapcause := r.cause, ptrappc := r.pc, ptrapval := r.val, ptrapval2 := r.val2, ptraptask := r.taskid,
    ptrapx := BitVec.ofBool r.async ++ BitVec.ofBool r.fromS ++ r.cluster ++ r.hartid ++ r.core, ptrapaddr := r.addr }

/-- The service core with an S entry taken (R354). -/
def Service.takeS (v : Service) (r : TrapRec) (rest : List TrapRec) : Service :=
  { v with
    squeue := rest, srec := some r, running := some .s,
    hart := { v.hart with pc := v.shandler ++ 0#2, wait := none, rep := none },
    strapcause := r.cause, strappc := r.pc, strapval := r.val, strapval2 := r.val2, straptask := r.taskid,
    strapx := BitVec.ofBool r.async ++ BitVec.ofBool r.decl ++ BitVec.ofBool r.nested ++ r.hartid ++ r.core }

/-- The service core of a cluster takes the oldest P entry at its next instruction boundary (R354). -/
def execServiceCoreTakeP (cluster : Nat) (s : State) : Out :=
  .next (
    let p := s.packed.withCluster cluster
    match p.cl.svc.pqueue with
    | [] => s
    | r :: rest =>
      if p.cl.num != cluster || !p.cl.service || p.cl.svc.running = some .p || p.cl.svc.hart.run != .ready then s
      else s.refocus (({ p with cl := { p.cl with svc := p.cl.svc.takeP r rest } } : State).letQueue .p))

/-- It takes the oldest S entry when the P queue is empty and no handler runs (R354). -/
def execServiceCoreTakeS (cluster : Nat) (s : State) : Out :=
  .next (
    let p := s.packed.withCluster cluster
    match p.cl.svc.squeue with
    | [] => s
    | r :: rest =>
      if p.cl.num != cluster || !p.cl.service || !p.cl.svc.pqueue.isEmpty || p.cl.svc.running.isSome ||
          p.cl.svc.broken.isSome || p.cl.svc.hart.run != .ready then s
      else s.refocus (({ p with cl := { p.cl with svc := p.cl.svc.takeS r rest } } : State).letQueue .s))

/-- Lydar takes the oldest O entry once the last is answered (R377, R378). -/
def execLydarTakeO (s : State) : Out :=
  .next (match s.orec, s.oqueue with
    | none, r :: rest =>
      { s with oqueue := rest, orec := some r, o := { s.o with
          otrapcause := r.cause, otrappc := r.pc, otrapval := r.val, otrapval2 := r.val2, otraptask := r.taskid,
          otrapx := BitVec.ofBool r.async ++ BitVec.ofBool r.fromS ++ r.cluster ++ r.hartid ++ r.core, otrapaddr := r.addr } }
    | _, _ => s)

/-! ### Stopping a task (R355, R360, R403) -/

/-- The hart with the turn stops at its boundary: its stores are committed, a wait is broken off, and an issued fold that
waits for its sources is undone (R351, R403). -/
def State.stopHart (s : State) : State :=
  let s1 := s.drain
  let s2 := s1.undoFold
  let h := s2.h.halt
  { s2 with h := { h with
    trapGen := h.trapGen.or h.barwGen, wait := none, rep := none, flight := h.flight.map fun f => { f with boltSince := none } } }

/-- Run a change with each hart of a task at the turn. -/
def eachHart (uid : Nat) (f : State → State) : Act Unit := do
  let s ← get
  match s.task? uid with
  | some t => t.harts.forM fun h => onHart uid h.id (modify f)
  | none => pure ()

/-- The task leaves its core and waits at the front of its launch's waiting tasks (R355). -/
def State.toParked (s : State) (t : Task) (save : Level × Word) : State :=
  let s1 := s.mapTask t.uid fun t => { t with run := .parked, save := some save, turn := s.nextUid, firstRes := false }
  let mark := fun (k : Core) => if k.owner = some t.uid then { k with ownerSave := save.2 } else k
  let s2 : State := s1.mapCluster t.home fun c => { c with cores := c.cores.map mark }
  let s2 := { s2 with nextUid := s.nextUid + 1 }
  match t.onCore with
  | some c => s2.startPreload t.home c
  | none => s2

/-- Park a task (R355): the hardware writes its scalar part, and the core that it was on takes its preload. A task that has
left its core already has its scalar part written there too. -/
def parkTask (uid : Nat) (hart : BitVec 3) (r : Area) : Act Unit := do
  let s ← get
  match s.task? uid with
  | none => pure ()
  | some t => do
    eachHart uid State.stopHart
    saveScalar uid r
    modify fun s => s.mapWholeTask uid fun t =>
      { t with harts := t.harts.map fun h => if h.id = hart && h.run = .trapped then { h with run := .ready } else h }
    modify fun s => s.toParked t (r.lvl, BitVec.ofNat 64 r.base)

/-- Every instruction that the hart with the turn has under way is undone. -/
def State.dropFlights (s : State) : State :=
  let s1 := s.drain.squash
  let s2 := ({ s1 with h := { s1.h with flight := s1.h.stopped, stopped := none } } : State).squash
  { s2 with h := { s2.h with wait := none, rep := none, stoppedGen := none, trapGen := none, held := [] } }

/-- The matrix instructions and the Flume commands of the task with the turn that have not completed are dropped
(R355, 11_flume R259): what they were to fill is taken back, the newest first, or ends. The mreads that have completed
retire, each as no earlier one is left. -/
def State.dropEngines (s : State) : State :=
  let ops := s.t.matrix.queue
  let fgovs := s.t.flume.toList.flatMap fun x => x.cmds.filterMap (·.dest)
  let s1 : State := { s with t := { s.t with flume := s.t.flume.map fun x => { x with cmds := [] } } }
  let undo := fun (o : MOp) (s : State) =>
    let s1 : State := { s with t := { s.t with matrix := { s.t.matrix with queue := s.t.matrix.queue.filter fun m => m.n != o.n } } }
    match (s.t.matrix.queue.find? fun m => m.n = o.n).bind fun m => m.dest.map fun e => (m, e) with
    | some (m, e) => s1.undoVersion m.name e m.old
    | none => s1
  fgovs.foldl State.endVersion (ops.foldr undo (s1.releaseAll (ops.flatMap MOp.holds)))

/-- What remains of a task that has ended while Weir or collective commands of it run (R355). -/
def Task.ghost (t : Task) : Task :=
  { used := true, uid := t.uid, queue := t.queue, launch := t.launch, ord := t.ord, wi := t.wi, group := t.group, asid := t.asid,
    part := t.part, sub := t.sub, packet := t.packet, run := .ended, home := t.home, aperture := t.aperture, weir := t.weir,
    weirDrawn := t.weirDrawn, coll := t.coll, harts := [{}] }

/-- Whether Weir or collective commands of a task have not completed. -/
def Task.commandsRun (t : Task) : Bool :=
  (t.weir.toList.any fun c => !c.cmds.isEmpty) || t.coll.toList.any fun c => !c.cmds.isEmpty

/-- The work of the task with the turn ends where it stands: its stores and windows are written back, what its harts, its
matrix engine and its Flume have under way is dropped, and one hart without registers is left with its names. -/
def dropWork : Act Unit := do
  let s ← get
  eachHart s.t.uid State.dropFlights
  modify State.dropEngines
  modify fun s => { s.flushAll with t := { s.flushAll.t with windows := [] } }
  let table ← gatherNames
  modify fun s =>
    let s1 := s.showNames table
    { s1 with t := { s1.t with harts := [] } }

/-- The task with the turn ends without the writes of tdone and is reported lost (R355): its work is dropped, and its Weir
and collective commands run on. -/
def abandonHere : Act Unit := do
  dropWork
  modify fun s2 =>
    let g := s2.t
    if g.commandsRun then
      let coll := g.coll.map fun (c : CollCtx) => { c with drawn := false }
      let s3 : State := { s2 with t := { g with weirDrawn := false, coll := coll } }
      let s4 := s3.leaveCore true
      { s4 with tasks := s4.tasks ++ [g.ghost] }
    else s2.leaveCore true

/-- Clusters that are reserved for a group which is not to be placed any more are so no longer (16_launch R340). -/
def State.freeReserved (s : State) : State :=
  s.mapClusters fun c =>
    if c.reservedFor.any fun k => (s.queue? k.1).all fun q => (s.itemOf q k).isNone then { c with reservedFor := none } else c

/-- Task `uid` is abandoned. -/
def State.abandon (s : State) (uid : Nat) : State :=
  match s.task? uid with
  | none => s
  | some t =>
    if t.run = .ended then s
    else match t.run with
      | .preloaded _ => s.dropPreload t
      | _ =>
        match abandonHere (s.focusHart uid (s.leadHart uid)) with
        | .ok (_, p) => (s.refocus p).freeReserved
        | .error _ => s

/-! ### sret (R355) -/

/-- A hart whose trap is answered by resuming continues at `pc`; a barw whose arrival stands waits on (R355, R403). -/
def Hart.resume (h : Hart) (pc : Word) (now : Nat) : Hart :=
  if h.run = .trapped then
    { h with run := .ready, pc := pc, wait := barwAgain h.trapGen now, trapGen := none }
  else h

/-- Where a resumed instruction stream continues (R355): after a `trap`. -/
def TrapRec.target (r : TrapRec) : Word := if r.cause = 0x18#8 then r.pc + 4#64 else r.pc

/-- Resume what the record stopped: a hart, which continues there also when its task has left its core and is loaded again,
the S code of this service core, or the service core of its cluster. The record of a budget stops no hart: its task waits to
be resumed by the Headgate (16_launch R344). -/
def State.resumeRec (s : State) (r : TrapRec) : State :=
  match r.task with
  | some uid =>
    if r.cause = 0x1C#8 then s
    else s.mapWholeTask uid fun t => { t with harts := t.harts.map fun h =>
      if h.id = r.hartid && h.run = .trapped then { h.resume r.target s.time with resumeAt := t.save.map fun _ => r.target } else h }
  | none =>
    if r.cause = 0#8 then s
    else if r.fromP then
      s.mapSvc fun v => { v with hart := { v.hart with run := .ready, pc := r.target } }
    else if r.fromS then s.mapSvc fun v => { v with broken := v.broken.map fun _ => r.target }
    else s

/-- The handler of the level has answered: S code that P broke off continues, once the P queue is empty (R354); Lydar has
performed the owner's command. -/
def State.answered (s : State) : State :=
  match s.level with
  | .o => ({ s with orec := none } : State).advance
  | .p =>
    let v := s.cl.svc
    match v.broken with
    | some pc =>
      if v.pqueue.isEmpty then
        { s with h := { s.h with pc := pc, wait := none, rep := none },
                 cl := { s.cl with svc := { v with prec := none, running := some .s, broken := none } } }
      else { s with cl := { s.cl with svc := { v with prec := none, running := none } } }
    | none => { s with cl := { s.cl with svc := { v with prec := none, running := none } } }
  | _ => { s with cl := { s.cl with svc := { s.cl.svc with srec := none, running := none } } }

/-- sret (R355). With no task in the record, parking and abandoning have nothing to act on (log 32). -/
def execSret (a b : Reg) (s : State) : Out :=
  finish (atRecord (do
    requireLevel .s (sysWord 0#7 a b 3#4)
    let s ← get
    let xb := s.rx b
    match s.curRec with
    | none => modify fun s => s.advance
    | some r =>
      match (s.rx a).toNat with
      | 0 => modify fun s => s.resumeRec r
      | 1 => do
        requireAct (aligned xb 4096) { cause := .misaligned, val := xb }
        match r.task with
        | some uid => parkTask uid r.hartid (s.areaOf xb)
        | none => modify fun s => s.resumeRec r
      | 2 =>
        match r.task with
        | some uid => modify fun s => s.abandon uid
        | none => modify fun s => s.resumeRec r
      | _ => trapAct .access (Config.trapValue s.time 0) 1#64
      let lvl := s.level
      modify fun s => if lvl = .o then s.answered else s.answered.letQueue lvl)) s

/-! ### Asynchronous traps (R352, R403) -/

/-- A Flume fault that is taken has been delivered, that of the command which reported it (11_flume R253). -/
def State.markDelivered (s : State) (tr : Trap) : State :=
  match tr.cmd with
  | some (c, n) => s.mapChannel c fun x => { x with cmds := x.cmds.map fun m => if m.n = n then { m with delivered := true } else m }
  | none => s

/-- The hart with the turn takes the first asynchronous trap that is due, at its boundary (R403). -/
def State.takeDue (s : State) : State :=
  match s.h.due with
  | none => s
  | some tr =>
    let s1 := (if s.h.flight.any (fun f => f.op.folds) then s.squash else s).markDelivered tr
    takeTrap tr true { s1 with h := { s1.h with held := s1.h.held.erase tr } }

/-- ASYNC_TRAP_DELIVERY (R403), to a hart or to a service core that runs a handler (15_collectives R318). -/
def execAsyncTrapDelivery (s : State) : Out :=
  .next (if (s.who = .user || (s.who = .service && s.cl.svc.running.isSome)) && s.h.run = .ready then s.takeDue else s)

/-! ### Pre-emption (R360) -/

/-- The lowest context slot of a subpartition that is free, or the task's own (18_partitions R376). -/
def State.slotFor (s : State) (t : Task) : Option Nat :=
  match s.sub? t.sub with
  | none => none
  | some p =>
    match p.slots.find? fun x => x.2 = t.uid with
    | some x => some x.1
    | none => (List.range (bitsOf p.pctxbase.toNat 15 0)).find? fun i => !(p.slots.any fun x => x.1 = i)

/-- The save area of a context slot. -/
def State.slotArea (s : State) (t : Task) (i : Nat) : Area :=
  { lvl := .s, part := t.part, sub := t.sub,
    base := frameOf (((s.sub? t.sub).map (·.pctxbase.toNat)).getD 0) + i * 2 ^ 25 }

/-- Take a context slot for a task. -/
def State.takeSlot (s : State) (t : Task) (i : Nat) : State :=
  let s1 := s.mapTask t.uid fun t => { t with slot := some i }
  { s1 with subs := s1.subs.map fun p =>
      if p.num = t.sub && !(p.slots.any fun x => x.2 = t.uid) then { p with slots := p.slots ++ [(i, t.uid)] } else p }

/-- The state of an outcome that goes on. -/
def Out.state (o : Out) (s : State) : State :=
  match o with
  | .next s' => s'
  | _ => s

/-- Every queued matrix instruction of the task with the turn completes, or completes as failed (10_matrix R241). DESIGN
CHOICE: as failed, with no trap, completes one whose chain operand is not produced (log 97). -/
def State.finishMatrix : Nat → State → State
  | 0, s => s
  | n + 1, s =>
    match s.t.matrix.queue with
    | [] => s
    | o :: _ =>
      let s1 := (execMatrixOpExecute o.n .agree s).state s
      let s2 := if (s1.t.matrix.queue.find? fun x => x.n = o.n).any (·.executed) then s1
        else s1.mapOp o.n fun o => { o with executed := true, failed := true }
      ((execMatrixOpComplete o.n s2).state s2).finishMatrix n

/-- A running fgov of a channel runs to completion or to a fault (11_flume R258). DEDUCED: one that has made no copy yet is
queued and is saved (log 99). -/
def State.finishFgov (c : BitVec 2) : Nat → State → State
  | 0, s => s
  | n + 1, s =>
    match (s.channel c.toNat).cmds with
    | m :: _ =>
      if m.dest.isSome && m.state = .running then
        let s1 := (execFlumeCommandRun c s).state s
        ((execFlumeCommandComplete c s1).state s1).finishFgov c n
      else s
    | [] => s

/-- The engines of the task with the turn before it is saved (R241, R258). -/
def State.settleEngines (s : State) : State :=
  (s.finishMatrix 16 : State) |> fun s => [0#2, 1#2, 2#2, 3#2].foldl (fun s c => s.finishFgov c 16386) s

/-- Save a task into its context slot and take it off its core (R360). -/
def preemptTask (uid slot : Nat) : Act Unit := do
  let s ← get
  match s.task? uid with
  | none => pure ()
  | some t => do
    modify fun s => s.takeSlot t slot
    let r := s.slotArea t slot
    eachHart uid State.stopHart
    onTask uid (modify State.settleEngines)
    freshHead t r
    areaPut r (r.base + 96) (bytesOf 8 (r.base + 2 ^ 23) ++ bytesOf 8 (r.base + 2 ^ 24))
    saveScalar uid r
    let s ← get
    if s.allClusters.any fun c => c.num = t.home && c.cores.toList.any fun k => k.owner = some uid then
      onTask uid (do
        let s ← get
        saveNames r (some (r.base + 2 ^ 23)) s.filling)
    else if t.out.all fun p => p.1 != 1 then do
      saveNoNames r true
      onTask uid (modify fun s => s.partOut 1 r)
    if 0 < t.matrix.reserved then onTask uid (saveTiles r)
    if 0 < t.scrb then onTask uid (saveScratch r (r.base + 2 ^ 24))
    onTask uid (saveEngines r)
    modify fun s => s.toParked t (.s, BitVec.ofNat 64 r.base)

/-- Spill the names of a parked task, of the vector context of a core or of its save area, into the slots of that area
(R360). Where its header names no spill region, that of a context slot is taken, and the answer is the subpartition where
none is free (log 33). -/
def spillParked (uid : Nat) : Act (Option Nat) := do
  let s ← get
  let owns := s.allClusters.any fun c => c.cores.toList.any fun k => k.owner = some uid
  match s.task? uid with
  | none => pure none
  | some t =>
    match (if owns then t.save else (t.out.find? fun p => p.1 = 1).map (·.2)) with
    | none => pure none
    | some (lvl, a) => do
      let r : Area := { lvl := lvl, part := t.part, sub := t.sub, base := a.toNat }
      let base ← headWord r 96
      match (if base = 0 then s.slotFor t else some 0) with
      | none => pure (some t.sub)
      | some i => do
        if base = 0 then modify fun s => s.takeSlot t i
        let spare := (s.slotArea t i).base + 2 ^ 23
        if owns then do
          if base = 0 then areaPut r (r.base + 96) (bytesOf 8 spare)
          onTask uid (do
            let s ← get
            saveNames r (some (if base = 0 then spare else base)) s.filling)
        else onTask uid (spillSaved spare)
        pure none

/-- Spill the names of parked tasks in turn; the subpartition that lacks a context slot. -/
def spillAll : List Nat → Act (Option Nat)
  | [] => pure none
  | uid :: r => do
    let lack ← spillParked uid
    if lack.isSome then pure lack else spillAll r

/-- The tasks resident on a cluster. -/
def State.residents (s : State) (n : Nat) : List Task :=
  (s.tasksOf n).filter fun t => match t.run with | .resident _ => true | _ => false

/-- Pre-empt tasks in turn, each into its slot; none where a slot is missing (R376). -/
def preemptAll : List Task → Act (Option Nat)
  | [] => pure none
  | t :: r => do
    let s ← get
    match s.slotFor t with
    | none => pure (some t.sub)
    | some i => do
      preemptTask t.uid i
      preemptAll r

/-- An agent whose task left its core has the turn no longer. -/
def State.settleFocus (s : State) : State :=
  if s.who = .user then
    match s.t.run with
    | .resident _ => s
    | _ => s.packed
  else s

/-- Pre-empt every task of a cluster (R360): the state after it, or the subpartition that lacks a context slot. A fault on
the context region keeps the slice going (log 33). -/
def State.preemptCluster (s : State) (n : Nat) : State ⊕ Nat :=
  let p := s.packed.withCluster n
  let here := (p.residents n).map (·.uid)
  let owners := (p.cl.cores.toList.filterMap (·.owner)).filter fun u => !(u ∈ here)
  match (do
      let lack ← preemptAll (p.residents n)
      if lack.isSome then pure lack
      else do
        let lack ← spillAll owners
        let q ← get
        if lack.isSome then pure lack
        else spillAll (((q.tasksOf n).filter fun t => t.run = .parked && t.unspilled).map (·.uid)) : Act (Option Nat)) p with
  | .ok (none, q) => .inl q
  | .ok (some sub, _) => .inr sub
  | .error _ => .inl p

/-- Send event 8 to P, once while it has not been taken (R376). -/
def State.lackSlot (s : State) (sub : Nat) : State :=
  let part := (s.partOfSub sub).getD 16
  let r := eventRec 8 sub
  if (s.allClusters.any fun k => s.clusterOfPart part = some k.num && (k.svc.pqueue ++ k.svc.pheld).any fun q => q = r) ||
      (.part part, r) ∈ s.lateEvents then s
  else s.eventP part 8 sub

/-- The preloads of cluster `n` are discarded but for those of the incoming tenant's subpartition (16_launch R343). -/
def State.dropPreloads (s : State) (n : Nat) (incoming : Option Nat) : State :=
  (s.tasksOf n).foldl (fun s t => match t.run with | .preloaded _ => if incoming = some t.sub then s else s.dropPreload t | _ => s) s

/-- TIME_SLICE_END (R360): the tasks are saved, and the cluster goes to the subpartition that holds it now, which keeps its
preloads; with no context slot free the slice goes on, and event 8 goes to P (R376). -/
def execTimeSliceEnd (cluster : Nat) (s : State) : Out :=
  let incoming := (s.allClusters.find? fun c => c.num = cluster).bind (·.sub)
  .next (match (s.dropPreloads cluster incoming).preemptCluster cluster with
    | .inl q => (s.refocus q).settleFocus
    | .inr sub => s.eventP ((s.partOfSub sub).getD 16) 8 sub)

/-- A task saved into its context slot at the end of its budget; none where it has no slot (R376), or its context region
cannot be written (log 33). -/
def State.budgetSaved (s : State) (t : Task) : Option State :=
  (s.slotFor t).bind fun i =>
    match preemptTask t.uid i s.packed with
    | .ok (_, p) => some p
    | .error _ => none

/-- BUDGET_EXPIRY (16_launch R344): the task is pre-empted into a context slot, its preload starts, and S gets cause
0x1C. -/
def execBudgetExpiry (s : State) : Out :=
  .next (
    let b := pkBudget s.t.packet
    if s.who != .user || b = 0 || s.time < s.t.since + b || s.t.onCore.isNone then s
    else
      match s.slotFor s.t with
      | none => s.lackSlot s.t.sub
      | some _ =>
        match s.budgetSaved s.t with
        | none => s
        | some p =>
          let r : TrapRec := { cause := 0x1C#8, val := s.t.taskid.setWidth 64, val2 := Config.trapValue s.time 1,
                               taskid := s.t.taskid, core := BitVec.ofNat 3 s.t.core, cluster := BitVec.ofNat 5 s.cl.num,
                               task := some s.t.uid }
          p.toS s.cl.num r)

/-! ### Resumption (R356, R359, R241) -/

/-- Load the parts of a task that stand in save areas (R241, R356, R360): scalars from its save area, then tiles,
scratch and engines. Names come by the vector switch. -/
def loadParts (uid : Nat) (t : Task) : Act Unit := do
  match t.save with
  | some (lvl, a) => loadScalar uid { lvl := lvl, part := t.part, sub := t.sub, base := a.toNat }
  | none => pure ()
  t.out.forM fun p => do
    let r : Area := { lvl := p.2.1, part := t.part, sub := t.sub, base := p.2.2.toNat }
    if p.1 = 3 then onTask uid (loadTiles r)
    if p.1 = 4 then do
      let scr ← headWord r 104
      onTask uid (loadScratch r scr)
    if p.1 = 5 then onTask uid (fun s => loadEngines r s.t s)

/-- Task `uid` resumes on the lowest free core of a cluster (16_launch R341, R356); none where its save area cannot be read, and it
goes on waiting (log 33). GVL comes back as it was saved: the Headgate does not change it (log 75). -/
def State.resumeTask (uid cluster : Nat) (s : State) : Option State :=
  match s.task? uid, s.freeCores cluster with
  | some t, core :: _ =>
    let s1 := s.mapTask uid fun t => { t with run := .resident core, home := cluster, since := s.time, save := none }
    match loadParts uid t s1 with
    | .ok (_, p) =>
      some ((p.mapWholeTask uid fun t => { t with harts := t.harts.map fun h =>
        match h.run with
        | .ready => { h with wait := barwAgain h.trapGen s.time, trapGen := none, pc := h.resumeAt.getD h.pc, resumeAt := none }
        | _ => h }).countRun t cluster core)
    | .error _ => none
  | _, _ => none

/-- The waiting tasks of a group resume together, or none does (16_launch R342). -/
def resumeAll : List Nat → Nat → State → Option State
  | [], _, s => some s
  | uid :: r, cluster, s => (s.resumeTask uid cluster).bind fun s1 => resumeAll r cluster s1

/-- GROUP_DISPATCH (16_launch R341). -/
def execGroupDispatch (queue : BitVec 12) (s : State) : Out := .next (dispatchWith resumeAll queue s)

/-! ### Protected mode (R362) and retirement -/

/-- The oldest instruction retires, once its results are compared (R362): under protected mode the outcome stands for
the next instruction of the hart. A vector instruction whose elements are all performed retires (R124). -/
def execInstructionRetire (mm : Mismatch) (s : State) : Out :=
  let s1 := if s.who = .user && s.t.pm then { s with h := { s.h with mirror := mm } } else s
  match s1.h.flight with
  | some f => if f.vl ≤ f.k && !f.op.folds then runFlight 0 s1 else .next s1
  | none => .next s1

/-! ### tlbinv (R375) -/

/-- Whether a page, of 64 KiB or of 512 MiB, contains `xb`, or the whole space is named (R375). -/
def covers (xb : Word) (va : Nat) (big : Bool) : Bool :=
  xb = BitVec.allOnes 64 || decide (xb.toNat / 65536 = va / 65536) || (big && decide (xb.toNat / 2 ^ 29 = va / 2 ^ 29))

/-- Whether the page that holds line `l` of a window is pinned as `p` selects. -/
def Window.lineOn (w : Window) (p : WindowPin → Bool) (l : Nat) : Bool :=
  (w.pages.getD ((w.va.toNat % 65536 + 256 * l) / 65536) none).any p

/-- The windows of the task with the turn whose pinned pages `p` selects: their lines are written back and invalidated, and
the pages are translated again at the next touch (09_vmem R216). -/
def State.unpin (s : State) (p : WindowPin → Bool) : State :=
  let s1 := s.t.windows.foldl (fun s w =>
    w.lines.foldl (fun s l => if w.lineOn p l.line && l.dirty then s.flushLine w l.line else s) s) s
  { s1 with t := { s1.t with windows := s1.t.windows.map fun w =>
      { w with lines := w.lines.filter fun l => !w.lineOn p l.line,
               pages := w.pages.map fun x => if x.any p then none else x } } }

/-- The tasks of an invalidation: kind, and the number in xa. The ASIDs are those of the partition (R370). -/
def State.tlbTasks (s : State) (kind n : Nat) : List Task :=
  s.tasks.filter fun t =>
    match kind with
    | 0 => t.part = s.ownPart && t.asid.toNat = n
    | 1 => if s.level = .p then t.part = s.ownPart else t.sub = s.ownSub
    | 2 => t.sub = n
    | _ => t.part = s.ownPart

/-- Whether a vector memory instruction part-way holds a pin whose translation `p` selects (09_vmem R205). -/
def Task.holdsPin (t : Task) (p : TlbEntry → Bool) : Bool :=
  t.harts.any fun h => h.flight.any fun f => f.pins.any fun x => x.2.entry.any p

/-- The translations of an invalidation: kind, the number in xa, and xb. A stage-1 result goes with a stage-2 entry that its
output page or one of its tables was reached through. -/
def State.tlbHits (s : State) (kind n : Nat) (xb : Word) (e : TlbEntry) : Bool :=
  match kind with
  | 0 => e.part = s.ownPart && e.asid = some n && covers xb (e.page * 65536) e.big1
  | 1 => e.asid.isSome && (if s.level = .p then e.part = s.ownPart else e.sub = s.ownSub)
  | 2 => e.sub = n && (covers xb e.mid e.big2 || e.tabs.any fun t => covers xb t.1 t.2)
  | _ => e.part = s.ownPart

/-- tlbinv (R375): the entries of the TLBs go, and with them the pins of stash windows; it waits for those of vector
instructions (R205), and it is a release (13_ordering R291). -/
def execTlbinv (a b : Reg) (s : State) : Out :=
  finish (do
    let w := sysWord 0#7 a b 6#4
    requireLevel .s w
    let s ← get
    let xa := s.rx a
    let xb := s.rx b
    let kind := bitsOf xa.toNat 15 14
    let n := xa.toNat % 2 ^ 14
    if 2 ≤ kind then requireLevel .p w
    requireAct (decide (xa.toNat < 2 ^ 16) && (match kind with
      | 0 => decide (n < 4096)
      | 2 => decide (n < 64)
      | _ => decide (n = 0))) { cause := .access, val := xa, val2 := 8#64 }
    requireAct (match kind with
      | 0 => if s.level = .s then s.hasManage (.sub s.ownSub) 3 n else s.partManage s.ownPart 3 n
      | 2 => s.level = .o || s.partOfSub n = some s.ownPart
      | _ => true) { cause := .access, val := xa, val2 := 9#64 }
    modify State.drain
    let p := s.tlbHits kind n xb
    if (s.tlbTasks kind n).any fun t => t.holdsPin p then waitAct .other
    modify fun s => s.tlbDrop p
    (s.tlbTasks kind n).forM fun t => if t.windows.isEmpty then pure () else onTask t.uid (modify fun s => s.unpin fun w => w.entry.any p)
    modify fun s => s.advance) s

end Sys2Proof.Machine
end

