-- ==== Sys2Proof/Machine/Rights.lean ====
section
/-! DEFINITION. Resources and rights (18_partitions R365 to R369): `pgrant`, `prevoke`, `pdeleg` and `pquery`, with the
effects of losing use. -/

namespace Sys2Proof.Machine

/-! ### Ranges of items -/

/-- A list of ranges without the items `a` to `a + n - 1`. -/
def subtractRange (l : List (Nat × Nat)) (a n : Nat) : List (Nat × Nat) :=
  l.flatMap fun x =>
    if overlaps x.1 x.2 a n then
      (if x.1 < a then [(x.1, a - x.1)] else []) ++ (if a + n < x.1 + x.2 then [(a + n, x.1 + x.2 - (a + n))] else [])
    else [x]

/-- A range of items of a class, as xa names it (R367). -/
structure Items where
  cls   : Nat
  first : Nat
  count : Nat
  deriving DecidableEq, Repr

/-- The fields of xa (R367). -/
def itemsOf (xa : Word) : Items :=
  { cls := bitsOf xa.toNat 7 0, first := bitsOf xa.toNat 39 8, count := bitsOf xa.toNat 63 40 }

/-- Whether the grants of a list cover every item of a range. -/
def Items.coveredBy (r : Items) (gs : List Grant) : Bool :=
  (gs.foldl (fun l g => if g.cls = r.cls then subtractRange l g.first g.count else l) [(r.first, r.count)]).isEmpty

/-- A grant without the items of a range. -/
def Grant.without (g : Grant) (r : Items) : List Grant :=
  if g.cls = r.cls then (subtractRange [(g.first, g.count)] r.first r.count).map fun x => { g with first := x.1, count := x.2 }
  else [g]

/-- The items of a range that a grant covers. -/
def Grant.within (g : Grant) (r : Items) : Items :=
  let a := Nat.max g.first r.first
  { r with first := a, count := Nat.min (g.first + g.count) (r.first + r.count) - a }

/-- Whether a grant covers an item of a range. -/
def Grant.meets (g : Grant) (r : Items) : Bool := g.cls = r.cls && overlaps g.first g.count r.first r.count

/-- A class that is an amount (R365). -/
def amountClass (c : Nat) : Bool := decide (4 ≤ c) && decide (c ≤ 6)

/-- One more than the largest item, or the largest amount, of a class (R365). -/
def classLimit (c : Nat) : Nat := [32, 384, 4096, 4096, 512, 256, 256, 64, 2 ^ 32].getD c 0

/-- The checks of R367 on the operands. -/
def operandsOk (xa xb : Word) : Bool :=
  let r := itemsOf xa
  decide (xb.toNat < 2 ^ 10) && decide (r.cls ≤ 8) && decide (1 ≤ r.count) && decide (r.first + r.count ≤ classLimit r.cls) &&
    (!amountClass r.cls || decide (r.first = 0))

/-! ### Holders -/

/-- The acting holder (R367). -/
def State.acting (s : State) : Holder :=
  match s.level with
  | .o => .owner
  | .p => .part s.ownPart
  | _ => .sub s.ownSub

/-- HOLDER one level below the acting one, where it is valid (R366, R368): a partition, or a subpartition of no other
partition. -/
def State.holderBelow (s : State) (n : Nat) : Option Holder :=
  match s.level with
  | .o => if n < 16 then some (.part n) else none
  | .p => if (s.partOfSub n).all fun p => p = s.ownPart then some (.sub n) else none
  | _ => none

/-- HOLDER at the acting holder's own level, of its partition (R368): only subpartitions have such a one. -/
def State.holderBeside (s : State) (n : Nat) : Option Holder :=
  match s.level with
  | .s => if s.partOfSub n = some s.ownPart then some (.sub n) else none
  | _ => none

/-- Whether a holder holds every item (R366); the owner holds all that no one else does. -/
def State.holdsAll (s : State) (h : Holder) (r : Items) : Bool :=
  h = .owner || r.coveredBy (s.grants.filter fun g => g.holder = h && g.held)

/-- Whether a holder has been given all of `rights` on every item. -/
def State.givenAll (s : State) (h : Holder) (r : Items) (rights : BitVec 3) : Bool :=
  h = .owner || (List.range 3).all fun i =>
    !rights.getLsbD i || r.coveredBy (s.grants.filter fun g => g.holder = h && g.rights.getLsbD i)

/-- Whether some item has another holder below the acting one with use (R368, status 4). -/
def State.usedElsewhere (s : State) (h : Holder) (r : Items) : Bool :=
  s.grants.any fun g => g.giver = s.acting && g.held && g.holder != h && g.rights.getLsbD 0 && g.meets r

/-- The grants without those made from what the holders listed have lost: what each gave on the items, and, where it was a
grant, what its holder made from it (R366). -/
def cascade : Nat → List (Holder × Items) → List Grant → List Grant
  | 0, _, gs => gs
  | n + 1, lost, gs =>
    let next := lost.flatMap fun x =>
      (gs.filter fun g => g.giver = x.1 && g.held && g.meets x.2).map fun g => (g.holder, g.within x.2)
    cascade n next (lost.foldl (fun gs x => gs.flatMap fun g => if g.giver = x.1 then g.without x.2 else [g]) gs)

/-- What the holders of these grants lose of a range with them. -/
def lostWith (r : Items) (gs : List Grant) : List (Holder × Items) :=
  (gs.filter fun g => g.held && g.meets r).map fun g => (g.holder, g.within r)

/-! ### What losing use brings (R369) -/

/-- What a change of rights comes to: a status, or it waits with the state as it then stands. -/
inductive Did where
  | status (n : Nat) (s : State)
  | wait (s : State)

/-- The subpartition that holds cluster `n` with use under the grants of a list (01_machine R11). -/
def clusterSub (gs : List Grant) (n : Nat) : Option Nat :=
  gs.findSome? fun g =>
    match g.holder with
    | .sub m => if g.held && g.rights.getLsbD 0 && g.covers 0 n then some m else none
    | _ => none

/-- The subpartitions that lose use of item `i` when the grants become `gs`. -/
def State.losers (s : State) (gs : List Grant) (c i : Nat) : List Nat :=
  (s.grants.filterMap fun g => match g.holder with | .sub m => some m | _ => none).dedup.filter fun m =>
    s.hasUse (.sub m) c i && !({ s with grants := gs } : State).hasUse (.sub m) c i

/-- Whether a holder of item `i` of class `c` loses its use when the grants become `gs`. A delegate's loss is none (R369), nor
is that of one who grants the item on. -/
def State.holderLoses (s : State) (gs : List Grant) (c i : Nat) : Bool :=
  let after : State := { s with grants := gs }
  s.grants.any fun g => g.held && g.covers c i && s.hasUse g.holder c i && !after.hasUse g.holder c i &&
    !(gs.any fun f => f.giver = g.holder && f.held && f.covers c i)

/-- Cluster `n`, which no task uses any more, with its bolt zeroed and its mailboxes empty; what S had queued there is
dropped, and the harts that waited for it run again (R369). -/
def State.clearCluster (s : State) (n : Nat) : State :=
  let v := ((s.allClusters.find? fun c => c.num = n).getD {}).svc
  let waits := (v.squeue ++ v.srec.toList ++ v.pqueue).filterMap fun r => r.task.map fun u => (u, r.hartid)
  let s1 : State := { s with tasks := s.tasks.map fun (t : Task) =>
    { t with harts := t.harts.map fun h =>
        if (t.uid, h.id) ∈ waits || (t.home = n && h.trapRec.isSome) then { h with run := .ready, trapRec := none } else h } }
  s1.mapCluster n fun c =>
    { c with sub := none, bolt := [], free := [(0, 32768)], mail := [], cores := Vector.replicate 8 {}, reservedFor := none,
             svc := { c.svc with squeue := [], sheld := [], srec := none, broken := none,
                                 running := if c.svc.running = some .s then none else c.svc.running,
                                 pqueue := c.svc.pqueue.filter fun r => r.task.isNone && !r.fromS } }

/-- A cluster loses its subpartition (R369): its preloads are discarded but for those of the next, its tasks pre-empted, and
once none has a swatch there the bolt is zeroed. The change waits while a task stays on the cluster, for want of a context
slot (R376) or of a context region that can be written (log 33), or holds a swatch. -/
def State.loseCluster (s : State) (n : Nat) (incoming : Option Nat) : State × Bool :=
  let s1 := s.dropPreloads n incoming
  match s1.preemptCluster n with
  | .inr sub => (s1.lackSlot sub, false)
  | .inl q =>
    if !(q.residents n).isEmpty || (q.tasksOf n).any fun t => t.run != .ended && t.holdsSwatches then (s.refocus q, false)
    else ((s.refocus (q.clearCluster n)).settleFocus, true)

/-- Whether a vector memory instruction of a subpartition's tasks holds a pin in memory that `p` selects (09_vmem R205). -/
def State.vectorPins (s : State) (sub : Option Nat) (p : Nat → Bool) : Bool :=
  s.allTasks.any fun t => (sub.isNone || sub = some t.sub) &&
    t.harts.any fun h => h.flight.any fun f => f.pins.any fun x => p x.2.pa

/-- Whether a Weir or collective command of a subpartition covers memory that `p` selects (R292, R369). -/
def State.commandCovers (s : State) (sub : Option Nat) (p : Nat → Bool) : Bool :=
  s.allTasks.any fun t =>
    (sub.isNone || sub = some t.sub) &&
      ((t.weir.toList.any fun c => c.cmds.any fun m => m.pages.any fun x => p x.2.1) ||
        t.coll.toList.any fun c => c.cmds.any fun m => m.pages.any fun x => p x.2.1)

/-- The windows of a subpartition's tasks give up their pins on a granule (09_vmem R216). -/
def State.unpinGranule (s : State) (sub g : Nat) : State :=
  let here := fun (pa : Nat) => s.isLocal pa && decide (granuleOf pa = g)
  (s.tasks.filter fun t => t.sub = sub && !t.windows.isEmpty).foldl (fun s t =>
    s.refocus ((s.focusHart t.uid (s.leadHart t.uid)).unpin fun p => here p.pa)) s

/-- Whether no task of a launch has started: it has not begun dispatch (16_launch R337, R343). -/
def Launch.unbegun (l : Launch) : Bool := l.recs.all fun r => !r.started

/-- A queue is lost (R369): launches not begun are rejected with STATE 3 and REASON 10, and the tasks of the others are
abandoned. -/
def State.loseQueue (s : State) (n : Nat) : State :=
  match s.queue? n with
  | none => s
  | some q =>
    let s1 := (q.launches.filter fun l => l.unbegun && !l.finished).foldl (fun (s : State) l =>
      (if pkCompl l.packet = 0 then s else s.writeRecord q l.packet 3 10 0 0).mapLaunch n l.num fun l => { l with finished := true }) s
    let s2 := (s1.allTasks.filter fun t => t.used && t.queue.toNat = n).foldl (fun s t => s.abandon t.uid) s1
    s2.mapClusters fun c => if c.reservedFor.any fun k => k.1 = n then { c with reservedFor := none } else c

/-- The tasks of a subpartition in an ASID are abandoned, and the TLBs hold no entry of it (R369). -/
def State.loseAsid (s : State) (sub asid : Nat) : State :=
  ((s.allTasks.filter fun t => t.used && t.sub = sub && t.asid.toNat = asid).foldl (fun s t => s.abandon t.uid) s).tlbDrop fun e =>
    e.sub = sub && e.asid = some asid

/-- The TLBs hold no entry of a subpartition for what `p` selects of memory (R369). -/
def State.tlbLose (s : State) (sub : Nat) (p : Nat → Bool) : State :=
  s.tlbDrop fun e => e.sub = sub && match s.stage3 e.part none e.out .locate 0 with
    | .ok pa => p pa
    | .error _ => false

/-- Whether a copy of a subpartition encrypts under key slot `i` (R369, R379). -/
def State.encrypts (s : State) (i sub : Nat) : Bool :=
  (List.range 64).find? (fun n => s.hasUse (.sub sub) 7 n) = some i &&
    s.allTasks.any fun t => t.sub = sub && t.flume.toList.any fun x => x.cmds.any fun m => m.keyV.isSome

/-- What is lost of item `i` of class `c` when the grants become `gs`; whether it is done. -/
def State.loseItem (s : State) (gs : List Grant) (c i : Nat) : State × Bool :=
  let l := s.losers gs c i
  match c with
  | 0 =>
    let now := (s.allClusters.find? fun k => k.num = i).bind (·.sub)
    if now.isSome && now != clusterSub gs i then s.loseCluster i (clusterSub gs i) else (s, true)
  | 1 =>
    let here := fun (pa : Nat) => s.isLocal pa && decide (granuleOf pa = i)
    if l.any fun m => s.commandCovers (some m) here || s.vectorPins (some m) here then (s, false)
    else (l.foldl (fun s m => (s.unpinGranule m i).tlbLose m here) s, true)
  | 2 => (if s.holderLoses gs 2 i then s.loseQueue i else s, true)
  | 3 => (l.foldl (fun s m => s.loseAsid m i) s, true)
  | 7 =>
    if l.any (s.encrypts i) then (s, false)
    else (if s.holderLoses gs 7 i then { s with keys := s.keys.filter fun k => k.num != i } else s, true)
  | _ => (s, true)

/-- What is lost of every item of a range, in order, up to the first that is not done. -/
def State.loseItems (gs : List Grant) (c : Nat) : List Nat → State → State × Bool
  | [], s => (s, true)
  | i :: r, s =>
    let (s1, done) := s.loseItem gs c i
    if done then State.loseItems gs c r s1 else (s1, false)

/-- Give the clusters of a range to the subpartitions that the grants name (01_machine R11); the events that waited for a
service core are sent (log 102). -/
def State.placeClusters (s : State) (r : Items) : State :=
  if r.cls = 0 then
    (s.mapClusters fun c =>
      if decide (r.first ≤ c.num) && decide (c.num < r.first + r.count) && c.service then { c with sub := clusterSub s.grants c.num } else c).sendLate
  else s

/-- The items whose holders a change of rights must settle: GROUPTAG values need nothing (R369). -/
def Items.listed (r : Items) : List Nat := if r.cls = 8 then [] else (List.range r.count).map fun i => r.first + i

/-- Change the grants to `gs`, once the effects on what the range's holders lose have finished (R369). -/
def State.changeGrants (s : State) (gs : List Grant) (r : Items) (after : State → State) : Did :=
  match State.loseItems gs r.cls r.listed s with
  | (s1, true) => .status 0 (after (({ s1 with grants := gs } : State).placeClusters r))
  | (s1, false) => .wait s1

/-! ### Amounts -/

/-- The subpartitions of a partition. -/
def State.subsOf (s : State) (p : Nat) : List Nat := (List.range 64).filter fun n => s.partOfSub n = some p

/-- A holder and those below it. -/
def State.holderTree (s : State) (h : Holder) : List Holder :=
  match h with
  | .part p => h :: (s.subsOf p).map .sub
  | _ => [h]

/-- Contexts of a class that a task has drawn. -/
def Task.drawn (t : Task) (c : Nat) : Nat :=
  if c = 4 then (if t.weirDrawn then 2 else 0) else if c = 5 then (t.coll.toList.filter (·.drawn)).length else 0

/-- Whether a task's commands of a class run. -/
def Task.busyWith (t : Task) (c : Nat) : Bool :=
  if c = 4 then t.weir.toList.any fun x => !x.cmds.isEmpty else t.coll.toList.any fun x => !x.cmds.isEmpty

/-- The contexts of a class that a task has drawn return to its subpartition: they are unbound (R369). -/
def State.undraw (s : State) (c : Nat) (t : Task) : State :=
  let s1 := s.setAmount c (.sub t.sub) (s.amount c (.sub t.sub) + t.drawn c)
  s1.mapTask t.uid fun t =>
    if c = 4 then { t with weirDrawn := false, weir := t.weir.map fun x => { x with slots := [] } }
    else { t with coll := t.coll.map fun x => { x with drawn := false, group := none } }

/-- Take up to `n` of an amount from a list of holders, in order; what is still wanted. -/
def State.takeFrom (c : Nat) : List Holder → Nat → State → Nat × State
  | [], n, s => (n, s)
  | h :: r, n, s =>
    let k := Nat.min n (s.amount c h)
    State.takeFrom c r (n - k) (s.setAmount c h (s.amount c h - k))

/-- A holder that has nothing left of an amount, nor tasks below it that have drawn of it, has lost its grant of it, and so
have those below. -/
def State.dropAmountGrant (s : State) (c : Nat) (h : Holder) (tree : List Holder) : State :=
  if (tree.map (s.amount c)).sum = 0 && !(s.allTasks.any fun t => Holder.sub t.sub ∈ tree && decide (0 < t.drawn c)) then
    { s with grants := s.grants.filter fun g => !(g.cls = c && ((g.giver = s.acting && g.holder = h) || g.giver ∈ tree)) }
  else s

/-- prevoke of an amount (R368, R369): contexts that tasks have drawn return once their commands have completed. -/
def State.revokeAmount (s : State) (h : Holder) (c n : Nat) : Did :=
  let tree := s.holderTree h
  let free := (tree.map (s.amount c)).sum
  let users := s.allTasks.filter fun t => Holder.sub t.sub ∈ tree && decide (0 < t.drawn c)
  let back := fun (s : State) =>
    let (_, s1) := State.takeFrom c tree n s
    (s1.setAmount c s1.acting (s1.amount c s1.acting + n)).dropAmountGrant c h tree
  if n ≤ free then .status 0 (back s)
  else if free + (users.map fun t => t.drawn c).sum < n then .status 2 s
  else
    let s1 := (users.filter fun t => !t.busyWith c).foldl (fun s t => s.undraw c t) s
    if n ≤ (tree.map (s1.amount c)).sum then .status 0 (back s1) else .wait s1

/-! ### The members (R368) -/

/-- The word of a rights instruction. -/
def rightsWord (d a b : Reg) (fn : BitVec 4) : Word := wordOf (some (fmtA 0x6D#7 d a b fn))

/-- The rights that xb carries: use, manage, delegate. -/
def xbRights (xb : Word) : BitVec 3 := (xb >>> 6).setWidth 3

/-- The place of the agent with the turn in the line of changes: its service core at S or at P, or Lydar. -/
def State.changer (s : State) : Nat :=
  match s.level with
  | .p => 32 + s.cl.num
  | .o => 64
  | _ => s.cl.num

/-- Whether the change of rights of an agent is still under way: it waits in its instruction. -/
def State.stillChanging (s : State) (k : Nat) : Bool :=
  if k = 64 then (match s.agenda with | .owner _ _ _ :: _ => true | _ => false)
  else s.allClusters.any fun c => c.num = k % 32 && (s.svcHart c).wait.isSome &&
    c.svc.running = some (if k < 32 then .s else .p)

/-- The line of changes with the agent with the turn in it: one change goes on at a time, in arrival order (R369). -/
def State.changeLine (s : State) : List Nat :=
  let l := s.changing.filter fun k => k = s.changer || s.stillChanging k
  if s.changer ∈ l then l else l ++ [s.changer]

/-- The change of agent `k` is over: it leaves the line (R369). -/
def State.changeDone (s : State) (k : Nat) : State := { s with changing := s.changing.filter fun x => x != k }

/-- The outcome of a rights instruction: the level (03_words R69), the operands (R367), its turn among the changes (R369),
then its members' action. -/
def rightsFinish (fn : BitVec 4) (d a b : Reg) (act : Items → Nat → State → Did) (s : State) : Out :=
  if s.level = .u then .next (takeTrap { cause := .privilege, val := rightsWord d a b fn } false s)
  else if !operandsOk (s.rx a) (s.rx b) then .next (takeTrap { cause := .access, val := s.rx a, val2 := 8#64 } false s)
  else
    let line : State := if fn = 3#4 then s else { s with changing := s.changeLine }
    if fn != 3#4 && s.changeLine.head? != some s.changer then .next (line.enterWait .other)
    else
      match act (itemsOf (s.rx a)) (bitsOf (s.rx b).toNat 5 0) line with
      | .status n s1 => .next ((if fn = 3#4 then s1 else s1.changeDone s.changer).put d (BitVec.ofNat 64 n))
      | .wait s1 => .next (s1.enterWait .other)

/-- The queue as a grant makes it (16_launch R333, log 13): TL 0, no launch. -/
def newQueue (time n sub : Nat) : Queue :=
  let v := Config.queueGrant time n
  { num := n, sub := sub, pc := (v 0).setWidth 3, wt := BitVec.ofNat 8 (1 + (v 1).toNat % 255), ualink := (v 2).getLsbD 0, conn := v 3 }

/-- Zero granule `g` of this node (R369). -/
def State.zeroGranule (s : State) (g : Nat) : State :=
  let base := s.o.onode.toNat * 2 ^ 40
  s.zeroRange (base + g * 2 ^ 31) (base + (g + 1) * 2 ^ 31)

/-- What a grant to HOLDER brings: granules zeroed, queues fixed (R369, 16_launch R333). -/
def State.afterGrant (h : Holder) (r : Items) (zero : Bool) (fresh : List Nat) (s : State) : State :=
  match r.cls, h with
  | 1, .part p =>
    r.listed.foldl (fun s g =>
      let other := s.granules.any fun x => x.1 = g && x.2 != p
      let s1 := if zero || other then s.zeroGranule g else s
      { s1 with granules := (s1.granules.filter fun x => x.1 != g) ++ [(g, p)] }) s
  | 1, _ => if zero then r.listed.foldl State.zeroGranule s else s
  | 2, .sub m => fresh.foldl (fun s n =>
      { s with queues := (s.queues.filter fun q => q.num != n) ++ [newQueue s.time n m] }) s
  | _, _ => s

/-- pgrant of an amount (R368): it moves, and HOLDER has the rights of its latest grant on it (log 58). -/
def State.grantAmount (s : State) (rights : BitVec 3) (r : Items) (n : Nat) : Did :=
  let me := s.acting
  if s.amount r.cls me < r.count then .status 2 s
  else if !(s.amountRights r.cls me).getLsbD 2 then .status 1 s
  else
    match s.holderBelow n with
    | none => .status 3 s
    | some h =>
      let s1 := s.setAmount r.cls me (s.amount r.cls me - r.count)
      let s2 := s1.setAmount r.cls h (s1.amount r.cls h + r.count)
      .status 0 { s2 with grants := (s2.grants.filter fun g => !(g.cls = r.cls && g.giver = me && g.holder = h)) ++
        [{ cls := r.cls, first := 0, count := 1, giver := me, holder := h, rights := rights, held := true }] }

/-- pgrant (R368): of the acting holder's rights it needs delegate only. -/
def grantItems (rights : BitVec 3) (zero : Bool) (r : Items) (n : Nat) (s : State) : Did :=
  let me := s.acting
  if amountClass r.cls then s.grantAmount rights r n
  else if !s.holdsAll me r then .status 2 s
  else if !s.givenAll me r 0b100#3 then .status 1 s
  else
    match s.holderBelow n with
    | none => .status 3 s
    | some h =>
      if decide (r.cls ≤ 1) && rights.getLsbD 0 && s.usedElsewhere h r then .status 4 s
      else
        let mine := fun (g : Grant) => g.giver = me && g.held && g.meets r
        let others := lostWith r (s.grants.filter fun g => mine g && g.holder != h)
        let kept := s.grants.flatMap fun g => if g.giver = me && (g.held || g.holder != h) then g.without r else [g]
        let gs := cascade 3 others kept ++
          [{ cls := r.cls, first := r.first, count := r.count, giver := me, holder := h, rights := rights, held := true }]
        let fresh := r.listed.filter fun i => !(s.grants.any fun g => mine g && g.holder = h && g.covers r.cls i)
        s.changeGrants gs r (State.afterGrant h r zero fresh)

/-- pgrant (R367 to R369). -/
def execPgrant (d a b : Reg) (s : State) : Out :=
  rightsFinish 0#4 d a b (grantItems (xbRights (s.rx b)) (bitOf (s.rx b).toNat 9)) s

/-- prevoke of HOLDER (R368). -/
def revokeItems (r : Items) (n : Nat) (s : State) : Did :=
  let me := s.acting
  let target := match s.level with
    | .o => if n < 16 then some (Holder.part n) else none
    | .p => if s.partOfSub n = some s.ownPart then some (Holder.sub n) else none
    | _ => s.holderBeside n
  match target with
  | none => .status 3 s
  | some h =>
    if amountClass r.cls then
      if s.level = .s then .status 0 { s with grants := s.grants.filter fun g => !(g.cls = r.cls && g.giver = me && g.holder = h) }
      else s.revokeAmount h r.cls r.count
    else
      let gone := fun (g : Grant) => g.giver = me && g.holder = h
      let kept := s.grants.flatMap fun g => if gone g then g.without r else [g]
      s.changeGrants (cascade 3 (lostWith r (s.grants.filter gone)) kept) r id

/-- prevoke (R367 to R369). -/
def execPrevoke (d a b : Reg) (s : State) : Out := rightsFinish 1#4 d a b revokeItems s

/-- pdeleg of use or manage to HOLDER (R368): it needs delegate. An amount stays with its holder (log 58). -/
def delegateItems (rights : BitVec 3) (r : Items) (n : Nat) (s : State) : Did :=
  let me := s.acting
  let rights := rights &&& 0b011#3
  let amount := amountClass r.cls
  if (if amount then decide (s.amount r.cls me < r.count) else !s.holdsAll me r) then .status 2 s
  else if !(if amount then (s.amountRights r.cls me).getLsbD 2 else s.givenAll me r 0b100#3) then .status 1 s
  else
    match s.holderBeside n with
    | none => .status 3 s
    | some h =>
      if r.cls = 0 && rights.getLsbD 0 && h != me then .status 4 s
      else .status 0 { s with grants := s.grants ++
        [{ cls := r.cls, first := r.first, count := if amount then 1 else r.count, giver := me, holder := h, rights := rights,
           held := false }] }

/-- pdeleg (R367, R368). -/
def execPdeleg (d a b : Reg) (s : State) : Out := rightsFinish 2#4 d a b (delegateItems (xbRights (s.rx b))) s

/-- The rights word of HOLDER on item FIRST (R368). -/
def State.rightsAt (s : State) (r : Items) (n : Nat) : Nat :=
  let h : Holder := match s.level with
    | .o => .part n
    | _ => .sub n
  let held := s.grants.any fun g => g.holder = h && g.held && g.covers r.cls r.first
  let below := (s.grants.findSome? fun g =>
    match g.holder with
    | .sub m => if g.giver = h && g.held && g.covers r.cls r.first then some m else none
    | _ => none).getD 63
  let given := (s.grants.filter fun g => g.holder = h && g.covers r.cls r.first).foldl (fun x g => x ||| g.rights) 0#3
  (if amountClass r.cls then given else s.rightsOn h r.cls r.first).toNat + bitNat held * 2 ^ 3 + below * 2 ^ 4

/-- pquery (R367, R368): it changes nothing. -/
def execPquery (d a b : Reg) (s : State) : Out := rightsFinish 3#4 d a b (fun r n s => .status (s.rightsAt r n) s) s

end Sys2Proof.Machine
end

