-- ==== Sys2Proof/Machine/Device.lean ====
section
/-! DEFINITION. What acts on the device as a whole: `fwset` (14_weir R313), page migration (13_ordering R292), other
devices and hosts (15_collectives R316, R318, R331; 01_machine R27), fencing and bring-up (18_partitions R380 to R382),
the power limit (01_machine R15), soft errors, and the commit of buffered stores (R23). -/

namespace Sys2Proof.Machine

/-! ### fwset (R313) -/

/-- Whether every granule of a partition-physical range is memory of this node that the partition's ranges map and that the
partition holds (18_partitions R365, R374, which ends below 2^41). -/
def State.partHolds (s : State) (part a n : Nat) : Bool :=
  n = 0 || (decide (a + n ≤ 2 ^ 41) &&
    (List.range ((a + n - 1) / 2 ^ 31 - a / 2 ^ 31 + 1)).all fun i =>
      match s.stage3 part none (Nat.max a ((a / 2 ^ 31 + i) * 2 ^ 31)) .locate 0 with
      | .ok pa => s.isLocal pa
      | .error _ => false)

/-- The alias, raw and scale ranges of a descriptor: base and bytes (R314). -/
def fwRanges (d : List Byte) : List (Nat × Nat) :=
  let e := field d 24 8 / (if field d 33 1 = 19 then 2 else 1)
  [(field d 0 8, field d 24 8), (field d 8 8, bytesFor (fmtRaw (field d 32 1)) e), (field d 16 8, (e + 31) / 32)]

/-- Whether two ranges share a byte. -/
def rangesMeet (a b : Nat × Nat) : Bool := a.2 != 0 && b.2 != 0 && overlaps a.1 a.2 b.1 b.2

/-- Offending bytes of an enabled descriptor, for window `num` of a partition (R313). DEDUCED (log 105): another live
window is all three of its ranges, so that no alias range lies under what another window decodes. -/
def State.fwErrors (s : State) (part num : Nat) (d : List Byte) : List Nat :=
  let alias_ := (field d 0 8, field d 24 8)
  let clash := ((fwRanges d).drop 1).any (rangesMeet alias_) ||
    s.windows.any fun w => w.part = part && w.num != num && (fwRanges w.desc).any (rangesMeet alias_)
  let holds := (fwRanges d).map fun r => s.partHolds part r.1 r.2
  badAt (decide (field d 0 8 % 65536 = 0) && holds.getD 0 false && !clash) 0 ++
    badAt (decide (field d 8 8 % 256 = 0) && holds.getD 1 false) 8 ++ badAt (holds.getD 2 false) 16 ++
    badAt (decide (field d 24 8 % 65536 = 0)) 24 ++ badAt (decide (field d 32 1 ≤ 6)) 32 ++
    badAt (field d 33 1 = 19 || field d 33 1 = 16) 33 ++
    badAt (nonZero d 34 64).isEmpty 34

/-- Set window `num` of a partition; the lines of its earlier alias range are invalidated (R313). -/
def State.setWindow (s : State) (part num : Nat) (d : List Byte) : State :=
  let stale := fun (l : Nat × Nat × List Byte) => s.windows.any fun w =>
    w.part = part && w.num = num && l.1 = part && overlaps (l.2.1 * 256) 256 (w.word 0) (w.word 24)
  { s with aliasLines := s.aliasLines.filter fun l => !stale l,
           windows := (s.windows.filter fun w => !(w.part = part && w.num = num)) ++
             (if field d 32 1 = 0 then [] else [{ part := part, num := num, desc := d }]) }

/-- fwset (R313). DEDUCED (log 105): xa[63:4] that is not zero traps 0x14 with reason 2, before the alignment of xb. -/
def execFwset (a b : Reg) (s : State) : Out :=
  finish (do
    requireLevel .p (sysWord 0#7 a b 9#4)
    let s ← get
    let xa := s.rx a
    let xb := s.rx b
    requireAct (decide (xa.toNat < 16)) (weirTrap xa 2)
    requireAct (aligned xb 64) { cause := .misaligned, val := xb }
    withBlock xb 8 fun d => do
      let s ← get
      if field d 32 1 != 0 then
        match s.fwErrors s.ownPart xa.toNat d with
        | o :: r => raiseAct (weirTrap (BitVec.ofNat 64 (r.foldl Nat.min o)) 5)
        | [] => pure ()
      modify fun s => (s.setWindow s.ownPart xa.toNat d).advance) s

/-! ### Page migration (R292) -/

/-- The entries of the node at device-physical address `pa` in which memory or a dirty window line may hold a byte that is
not zero, or which hold poison. -/
def State.nodeEntries (s : State) (pa : Nat) : List Nat :=
  let dirty := s.allTasks.flatMap fun t => t.windows.flatMap fun w => w.lines.flatMap fun l =>
    if l.dirty then ((w.linePa l.line).map fun a => (List.range 32).map fun i => a + 8 * i).getD [] else []
  let bad := (s.poison.flatMap fun m => (List.range 32).map fun i => m.idx * 256 + 8 * i) ++
    s.ecc.flatMap fun m => (List.range 4).map fun i => m.idx * 32 + 8 * i
  ((s.mem.map (·.1) ++ dirty ++ bad).filterMap fun a =>
    if decide (pa ≤ a) && decide (a < pa + 65536) then some (pa + (a - pa) / 8 * 8) else none).dedup

/-- The valid entries of a stage-2 tree: the entry's device-physical address, its level, its value. None where one that is
read holds poison (01_machine R24). -/
def State.entries (s : State) (part : Nat) : Nat → Nat → Nat → Option (List (Nat × Nat × Nat))
  | 0, _, _ => some []
  | f + 1, lvl, node =>
    match s.stage3 part none node .load 0 with
    | .error _ => some []
    | .ok pa =>
      ((s.nodeEntries pa).mapM fun at_ =>
        (s.readAt part (node + (at_ - pa)) at_ 8).bind fun bs =>
          let pte := ofBytes bs
          if !bitOf pte 0 then some []
          else if bitOf pte 1 then some [(at_, lvl, pte)]
          else (s.entries part f (lvl + 1) (frameOf pte)).map fun l => (at_, lvl, pte) :: l).map List.flatten

/-- The valid entries of every subpartition, with the partition. -/
def State.allEntries (s : State) : Option (List (Nat × Nat × Nat × Nat)) :=
  (s.subs.mapM fun (p : SubPart) =>
    let part := (s.partOfSub p.num).getD 16
    if p.ps2root.getLsbD 0 then (s.entries part 3 0 (frameOf p.ps2root.toNat)).map fun l => l.map fun x => (part, x)
    else some []).map List.flatten

/-- The partition-physical address that a partition's ranges map to a device-physical one. -/
def State.partAddr (s : State) (part pa : Nat) : Option Nat :=
  (s.partition part).stage3.findSome? fun e =>
    let y := s3Of e.2.1 e.2.2
    let base := y.node * 2 ^ 40 + y.base
    if y.v && decide (base ≤ pa) && decide (pa < base + y.count * 2 ^ 31) then some (y.first * 2 ^ 31 + (pa - base)) else none

/-- Where a leaf entry leads. -/
def State.leafTarget (s : State) (l : Nat × Nat × Nat × Nat) : Option Nat :=
  match s.stage3 l.1 none (if l.2.2.1 = 1 then bitsOf l.2.2.2 54 29 * 2 ^ 29 else frameOf l.2.2.2) .load 0 with
  | .ok pa => some pa
  | .error _ => none

/-- Bytes that a leaf entry maps. -/
def leafLen (l : Nat × Nat × Nat × Nat) : Nat := if l.2.2.1 = 1 then 2 ^ 29 else 2 ^ 16

/-- The entry with its frame replaced. -/
def newFrame (pte p : Nat) : Nat := pte % 2 ^ 16 + p / 65536 * 2 ^ 16 + pte / 2 ^ 55 * 2 ^ 55

/-- The marks of a unit of `size` bytes that move with a page. -/
def moveMarks (size src dst len : Nat) (l : List Mark) : List Mark :=
  (l.filter fun m => !overlaps (m.idx * size) size dst len && !overlaps (m.idx * size) size src len) ++
    ((l.filter fun m => overlaps (m.idx * size) size src len).map fun m => { m with idx := m.idx - src / size + dst / size })

/-- Where an address lies once a page has moved. -/
def movedTo (src dst len a : Nat) : Nat := if decide (src ≤ a) && decide (a < src + len) then a - src + dst else a

/-- A pin of a vector memory instruction whose leaf entries lie on a page that has moved. -/
def Xlat.moved (x : Xlat) (src dst len : Nat) : Xlat :=
  let ms := fun (l : List Nat) => l.map (movedTo src dst len)
  { x with marks := ms x.marks, reads := ms x.reads, entry := x.entry.map fun e => { e with marks := ms e.marks } }

/-- The bytes of a page at their new home, with its marks, the buffered stores that were on their way to it, and the leaf
entries on it that pins of vector memory instructions name. -/
def State.movePage (s : State) (src dst len : Nat) : State :=
  let cells := s.mem.filter fun c => decide (src ≤ c.1) && decide (c.1 < src + len)
  let move := fun (h : Hart) =>
    { h with sb := h.sb.map fun e => { e with pa := movedTo src dst len e.pa },
             flight := h.flight.map fun f => { f with pins := f.pins.map fun p => (p.1, p.2.moved src dst len) } }
  { s with mem := cells.foldl (fun m c => cellSet m (c.1 - src + dst) c.2) (cellsClear s.mem dst (dst + len)),
           poison := moveMarks 256 src dst len s.poison, ecc := moveMarks 32 src dst len s.ecc, h := move s.h,
           t := { s.t with harts := s.t.harts.map move },
           tasks := s.tasks.map fun (t : Task) => { t with harts := t.harts.map move },
           cl := { s.cl with svc := { s.cl.svc with hart := move s.cl.svc.hart } },
           clusters := s.clusters.map fun (c : Cluster) => { c with svc := { c.svc with hart := move c.svc.hart } } }

/-- PAGE_MIGRATION (R292, 11_flume R258): the page moves once no pin and no command covers it, the stage-2 entries that lead
to it lead to its new home, and the TLBs hold neither it nor a translation whose leaf entry lies on it; Flume commands go on from FIRST. While a table that is read holds
poison nothing moves (log 56). -/
def execPageMigration (src dst : Nat) (large : Bool) (s0 : State) : Out :=
  .next (
    let read := s0.allEntries
    let s := if read.isNone then s0 else s0.lookAll ((read.getD []).map fun l => l.2.1)
    let len := if large then 2 ^ 29 else 2 ^ 16
    let here := fun (pa : Nat) => overlaps pa 65536 src len || overlaps pa 65536 dst len
    let pinned := s.allTasks.any fun t => t.windows.any fun w => w.pages.any fun p => p.any fun x => here x.pa
    let leaves := (read.getD []).filter fun l => bitOf l.2.2.2 1
    let mine := leaves.filter fun l => s.leafTarget l = some src && leafLen l = len
    let ok := fun (pa : Nat) => s.isLocal pa && decide (pa % 2 ^ 40 + len ≤ 768 * 2 ^ 30) && decide (pa % len = 0)
    let other := leaves.any fun l => !(l ∈ mine) && (s.leafTarget l).any fun pa =>
      overlaps pa (leafLen l) src len || overlaps pa (leafLen l) dst len
    let stuck := mine.any fun l => (s.partAddr l.1 dst).isNone
    let led := fun (e : TlbEntry) => (e.marks.any fun m => decide (src ≤ m) && decide (m < src + len)) ||
      match s.stage3 e.part none e.out .locate 0 with
      | .ok pa => overlaps pa 65536 src len
      | .error _ => false
    if read.isNone || !ok src || !ok dst || src = dst || pinned || other || stuck || s.commandCovers none here || s.vectorPins none here then s
    else
      let s1 := (s.tlbDrop led).movePage src dst len
      mine.foldl (fun s l =>
        match s.partAddr l.1 dst with
        | some p => s.commitBytes (movedTo src dst len l.2.1) (bytesOf 8 (newFrame l.2.2.2 p))
        | none => s) s1)

/-! ### Accesses from outside (15_collectives R316, 01_machine R27) -/

/-- The new value of an atomic by its code in the order of R264: add, and, or, xor, min, max, minn, maxn, swp, cas, fadd;
none where it writes nothing. -/
def remoteAtomic (op : BitVec 4) (old x cmp : Word) : Option Word :=
  match op.toNat with
  | 0 => some (old + x)
  | 1 => some (old &&& x)
  | 2 => some (old ||| x)
  | 3 => some (old ^^^ x)
  | 4 => some (sminW old x)
  | 5 => some (smaxW old x)
  | 6 => some (uminW old x)
  | 7 => some (umaxW old x)
  | 8 => some x
  | 9 => if old = cmp then some x else none
  | 10 => some (BitVec.ofNat 64 (f32Fmt.deliver .rne
      (fvAdd .rne (f32Fmt.decode (old.toNat % 2 ^ 32)) (f32Fmt.decode (x.toNat % 2 ^ 32))).1).1)
  | _ => none

/-- Recall every line of a range. -/
def State.recallRange (s : State) (pa n : Nat) : State :=
  (List.range ((pa % 256 + n + 255) / 256)).foldl (fun s i => s.recall (pa / 256 + i) false) s

/-- An access of another agent performed at this node: the answer, and the device after it. A read of poison, an atomic
that is misaligned or of no width R264 gives, and a size beyond 256 bytes get an error response (log 38). -/
def State.performRemote (s : State) (pa : Nat) : RemoteOp → Reply × State
  | .load _ n =>
    let bad := (List.range n).any fun i => s.consumes (pa + i)
    if n = 0 || decide (256 < n) || bad then (.error, s)
    else
      let s1 := s.recallRange pa n
      (.data (cellsGet s1.mem pa n), s1)
  | .store _ bs =>
    if bs.isEmpty || decide (256 < bs.length) then (.error, s) else (.done, s.commitBytes pa bs)
  | .atomic _ op wide x cmp =>
    let n := if wide then 8 else 4
    let bad := (List.range n).any fun i => s.consumes (pa + i)
    if pa % n ≠ 0 || decide (10 < op.toNat) || (wide == decide (op.toNat = 10)) || bad then (.error, s)
    else
      let s1 := s.recallRange pa n
      let old := cellsGet s1.mem pa n
      match remoteAtomic op (BitVec.ofNat 64 (ofBytes old)) x cmp with
      | some v => (.data old, s1.commitBytes pa (bytesOf n v.toNat))
      | none => (.data old, s1)

/-- The address and size of an access. -/
def remoteSpan : RemoteOp → Nat × Nat
  | .load a n => (a, n)
  | .store a bs => (a, bs.length)
  | .atomic a _ wide _ _ => (a, if wide then 8 else 4)

/-- How an access uses the ranges of a partition. -/
def remoteKind : RemoteOp → Acc
  | .load _ _ => .load
  | .store _ _ => .store
  | .atomic _ _ _ _ _ => .amo

/-- REMOTE_REQUEST (R316): an access over UALink to an OFFSET of this node; a 128-byte write in the launch range is a
launch (16_launch R335), and an OFFSET that is not backed gets an error response. -/
def execRemoteRequest (op : RemoteOp) (s : State) : Out :=
  let (a, n) := remoteSpan op
  let base := 0xFF00000000
  if decide (base ≤ a) && decide (a < base + 256 * 4096) then
    match op with
    | .store _ bs =>
      if a % 256 = 0 && bs.length = 128 then execLaunchWriteUalink (BitVec.ofNat 12 ((a - base) / 256)) bs s
      else .next { s with replies := s.replies ++ [.error] }
    | _ => .next { s with replies := s.replies ++ [.error] }
  else if 768 * 2 ^ 30 < a + n then .next { s with replies := s.replies ++ [.error] }
  else
    let (r, s1) := s.performRemote (s.o.onode.toNat * 2 ^ 40 + a) op
    .next { s1 with replies := s1.replies ++ [r] }

/-- UE_WINDOW_ACCESS (01_machine R27): a host reaches what the ranges of a partition map on this node, at
partition-physical addresses (log 39). -/
def execUeWindowAccess (partition : Nat) (op : RemoteOp) (s : State) : Out :=
  let (a, n) := remoteSpan op
  .next (match s.stage3 partition none a (remoteKind op) 0, s.stage3 partition none (a + n - 1) (remoteKind op) 0 with
    | .ok pa, .ok pe =>
      if !s.isLocal pa || pe ≠ pa + (n - 1) then { s with replies := s.replies ++ [.error] }
      else
        match s.aliasOf partition a with
        | some w =>
          match op with
          | .load _ k =>
            if k = 0 || decide (256 < a % 256 + k) then { s with replies := s.replies ++ [.error] }
            else
              match s.aliasRead w a k with
              | some (bs, s1) => { s1 with replies := s1.replies ++ [.data bs] }
              | none => { s with replies := s.replies ++ [.error] }
          | _ => { s with replies := s.replies ++ [.error] }
        | none =>
          let (r, s1) := s.performRemote pa op
          { s1 with replies := s1.replies ++ [r] }
    | _, _ => { s with replies := s.replies ++ [.error] })

/-! ### Accesses of this device that another node does not answer (R318) -/

/-- Whether the page of a virtual address lies on another node. -/
def State.leadsAway (s : State) (va : Word) : Bool :=
  match s.translate va.toNat .load with
  | .ok x => !s.isLocal x.pa
  | .error _ => false

/-- Whether two buffered stores are one request to another node: the elements of a unit-stride vector store in one line
(15_collectives R317). -/
def SbEntry.together (e x : SbEntry) : Bool := e.unit && x.unit && e.insn = x.insn && e.pa / 256 = x.pa / 256

/-- A buffered store to another node fails: it leaves the buffer with its whole request, landed or not (log 27), and the
trap is held. Where it has landed, so have the stores that it may not pass (13_ordering R286). -/
def State.storeFails (s : State) (e : SbEntry) : State :=
  let s1 := if Config.remoteLanded s.time then s.drainWhere fun x => x == e || e.together x else s
  { s1 with h := { s1.h with
    sb := (s1.h.sb.erase e).filter fun x => !e.together x, held := s1.h.held ++ [{ cause := .access, val := e.va, val2 := 0x11#64 }] } }

/-- Whether an engine's access of the task with the turn leads to another node. -/
def State.engineAway (s : State) (handler : Bool) (va : Nat) (k : Acc) : Bool :=
  (s.scratchOff va).isNone &&
    match s.stage1 s.t.part s.t.sub s.t.asid.toNat handler va k with
    | .ok x => !s.isLocal x.pa
    | .error _ => false

/-- The access to another node that the first command of Flume channel `c` makes next, as the fault that it would be
(11_flume R257). -/
def State.copyAway (s : State) (c : Nat) : Option (FCmd × EFault) :=
  match (s.channel c).cmds with
  | [] => none
  | m :: _ =>
    let fault := fun (va : Nat) (dst : Bool) =>
      if s.engineAway m.handlerMode va (if dst then .store else .load) then some (m, ({ cause := .access, addr := va, dst := dst } : EFault)) else none
    if m.state = .stopped || s.t.enginesOut then none
    else if m.first < copies m.levels then
      (fault (m.src m.first) false).or (if m.dest.isSome then none else fault (m.dst m.first) true)
    else m.notify.bind fun x => fault x.1.toNat true

/-- An access of an engine of the task with the turn to another node fails: an elementary copy or notify write of the Flume
stops its command, and a completion write of a Weir or collective command is not made (R318). -/
def State.engineFails (s : State) : State :=
  let late := fun (va : Nat) => if s.engineAway false va .store then some ({ cause := .access, addr := va, dst := true } : EFault) else none
  let flume := (List.range 4).findSome? fun c => (s.copyAway c).map fun x => s.copyFault c x.1 x.2
  let weir := (List.range 2).findSome? fun c => (s.weirCtx c).cmds.head?.bind fun m =>
    if m.parts.any fun p => !p.finished then none
    else (m.notifies.bind late).map fun f => (s.weirNotifyFault m f).finishWeir c m
  let coll := (List.range 2).findSome? fun c => (s.collCtx c).cmds.head?.bind fun m =>
    if m.ran && kNotify m.block then (late (field m.block 24 8)).map fun f => (s.collNotifyFault m f).finishColl c m else none
  ((flume.or weir).or coll).getD s

/-- TRAPVAL2 of the trap of an access that fails: the value of R99 or R266, which is 0 for an element of a vector load,
plus 0x10 (R318). -/
def Hart.remoteVal2 (h : Hart) (v : Word) : Word := (if h.flight.isSome then 0#64 else v) + 0x10#64

/-- The remote access that the agent with the turn waits for, or its oldest store to another node, or an access of its
task's engines, fails (R318); a wait fails only when it has lasted `least` nanoseconds. -/
def State.remoteFails (s : State) (least : Nat) : State :=
  match s.h.wait with
  | some { kind := .remote va v, since := t } =>
    if t + least ≤ s.time then takeTrap { cause := .access, val := va, val2 := s.h.remoteVal2 v } false s else s
  | some { kind := .waddr _ _ va, since := t } =>
    if t + least ≤ s.time && s.leadsAway va then takeTrap { cause := .access, val := va, val2 := 0x10#64 } false s else s
  | _ =>
    match s.h.sb.find? fun e => !s.isLocal e.pa with
    | some e => s.storeFails e
    | none => if s.who = .user then s.engineFails else s

/-- REMOTE_ERROR_RESPONSE (R318). -/
def execRemoteErrorResponse (s : State) : Out := .next (s.remoteFails 0)

/-- REMOTE_ACCESS_TIMEOUT (R318): no response within 2 ms. -/
def execRemoteAccessTimeout (s : State) : Out := .next (s.remoteFails 2000000)

/-! ### Link failure (R331) -/

/-- Whether a collective context's group contains a node. -/
def CollCtx.hasNode (x : CollCtx) (node : Nat) : Bool :=
  x.group.any fun g => (List.range (grpN g)).any fun r => grpNode g r = node

/-- The commands of a context that have not run fail (R331). -/
def CollCtx.lose (x : CollCtx) : CollCtx :=
  { x with cmds := x.cmds.map fun m => if m.ran then m else { m with ran := true, failed := true } }

/-- The engines of a context re-form after a failed link: a chunk of its first command that is not acknowledged is
computed again (R331). -/
def CollCtx.reform (x : CollCtx) : CollCtx :=
  { x with cmds := match x.cmds with
      | [] => []
      | m :: r => (if m.ran then m else { m with done := m.acked, held := [] }) :: r }

/-- A member's node is lost: the commands of its groups fail, each with an event for S (R331). -/
def State.loseNode (s : State) (node : Nat) : State :=
  let hit := s.allTasks.flatMap fun t => (List.range 2).flatMap fun c =>
    let x := t.coll.toList.getD c {}
    if x.hasNode node then (x.cmds.filter fun m => !m.ran).map fun _ => (t.sub, t.home, c) else []
  let s1 := s.mapTasks fun t => { t with coll := t.coll.map fun x => if x.hasNode node then x.lose else x }
  hit.foldl (fun s h => s.eventS h.1 (some h.2.1) 4 h.2.2) s1

/-- LINK_FAILURE (R331, 18_partitions R378): event 2 goes to O and to P of each partition with a share; the engines
re-form their rings, and commands of a group whose member is lost fail. -/
def execLinkFailure (port : Nat) (lostNode : Option Nat) (s : State) : Out :=
  .next (
    let parts := (List.range 16).filter fun p => (s.holderTree (.part p)).any fun h => decide (0 < s.amount 6 h)
    let s1 := parts.foldl (fun s p => s.eventP p 2 port) (s.eventO 2 port)
    let s2 := s1.mapTasks fun t => { t with coll := t.coll.map CollCtx.reform }
    match lostNode with
    | some n => s2.loseNode n
    | none => s2)

/-! ### Fencing (R380, 01_machine R22 to R25) -/

/-- Set the poison bit of a line anew. -/
def State.poisonLine (s : State) (line : Nat) : State :=
  { s with poison := (s.poison.filter fun m => m.idx != line) ++ [{ idx := line, written := [] }] }

/-- The lines that a task held dirty are poisoned (01_machine R24). -/
def State.poisonDirty (s : State) (t : Task) : State :=
  t.windows.foldl (fun s w => w.lines.foldl (fun s l =>
    match w.linePa l.line with
    | some pa => if l.dirty then s.poisonLine (pa / 256) else s
    | none => s) s) s

/-- A task of a fenced chiplet, which starts again (01_machine R25). The reset does not reach its Weir and collective
contexts (R22, 14_weir R312, 15_collectives R320). -/
def Task.again (t : Task) (uid : Nat) : Task :=
  { used := true, uid := uid, queue := t.queue, launch := t.launch, ord := t.ord, wi := t.wi, group := t.group, asid := t.asid,
    part := t.part, sub := t.sub, packet := t.packet, run := .rerun, home := 32, weir := t.weir, weirDrawn := t.weirDrawn,
    coll := t.coll, harts := [{}] }

/-- The device without the task with the turn, which is to be run again: the contexts that it drew stay drawn. -/
def State.runAgain (s : State) : State :=
  let t := s.t
  let v := ({ s with t := { t with weirDrawn := false, coll := t.coll.map fun x => { x with drawn := false } } } : State).vacate
  ({ v with tasks := v.tasks ++ [t.again v.nextUid], nextUid := v.nextUid + 1 } : State).mapLaunch t.queue.toNat t.launch fun l =>
    l.mapRec t.group fun r => { r with rerun := true }

/-- The device without the task with the turn, which is lost: its Weir and collective commands run on. -/
def State.loseHere (s : State) : State :=
  let t := s.t
  let kept := if t.commandsRun then [t.ghost] else []
  let v := ({ s with t := if t.commandsRun then { t with weirDrawn := false, coll := t.coll.map fun x => { x with drawn := false } } else t } :
    State).vacate
  ({ v with tasks := v.tasks ++ kept } : State).taskEnded t.queue.toNat t.launch t.group t.part true

/-- A task loses its chiplet: what it had there is gone, and it is to be run again or is lost (01_machine R22, R25). -/
def State.loseTask (s : State) (t : Task) : State :=
  let s1 := (s.poisonDirty t).focusHart t.uid (s.leadHart t.uid)
  let s2 : State := { s1 with h := {}, t := { s1.t with
    harts := [], windows := [], savedNames := [], savedViews := [], kept := [], pubs := [], drops := [] } }
  if pkRerun t.packet then s2.runAgain else s2.loseHere

/-- A task that stands elsewhere is lost with a trap of it that waited on the chiplet, or is to be run again (R380): it
leaves its cluster in order. -/
def State.loseElsewhere (s : State) (t : Task) : State :=
  if pkRerun t.packet then
    match dropWork (s.focusHart t.uid (s.leadHart t.uid)) with
    | .ok (_, p) =>
      let q := p.runAgain
      match t.onCore with
      | some c => q.startPreload t.home c
      | none => q
    | .error _ => s
  else s.abandon t.uid

/-- Whether a cluster lies on a chiplet (01_machine R9). -/
def onChiplet (chiplet n : Nat) : Bool := n / 4 = chiplet

/-- Whether a task's state stands on a chiplet: it is resident, or parked with a part that is not saved. -/
def Task.standsOn (t : Task) (chiplet : Nat) : Bool :=
  onChiplet chiplet t.home &&
    match t.run with
    | .resident _ => true
    | .parked => !t.mayMove
    | _ => false

/-- Whether a hart of the task waits for the answer to a trap that stands in a queue of a service core of the chiplet, or in
its hands (R380). -/
def State.trapWaitsOn (s : State) (chiplet : Nat) (t : Task) : Bool :=
  s.allClusters.any fun c => onChiplet chiplet c.num &&
    (c.svc.squeue ++ c.svc.sheld ++ c.svc.srec.toList ++ c.svc.pqueue ++ c.svc.pheld ++ c.svc.prec.toList).any fun r =>
      r.task = some t.uid && t.harts.any fun h => h.id = r.hartid && h.run = .trapped

/-- A cluster out of service: what its chiplet held is lost (01_machine R22). -/
def Cluster.fenced (c : Cluster) : Cluster := { num := c.num, service := false }

/-- The cluster-scope barriers of the groups whose last cluster lies on a chiplet are lost with it (12_sync R270). -/
def State.loseBarriers (s : State) (chiplet : Nat) : State :=
  let gone := fun (k : Nat × Nat × Nat) => (s.queue? k.1).any fun q => q.launches.any fun l => l.num = k.2.1 &&
    l.recs.any fun r => r.g = k.2.2 && onChiplet chiplet r.cluster
  { s with barriers := s.barriers.filter fun x => !gone x.1 }

/-- Fence a chiplet (R380, steps 1 to 4, and R381). The TLB entries of the subpartitions that it worked for go (log 7). -/
def State.fence (s : State) (chiplet : Nat) : State :=
  if chiplet ∈ s.degraded || decide (8 ≤ chiplet) then s
  else
    let held := (List.range 16).filter fun p => s.allClusters.any fun c => onChiplet chiplet c.num &&
      ((c.sub.bind fun n => s.partOfSub n) = some p || s.grants.any fun g => g.holder = .part p && g.held && g.covers 0 c.num)
    let s1 := s.packed
    let s2 := (s1.tasks.filter fun t => onChiplet chiplet t.home && t.isPreload).foldl (fun s t => s.dropPreload t) s1
    let here := s2.tasks.filter fun t => t.standsOn chiplet
    let away := s2.tasks.filter fun t => !t.standsOn chiplet && s2.trapWaitsOn chiplet t
    let s3 := (away.foldl (fun s t => s.loseElsewhere t) (here.foldl (fun s t => s.loseTask t) s2)).loseBarriers chiplet
    let gone := (s.allClusters.filter fun c => onChiplet chiplet c.num).filterMap (·.sub)
    let s4 : State := { s3.mapClusters (fun c => if onChiplet chiplet c.num then c.fenced else c) with
      degraded := s3.degraded ++ [chiplet],
      tlb := s3.tlb.filter fun e => !(e.sub ∈ gone),
      grants := s3.grants.flatMap fun g =>
        match g.holder with
        | .sub _ => g.without { cls := 0, first := 4 * chiplet, count := 4 }
        | _ => [g] }
    let s5 := held.foldl (fun s p => s.eventP p 6 chiplet) (s4.eventO 6 chiplet)
    let s6 := s5.eventO 7 (s5.allClusters.filter (·.service)).length
    if onChiplet chiplet s.cl.num && s.who = .service then s6 else s.refocus s6

/-- THEIG_LINK_FAILURE (R380). -/
def execTheigLinkFailure (chiplet : Nat) (s : State) : Out := .next (s.fence chiplet)

/-- WATCHDOG_EXPIRY (R380). -/
def execWatchdogExpiry (chiplet : Nat) (s : State) : Out := .next (s.fence chiplet)

/-- SERVICE_CORE_SOFT_ERROR (R380): an uncorrectable soft error of a service core. -/
def execServiceCoreSoftError (cluster : Nat) (s : State) : Out := .next (s.fence (cluster / 4))

/-- FENCE_COMMAND (R380): the owner fences a chiplet. -/
def execFenceCommand (chiplet : Nat) (s : State) : Out := .next (s.fence chiplet)

/-- CHIPLET_RESET (R380, step 5): a fenced chiplet is reset and held out of service. -/
def execChipletReset (chiplet : Nat) (s : State) : Out :=
  .next (if chiplet ∈ s.degraded then s.mapClusters fun c => if onChiplet chiplet c.num then c.fenced else c else s)

/-! ### Power and bring-up -/

/-- POWER_THROTTLE (01_machine R15): the compute clock moves in steps of 100 MHz, between 1.2 GHz and 2.1 GHz, by the
measured power. -/
def execPowerThrottle (watts : Nat) (s : State) : Out :=
  .next { s with mhz := if s.o.oplim.toNat < watts then Nat.max 1200 (s.mhz - 100) else Nat.min 2100 (s.mhz + 100) }

/-- POWER_ON (R382): the device as bring-up leaves it, with its node number, the chiplets that fail their test fenced. -/
def execPowerOn (node : BitVec 10) (failed : List Nat) (s : State) : Out :=
  let s0 : State := { State.reset with agenda := s.agenda }
  .next (failed.foldl State.fence { s0 with o := { s0.o with onode := node } })

/-! ### Soft errors (R147, R361, R380) -/

/-- SRAM_SOFT_ERROR (R380): what can be corrected is, and is counted; data that cannot are poisoned; an error of a service
core fences its chiplet. -/
def execSramSoftError (site : SramSite) (s : State) : Out :=
  .next (match site with
    | .swatch c i => s.mapCluster c fun k => k.mapSwatch i fun w => { w with poison := true }
    | .line a => s.poisonLine (a / 256)
    | .scratchLine a =>
      if s.who = .user && a < s.t.scrb then
        { s with t := { s.t with scrPoison := (s.t.scrPoison.filter fun m => m.idx != a / 256) ++ [{ idx := a / 256, written := [] }] } }
      else s
    | .word32 a => { s with ecc := (s.ecc.filter fun m => m.idx != a / 32) ++ [{ idx := a / 32, written := [] }] }
    | .serviceCore c => s.fence (c / 4)
    | .corrected => { s with corrected := s.corrected + 1 })

/-! ### The commit of stores (01_machine R23, 13_ordering R282 to R286) -/

/-- STORE_COMMIT (R23): store `n` of the hart's buffer is accepted at its home, unless an earlier one must go before it. -/
def execStoreCommit (n : Nat) (s : State) : Out :=
  .next (match s.h.sb[n]? with
    | none => s
    | some e =>
      if (s.h.sb.take n).all fun x => e.mayPass x then
        let s1 := s.commitEntry e
        { s1 with h := { s1.h with sb := s.h.sb.eraseIdx n } }
      else s)

end Sys2Proof.Machine
end

