-- ==== Sys2Proof/Machine/Dispatch.lean ====
section
/-! DEFINITION. One arm per constructor of Instr: its meaning, by one direct call. -/

namespace Sys2Proof.Machine

/-- The effect of an instruction or event. -/
def exec (i : Instr) (s : State) : Host.Outcome State Fault Refusal :=
  match i with
  | .add d a b => Sys2Proof.Machine.execAdd d a b s
  | .sub d a b => Sys2Proof.Machine.execSub d a b s
  | .and d a b => Sys2Proof.Machine.execAnd d a b s
  | .or d a b => Sys2Proof.Machine.execOr d a b s
  | .xor d a b => Sys2Proof.Machine.execXor d a b s
  | .sll d a b => Sys2Proof.Machine.execSll d a b s
  | .srl d a b => Sys2Proof.Machine.execSrl d a b s
  | .sra d a b => Sys2Proof.Machine.execSra d a b s
  | .slt d a b => Sys2Proof.Machine.execSlt d a b s
  | .sltn d a b => Sys2Proof.Machine.execSltn d a b s
  | .min d a b => Sys2Proof.Machine.execMin d a b s
  | .max d a b => Sys2Proof.Machine.execMax d a b s
  | .minn d a b => Sys2Proof.Machine.execMinn d a b s
  | .maxn d a b => Sys2Proof.Machine.execMaxn d a b s
  | .andn d a b => Sys2Proof.Machine.execAndn d a b s
  | .orn d a b => Sys2Proof.Machine.execOrn d a b s
  | .mul d a b => Sys2Proof.Machine.execMul d a b s
  | .mulh d a b => Sys2Proof.Machine.execMulh d a b s
  | .mulhn d a b => Sys2Proof.Machine.execMulhn d a b s
  | .div d a b => Sys2Proof.Machine.execDiv d a b s
  | .divn d a b => Sys2Proof.Machine.execDivn d a b s
  | .rem d a b => Sys2Proof.Machine.execRem d a b s
  | .remn d a b => Sys2Proof.Machine.execRemn d a b s
  | .clz d a => Sys2Proof.Machine.execClz d a s
  | .ctz d a => Sys2Proof.Machine.execCtz d a s
  | .popc d a => Sys2Proof.Machine.execPopc d a s
  | .bext d a b => Sys2Proof.Machine.execBext d a b s
  | .bins d a b => Sys2Proof.Machine.execBins d a b s
  | .addi d a imm => Sys2Proof.Machine.execAddi d a imm s
  | .andi d a imm => Sys2Proof.Machine.execAndi d a imm s
  | .ori d a imm => Sys2Proof.Machine.execOri d a imm s
  | .xori d a imm => Sys2Proof.Machine.execXori d a imm s
  | .slli d a imm => Sys2Proof.Machine.execSlli d a imm s
  | .srli d a imm => Sys2Proof.Machine.execSrli d a imm s
  | .srai d a imm => Sys2Proof.Machine.execSrai d a imm s
  | .slti d a imm => Sys2Proof.Machine.execSlti d a imm s
  | .sltni d a imm => Sys2Proof.Machine.execSltni d a imm s
  | .lhi d imm => Sys2Proof.Machine.execLhi d imm s
  | .lsh d imm => Sys2Proof.Machine.execLsh d imm s
  | .ldd d a imm => Sys2Proof.Machine.execLdd d a imm s
  | .ldw d a imm => Sys2Proof.Machine.execLdw d a imm s
  | .ldwn d a imm => Sys2Proof.Machine.execLdwn d a imm s
  | .ldbn d a imm => Sys2Proof.Machine.execLdbn d a imm s
  | .std d a imm => Sys2Proof.Machine.execStd d a imm s
  | .stw d a imm => Sys2Proof.Machine.execStw d a imm s
  | .stb d a imm => Sys2Proof.Machine.execStb d a imm s
  | .lddX d a b => Sys2Proof.Machine.execLddX d a b s
  | .ldwX d a b => Sys2Proof.Machine.execLdwX d a b s
  | .ldwnX d a b => Sys2Proof.Machine.execLdwnX d a b s
  | .ldh d a b => Sys2Proof.Machine.execLdh d a b s
  | .ldhn d a b => Sys2Proof.Machine.execLdhn d a b s
  | .ldb d a b => Sys2Proof.Machine.execLdb d a b s
  | .ldbnX d a b => Sys2Proof.Machine.execLdbnX d a b s
  | .stdX d a b => Sys2Proof.Machine.execStdX d a b s
  | .stwX d a b => Sys2Proof.Machine.execStwX d a b s
  | .sth d a b => Sys2Proof.Machine.execSth d a b s
  | .stbX d a b => Sys2Proof.Machine.execStbX d a b s
  | .beq d a imm => Sys2Proof.Machine.execBeq d a imm s
  | .bne d a imm => Sys2Proof.Machine.execBne d a imm s
  | .blt d a imm => Sys2Proof.Machine.execBlt d a imm s
  | .bge d a imm => Sys2Proof.Machine.execBge d a imm s
  | .bltn d a imm => Sys2Proof.Machine.execBltn d a imm s
  | .bgen d a imm => Sys2Proof.Machine.execBgen d a imm s
  | .bsub d a imm => Sys2Proof.Machine.execBsub d a imm s
  | .jmp imm => Sys2Proof.Machine.execJmp imm s
  | .call imm => Sys2Proof.Machine.execCall imm s
  | .jr a => Sys2Proof.Machine.execJr a s
  | .jalr d a => Sys2Proof.Machine.execJalr d a s
  | .ret => Sys2Proof.Machine.execRet s
  | .sget d reg => Sys2Proof.Machine.execSget d reg s
  | .sput d reg => Sys2Proof.Machine.execSput d reg s
  | .fflagsSyncAccess write d reg => Sys2Proof.Machine.execFflagsSyncAccess write d reg s
  | .mshapeWrite d => Sys2Proof.Machine.execMshapeWrite d s
  | .protMmClear d => Sys2Proof.Machine.execProtMmClear d s
  | .vstartRepcntRestore repcnt d => Sys2Proof.Machine.execVstartRepcntRestore repcnt d s
  | .vwin d a => Sys2Proof.Machine.execVwin d a s
  | .lfork d => Sys2Proof.Machine.execLfork d s
  | .ljoin a => Sys2Proof.Machine.execLjoin a s
  | .wid d k sel => Sys2Proof.Machine.execWid d k sel s
  | .nop => Sys2Proof.Machine.execNop s
  | .yield => Sys2Proof.Machine.execYield s
  | .tdone => Sys2Proof.Machine.execTdone s
  | .vsetl d a blk ty => Sys2Proof.Machine.execVsetl d a blk ty s
  | .rep count sd sa sb stride => Sys2Proof.Machine.execRep count sd sa sb stride s
  | .cnew d a => Sys2Proof.Machine.execCnew d a s
  | .cdrop d => Sys2Proof.Machine.execCdrop d s
  | .cshare d a => Sys2Proof.Machine.execCshare d a s
  | .cseam d a b => Sys2Proof.Machine.execCseam d a b s
  | .chemh d a b => Sys2Proof.Machine.execChemh d a b s
  | .chemt d a b => Sys2Proof.Machine.execChemt d a b s
  | .csplit d a b => Sys2Proof.Machine.execCsplit d a b s
  | .cslice d a b => Sys2Proof.Machine.execCslice d a b s
  | .cpack d a => Sys2Proof.Machine.execCpack d a s
  | .cmovv d a => Sys2Proof.Machine.execCmovv d a s
  | .cretype d a ty => Sys2Proof.Machine.execCretype d a ty s
  | .cpost d b => Sys2Proof.Machine.execCpost d b s
  | .ctake d a b => Sys2Proof.Machine.execCtake d a b s
  | .cpostTimeout => Sys2Proof.Machine.execCpostTimeout s
  | .ctakeTimeout => Sys2Proof.Machine.execCtakeTimeout s
  | .clen d a => Sys2Proof.Machine.execClen d a s
  | .cinfo d a => Sys2Proof.Machine.execCinfo d a s
  | .cpool d => Sys2Proof.Machine.execCpool d s
  | .vget d a b => Sys2Proof.Machine.execVget d a b s
  | .vput d a b => Sys2Proof.Machine.execVput d a b s
  | .vadd m sc d a b => Sys2Proof.Machine.execVadd m sc d a b s
  | .vsub m sc d a b => Sys2Proof.Machine.execVsub m sc d a b s
  | .vrsub m sc d a b => Sys2Proof.Machine.execVrsub m sc d a b s
  | .vmul m sc d a b => Sys2Proof.Machine.execVmul m sc d a b s
  | .vadds m sc d a b => Sys2Proof.Machine.execVadds m sc d a b s
  | .vsubs m sc d a b => Sys2Proof.Machine.execVsubs m sc d a b s
  | .vmulh m sc d a b => Sys2Proof.Machine.execVmulh m sc d a b s
  | .vavg m sc d a b => Sys2Proof.Machine.execVavg m sc d a b s
  | .vdiv m sc d a b => Sys2Proof.Machine.execVdiv m sc d a b s
  | .vrem m sc d a b => Sys2Proof.Machine.execVrem m sc d a b s
  | .vmin m sc d a b => Sys2Proof.Machine.execVmin m sc d a b s
  | .vmax m sc d a b => Sys2Proof.Machine.execVmax m sc d a b s
  | .vand m sc d a b => Sys2Proof.Machine.execVand m sc d a b s
  | .vor m sc d a b => Sys2Proof.Machine.execVor m sc d a b s
  | .vxor m sc d a b => Sys2Proof.Machine.execVxor m sc d a b s
  | .vandn m sc d a b => Sys2Proof.Machine.execVandn m sc d a b s
  | .vsll m sc d a b => Sys2Proof.Machine.execVsll m sc d a b s
  | .vsrl m sc d a b => Sys2Proof.Machine.execVsrl m sc d a b s
  | .vsra m sc d a b => Sys2Proof.Machine.execVsra m sc d a b s
  | .vrot m sc d a b => Sys2Proof.Machine.execVrot m sc d a b s
  | .vceq m sc d a b => Sys2Proof.Machine.execVceq m sc d a b s
  | .vcne m sc d a b => Sys2Proof.Machine.execVcne m sc d a b s
  | .vclt m sc d a b => Sys2Proof.Machine.execVclt m sc d a b s
  | .vcle m sc d a b => Sys2Proof.Machine.execVcle m sc d a b s
  | .vfadd m sc d a b => Sys2Proof.Machine.execVfadd m sc d a b s
  | .vfsub m sc d a b => Sys2Proof.Machine.execVfsub m sc d a b s
  | .vfmul m sc d a b => Sys2Proof.Machine.execVfmul m sc d a b s
  | .vfdiv m sc d a b => Sys2Proof.Machine.execVfdiv m sc d a b s
  | .vfmin m sc d a b => Sys2Proof.Machine.execVfmin m sc d a b s
  | .vfmax m sc d a b => Sys2Proof.Machine.execVfmax m sc d a b s
  | .vfma m sc d a b => Sys2Proof.Machine.execVfma m sc d a b s
  | .vfms m sc d a b => Sys2Proof.Machine.execVfms m sc d a b s
  | .vfceq m sc d a b => Sys2Proof.Machine.execVfceq m sc d a b s
  | .vfclt m sc d a b => Sys2Proof.Machine.execVfclt m sc d a b s
  | .vfcle m sc d a b => Sys2Proof.Machine.execVfcle m sc d a b s
  | .vfcun m sc d a b => Sys2Proof.Machine.execVfcun m sc d a b s
  | .vscale m sc d a b => Sys2Proof.Machine.execVscale m sc d a b s
  | .vfnma m sc d a b => Sys2Proof.Machine.execVfnma m sc d a b s
  | .vfsgn m sc d a b => Sys2Proof.Machine.execVfsgn m sc d a b s
  | .vfsqrt m d a => Sys2Proof.Machine.execVfsqrt m d a s
  | .vfrcp m d a => Sys2Proof.Machine.execVfrcp m d a s
  | .vfrsqrt m d a => Sys2Proof.Machine.execVfrsqrt m d a s
  | .vflog2 m d a => Sys2Proof.Machine.execVflog2 m d a s
  | .vfexp2 m d a => Sys2Proof.Machine.execVfexp2 m d a s
  | .vftanh m d a => Sys2Proof.Machine.execVftanh m d a s
  | .vfabs m d a => Sys2Proof.Machine.execVfabs m d a s
  | .vfneg m d a => Sys2Proof.Machine.execVfneg m d a s
  | .vabs m d a => Sys2Proof.Machine.execVabs m d a s
  | .vneg m d a => Sys2Proof.Machine.execVneg m d a s
  | .vnot m d a => Sys2Proof.Machine.execVnot m d a s
  | .vclz m d a => Sys2Proof.Machine.execVclz m d a s
  | .vpopc m d a => Sys2Proof.Machine.execVpopc m d a s
  | .vfcat m d a => Sys2Proof.Machine.execVfcat m d a s
  | .vmov m d a => Sys2Proof.Machine.execVmov m d a s
  | .vid m d => Sys2Proof.Machine.execVid m d s
  | .vcvt m sat rm d a ty => Sys2Proof.Machine.execVcvt m sat rm d a ty s
  | .vslup m d a b => Sys2Proof.Machine.execVslup m d a b s
  | .vsldn m d a b => Sys2Proof.Machine.execVsldn m d a b s
  | .vrgath m sc d a b => Sys2Proof.Machine.execVrgath m sc d a b s
  | .vcompr d a b => Sys2Proof.Machine.execVcompr d a b s
  | .vzip m d a b => Sys2Proof.Machine.execVzip m d a b s
  | .vunzip m d a b => Sys2Proof.Machine.execVunzip m d a b s
  | .vrev m d a => Sys2Proof.Machine.execVrev m d a s
  | .vmerge sc d a b => Sys2Proof.Machine.execVmerge sc d a b s
  | .vbcast m sc d b => Sys2Proof.Machine.execVbcast m sc d b s
  | .vmand d a b => Sys2Proof.Machine.execVmand d a b s
  | .vmor d a b => Sys2Proof.Machine.execVmor d a b s
  | .vmxor d a b => Sys2Proof.Machine.execVmxor d a b s
  | .vmnot d a => Sys2Proof.Machine.execVmnot d a s
  | .vmcount m d a => Sys2Proof.Machine.execVmcount m d a s
  | .vmlow m d a => Sys2Proof.Machine.execVmlow m d a s
  | .vectorPieceExecute => Sys2Proof.Machine.execVectorPieceExecute s
  | .boltWaitTimeout => Sys2Proof.Machine.execBoltWaitTimeout s
  | .instructionRetire mm => Sys2Proof.Machine.execInstructionRetire mm s
  | .vredsum m d a => Sys2Proof.Machine.execVredsum m d a s
  | .vredosum m d a => Sys2Proof.Machine.execVredosum m d a s
  | .vredmax m d a => Sys2Proof.Machine.execVredmax m d a s
  | .vredmin m d a => Sys2Proof.Machine.execVredmin m d a s
  | .vredmaxi m d a => Sys2Proof.Machine.execVredmaxi m d a s
  | .vredmini m d a => Sys2Proof.Machine.execVredmini m d a s
  | .vdraw m d a => Sys2Proof.Machine.execVdraw m d a s
  | .vdrawt m d a => Sys2Proof.Machine.execVdrawt m d a s
  | .vdrawp m d a b => Sys2Proof.Machine.execVdrawp m d a b s
  | .xdmerge d a b => Sys2Proof.Machine.execXdmerge d a b s
  | .vrand m d => Sys2Proof.Machine.execVrand m d s
  | .reductionBegin => Sys2Proof.Machine.execReductionBegin s
  | .vld m nt d a => Sys2Proof.Machine.execVld m nt d a s
  | .vlds m nt d a b => Sys2Proof.Machine.execVlds m nt d a b s
  | .vldx m nt d a b => Sys2Proof.Machine.execVldx m nt d a b s
  | .vlseg m nt d a n => Sys2Proof.Machine.execVlseg m nt d a n s
  | .vst m nt d a => Sys2Proof.Machine.execVst m nt d a s
  | .vsts m nt d a b => Sys2Proof.Machine.execVsts m nt d a b s
  | .vstx m nt d a b => Sys2Proof.Machine.execVstx m nt d a b s
  | .vsseg m nt d a n => Sys2Proof.Machine.execVsseg m nt d a n s
  | .stashEviction win line => Sys2Proof.Machine.execStashEviction win line s
  | .vsetrun d a b => Sys2Proof.Machine.execVsetrun d a b s
  | .smap d a b => Sys2Proof.Machine.execSmap d a b s
  | .sunmap a => Sys2Proof.Machine.execSunmap a s
  | .sflush a => Sys2Proof.Machine.execSflush a s
  | .mattach d a => Sys2Proof.Machine.execMattach d a s
  | .mdetach => Sys2Proof.Machine.execMdetach s
  | .mshape a => Sys2Proof.Machine.execMshape a s
  | .mzero d => Sys2Proof.Machine.execMzero d s
  | .mread d a b => Sys2Proof.Machine.execMread d a b s
  | .mwrite d a b => Sys2Proof.Machine.execMwrite d a b s
  | .msprog a => Sys2Proof.Machine.execMsprog a s
  | .msmod d a b => Sys2Proof.Machine.execMsmod d a b s
  | .mmaf z bScr aScr d a b => Sys2Proof.Machine.execMmaf z bScr aScr d a b s
  | .mmao z bScr aScr d a b => Sys2Proof.Machine.execMmao z bScr aScr d a b s
  | .matrixOpExecute n mm => Sys2Proof.Machine.execMatrixOpExecute n mm s
  | .matrixOpComplete n => Sys2Proof.Machine.execMatrixOpComplete n s
  | .fsetl c l a b => Sys2Proof.Machine.execFsetl c l a b s
  | .fgo c a b => Sys2Proof.Machine.execFgo c a b s
  | .fgov d c b => Sys2Proof.Machine.execFgov d c b s
  | .fnotify c a b => Sys2Proof.Machine.execFnotify c a b s
  | .fdrain c => Sys2Proof.Machine.execFdrain c s
  | .fcancel c => Sys2Proof.Machine.execFcancel c s
  | .fresume c => Sys2Proof.Machine.execFresume c s
  | .fstat d c => Sys2Proof.Machine.execFstat d c s
  | .fdrainTimeout => Sys2Proof.Machine.execFdrainTimeout s
  | .flumeCommandRun c => Sys2Proof.Machine.execFlumeCommandRun c s
  | .flumeCommandComplete c => Sys2Proof.Machine.execFlumeCommandComplete c s
  | .amoadd d a b => Sys2Proof.Machine.execAmoadd d a b s
  | .amoand d a b => Sys2Proof.Machine.execAmoand d a b s
  | .amoor d a b => Sys2Proof.Machine.execAmoor d a b s
  | .amoxor d a b => Sys2Proof.Machine.execAmoxor d a b s
  | .amomin d a b => Sys2Proof.Machine.execAmomin d a b s
  | .amomax d a b => Sys2Proof.Machine.execAmomax d a b s
  | .amominn d a b => Sys2Proof.Machine.execAmominn d a b s
  | .amomaxn d a b => Sys2Proof.Machine.execAmomaxn d a b s
  | .amoswp d a b => Sys2Proof.Machine.execAmoswp d a b s
  | .amocas d a b => Sys2Proof.Machine.execAmocas d a b s
  | .amofadd d a b => Sys2Proof.Machine.execAmofadd d a b s
  | .amoaddAr d a b => Sys2Proof.Machine.execAmoaddAr d a b s
  | .amoandAr d a b => Sys2Proof.Machine.execAmoandAr d a b s
  | .amoorAr d a b => Sys2Proof.Machine.execAmoorAr d a b s
  | .amoxorAr d a b => Sys2Proof.Machine.execAmoxorAr d a b s
  | .amominAr d a b => Sys2Proof.Machine.execAmominAr d a b s
  | .amomaxAr d a b => Sys2Proof.Machine.execAmomaxAr d a b s
  | .amominnAr d a b => Sys2Proof.Machine.execAmominnAr d a b s
  | .amomaxnAr d a b => Sys2Proof.Machine.execAmomaxnAr d a b s
  | .amoswpAr d a b => Sys2Proof.Machine.execAmoswpAr d a b s
  | .amocasAr d a b => Sys2Proof.Machine.execAmocasAr d a b s
  | .amofaddAr d a b => Sys2Proof.Machine.execAmofaddAr d a b s
  | .ldacq d a imm => Sys2Proof.Machine.execLdacq d a imm s
  | .strel d a imm => Sys2Proof.Machine.execStrel d a imm s
  | .fence scope pred succ => Sys2Proof.Machine.execFence scope pred succ s
  | .binit a b => Sys2Proof.Machine.execBinit a b s
  | .barr d a => Sys2Proof.Machine.execBarr d a s
  | .bwait a b => Sys2Proof.Machine.execBwait a b s
  | .barw d a => Sys2Proof.Machine.execBarw d a s
  | .bwaitd d a b => Sys2Proof.Machine.execBwaitd d a b s
  | .bgenBar d a => Sys2Proof.Machine.execBgenBar d a s
  | .barrierDeadline => Sys2Proof.Machine.execBarrierDeadline s
  | .waddr d a b => Sys2Proof.Machine.execWaddr d a b s
  | .tread d c => Sys2Proof.Machine.execTread d c s
  | .twait d c b => Sys2Proof.Machine.execTwait d c b s
  | .waddrTimeout => Sys2Proof.Machine.execWaddrTimeout s
  | .twaitTimeout => Sys2Proof.Machine.execTwaitTimeout s
  | .nbind c a b => Sys2Proof.Machine.execNbind c a b s
  | .nunbind c b => Sys2Proof.Machine.execNunbind c b s
  | .ncmd c a => Sys2Proof.Machine.execNcmd c a s
  | .nfence c => Sys2Proof.Machine.execNfence c s
  | .nstat d c => Sys2Proof.Machine.execNstat d c s
  | .nfenceTimeout => Sys2Proof.Machine.execNfenceTimeout s
  | .weirPartRun c k => Sys2Proof.Machine.execWeirPartRun c k s
  | .weirCommandComplete c => Sys2Proof.Machine.execWeirCommandComplete c s
  | .kgrp c a => Sys2Proof.Machine.execKgrp c a s
  | .kred c a => Sys2Proof.Machine.execKred c a s
  | .kgat c a => Sys2Proof.Machine.execKgat c a s
  | .kcast c a => Sys2Proof.Machine.execKcast c a s
  | .kdraw c a => Sys2Proof.Machine.execKdraw c a s
  | .collectiveRun c peers => Sys2Proof.Machine.execCollectiveRun c peers s
  | .collectiveComplete c => Sys2Proof.Machine.execCollectiveComplete c s
  | .trap code => Sys2Proof.Machine.execTrap code s
  | .tret => Sys2Proof.Machine.execTret s
  | .tdecl => Sys2Proof.Machine.execTdecl s
  | .sret a b => Sys2Proof.Machine.execSret a b s
  | .ctxsave a b => Sys2Proof.Machine.execCtxsave a b s
  | .ctxload a b => Sys2Proof.Machine.execCtxload a b s
  | .tlbinv a b => Sys2Proof.Machine.execTlbinv a b s
  | .wqpost d a b => Sys2Proof.Machine.execWqpost d a b s
  | .wqstat d a b => Sys2Proof.Machine.execWqstat d a b s
  | .fwset a b => Sys2Proof.Machine.execFwset a b s
  | .wqpostTimeout => Sys2Proof.Machine.execWqpostTimeout s
  | .pgrant d a b => Sys2Proof.Machine.execPgrant d a b s
  | .prevoke d a b => Sys2Proof.Machine.execPrevoke d a b s
  | .pdeleg d a b => Sys2Proof.Machine.execPdeleg d a b s
  | .pquery d a b => Sys2Proof.Machine.execPquery d a b s
  | .asyncTrapDelivery => Sys2Proof.Machine.execAsyncTrapDelivery s
  | .serviceCoreTakeP cluster => Sys2Proof.Machine.execServiceCoreTakeP cluster s
  | .serviceCoreTakeS cluster => Sys2Proof.Machine.execServiceCoreTakeS cluster s
  | .lydarTakeO => Sys2Proof.Machine.execLydarTakeO s
  | .launchMessage queue conn packet => Sys2Proof.Machine.execLaunchMessage queue conn packet s
  | .launchWriteUalink queue packet => Sys2Proof.Machine.execLaunchWriteUalink queue packet s
  | .launchStart queue => Sys2Proof.Machine.execLaunchStart queue s
  | .groupDispatch queue => Sys2Proof.Machine.execGroupDispatch queue s
  | .priorityAgeing queue => Sys2Proof.Machine.execPriorityAgeing queue s
  | .groupReservation queue => Sys2Proof.Machine.execGroupReservation queue s
  | .preload cluster core => Sys2Proof.Machine.execPreload cluster core s
  | .budgetExpiry => Sys2Proof.Machine.execBudgetExpiry s
  | .timeSliceEnd cluster => Sys2Proof.Machine.execTimeSliceEnd cluster s
  | .pageMigration src dst large => Sys2Proof.Machine.execPageMigration src dst large s
  | .remoteRequest op => Sys2Proof.Machine.execRemoteRequest op s
  | .ueWindowAccess partition op => Sys2Proof.Machine.execUeWindowAccess partition op s
  | .remoteErrorResponse => Sys2Proof.Machine.execRemoteErrorResponse s
  | .remoteAccessTimeout => Sys2Proof.Machine.execRemoteAccessTimeout s
  | .linkFailure port lostNode => Sys2Proof.Machine.execLinkFailure port lostNode s
  | .theigLinkFailure chiplet => Sys2Proof.Machine.execTheigLinkFailure chiplet s
  | .watchdogExpiry chiplet => Sys2Proof.Machine.execWatchdogExpiry chiplet s
  | .serviceCoreSoftError cluster => Sys2Proof.Machine.execServiceCoreSoftError cluster s
  | .fenceCommand chiplet => Sys2Proof.Machine.execFenceCommand chiplet s
  | .chipletReset chiplet => Sys2Proof.Machine.execChipletReset chiplet s
  | .powerThrottle watts => Sys2Proof.Machine.execPowerThrottle watts s
  | .powerOn node failed => Sys2Proof.Machine.execPowerOn node failed s
  | .orange1Write v => Sys2Proof.Machine.execOrange1Write v s
  | .okey3Write v => Sys2Proof.Machine.execOkey3Write v s
  | .oplimWrite v => Sys2Proof.Machine.execOplimWrite v s
  | .sramSoftError site => Sys2Proof.Machine.execSramSoftError site s
  | .storeCommit n => Sys2Proof.Machine.execStoreCommit n s

end Sys2Proof.Machine
end

