-- ==== Sys2Proof/Machine/Schedule.lean ====
section
/-! DEFINITION. What a step does (log 1): the instruction of the agent with the turn, fetched and decoded (03_words R53,
R65 to R68), its waits and their ends, the moves of engines and of the Headgate, and the order in which they come. -/

namespace Sys2Proof.Machine

/-! ### The instruction of a word -/

/-- The trap of a word that is no instruction (03_words R68). -/
def illegalWord (w : IWord) (s : State) : Out := .next (takeTrap { cause := .illegal, val := w.setWidth 64 } false s)

/-- The effect of a word. -/
noncomputable def execWord (w : IWord) (s : State) : Out :=
  match decode w with
  | .ok i => exec i s
  | .error _ => illegalWord w s

/-- A step of an instruction with the low bits of a field (03_words R57), for compiled code. -/
def lowField {n : Nat} (limit : Nat) (f : Reg) (bad : Out) (k : BitVec n → Out) : Out :=
  if f.toNat < limit then k (f.setWidth n) else bad

/-- A word of major 0x68, for compiled code. -/
def fast68 (f : Fields) (bad : Out) (s : State) : Out :=
  if f.b = 0#7 then
    match f.fn.toNat with
    | 0 => lowField 2 f.d bad fun c => execKgrp c f.a s
    | 1 => lowField 2 f.d bad fun c => execKred c f.a s
    | 2 => lowField 2 f.d bad fun c => execKgat c f.a s
    | 3 => lowField 2 f.d bad fun c => execKcast c f.a s
    | 4 => lowField 2 f.d bad fun c => execKdraw c f.a s
    | _ => bad
  else bad

/-- A word of major 0x6C, for compiled code. -/
def fast6C (f : Fields) (bad : Out) (s : State) : Out :=
  let da := f.b = 0#7 ∧ f.a = 0#7 ∧ f.d = 0#7
  match f.fn.toNat with
  | 0 => if f.b = 0#7 then if f.d = 0#7 then execTrap f.a s else bad else bad
  | 1 => if da then execTret s else bad
  | 2 => if da then execTdecl s else bad
  | 3 => if f.d = 0#7 then execSret f.a f.b s else bad
  | 4 => if f.d = 0#7 then execCtxsave f.a f.b s else bad
  | 5 => if f.d = 0#7 then execCtxload f.a f.b s else bad
  | 6 => if f.d = 0#7 then execTlbinv f.a f.b s else bad
  | 7 => execWqpost f.d f.a f.b s
  | 8 => execWqstat f.d f.a f.b s
  | 9 => if f.d = 0#7 then execFwset f.a f.b s else bad
  | _ => bad

/-- A word of major 0x6D, for compiled code. -/
def fast6D (f : Fields) (bad : Out) (s : State) : Out :=
  match f.fn.toNat with
  | 0 => execPgrant f.d f.a f.b s
  | 1 => execPrevoke f.d f.a f.b s
  | 2 => execPdeleg f.d f.a f.b s
  | 3 => execPquery f.d f.a f.b s
  | _ => bad

/-- The effect of a word, for compiled code. -/
def execWordFast (w : IWord) (s : State) : Out :=
  let f := splitWord w
  match f.op.toNat with
  | 0x68 => fast68 f (illegalWord w s) s
  | 0x6C => fast6C f (illegalWord w s) s
  | 0x6D => fast6D f (illegalWord w s) s
  | _ =>
    match decodeLow f with
    | .ok i => exec i s
    | .error _ => illegalWord w s

/-! ### The turn of an agent -/

/-- The word at `pc` for `k`, or what the fetch comes to (R53, 13_ordering R293). -/
def fetchThen (pc : Word) (k : IWord → State → Out) (s : State) : Out :=
  match fetchAt pc.toNat s with
  | .ok (w, s1) => k w s1
  | .error (.trap tr) => .next (takeTrap tr false s)
  | .error (.wait x) => .next (s.enterWait x)
  | .error (.fault f) => .fault f

/-- The state of an outcome changed. -/
def Out.map (f : State → State) (o : Out) : Out :=
  match o with
  | .next s => .next (f s)
  | .fault x => .fault x
  | .refused r => .refused r

/-- The instruction that the hart has under way goes on; its task needs the vector context of its core (17_traps R359). A fold
that has none is undone, and issues again (08_draws R184). -/
def continueHere (s : State) : Out :=
  if s.who = .user then
    match s.vectorContext with
    | .ok s1 => continueFlight s1
    | .error save => .next (takeTrap { cause := .vswitch, val := save } false s.undoFold)
  else continueFlight s

/-- Whether a word is a `rep` (R65). -/
def isRep (w : IWord) : Bool := (splitWord w).op = 0x22#7

/-- The next repeat under the prefix `r` (R65 to R67): the word after the `rep`, its fields stepped. -/
def repeatStep (run : IWord → State → Out) (r : Rep) (s : State) : Out :=
  let pc0 := s.h.pc
  Out.map (fun t => { t with h := t.h.afterRepeat pc0 })
    (if s.h.flight.isSome then continueHere s
     else fetchThen (pc0 + 4#64) (fun w t => run (r.word t.h.repcnt.toNat w) t) s)

/-- The agent's next instruction: a repeat, an issued instruction that waits, one that stopped before its end, which may
stand under a repeat, or a new one. -/
def issue (run : IWord → State → Out) (s : State) : Out :=
  match s.h.rep with
  | some r => repeatStep run r s
  | none =>
    if s.h.flight.isSome && s.h.wait.isSome then continueHere s
    else if s.h.flight.isSome then fetchThen s.h.pc (fun w t => if isRep w then run w t else continueHere t) s
    else fetchThen s.h.pc run s

/-- The trap of a comparison that fails twice: its values are not stated (17_traps R362). -/
def State.mismatchTrap (s : State) : Trap :=
  { cause := .mismatch, val := Config.trapValue s.time 0, val2 := Config.trapValue s.time 1 }

/-- The outcome that the comparison of a mirrored pair has left for this instruction (17_traps R362): on a mismatch it is
squashed and issued once more, and on a second one it stops, which Lydar logs. -/
def mirrored (run : IWord → State → Out) (s : State) : Out :=
  let s1 := { s with h := { s.h with mirror := .agree } }
  match s.h.mirror with
  | .agree => issue run s
  | .retried =>
    let s2 := s1.squash
    issue run { s2 with t := { s2.t with mm := true } }
  | .persists =>
    let s2 := s1.squash
    .next (takeTrap s.mismatchTrap false { s2 with lydarLog := s2.lydarLog ++ [s2.trapRecord s.mismatchTrap false] })

/-- Whether the wait of the hart with the turn has reached its limit, and what then ends it. -/
def State.limit (s : State) : Option (State → Out) :=
  match s.h.wait with
  | none => none
  | some w =>
    match w.kind with
    | .cpost _ => if s.waitedOut w then some execCpostTimeout else none
    | .ctake _ _ => if s.waitedOut w then some execCtakeTimeout else none
    | .fdrain _ => if s.waitedOut w then some execFdrainTimeout else none
    | .waddr _ _ _ => if s.waitedOut w then some execWaddrTimeout else none
    | .twait _ _ _ => if s.waitedOut w then some execTwaitTimeout else none
    | .nfence _ _ => if s.waitedOut w then some execNfenceTimeout else none
    | .wqpost _ => if s.waitedOut w then some execWqpostTimeout else none
    | .bolt =>
      let t := ((s.h.flight.bind (·.boltSince)).getD w.since)
      if t + 10000 ≤ s.time then some execBoltWaitTimeout else none
    | .bwaitd _ num gen =>
      match s.barrier? num with
      | some (_, b) => if !phaseDone b.g gen && s.deadlinePassed then some execBarrierDeadline else none
      | none => none
    | .barw _ | .remote _ _ | .other => none

/-- Whether the residency of a task has lasted its budget, and it can be pre-empted or P is to hear that it cannot
(16_launch R344); while neither is so the task runs on. -/
def State.budgetDueOf (s : State) (t : Task) : Bool :=
  let b := pkBudget t.packet
  (match t.run with
    | .resident _ => true
    | _ => false) &&
    b ≠ 0 && decide (t.since + b ≤ s.time) && ((s.budgetSaved t).isSome || ((s.slotFor t).isNone && s.lackSlot t.sub != s))

/-- Whether the budget of the task with the turn has run out. -/
def State.budgetDue (s : State) : Bool := s.who = .user && s.budgetDueOf s.t

/-- Whether the agent with the turn can issue; S code is broken off at its boundary where the P queue holds an entry
(17_traps R354). -/
def State.canIssue (s : State) : Bool :=
  match s.who with
  | .user => s.h.run = .ready && (match s.t.run with | .resident _ => true | _ => false)
  | .service => s.h.run = .ready && s.cl.service && s.cl.svc.running.isSome && (s.cl.svc.running = some .p || s.cl.svc.pqueue.isEmpty)
  | _ => false

/-- What ends the wait `w` at its limit, where the instruction waits in it still. -/
def unlessDone (f : State → Out) (w : Option Wait) (o : Out) : Out :=
  match o with
  | .next s => if s.h.wait = w then f s else .next s
  | o => o

/-- The turn of the agent: an asynchronous trap that is due (17_traps R403), the end of its budget, or its next instruction;
where that still waits when its limit is reached, the end of its wait. -/
def turn (run : IWord → State → Out) (s : State) : Out :=
  if !s.canIssue then .next s
  else if s.h.due.isSome then execAsyncTrapDelivery s
  else if s.budgetDue then execBudgetExpiry s
  else
    match s.limit with
    | some f => unlessDone f s.h.wait (mirrored run s)
    | none => mirrored run s

/-! ### The moves of the others -/

/-- A move of an engine of a task. -/
inductive EngineMove where
  | matrixRun (n : Nat) | matrixEnd (n : Nat)
  | flumeRun (c : BitVec 2) | flumeEnd (c : BitVec 2)
  | weirRun (c : BitVec 1) (k : Nat) | weirEnd (c : BitVec 1)
  | collRun (c : BitVec 1) | collEnd (c : BitVec 1)
  deriving DecidableEq, Repr

/-- A move that is not an agent's turn. -/
inductive Move where
  | lydar
  | takeP (cluster : Nat) | takeS (cluster : Nat)
  | engine (task : Nat) (m : EngineMove)
  | round (cluster : Nat)
  | commit (a : Agent)
  | budget (task : Nat)
  | age (queue : Nat) | reserve (queue : Nat) | start (queue : Nat) | dispatch (queue : Nat)
  deriving DecidableEq, Repr

/-- The next move of a task's matrix queue. -/
def Task.matrixMove (t : Task) : Option EngineMove :=
  t.matrix.queue.findSome? fun o =>
    if o.executed then some (.matrixEnd o.n) else if t.matrix.eligible o then some (.matrixRun o.n) else none

/-- Whether a channel holds a command that has copies to make. -/
def Task.copying (t : Task) (x : Channel) : Bool :=
  !t.enginesOut && x.cmds.head?.any fun m => m.state != .stopped && decide (m.first < copies m.levels)

/-- The next move of a Flume channel: it copies while it has turns in this round (11_flume R260). -/
def Task.flumeMove (t : Task) (c : BitVec 2) : Option EngineMove :=
  match (t.flume.toList.getD c.toNat {}).cmds with
  | [] => none
  | m :: _ =>
    if m.state = .stopped || t.enginesOut then none
    else if copies m.levels ≤ m.first then some (.flumeEnd c)
    else if 0 < (t.flume.toList.getD c.toNat {}).credit then some (.flumeRun c) else none

/-- The next move of a Weir context. -/
def Task.weirMove (t : Task) (c : BitVec 1) : Option EngineMove :=
  match (t.weir.toList.getD c.toNat {}).cmds with
  | [] => none
  | m :: _ =>
    match (List.range m.parts.length).find? fun k => (m.parts[k]?).any fun p => !p.finished with
    | some k => some (.weirRun c k)
    | none => some (.weirEnd c)

/-- The next move of a collective context: a group of one rank needs no peer. -/
def Task.collMove (t : Task) (c : BitVec 1) : Option EngineMove :=
  let x := t.coll.toList.getD c.toNat {}
  match x.cmds with
  | [] => none
  | m :: _ => if m.ran then some (.collEnd c) else if x.group.any fun g => grpN g = 1 then some (.collRun c) else none

/-- The moves that a task's engines can make. One to be run again has only what a chiplet reset did not reach. -/
def Task.engineMoves (t : Task) : List EngineMove :=
  let kept := (t.weirMove 0#1).toList ++ (t.weirMove 1#1).toList ++ (t.collMove 0#1).toList ++ (t.collMove 1#1).toList
  match t.run with
  | .preloaded _ | .rerun => kept
  | _ =>
    t.matrixMove.toList ++ (t.flumeMove 0#2).toList ++ (t.flumeMove 1#2).toList ++ (t.flumeMove 2#2).toList ++
      (t.flumeMove 3#2).toList ++ kept

/-- A cluster whose Flume has copies to make and no channel with turns left begins a new round (R260). -/
def State.roundMove (s : State) : Option Move :=
  (s.allTasks.find? fun t => t.flume.any (t.copying ·) &&
    !(s.allTasks.any fun u => u.home = t.home && u.flume.any fun x => u.copying x && decide (0 < x.credit))).map fun t => .round t.home

/-- A round of the Flume of cluster `n` begins: each channel with a running command gets its launch priority plus 1 turns of
4 KiB, less what its last copy moved beyond its turns (R260). -/
def State.newRound (s : State) (n : Nat) : State :=
  s.mapTasks fun t =>
    if t.home = n then
      { t with flume := t.flume.map fun x =>
          { x with credit := if t.copying x then (if x.credit < 0 then x.credit else 0) + 4096 * (pkPrio t.packet + 1 : Nat) else 0 } }
    else t

/-- The effect of a move of the engines of the task with the turn. -/
def EngineMove.run (m : EngineMove) (s : State) : Out :=
  match m with
  | .matrixRun n => execMatrixOpExecute n .agree s
  | .matrixEnd n => execMatrixOpComplete n s
  | .flumeRun c => execFlumeCommandRun c s
  | .flumeEnd c => execFlumeCommandComplete c s
  | .weirRun c k => execWeirPartRun c k s
  | .weirEnd c => execWeirCommandComplete c s
  | .collRun c => execCollectiveRun c [] s
  | .collEnd c => execCollectiveComplete c s

/-- What a service core takes from its queues next (17_traps R354). -/
def State.takeMove (s : State) (c : Cluster) : Option Move :=
  if !c.service || (s.svcHart c).run != .ready then none
  else if !c.svc.pqueue.isEmpty then if c.svc.running = some .p then none else some (.takeP c.num)
  else if !c.svc.squeue.isEmpty && c.svc.running.isNone && c.svc.broken.isNone then some (.takeS c.num)
  else none

/-- The agents with a buffered store. -/
def State.commitMoves (s : State) : List Move :=
  (s.allTasks.flatMap fun t => (t.harts.filter fun h => !h.sb.isEmpty).map fun h => Move.commit (.hart t.uid h.id)) ++
    (s.allClusters.filter fun c => !(s.svcHart c).sb.isEmpty).map fun c => .commit (.service c.num)

/-- Whether the oldest launch of a queue that has not begun can start, or is a GANG launch that begins to wait for its turn
(16_launch R339 to R341). -/
def State.canStart (s : State) (q : Queue) : Bool :=
  match q.launches.find? fun l => !l.begun with
  | none => false
  | some l =>
    s.queueOpen q && q.turnOf l && s.depsHold l.packet &&
      (!pkGang l.packet || (s.gangFits q l && (s.served q (effPrio q l) || q.since.isNone)))

/-- Whether the next placement of a queue fits now and is served first (16_launch R340, R341). -/
def State.canPlace (s : State) (q : Queue) : Bool :=
  match s.item q with
  | none => false
  | some i => (s.itemCluster q i).isSome && s.served q (s.itemRank q i)

/-- What a queue does next. -/
def State.queueMove (s : State) (q : Queue) : Option Move :=
  if q.since.any fun t => (!q.aged && decide (t + 10000000 < s.time)) || !s.startable q then some (.age q.num)
  else if (s.reserveFor q).isSome then some (.reserve q.num)
  else if s.canStart q then some (.start q.num)
  else if s.canPlace q then some (.dispatch q.num)
  else none

/-- Element `n` of a list, counted round it. -/
def nthOf {α : Type} (l : List α) (n : Nat) : Option α := l[n % l.length]?

/-- The next move of each kind: Lydar and the service cores, engines, commits, queues, budgets. -/
def State.movesOf (s : State) (n : Nat) : Nat → Option Move
  | 0 => if s.orec.isNone && !s.oqueue.isEmpty then some .lydar else s.allClusters.findSome? s.takeMove
  | 1 => (nthOf (s.allTasks.flatMap fun t => t.engineMoves.map fun m => Move.engine t.uid m) n).or s.roundMove
  | 2 => nthOf s.commitMoves n
  | 3 => nthOf (s.queues.filterMap s.queueMove) n
  | _ => (s.allTasks.find? s.budgetDueOf).map fun t => .budget t.uid

/-- The next move that is not an agent's turn: the kinds take turns, so that none is kept back for ever (16_launch R342). -/
def State.nextMove (s : State) : Option Move :=
  (List.range 5).findSome? fun i => s.movesOf (s.moves / 5) ((s.moves + i) % 5)

/-- Give the turn to an agent. -/
def State.focus (s : State) : Agent → State
  | .hart t h => s.focusHart t h
  | .service c => s.focusService c

/-- The effect of a move, the turn where it was. -/
def Move.run (m : Move) (s : State) : Out :=
  match m with
  | .lydar => execLydarTakeO s
  | .takeP c => execServiceCoreTakeP c s
  | .takeS c => execServiceCoreTakeS c s
  | .engine t e => Out.map (s.refocus) (e.run (s.focusHart t (s.leadHart t)))
  | .round c => .next (s.newRound c)
  | .commit a => Out.map (s.refocus) (execStoreCommit 0 (s.focus a))
  | .budget t => Out.map (fun p => (s.refocus p).settleFocus) (execBudgetExpiry (s.focusHart t (s.leadHart t)))
  | .age q => execPriorityAgeing (BitVec.ofNat 12 q) s
  | .reserve q => execGroupReservation (BitVec.ofNat 12 q) s
  | .start q => execLaunchStart (BitVec.ofNat 12 q) s
  | .dispatch q => execGroupDispatch (BitVec.ofNat 12 q) s

/-! ### Who is next -/

/-- The agents that can issue. -/
def State.agents (s : State) : List Agent :=
  (s.allTasks.flatMap fun t =>
    match t.run with
    | .resident _ => (t.harts.filter fun h => h.run = .ready).map fun h => .hart t.uid h.id
    | _ => []) ++
    ((s.allClusters.filter fun c => c.service && c.svc.running.isSome && (c.svc.running = some .p || c.svc.pqueue.isEmpty) &&
      (s.svcHart c).run = .ready).map fun c => .service c.num)

/-- Place of an agent in the round. -/
def Agent.key : Agent → Nat
  | .hart t h => 2 * (8 * t + h.toNat)
  | .service c => 2 * c + 1

/-- The agent with the turn. -/
def State.me (s : State) : Option Agent :=
  match s.who with
  | .user => some (.hart s.t.uid s.h.id)
  | .service => some (.service s.cl.num)
  | _ => none

/-- The agent of lowest place. -/
def firstAgent (l : List Agent) : Option Agent :=
  l.foldl (fun m a =>
    match m with
    | none => some a
    | some b => if a.key < b.key then some a else m) none

/-- The agent after the one with the turn, in the round. -/
def State.nextAgent (s : State) : Option Agent :=
  match s.me with
  | none => firstAgent s.agents
  | some a => (firstAgent (s.agents.filter fun b => a.key < b.key)).or (firstAgent s.agents)

/-- Whether an agent other than the one with the turn can issue. -/
def State.othersIssue (s : State) : Bool := s.agents.any fun a => some a != s.me

/-- After a turn: the moves of the others, if there is one, then the next agent. -/
def State.afterTurn (s : State) : State :=
  { s with slot := if s.nextMove.isSome then .others else if s.othersIssue then .rotate else .hart }

/-- After a move. -/
def State.afterMove (s : State) : State := { s with moves := s.moves + 1, slot := if s.othersIssue then .rotate else .hart }

/-- The default schedule: TIME passes, and the agent with the turn, an engine, or the round moves. -/
def schedule (run : IWord → State → Out) (s0 : State) : Out :=
  let s := { s0 with time := s0.time + 1 }
  match s.slot with
  | .hart => Out.map State.afterTurn (turn run s)
  | .others =>
    match s.nextMove with
    | some m => Out.map State.afterMove (m.run s)
    | none => .next s.afterMove
  | .rotate =>
    let s1 := { s with slot := Slot.hart }
    match s.nextAgent with
    | some a => .next (s1.focus a)
    | none => .next s1

/-! ### Management commands of the owner (18_partitions R377) -/

/-- The owner's command as Lydar performs it at level O: its operands are in x1 and x2, and its result is x3. -/
def ownerState (xa xb : Word) (s : State) : State :=
  { s.packed with who := .lydar, h := (({} : Hart).wx 1#7 xa).wx 2#7 xb }

/-- What a management command has come to: the answer, where it does not wait. A command that traps gets an error. -/
def ownerReply (s : State) : Option Reply :=
  if s.h.wait.isSome then none else if s.h.pc = 0#64 then some .error else some (.command (s.h.rx 3#7))

/-- A management command; while it waits the others go on. -/
def ownerStep (run : IWord → State → Out) (i : Instr) (xa xb : Word) (s : State) (rest : List Agenda) : Out :=
  match exec i (ownerState xa xb s) with
  | .next p =>
    match ownerReply p with
    | some r => let q := s.refocus p; .next { q with agenda := rest, replies := q.replies ++ [r] }
    | none => schedule run (s.refocus p)
  | .fault f => .fault f
  | .refused r => .refused r

/-- A step: what the agenda brings, else the default schedule. -/
def stepWith (run : IWord → State → Out) (s : State) : Out :=
  match s.agenda with
  | [] => schedule run s
  | .event i :: rest => exec i { s with agenda := rest }
  | .tick n :: rest => .next { s with agenda := rest, time := s.time + n }
  | .forget part page :: rest => .next (({ s with agenda := rest } : State).tlbDrop fun e => e.part = part && e.page = page)
  | .focus a :: rest => .next (({ s with agenda := rest } : State).focus a)
  | .owner i xa xb :: rest => ownerStep run i xa xb s rest
  | .peer pa bs :: rest => .next (if s.isLocal pa then { s with agenda := rest } else ({ s with agenda := rest } : State).commitBytes pa bs)

/-! ### The two executors agree -/

/-- The outcome of a decoded word, or of one that is no instruction. -/
def decoded (bad : Out) (s : State) : Except DecodeErr Instr → Out
  | .ok i => exec i s
  | .error _ => bad

theorem decoded_ite (bad : Out) (s : State) (p : Prop) [Decidable p] (a b : Except DecodeErr Instr) :
    decoded bad s (if p then a else b) = if p then decoded bad s a else decoded bad s b := by
  split <;> rfl

theorem fast68_eq (f : Fields) (bad : Out) (s : State) : fast68 f bad s = decoded bad s (decodeMajor68 f) := by
  unfold fast68 decodeMajor68 zeroThen smallField lowField
  generalize f.fn.toNat = n
  by_cases h : f.b = 0#7
  · simp only [h, if_true]
    rcases n with _ | _ | _ | _ | _ | n <;> first | rfl | (by_cases hd : f.d.toNat < 2 <;> simp only [hd, if_true, if_false] <;> rfl)
  · simp only [h, if_false]
    rcases n with _ | _ | _ | _ | _ | n <;> rfl

theorem fast6C_eq (f : Fields) (bad : Out) (s : State) : fast6C f bad s = decoded bad s (decodeMajor6C f) := by
  unfold fast6C decodeMajor6C zeroThen
  generalize f.fn.toNat = n
  by_cases hb : f.b = 0#7 <;> by_cases ha : f.a = 0#7 <;> by_cases hd : f.d = 0#7 <;>
    simp only [hb, ha, hd, if_true, if_false, and_true, and_false] <;>
    (rcases n with _ | _ | _ | _ | _ | _ | _ | _ | _ | _ | n <;> rfl)

theorem fast6D_eq (f : Fields) (bad : Out) (s : State) : fast6D f bad s = decoded bad s (decodeMajor6D f) := by
  unfold fast6D decodeMajor6D
  generalize f.fn.toNat = n
  rcases n with _ | _ | _ | _ | n <;> rfl

theorem execWord_decoded (w : IWord) (s : State) : execWord w s = decoded (illegalWord w s) s (decode w) := by
  unfold execWord decoded; split <;> rfl

theorem execWord_eq_fast : execWord = execWordFast := by
  funext w s
  rw [execWord_decoded]
  unfold decode decodeFields execWordFast
  generalize splitWord w = f
  dsimp only
  generalize f.op.toNat = n
  by_cases h1 : n = 0x68
  · subst h1; exact (fast68_eq f _ s).symm
  · by_cases h2 : n = 0x6C
    · subst h2; exact (fast6C_eq f _ s).symm
    · by_cases h3 : n = 0x6D
      · subst h3; exact (fast6D_eq f _ s).symm
      · split
        · contradiction
        · contradiction
        · contradiction
        · unfold decoded
          split <;> simp_all

end Sys2Proof.Machine
end

