-- ==== Sys2Proof/Machine/Place.lean ====
section
/-! DEFINITION. How a word comes to stand where the next step fetches it (log 12): at the program counter of the agent
with the turn, or in a task of a small device that a launch could have made. -/

namespace Sys2Proof.Machine

/-- The state with nothing before the next instruction of the agent with the turn: no agenda, no asynchronous trap, wait,
or instruction under way, and no budget that has run out. -/
def State.readied (s : State) : State :=
  { s with agenda := [], slot := .hart,
           h := { s.h with held := [], wait := none, flight := none, rep := none, mirror := .agree },
           t := { s.t with since := if s.budgetDue then s.time + 1 else s.t.since } }

/-- Where the agent with the turn would fetch, on this node and through no format window. -/
def State.fetchPlace (s : State) : Option Nat :=
  if !s.canIssue || (s.scratchOff s.h.pc.toNat).isSome then none
  else
    match s.translate s.h.pc.toNat .fetch with
    | .ok x => if s.isLocal x.pa && (s.aliasFor s.ownPart x.pp).isNone then some x.pa else none
    | .error _ => none

/-- Write doublewords into memory. -/
def putWords (m : List Host.Cell) : List (Nat × Nat) → List Host.Cell
  | [] => m
  | (a, v) :: r => putWords (cellsSet m a (bytesOf 8 v)) r

/-- Rights use and manage of an item, from the owner to partition 0 and from there to subpartition 0. -/
def placeGrants (c n : Nat) : List Grant :=
  [{ cls := c, first := 0, count := n, giver := .owner, holder := .part 0, rights := 0b111#3, held := true },
   { cls := c, first := 0, count := n, giver := .part 0, holder := .sub 0, rights := 0b111#3, held := true }]

/-- The task of the small device: one hart with every lane group, 1 MiB of scratch, no bands. -/
def placeTask (s : State) : Task :=
  { used := true, uid := s.nextUid, run := .resident 0, gvl := 16384#15, poolq := 32768#16, aperture := 2 ^ 54, scrb := 2 ^ 20,
    since := s.time }

/-- A device with partition 0 and subpartition 0, which hold cluster 0, granule 0, queue 0 and ASID 0, with page tables that
map the first 512 MiB of granule 0 to themselves with every right, and with a task whose hart is at 0x10_0000. -/
def State.placed (s : State) : State :=
  let base := s.o.onode.toNat * 2 ^ 40
  let p := s.packed.withCluster 0
  { p with
    who := .user, h := { ({} : Hart) with pc := 0x100000#64 }, t := placeTask s, tasks := [], nextUid := s.nextUid + 1,
    cl := { num := 0, sub := some 0, cores := Vector.replicate 8 {} },
    grants := placeGrants 0 1 ++ placeGrants 1 1 ++ placeGrants 2 1 ++ placeGrants 3 1 ++ placeGrants 4 1 ++ placeGrants 5 1,
    amounts := (p.amounts ++ [(4, .sub 0, 16), (5, .sub 0, 16)]),
    parts := [{ num := 0, stage3 := [(0, 0x000000000002000F#64, BitVec.ofNat 64 base)] }],
    subs := [{ num := 0, ps2root := 0x10001#64, ps1tab := 0x30001#64 }], windows := [], aliasLines := [], tlb := [],
    mem := putWords p.mem [(base + 0x10000, 0x20001), (base + 0x20000, 0x3F), (base + 0x30000, 0x40001), (base + 0x40000, 0x50001), (base + 0x50000, 0x3F)],
    agenda := [], slot := .hart }

/-- Write a word at a device-physical address, whatever marks its line bears. -/
def State.putWord (s : State) (pa : Nat) (w : IWord) : State :=
  let s1 := s.commitBytes pa (bytesOf 4 w.toNat)
  { s1 with poison := s1.poison.filter fun m => m.idx != pa / 256, ecc := s1.ecc.filter fun m => m.idx != pa / 32 }

/-- The state with word `w` where the next step fetches. -/
def State.place (s : State) (w : IWord) : State :=
  match s.readied.fetchPlace with
  | some pa => s.readied.putWord pa w
  | none => s.placed.putWord (s.o.onode.toNat * 2 ^ 40 + 0x100000) w

end Sys2Proof.Machine
end

