-- ==== Sys2Proof/Machine/Step.lean ====
section
/-! DEFINITION. One step of the device, and the placing of a word for the next step. -/

namespace Sys2Proof.Machine

/-- One step (log 1). -/
noncomputable def step : State → Host.Outcome State Fault Refusal := stepWith execWord

/-- The same step with the executor that compiled code uses. -/
def stepFast : State → Host.Outcome State Fault Refusal := stepWith execWordFast

/-- They are the same. -/
@[csimp] theorem step_eq_fast : @step = @stepFast := by
  unfold step stepFast; rw [execWord_eq_fast]

/-- The state with the instruction whose bits are `w` (every instruction is one word of 32 bits, 03_words R53) where the
next step fetches (log 12). -/
def State.withFetchWord (s : State) (nbits w : Nat) : State := s.place (BitVec.ofNat 32 (w % 2 ^ nbits))

end Sys2Proof.Machine
end

