-- ==== Sys2Proof/Safety.lean ====
section
/-! DEFINITION. What the claims speak of: a safe outcome, when an agent may use vector state or scratch, what an
instruction leaves as it was, and the invariants. -/

namespace Sys2Proof.Machine

/-- An outcome is safe where the machine goes on: no fault, no refusal. -/
def Out.safe (o : Out) : Prop := ∃ t, o = .next t

/-- A run is safe at a state where the next step is. -/
def State.safe (s : State) : Prop := Out.safe (step s)

/-- The turn is a hart's whose task owns the vector context of its core (17_traps R359). -/
def State.holdsContext (s : State) : Bool := decide (s.who = .user) && decide (s.myCore.owner = some s.t.uid)

/-- The task can be given `n` more swatches: its quota and the free list both have them (06_chains R117, R129), and no
swatch is listed twice, free twice, or both allocated and free. -/
def State.swatchRoom (s : State) (n : Nat) : Bool :=
  decide (s.poolUse s.t.uid + n ≤ s.t.poolq.toNat) && decide (n ≤ s.cl.freeCount) &&
    decide ((s.cl.bolt.map Swatch.idx).Nodup) && decide (s.cl.free.Pairwise fun a b => a.1 + a.2 ≤ b.1 ∨ b.1 + b.2 ≤ a.1) &&
    s.cl.bolt.all fun w => s.cl.free.all fun r => decide (w.idx < r.1) || decide (r.1 + r.2 ≤ w.idx)

/-- The `n` bytes at `va` lie in the task's granted scratch, outside its stash windows and on no poisoned line
(09_vmem R198, R216). -/
def State.scratchFree (s : State) (va n : Nat) : Bool :=
  match s.scratchOff va with
  | some off => decide (off + n ≤ s.t.scrb) && (s.t.windowAt off).isNone &&
      !(s.t.scrPoison.any fun m => decide (m.idx = off / 256))
  | none => false

/-- The bytes of scratch from address `va` on. -/
def State.scratchBytes (s : State) (va n : Nat) : List Byte := cellsGet s.t.scratch (va - s.t.aperture) n

/-- No byte of memory, as the directory gives it, and no byte of the task's scratch differs. -/
def State.sameBytes (s t : State) : Prop :=
  (∀ pa, t.coherent pa = s.coherent pa) ∧ ∀ off, cellGet t.t.scratch off = cellGet s.t.scratch off

/-- Only the registers in `ds`, the program counter and the wait of the hart differ. -/
def State.onlyRegs (ds : List Reg) (s t : State) : Prop :=
  (∀ r, r ∉ ds → t.rx r = s.rx r) ∧ t = { s with h := { s.h with x := t.h.x, pc := t.h.pc, wait := t.h.wait } } ∧
    s.sameBytes t

/-- Memory and the scratch of every task stand in canonical form: rising addresses, no byte listed that an unlisted
address reads as. -/
def State.memoriesWf (s : State) : Prop :=
  Memory.wf s.mem = true ∧ Memory.wf s.t.scratch = true ∧ ∀ t ∈ s.tasks, Memory.wf t.scratch = true

end Sys2Proof.Machine
end

