-- ==== Sys2Proof/Certificates/Slice0/Obligations.lean ====
section
/-! DEFINITION. The statements about the DLH-1A that the provers are asked to prove. Each says in its docstring which rule of
the manual it formalises, or from which sections it is derived. -/

namespace Sys2Proof.Machine

/-- A scalar load of memory: bytes, whether it sign-extends, its destination, its address (05_control R98). -/
def scalarLoad (s : State) : Instr → Option (Nat × Bool × Reg × Word)
  | .ldd d a imm => some (8, false, d, s.rx a + imm.signExtend 64 * 8#64)
  | .ldw d a imm => some (4, true, d, s.rx a + imm.signExtend 64 * 4#64)
  | .ldwn d a imm => some (4, false, d, s.rx a + imm.signExtend 64 * 4#64)
  | .ldbn d a imm => some (1, false, d, s.rx a + imm.signExtend 64)
  | .lddX d a b => some (8, false, d, s.rx a + s.rx b)
  | .ldwX d a b => some (4, true, d, s.rx a + s.rx b)
  | .ldwnX d a b => some (4, false, d, s.rx a + s.rx b)
  | .ldh d a b => some (2, true, d, s.rx a + s.rx b)
  | .ldhn d a b => some (2, false, d, s.rx a + s.rx b)
  | .ldb d a b => some (1, true, d, s.rx a + s.rx b)
  | .ldbnX d a b => some (1, false, d, s.rx a + s.rx b)
  | _ => none

/-- A scalar store to memory: bytes, the register that holds the data, its address (R98). -/
def scalarStore (s : State) : Instr → Option (Nat × Reg × Word)
  | .std d a imm => some (8, d, s.rx a + imm.signExtend 64 * 8#64)
  | .stw d a imm => some (4, d, s.rx a + imm.signExtend 64 * 4#64)
  | .stb d a imm => some (1, d, s.rx a + imm.signExtend 64)
  | .stdX d a b => some (8, d, s.rx a + s.rx b)
  | .stwX d a b => some (4, d, s.rx a + s.rx b)
  | .sth d a b => some (2, d, s.rx a + s.rx b)
  | .stbX d a b => some (1, d, s.rx a + s.rx b)
  | _ => none

/-- The value of `n` loaded bytes, sign- or zero-extended to a register. -/
def loadedValue (n : Nat) (sign : Bool) (bs : List Byte) : Word :=
  if sign then (BitVec.ofNat (8 * n) (ofBytes bs)).signExtend 64 else (BitVec.ofNat (8 * n) (ofBytes bs)).setWidth 64

/-- The instructions that read registers and write one x-register and nothing else, with that register (R95 to R97). -/
def registerOnly : Instr → Option Reg
  | .add d _ _ | .sub d _ _ | .and d _ _ | .or d _ _ | .xor d _ _ | .sll d _ _ | .srl d _ _ | .sra d _ _
  | .slt d _ _ | .sltn d _ _ | .min d _ _ | .max d _ _ | .minn d _ _ | .maxn d _ _ | .andn d _ _ | .orn d _ _
  | .mul d _ _ | .mulh d _ _ | .mulhn d _ _ | .div d _ _ | .divn d _ _ | .rem d _ _ | .remn d _ _
  | .bext d _ _ | .bins d _ _ | .addi d _ _ | .andi d _ _ | .ori d _ _ | .xori d _ _ | .slti d _ _ | .sltni d _ _
  | .slli d _ _ | .srli d _ _ | .srai d _ _ | .clz d _ | .ctz d _ | .popc d _ | .lhi d _ | .lsh d _ => some d
  | _ => none

/-- The registers that can be written and read back: level of the range, number, writable bits (03_words R72, R75;
17_traps R354; 18_partitions R376, R377). -/
def writableRegs : List (Level × Nat × Word) :=
  [(.u, 0x003, 0x1FF#64), (.u, 0x004, 0x1FF#64), (.u, 0x005, 0x3FFFF#64), (.u, 0x006, 0x1FF#64), (.u, 0x010, 0x3#64),
   (.u, 0x016, BitVec.allOnes 64), (.u, 0x017, 0xFFFFFFFF#64), (.u, 0x018, BitVec.allOnes 64), (.u, 0x019, 0xFFFFFFFF#64),
   (.u, 0x01A, 0xFFFFFFFF#64), (.u, 0x01E, 0x3F#64), (.u, 0x01F, BitVec.allOnes 64), (.u, 0x020, BitVec.allOnes 64),
   (.u, 0x015, BitVec.allOnes 64), (.u, 0x022, 0xFF#64), (.u, 0x104, 0xFFFFFFFFFFFFFFFC#64), (.u, 0x105, 0x0D3CFF9E#64),
   (.s, 0x407, 0xFFFFFFFFFFFFFFFC#64), (.s, 0x408, BitVec.allOnes 64), (.p, 0x607, 0xFFFFFFFFFFFFFFFC#64),
   (.p, 0x608, BitVec.allOnes 64), (.p, 0x609, 0x3F#64), (.p, 0x60A, 0x007FFFFFFFFF0001#64),
   (.p, 0x60B, 0x007FFFFFFFFF0001#64), (.p, 0x60C, 0x007FFFFFFE00FFFF#64), (.p, 0x60D, 0xFFFF0001#64), (.o, 0x707, 0xFFFFFFFFFFFFFFFC#64), (.o, 0x708, BitVec.allOnes 64),
   (.o, 0x709, 0x3FF#64), (.o, 0x70A, 0x3FF#64), (.o, 0x70B, BitVec.allOnes 64), (.o, 0x70D, 0x3F#64)]

/-- The numbers of the S, P and O ranges whose registers have no writable field (17_traps R354; 18_partitions R376,
R377). -/
def readOnlyRegs : List Nat :=
  [0x400, 0x401, 0x402, 0x403, 0x404, 0x405, 0x406, 0x600, 0x601, 0x602, 0x603, 0x604, 0x605, 0x606,
   0x700, 0x701, 0x702, 0x703, 0x704, 0x705, 0x706, 0x713]

/-- The instructions that use the vector context of their core (17_traps R359). -/
def usesContext : Instr → Bool
  | .vsetrun _ _ _ | .cnew _ _ | .cdrop _ | .cshare _ _ | .cseam _ _ _ | .chemh _ _ _ | .chemt _ _ _ | .csplit _ _ _
  | .cslice _ _ _ | .cpack _ _ | .cmovv _ _ | .cretype _ _ _ | .cpost _ _ | .ctake _ _ _ | .clen _ _ | .cinfo _ _ | .cpool _
  | .vget _ _ _ | .vput _ _ _ | .xdmerge _ _ _ | .vmcount _ _ _ | .vmlow _ _ _
  | .vadd _ _ _ _ _ | .vsub _ _ _ _ _ | .vrsub _ _ _ _ _ | .vmul _ _ _ _ _ | .vadds _ _ _ _ _ | .vsubs _ _ _ _ _
  | .vmulh _ _ _ _ _ | .vavg _ _ _ _ _ | .vdiv _ _ _ _ _ | .vrem _ _ _ _ _ | .vmin _ _ _ _ _ | .vmax _ _ _ _ _
  | .vand _ _ _ _ _ | .vor _ _ _ _ _ | .vxor _ _ _ _ _ | .vandn _ _ _ _ _ | .vsll _ _ _ _ _ | .vsrl _ _ _ _ _
  | .vsra _ _ _ _ _ | .vrot _ _ _ _ _ | .vceq _ _ _ _ _ | .vcne _ _ _ _ _ | .vclt _ _ _ _ _ | .vcle _ _ _ _ _
  | .vfadd _ _ _ _ _ | .vfsub _ _ _ _ _ | .vfmul _ _ _ _ _ | .vfdiv _ _ _ _ _ | .vfmin _ _ _ _ _ | .vfmax _ _ _ _ _
  | .vfma _ _ _ _ _ | .vfms _ _ _ _ _ | .vfceq _ _ _ _ _ | .vfclt _ _ _ _ _ | .vfcle _ _ _ _ _ | .vfcun _ _ _ _ _
  | .vscale _ _ _ _ _ | .vfnma _ _ _ _ _ | .vfsgn _ _ _ _ _ | .vfsqrt _ _ _ | .vfrcp _ _ _ | .vfrsqrt _ _ _
  | .vflog2 _ _ _ | .vfexp2 _ _ _ | .vftanh _ _ _ | .vfabs _ _ _ | .vfneg _ _ _ | .vabs _ _ _ | .vneg _ _ _ | .vnot _ _ _
  | .vclz _ _ _ | .vpopc _ _ _ | .vfcat _ _ _ | .vmov _ _ _ | .vid _ _ | .vcvt _ _ _ _ _ _ | .vslup _ _ _ _ | .vsldn _ _ _ _
  | .vrgath _ _ _ _ _ | .vcompr _ _ _ | .vzip _ _ _ _ | .vunzip _ _ _ _ | .vrev _ _ _ | .vmerge _ _ _ _ | .vbcast _ _ _ _
  | .vmand _ _ _ | .vmor _ _ _ | .vmxor _ _ _ | .vmnot _ _ | .vredsum _ _ _ | .vredosum _ _ _ | .vredmax _ _ _
  | .vredmin _ _ _ | .vredmaxi _ _ _ | .vredmini _ _ _ | .vdraw _ _ _ | .vdrawt _ _ _ | .vdrawp _ _ _ _ | .vrand _ _
  | .vld _ _ _ _ | .vlds _ _ _ _ _ | .vldx _ _ _ _ _ | .vlseg _ _ _ _ _ | .vst _ _ _ _ | .vsts _ _ _ _ _ | .vstx _ _ _ _ _
  | .vsseg _ _ _ _ _ | .smap _ _ _ | .sunmap _ | .sflush _ | .mattach _ _ | .mdetach | .mshape _ | .mzero _ | .mread _ _ _
  | .mwrite _ _ _ | .msprog _ | .msmod _ _ _ | .mmaf _ _ _ _ _ _ | .mmao _ _ _ _ _ _ | .fgov _ _ _ => true
  | _ => false

/-- The swatches in `l` are referenced, and can be held once more for each time that `l` names them, with room left for
what the instruction allocates meanwhile (the limit of R129 is 255). -/
def State.canHold (s : State) (l : List Nat) : Prop := ∀ i ∈ l, 1 ≤ s.refs i ∧ s.refs i + l.count i ≤ 253

/-- The next state `t` shows at name `k` a live version of type `tag` and length `len` over the segments `segs`, one
version later than in `s`, and the hart has passed. -/
def newVersion (s t : State) (k : Nat) (tag : ElemType) (len : Nat) (segs : List Seg) : Prop :=
  (t.entry k).state = .live ∧ (t.entry k).tag = tag ∧ (t.entry k).len = len ∧ (t.entry k).segs = segs ∧
    (t.entry k).version = (s.entry k).version + 1#16 ∧ (t.entry k).dirty = true ∧ t.h.pc = s.h.pc + 4#64 ∧ t.h.x = s.h.x

/-- The collective instructions, which use the vector context at user level (17_traps R359, 15_collectives R322). -/
def collective : Instr → Bool
  | .kgrp _ _ | .kred _ _ | .kgat _ _ | .kcast _ _ | .kdraw _ _ => true
  | _ => false

/-- Those of them that only read and write registers and settings of the task, and so run at every level (03_words R69). -/
def registersOnly : Instr → Bool
  | .vsetrun _ _ _ | .xdmerge _ _ _ | .mattach _ _ | .mdetach | .mshape _ => true
  | _ => false

/-- What an instruction asks of the vector machinery, but for the word that names it in traps. -/
def lite (op : VOp) (m : Bool) (bs : BSel) (d a b : Reg) : VSpec :=
  { word := fmtA 0#7 d a b 0#4, op := op, masked := m, bsel := bs }

/-- The instructions that build one chain element by element without memory accesses, with what each computes: operation,
mask, second operand (07_vector R158 to R176, 08_draws R195, 06_chains R138). -/
def computeSpec : Instr → Option VSpec
  | .vadd m sc d a b => some (lite (.bin .add) m (if sc then .scalar else .vec) d a b)
  | .vsub m sc d a b => some (lite (.bin .sub) m (if sc then .scalar else .vec) d a b)
  | .vrsub m sc d a b => some (lite (.bin .rsub) m (if sc then .scalar else .vec) d a b)
  | .vmul m sc d a b => some (lite (.bin .mul) m (if sc then .scalar else .vec) d a b)
  | .vadds m sc d a b => some (lite (.bin .adds) m (if sc then .scalar else .vec) d a b)
  | .vsubs m sc d a b => some (lite (.bin .subs) m (if sc then .scalar else .vec) d a b)
  | .vmulh m sc d a b => some (lite (.bin .mulh) m (if sc then .scalar else .vec) d a b)
  | .vavg m sc d a b => some (lite (.bin .avg) m (if sc then .scalar else .vec) d a b)
  | .vdiv m sc d a b => some (lite (.bin .div) m (if sc then .scalar else .vec) d a b)
  | .vrem m sc d a b => some (lite (.bin .rem) m (if sc then .scalar else .vec) d a b)
  | .vmin m sc d a b => some (lite (.bin .min) m (if sc then .scalar else .vec) d a b)
  | .vmax m sc d a b => some (lite (.bin .max) m (if sc then .scalar else .vec) d a b)
  | .vand m sc d a b => some (lite (.bin .and) m (if sc then .scalar else .vec) d a b)
  | .vor m sc d a b => some (lite (.bin .or) m (if sc then .scalar else .vec) d a b)
  | .vxor m sc d a b => some (lite (.bin .xor) m (if sc then .scalar else .vec) d a b)
  | .vandn m sc d a b => some (lite (.bin .andn) m (if sc then .scalar else .vec) d a b)
  | .vsll m sc d a b => some (lite (.bin .sll) m (if sc then .scalar else .vec) d a b)
  | .vsrl m sc d a b => some (lite (.bin .srl) m (if sc then .scalar else .vec) d a b)
  | .vsra m sc d a b => some (lite (.bin .sra) m (if sc then .scalar else .vec) d a b)
  | .vrot m sc d a b => some (lite (.bin .rot) m (if sc then .scalar else .vec) d a b)
  | .vceq m sc d a b => some (lite (.bin .ceq) m (if sc then .scalar else .vec) d a b)
  | .vcne m sc d a b => some (lite (.bin .cne) m (if sc then .scalar else .vec) d a b)
  | .vclt m sc d a b => some (lite (.bin .clt) m (if sc then .scalar else .vec) d a b)
  | .vcle m sc d a b => some (lite (.bin .cle) m (if sc then .scalar else .vec) d a b)
  | .vfadd m sc d a b => some (lite (.bin .fadd) m (if sc then .scalar else .vec) d a b)
  | .vfsub m sc d a b => some (lite (.bin .fsub) m (if sc then .scalar else .vec) d a b)
  | .vfmul m sc d a b => some (lite (.bin .fmul) m (if sc then .scalar else .vec) d a b)
  | .vfdiv m sc d a b => some (lite (.bin .fdiv) m (if sc then .scalar else .vec) d a b)
  | .vfmin m sc d a b => some (lite (.bin .fmin) m (if sc then .scalar else .vec) d a b)
  | .vfmax m sc d a b => some (lite (.bin .fmax) m (if sc then .scalar else .vec) d a b)
  | .vfma m sc d a b => some (lite (.bin .fma) m (if sc then .scalar else .vec) d a b)
  | .vfms m sc d a b => some (lite (.bin .fms) m (if sc then .scalar else .vec) d a b)
  | .vfceq m sc d a b => some (lite (.bin .fceq) m (if sc then .scalar else .vec) d a b)
  | .vfclt m sc d a b => some (lite (.bin .fclt) m (if sc then .scalar else .vec) d a b)
  | .vfcle m sc d a b => some (lite (.bin .fcle) m (if sc then .scalar else .vec) d a b)
  | .vfcun m sc d a b => some (lite (.bin .fcun) m (if sc then .scalar else .vec) d a b)
  | .vscale m sc d a b => some (lite (.bin .scale) m (if sc then .scalar else .vec) d a b)
  | .vfnma m sc d a b => some (lite (.bin .fnma) m (if sc then .scalar else .vec) d a b)
  | .vfsgn m sc d a b => some (lite (.bin .fsgn) m (if sc then .scalar else .vec) d a b)
  | .vfsqrt m d a => some (lite (.un .fsqrt) m .none d a 0#7)
  | .vfrcp m d a => some (lite (.un .frcp) m .none d a 0#7)
  | .vfrsqrt m d a => some (lite (.un .frsqrt) m .none d a 0#7)
  | .vflog2 m d a => some (lite (.un .flog2) m .none d a 0#7)
  | .vfexp2 m d a => some (lite (.un .fexp2) m .none d a 0#7)
  | .vftanh m d a => some (lite (.un .ftanh) m .none d a 0#7)
  | .vfabs m d a => some (lite (.un .fabs) m .none d a 0#7)
  | .vfneg m d a => some (lite (.un .fneg) m .none d a 0#7)
  | .vabs m d a => some (lite (.un .abs) m .none d a 0#7)
  | .vneg m d a => some (lite (.un .neg) m .none d a 0#7)
  | .vnot m d a => some (lite (.un .not) m .none d a 0#7)
  | .vclz m d a => some (lite (.un .clz) m .none d a 0#7)
  | .vpopc m d a => some (lite (.un .popc) m .none d a 0#7)
  | .vfcat m d a => some (lite (.un .fcat) m .none d a 0#7)
  | .vmov m d a => some (lite (.un .mov) m .none d a 0#7)
  | .vid m d => some (lite (.un .id) m .none d 0#7 0#7)
  | .vcvt m sat rm d a ty => some (lite (.cvt sat rm ty) m .none d a 0#7)
  | .vslup m d a b => some (lite (.perm .slup) m .scalar d a b)
  | .vsldn m d a b => some (lite (.perm .sldn) m .scalar d a b)
  | .vrgath m sc d a b => some (lite (.perm .rgath) m (if sc then .scalar else .vec) d a b)
  | .vcompr d a b => some (lite (.perm .compr) false .vec d a b)
  | .vzip m d a b => some (lite (.perm .zip) m .vec d a b)
  | .vunzip m d a b => some (lite (.perm .unzip) m .scalar d a b)
  | .vrev m d a => some (lite (.perm .rev) m .none d a 0#7)
  | .vmerge sc d a b => some (lite (.perm .merge) true (if sc then .scalar else .vec) d a b)
  | .vbcast m sc d b => some (lite (.perm .bcast) m (if sc then .scalar else .vec) d 0#7 b)
  | .vmand d a b => some (lite (.mask .and) false .vec d a b)
  | .vmor d a b => some (lite (.mask .or) false .vec d a b)
  | .vmxor d a b => some (lite (.mask .xor) false .vec d a b)
  | .vmnot d a => some (lite (.mask .not) false .none d a 0#7)
  | .vrand m d => some (lite (.red .rand) m .none d 0#7 0#7)
  | .cpack d a => some (lite .pack false .none d a 0#7)
  | _ => none

/-- The vector loads (`true`) and stores with form, mask, number of fields (09_vmem R200, R203). -/
def memorySpec : Instr → Option (Bool × VMemForm × VSpec)
  | .vld m _ d a => some (true, .unit, lite (.load .unit) m .none d a 0#7)
  | .vlds m _ d a b => some (true, .strided, lite (.load .strided) m .scalar d a b)
  | .vldx m _ d a b => some (true, .indexed, lite (.load .indexed) m .vec d a b)
  | .vlseg m _ d a n => some (true, .seg, { lite (.load .seg) m .none d a 0#7 with nf := n.toNat + 1 })
  | .vst m _ d a => some (false, .unit, lite (.store .unit) m .none d a 0#7)
  | .vsts m _ d a b => some (false, .strided, lite (.store .strided) m .scalar d a b)
  | .vstx m _ d a b => some (false, .indexed, lite (.store .indexed) m .vec d a b)
  | .vsseg m _ d a n => some (false, .seg, { lite (.store .seg) m .none d a 0#7 with nf := n.toNat + 1 })
  | _ => none

/-- A vector instruction meets nothing that stops it: the turn is a hart's that holds the vector context and has no
instruction under way and VSTART 0; no mread of the hart has yet to retire, and the versions that the instruction replaces
have retired (R124); the checks 2 to 6 of 07_vector R156 pass; sources and the versions that inactive elements keep are
complete; every allocated swatch is referenced and none is poisoned; `n` swatches can be had, with no
hart of the cluster waiting for one; no flag's trap is enabled. -/
def readyFor (s : State) (v : VSpec) (n : Nat) : Prop :=
  s.holdsContext = true ∧ s.h.flight = none ∧ s.h.vstart = 0#18 ∧ v.check s = .ok ((), s) ∧
    (∀ x ∈ v.sources s, x.entry.state = .live) ∧
    ((v.op.destType s.h.ty (s.entry (s.h.name v.word.a)).tag).isSome = true →
      ∀ k ∈ v.dNames s.h, (s.entry k).state ≠ .pending ∧ (s.entry k).behind = []) ∧
    s.readsOf s.h.id = [] ∧ (∀ w ∈ s.cl.bolt, 1 ≤ w.refs ∧ w.poison = false) ∧ s.swatchRoom n = true ∧ s.boltBefore none = false ∧
    s.h.ftrapen = 0#9

/-- A float that is a number. -/
def FVal.finite : FVal → Bool
  | .fin _ _ _ => true
  | _ => false

/-- The number that a float is (02_numbers R34); 0 for an infinity or NaN, which is none. -/
def FVal.val : FVal → ℚ
  | .fin neg m e => (if neg then -1 else 1) * (m : ℚ) * (2 : ℚ) ^ e
  | _ => 0

/-- The integer `k` is the magnitude `x` of a number with sign `neg` rounded under `rm` (02_numbers R42). -/
def roundsTo (rm : Rounding) (neg : Bool) (x : ℚ) (k : Nat) : Prop :=
  let down := (k : ℚ) ≤ x ∧ x < k + 1
  let up := (k : ℚ) - 1 < x ∧ x ≤ k
  match rm with
  | .rne => (2 * |x - k| < 1) ∨ (2 * |x - k| = 1 ∧ k % 2 = 0)
  | .rtz => down
  | .rdn => if neg then up else down
  | .rup => if neg then down else up

/-- The code and flags `r` are the number of sign `neg` and magnitude `x`, rounded once to a format (02_numbers R42 to R44,
07_vector R164): with `q` the exponent of the last place that the format has at that magnitude and `k` the rounded
multiple of it. -/
def roundedTo (f : Fmt) (rm : Rounding) (neg : Bool) (x : ℚ) (r : Nat × Flags) : Prop :=
  ∃ (q : ℤ) (k : ℕ), k ≤ 2 ^ (f.mb + 1) ∧ (q = 1 - f.bias - f.mb ∨ (1 - f.bias - f.mb < q ∧ 2 ^ f.mb ≤ k)) ∧
    roundsTo rm neg (x / (2 : ℚ) ^ q) k ∧
    let v : ℚ := k * (2 : ℚ) ^ q
    let largest := (f.decode (f.largest false)).val
    (v ≤ largest → (f.decode r.1).finite = true ∧ (f.decode r.1).val = (if neg then -v else v) ∧
      f.signOf r.1 = neg ∧ r.2 &&& fOF = 0#9 ∧ (r.2 &&& fNX ≠ 0#9 ↔ v ≠ x)) ∧
    (largest < v → r.2 = fOF ||| fNX ∧
      r.1 = if f.sp = .ieee ∧ (rm = .rne ∨ (rm = .rup ∧ neg = false) ∨ (rm = .rdn ∧ neg = true)) then f.infinity neg
        else f.largest neg)

/-- The code and flags `r` are the number `v` rounded once; a zero comes with either sign and no flag. -/
def delivers (f : Fmt) (rm : Rounding) (v : ℚ) (r : Nat × Flags) : Prop :=
  (v ≠ 0 → roundedTo f rm (decide (v < 0)) |v| r) ∧ (v = 0 → (r.1 = f.pack false 0 0 ∨ r.1 = f.pack true 0 0) ∧ r.2 = 0#9)

/-- Code of element `i` of a version, 0 where its swatch is poisoned. -/
def Cluster.codeAt (c : Cluster) (e : Entry) (i : Nat) : Nat :=
  match c.element e.tag e.segs i with
  | .ok v => v
  | .error _ => 0

/-- A fold meets nothing that stops it: the turn is a hart's that holds the vector context and has no instruction under
way; the checks 2 to 6 of 07_vector R156 pass; its sources are complete and no swatch is poisoned. -/
def foldReady (s : State) (v : VSpec) : Prop :=
  s.holdsContext = true ∧ s.h.flight = none ∧ v.check s = .ok ((), s) ∧
    (∀ x ∈ v.sources s, x.entry.state = .live) ∧ ∀ w ∈ s.cl.bolt, w.poison = false

/-- What a fold leaves that writes `xd`, or the pair at it: the hart has passed with VSTART 0, nothing is under way, its
names and every other register are as before. -/
def folded (s t : State) (d : Reg) (pair : Bool) : Prop :=
  t.h.pc = s.h.pc + 4#64 ∧ t.h.vstart = 0#18 ∧ t.h.flight = none ∧ t.h.names = s.h.names ∧
    ∀ r, r ≠ d → (pair = true → r ≠ nextReg d) → t.rx r = s.rx r

/-- The word `v` holds the largest (`max`) or smallest of the integers that codes `l` of type `ty` stand for, and `j` is the
lowest index that has it (08_draws R180). -/
def extremeAt (ty : ElemType) (max : Bool) (l : List Nat) (j : Nat) (v : Word) : Prop :=
  let val (i : Nat) := intOf (isSigned ty) (elemBits ty) (l.getD i 0)
  j < l.length ∧ v = BitVec.ofInt 64 (val j) ∧
    ∀ i, i < l.length → (if max then val i ≤ val j else val j ≤ val i) ∧ (i < j → val i ≠ val j)

/-- Of the f32 weights `l` just number `j` is not zero, and that is positive and finite. -/
def onlyWeight (l : List Nat) (j : Nat) : Prop :=
  j < l.length ∧ 0 < l.getD j 0 ∧ l.getD j 0 < 0x7F800000 ∧ ∀ i, i < l.length → i ≠ j → l.getD i 0 % 2 ^ 31 = 0

/-- Every byte that element `k`, field `j` of a vector memory instruction accesses lies in free scratch, at the alignment
of 09_vmem R202. -/
def elementInScratch (s : State) (f : Flight) (form : VMemForm) (k j : Nat) : Prop :=
  ∀ idx : Int, (form = .indexed → f.index k s = .ok (idx, s)) →
    (isPacked f.ty = true ∨ (f.addr form k j idx).1 % min (elemBits f.ty / 8) 8 = 0) ∧
    (isPacked f.ty = false → s.scratchFree (f.addr form k j idx).1 (f.addr form k j idx).2 = true) ∧
    ∀ o, o < (f.addr form k j idx).2 → s.scratchFree (((f.addr form k j idx).1 + o) % 2 ^ 64) 1 = true

/-- Bits of an element's code as a chain holds it; for cb8x2 its whole index (02_numbers R31). -/
def codeBits (t : ElemType) : Nat := if t = .cb8x2 then 16 else elemBits t

/-- The code that element `k` of the destination receives from the captures: that of the instruction where the element is
active, else that of va for vmerge, and of the version `old` for the others (07_vector R155, R174). -/
def givenTo (f : Flight) (old : Entry) (k : Nat) : Act Nat := do
  let on ← f.active k
  if on then (do let r ← opElem f k; pure r.1)
  else if f.op = .perm .merge then optElem f.va k
  else oldElem old k

/-- The bytes that field `j` of element `k` accesses, with the number that their bytes in scratch have. -/
def scratchAt (s : State) (f : Flight) (form : VMemForm) (k j : Nat) (idx : Int) : Nat :=
  let (a, n) := f.addr form k j idx
  ofBytes ((List.range n).map fun o => cellGet s.t.scratch ((a + o) % 2 ^ 64 - s.t.aperture))

/-- The code that field `j` of element `k` of a load receives: that in memory where the element is active, else that of the
version `old` (09_vmem R201, R206). The packed types of less than 8 bits stand at their bits of the bytes. -/
def loadedTo (f : Flight) (form : VMemForm) (old : Entry) (k j : Nat) : Act Nat := do
  let s ← get
  let on ← f.moves false k
  if on then do
    let idx ← f.offset form false k
    let v := scratchAt s f form k j idx
    pure (if isPacked f.ty && f.ty != .cb8x2 then v / 2 ^ (k * elemBits f.ty % 8) % 2 ^ elemBits f.ty else v)
  else oldElem old k

/-- Element `k`, field `j` of a store comes after element `k0`, field `j0`. -/
def later (k0 j0 k j : Nat) : Prop := k0 < k ∨ (k0 = k ∧ j0 < j)

/-- The word at register `r` bytes of scratch: the `8 × n` bytes from `va` on all lie in free scratch, read as doublewords
that do not wrap. -/
def State.scratchRun (s : State) (va n : Nat) : Bool :=
  decide (va + 8 * n ≤ 2 ^ 64) && (List.range n).all fun i => s.scratchFree (va + 8 * i) 8

/-- In `t` the matrix queue of `s` has one more operation at its end, of this kind and tile, numbered next on the matrix
timeline, of the hart that has the turn, which has passed. -/
def queuedOp (s t : State) (kind : MKind) (tile : BitVec 2) : Prop :=
  ∃ m, t.t.matrix.queue = s.t.matrix.queue ++ [m] ∧ m.kind = kind ∧ m.tile = tile.toNat ∧
    m.n = s.t.matrix.issued + 1 ∧ t.t.matrix.issued = s.t.matrix.issued + 1 ∧ m.hart = s.h.id ∧ m.executed = false ∧
    t.h.pc = s.h.pc + 4#64

/-- Code `v` is what is left of the f32 code `acc` once the numbers `l` have been added to it one after the other, each sum
rounded once to nearest (02_numbers R50); nothing is said of what comes after a sum that is no number. -/
def addsUp : List ℚ → Nat → Nat → Prop
  | [], acc, v => v = acc
  | q :: r, acc, v => ∃ c : Nat × Flags,
      ((f32Fmt.decode acc).finite = true → delivers f32Fmt .rne ((f32Fmt.decode acc).val + q) c) ∧ addsUp r c.1 v

/-- The exact sums of the groups of `g` consecutive numbers of a list, the last of which may be shorter (02_numbers R51). -/
def groupSums (g : Nat) (l : List ℚ) : List ℚ :=
  (List.range ((l.length + g - 1) / g)).map fun i => ((l.drop (g * i)).take g).sum

/-- An atomic (12_sync R264, R265, R267): whether it is an acquire-release form, bytes, xd, xa, and the word it stores
for the word `m` it finds, none for no store. -/
def atomicForm (s : State) : Instr → Option (Bool × Nat × Reg × Reg × (Nat → Option Nat))
  | .amoadd d a b => some (false, 8, d, a, fun m => some ((m + (s.rx b).toNat) % 2 ^ 64))
  | .amoand d a b => some (false, 8, d, a, fun m => some (BitVec.ofNat 64 m &&& s.rx b).toNat)
  | .amoor d a b => some (false, 8, d, a, fun m => some (BitVec.ofNat 64 m ||| s.rx b).toNat)
  | .amoxor d a b => some (false, 8, d, a, fun m => some (BitVec.ofNat 64 m ^^^ s.rx b).toNat)
  | .amomin d a b => some (false, 8, d, a, fun m => some (if (BitVec.ofNat 64 m).toInt ≤ (s.rx b).toInt then m else (s.rx b).toNat))
  | .amomax d a b => some (false, 8, d, a, fun m => some (if (BitVec.ofNat 64 m).toInt ≤ (s.rx b).toInt then (s.rx b).toNat else m))
  | .amominn d a b => some (false, 8, d, a, fun m => some (min m (s.rx b).toNat))
  | .amomaxn d a b => some (false, 8, d, a, fun m => some (max m (s.rx b).toNat))
  | .amoswp d a b => some (false, 8, d, a, fun _ => some (s.rx b).toNat)
  | .amocas d a b => some (false, 8, d, a, fun m => if m = (s.rx d).toNat then some (s.rx b).toNat else none)
  | .amofadd d a b => some (false, 4, d, a, fun m => some ((addF32 m ((s.rx b).toNat % 2 ^ 32)).1 % 2 ^ 32))
  | .amoaddAr d a b => some (true, 8, d, a, fun m => some ((m + (s.rx b).toNat) % 2 ^ 64))
  | .amoandAr d a b => some (true, 8, d, a, fun m => some (BitVec.ofNat 64 m &&& s.rx b).toNat)
  | .amoorAr d a b => some (true, 8, d, a, fun m => some (BitVec.ofNat 64 m ||| s.rx b).toNat)
  | .amoxorAr d a b => some (true, 8, d, a, fun m => some (BitVec.ofNat 64 m ^^^ s.rx b).toNat)
  | .amominAr d a b => some (true, 8, d, a, fun m => some (if (BitVec.ofNat 64 m).toInt ≤ (s.rx b).toInt then m else (s.rx b).toNat))
  | .amomaxAr d a b => some (true, 8, d, a, fun m => some (if (BitVec.ofNat 64 m).toInt ≤ (s.rx b).toInt then (s.rx b).toNat else m))
  | .amominnAr d a b => some (true, 8, d, a, fun m => some (min m (s.rx b).toNat))
  | .amomaxnAr d a b => some (true, 8, d, a, fun m => some (max m (s.rx b).toNat))
  | .amoswpAr d a b => some (true, 8, d, a, fun _ => some (s.rx b).toNat)
  | .amocasAr d a b => some (true, 8, d, a, fun m => if m = (s.rx d).toNat then some (s.rx b).toNat else none)
  | .amofaddAr d a b => some (true, 4, d, a, fun m => some ((addF32 m ((s.rx b).toNat % 2 ^ 32)).1 % 2 ^ 32))
  | _ => none

/-- The word of an instruction as TRAPVAL of a privilege trap holds it (17_traps R350). -/
def wordVal (i : Instr) : Word := ((encode i).map fun w => w.setWidth 64).getD 0#64

/-- What a trap record says of the hart with the turn (17_traps R354). -/
def recordOf (s : State) (tr : Trap) (async : Bool) (r : TrapRec) : Prop :=
  r.cause = tr.cause.code ∧ r.pc = s.h.pc ∧ r.val = tr.val ∧ r.val2 = tr.val2 ∧ r.addr = tr.addr ∧
    r.taskid = s.t.queue ++ BitVec.ofNat 32 s.t.ord ∧ r.hartid = s.h.id ∧ r.nested = s.h.handler ∧ r.decl = false ∧ r.async = async ∧
    r.task = some s.t.uid

end Sys2Proof.Machine

section

open Sys2Proof Sys2Proof.Machine

/-- Every integer member of alu and its immediate form gives the value of R95 and passes. Formalises R95. For every
state and every operand, each register-register operation of R95 and each immediate form completes: the next state
writes the value that R95 gives (mod 2^64, shift amounts xb[5:0], signed or unsigned comparisons) to xd and passes
the instruction, and nothing else changes. -/
def Obligations.AluMembersCompute : Prop :=
  ∀ (s : State) (d a b : Reg) (imm : BitVec 11) (sh : BitVec 6),
    let x := s.rx a
    let y := s.rx b
    let z : Word := imm.signExtend 64
    let n := y.toNat % 64
    exec (.add d a b) s = .next (s.put d (BitVec.ofNat 64 (x.toNat + y.toNat))) ∧
    exec (.sub d a b) s = .next (s.put d (BitVec.ofInt 64 ((x.toNat : Int) - y.toNat))) ∧
    exec (.and d a b) s = .next (s.put d (x &&& y)) ∧
    exec (.or d a b) s = .next (s.put d (x ||| y)) ∧
    exec (.xor d a b) s = .next (s.put d (x ^^^ y)) ∧
    exec (.sll d a b) s = .next (s.put d (BitVec.ofNat 64 (x.toNat * 2 ^ n))) ∧
    exec (.srl d a b) s = .next (s.put d (BitVec.ofNat 64 (x.toNat / 2 ^ n))) ∧
    exec (.sra d a b) s = .next (s.put d (BitVec.ofInt 64 (x.toInt / 2 ^ n))) ∧
    exec (.slt d a b) s = .next (s.put d (if x.toInt < y.toInt then 1#64 else 0#64)) ∧
    exec (.sltn d a b) s = .next (s.put d (if x.toNat < y.toNat then 1#64 else 0#64)) ∧
    exec (.min d a b) s = .next (s.put d (if x.toInt ≤ y.toInt then x else y)) ∧
    exec (.max d a b) s = .next (s.put d (if x.toInt ≤ y.toInt then y else x)) ∧
    exec (.minn d a b) s = .next (s.put d (if x.toNat ≤ y.toNat then x else y)) ∧
    exec (.maxn d a b) s = .next (s.put d (if x.toNat ≤ y.toNat then y else x)) ∧
    exec (.andn d a b) s = .next (s.put d (x &&& ~~~y)) ∧
    exec (.orn d a b) s = .next (s.put d (x ||| ~~~y)) ∧
    exec (.addi d a imm) s = .next (s.put d (BitVec.ofNat 64 (x.toNat + z.toNat))) ∧
    exec (.andi d a imm) s = .next (s.put d (x &&& z)) ∧
    exec (.ori d a imm) s = .next (s.put d (x ||| z)) ∧
    exec (.xori d a imm) s = .next (s.put d (x ^^^ z)) ∧
    exec (.slti d a imm) s = .next (s.put d (if x.toInt < imm.toInt then 1#64 else 0#64)) ∧
    exec (.sltni d a imm) s = .next (s.put d (if x.toNat < z.toNat then 1#64 else 0#64)) ∧
    exec (.slli d a sh) s = .next (s.put d (BitVec.ofNat 64 (x.toNat * 2 ^ sh.toNat))) ∧
    exec (.srli d a sh) s = .next (s.put d (BitVec.ofNat 64 (x.toNat / 2 ^ sh.toNat))) ∧
    exec (.srai d a sh) s = .next (s.put d (BitVec.ofInt 64 (x.toInt / 2 ^ sh.toNat)))

/-- Every member of muldiv gives the value of R96 and passes. Formalises R96. For every state and operand each member
completes. The products are exact before they are cut; quotients truncate towards zero and are all ones by zero,
where the remainder is the dividend; clz, ctz and popc count as R96 says, 64 for a zero word; bext and bins move the
field that xb describes, bit by bit, within the 64 bits. -/
def Obligations.MulDivMembersCompute : Prop :=
  ∀ (s : State) (d a b : Reg),
    let x := s.rx a
    let y := s.rx b
    let pos := y.toNat % 64
    let w := min (y.toNat / 64 % 128) 64
    exec (.mul d a b) s = .next (s.put d (BitVec.ofNat 64 (x.toNat * y.toNat))) ∧
    exec (.mulh d a b) s = .next (s.put d (BitVec.ofInt 64 (x.toInt * y.toInt / 2 ^ 64))) ∧
    exec (.mulhn d a b) s = .next (s.put d (BitVec.ofNat 64 (x.toNat * y.toNat / 2 ^ 64))) ∧
    exec (.div d a b) s =
      .next (s.put d (if y = 0#64 then BitVec.allOnes 64 else BitVec.ofInt 64 (Int.tdiv x.toInt y.toInt))) ∧
    exec (.divn d a b) s =
      .next (s.put d (if y = 0#64 then BitVec.allOnes 64 else BitVec.ofNat 64 (x.toNat / y.toNat))) ∧
    exec (.rem d a b) s = .next (s.put d (if y = 0#64 then x else BitVec.ofInt 64 (Int.tmod x.toInt y.toInt))) ∧
    exec (.remn d a b) s = .next (s.put d (if y = 0#64 then x else BitVec.ofNat 64 (x.toNat % y.toNat))) ∧
    (∃ c, exec (.clz d a) s = .next (s.put d (BitVec.ofNat 64 c)) ∧ c ≤ 64 ∧ x.toNat < 2 ^ (64 - c) ∧
      (c < 64 → 2 ^ (63 - c) ≤ x.toNat)) ∧
    (∃ c, exec (.ctz d a) s = .next (s.put d (BitVec.ofNat 64 c)) ∧ c ≤ 64 ∧ (∀ i, i < c → x.getLsbD i = false) ∧
      (c < 64 → x.getLsbD c = true)) ∧
    exec (.popc d a) s = .next (s.put d (BitVec.ofNat 64 ((List.range 64).countP fun i => x.getLsbD i))) ∧
    (∃ v, exec (.bext d a b) s = .next (s.put d v) ∧
      ∀ i, i < 64 → v.getLsbD i = (decide (i < w) && decide (pos + i ≤ 63) && x.getLsbD (pos + i))) ∧
    (∃ v, exec (.bins d a b) s = .next (s.put d v) ∧
      ∀ j, j < 64 → v.getLsbD j =
        (if pos ≤ j ∧ j < pos + w then x.getLsbD (j - pos) else (s.rx d).getLsbD j))

/-- lhi and lsh write their values, and one, two or three words reach 18, 36 and 54 bits. Derived from 05_control, lhi,
lsh (R97). lhi writes imm18 sign-extended and lsh writes ((xd << 18) | imm18) mod 2^64, from every state. Every word
that is the sign extension of its low 18, 36 or 54 bits is what one lhi, a lhi and one lsh, or a lhi and two lsh
leave. (R97's sentence on the linker is not about the machine, so the rule is not cited as stated whole.) -/
def Obligations.ConstantsReachTheirRanges : Prop :=
  ∀ (s : State) (d : Reg) (imm : BitVec 18),
    exec (.lhi d imm) s = .next (s.put d (imm.signExtend 64)) ∧
    exec (.lsh d imm) s = .next (s.put d (BitVec.ofNat 64 ((s.rx d).toNat * 2 ^ 18 + imm.toNat))) ∧
    ∀ v : Word,
      ((v.setWidth 18).signExtend 64 = v → ∃ i : BitVec 18, i.signExtend 64 = v) ∧
      ((v.setWidth 36).signExtend 64 = v →
        ∃ i j : BitVec 18, (i.signExtend 64 <<< 18 ||| j.setWidth 64 : Word) = v) ∧
      ((v.setWidth 54).signExtend 64 = v →
        ∃ i j k : BitVec 18, ((i.signExtend 64 <<< 18 ||| j.setWidth 64 : Word) <<< 18 ||| k.setWidth 64 : Word) = v)

/-- Scalar arithmetic changes its destination register and the program counter, and nothing else; x0 reads as zero and
discards writes. Derived from 05_control, integer arithmetic and constants (R95 to R97), 03_words R58. Whenever an
instruction of alu, muldiv, their immediate forms, lhi or lsh gives a next state, every register but xd, every flag,
name, special register and queue, and every byte of memory and scratch are as before; the hart's wait ends and the
program counter is four further. For every hart, register 0 reads as zero; after a write of v to register d,
register r reads as v where r is d and d is not x0, and as before otherwise, so that a write to x0 changes nothing
at all. -/
def Obligations.ScalarArithmeticFrame : Prop :=
  (∀ (i : Instr) (d : Reg) (s t : State), registerOnly i = some d → exec i s = .next t →
    s.onlyRegs [d] t ∧ t.h.pc = s.h.pc + 4#64 ∧ t.h.wait = none) ∧
  ∀ (h : Hart) (d r : Reg) (v : Word),
    h.rx 0#7 = 0#64 ∧ h.wx 0#7 v = h ∧ (h.wx d v).rx r = (if r = d ∧ d ≠ 0#7 then v else h.rx r)

/-- An aligned scalar load from granted scratch writes the extended bytes to xd. Derived from 05_control R98, R99,
09_vmem R198. For every scalar load form: where the address is aligned and its bytes lie in granted scratch (outside
stash windows, on no poisoned line), the load completes and writes the little-endian value of those bytes, sign- or
zero-extended, to xd. -/
def Obligations.ScalarLoadsFromScratch : Prop :=
  ∀ (i : Instr) (s : State) (n : Nat) (sign : Bool) (d : Reg) (addr : Word),
    scalarLoad s i = some (n, sign, d, addr) → addr.toNat % n = 0 → s.scratchFree addr.toNat n = true →
    exec i s = .next (s.put d (loadedValue n sign (s.scratchBytes addr.toNat n)))

/-- An aligned load from memory writes the extended bytes to xd; an aligned store enters the buffer, or (log 64) commits
at once on a strongly ordered page. Derived from 05_control R98, R99, 13_ordering R280, R282, R291, 01_machine R23,
R24. For every scalar load form: where the address is aligned, outside the scratch aperture, and translates to
memory of this node that is no alias range, and the read consumes no poison, the load completes: the tables are
marked (A bits), on a strongly ordered page the hart's buffered strong stores commit first, a dirty window copy of
the line is written back, and xd takes the value of the bytes of memory under the hart's own buffered stores. For
every scalar store form under the like conditions the store completes: the A and D bits are set; on a page that is
not strongly ordered, or of another node, the translated address, the page class and the low bytes of the data
register stand at the end of the hart's store buffer; on a strongly ordered page the stores that must come before
commit, and on this node the store commits at once (that it commits at once, where R282 gives the program order of
such pages, is the model's choice, log 64). Marking the tables changes no byte that an agent can read but the second
byte of the entries marked. -/
def Obligations.ScalarAccessesToMemory : Prop :=
  ∀ (i : Instr) (s : State) (n : Nat) (sign : Bool) (d : Reg) (addr : Word) (x : Xlat),
    addr.toNat % n = 0 → s.scratchOff addr.toNat = none → s.noMemory x.pa = false →
    s.aliasOf s.ownPart x.pp = none →
    (scalarLoad s i = some (n, sign, d, addr) → s.translate addr.toNat .load = .ok x → s.isLocal x.pa = true →
      let r := s.setMarks false x
      let m := if x.ord = .strong then r.drainWhere fun e => e.ord = .strong else r
      (∀ k, k < n → m.consumes (x.pa + k) = false) →
      let t := m.recall (x.pa / 256) false
      exec i s = .next (t.put d (loadedValue n sign
        ((List.range n).map fun k => forward (x.pa + k) (cellGet t.mem (x.pa + k)) t.h.sb)))) ∧
    (scalarStore s i = some (n, d, addr) → s.translate addr.toNat .store = .ok x →
      let bs := whole (bytesOf n (s.rx d).toNat)
      let r := s.setMarks true x
      let m := if x.ord = .strong then r.drainWhere fun e =>
          e.ord = .strong || (e.ord != .unordered && overlaps e.pa e.cells.length x.pa n) else r
      let e : SbEntry := { pa := x.pa, ord := x.ord, va := addr, cells := bs,
                           insn := (m.h.flight.map fun f => f.born + 1).getD 0 }
      exec i s = .next (if x.ord = .strong ∧ s.isLocal x.pa = true then (m.commitCells x.pa bs).advance
        else State.advance { m with h := { m.h with sb := m.h.sb ++ [e] } })) ∧
    (Memory.wf s.mem = true → ∀ w pa, (∀ l ∈ x.reads ++ x.marks, pa ≠ l + 1) →
      (s.setMarks w x).coherent pa = s.coherent pa)

/-- A misaligned or untranslated scalar access, and a load of a poisoned line, traps and has no other effect. Derived
from 05_control R99, 18_partitions R370 to R373, 17_traps R350, R361, 01_machine R24, 13_ordering R291. For every
scalar load and store form: a misaligned address traps 0x03, and an aligned address outside the scratch aperture
whose translation fails traps with the cause of the failure; TRAPVAL is the address (its line where the walk met
poison: the model's choice, log 68) and TRAPVAL2 is 0 for a load and 1 for a store (with bit 8 where stage 2 or the
granule misses a right). A load that meets a poisoned line, in granted scratch outside stash windows or in memory of
this node outside alias ranges, traps 0x10 with the line in TRAPVAL (R361) and 0 in TRAPVAL2. The next state is the
one that takes the trap in the state before the access, once the A bits of the entries that the walk has used are
set (R291; for a load, those of its own translation too). -/
def Obligations.ScalarAccessesTrap : Prop :=
  ∀ (i : Instr) (s : State) (n : Nat) (addr : Word) (store : Bool),
    ((∃ sign d, scalarLoad s i = some (n, sign, d, addr) ∧ store = false) ∨
      (∃ d, scalarStore s i = some (n, d, addr) ∧ store = true)) →
    (addr.toNat % n ≠ 0 →
      exec i s = .next (takeTrap { cause := .misaligned, val := addr, val2 := if store then 1#64 else 0#64 } false s)) ∧
    (∀ e, addr.toNat % n = 0 → s.scratchOff addr.toNat = none →
      s.translate addr.toNat (if store then .store else .load) = .error e →
      exec i s = .next (takeTrap {
        cause := e.cause, val := if e.cause = .poison then addr &&& ~~~0xFF#64 else addr,
        val2 := (if store then 1#64 else 0#64) ||| (if e.bit8 then 0x100#64 else 0#64),
        addr := BitVec.ofNat 64 e.addr, reads := e.reads, seen := e.seen } false s)) ∧
    ∀ sign d, scalarLoad s i = some (n, sign, d, addr) → addr.toNat % n = 0 →
      let line : Trap := { cause := .poison, val := BitVec.ofNat 64 (addr.toNat / 256 * 256) }
      (∀ off, s.scratchOff addr.toNat = some off → off + n ≤ s.t.scrb → s.t.windowAt off = none →
        (∃ m ∈ s.t.scrPoison, m.idx = off / 256) → exec i s = .next (takeTrap line false s)) ∧
      ∀ x, s.scratchOff addr.toNat = none → s.translate addr.toNat .load = .ok x → s.noMemory x.pa = false →
        s.isLocal x.pa = true → s.aliasOf s.ownPart x.pp = none →
        let r := s.setMarks false x
        let m := if x.ord = .strong then r.drainWhere fun e => e.ord = .strong else r
        (∃ k, k < n ∧ m.consumes (x.pa + k) = true) →
        exec i s = .next (takeTrap { line with reads := x.reads ++ x.marks, seen := x.seen } false s)

/-- An aligned scalar store into granted scratch writes its bytes and no others, and a load after it returns them.
Derived from 05_control R98, R99, 09_vmem R198, 13_ordering R280. For every scalar store form: where the address is
aligned and its bytes lie in granted scratch outside stash windows and on no poisoned line, the store completes. The
n bytes at the address read as the low bytes of the data register, little-endian; every other byte of scratch, every
byte of memory, every register and everything else is as before (but for what is recorded of overwritten poison on
another line). A load of the same width at, after the store, the same address then completes, and the loaded value
is the low n bytes of the data register, sign- or zero-extended. -/
def Obligations.ScalarStoresIntoScratch : Prop :=
  ∀ (i : Instr) (s : State) (n : Nat) (d : Reg) (addr : Word),
    scalarStore s i = some (n, d, addr) → addr.toNat % n = 0 → s.scratchFree addr.toNat n = true →
    Memory.wf s.t.scratch = true →
    ∃ t, exec i s = .next t ∧
      (∀ k, k < n → cellGet t.t.scratch (addr.toNat - s.t.aperture + k) =
        BitVec.ofNat 8 ((s.rx d).toNat / 256 ^ k)) ∧
      (∀ off, (off < addr.toNat - s.t.aperture ∨ addr.toNat - s.t.aperture + n ≤ off) →
        cellGet t.t.scratch off = cellGet s.t.scratch off) ∧
      t = { s with
        h := { s.h with pc := s.h.pc + 4#64, wait := none },
        t := { s.t with scratch := t.t.scratch, scrPoison := t.t.scrPoison } } ∧
      ∀ (j : Instr) (sign : Bool) (e : Reg), scalarLoad t j = some (n, sign, e, addr) →
        exec j t = .next (t.put e (loadedValue n sign (bytesOf n (s.rx d).toNat)))

/-- A conditional branch goes to its own address plus 4 times imm11 exactly when its condition holds. Formalises R100.
For every state and operand: beq, bne, blt, bge, bltn and bgen complete; where xd and xa compare as the rule says
(equal, not equal, signed less, signed greater or equal, unsigned less, unsigned greater or equal) the program
counter becomes its own address plus 4 times the sign-extended imm11, and otherwise the next instruction's; nothing
else changes. -/
def Obligations.BranchesGoWhereTheyShould : Prop :=
  ∀ (s : State) (d a : Reg) (imm : BitVec 11),
    let x := s.rx d
    let y := s.rx a
    let go (c : Prop) [Decidable c] : Out :=
      .next (if c then s.setPc (BitVec.ofInt 64 (s.h.pc.toNat + 4 * imm.toInt)) else s.advance)
    exec (.beq d a imm) s = go (x = y) ∧
    exec (.bne d a imm) s = go (x ≠ y) ∧
    exec (.blt d a imm) s = go (x.toInt < y.toInt) ∧
    exec (.bge d a imm) s = go (x.toInt ≥ y.toInt) ∧
    exec (.bltn d a imm) s = go (x.toNat < y.toNat) ∧
    exec (.bgen d a imm) s = go (x.toNat ≥ y.toNat)

/-- bsub, jmp, call, jr, jalr and ret write and go as R101 and R102 say; a misaligned target traps 0x03. Derived from
05_control R101, R102, 03_words R53. bsub writes xd minus xa to xd whether or not it branches, and branches where xd
as written is positive (with x0, whose write is discarded, it never branches: the model's reading, log 17). jmp and
call go to their address plus 4 times imm25, call leaving the return address in x1. jr, jalr and ret go to xa, xa as
read before xd is written, and x1; a target whose bits 1 and 0 are not zero traps 0x03 with the target in TRAPVAL
and no register written; that TRAPVAL2 is 0 there is the model's choice (log 19). -/
def Obligations.CountDownAndJumps : Prop :=
  ∀ (s : State) (d a : Reg) (imm : BitVec 11) (far : BitVec 25),
    let v := s.rx d - s.rx a
    let target : Word := BitVec.ofInt 64 (s.h.pc.toNat + 4 * far.toInt)
    let go (x : Word) (s' : State) : Out :=
      if x.getLsbD 0 = false ∧ x.getLsbD 1 = false then .next (s'.setPc x)
      else .next (takeTrap { cause := .misaligned, val := x } false s)
    exec (.bsub d a imm) s =
      .next (if 0 < v.toInt ∧ d ≠ 0#7 then (s.wx d v).setPc (BitVec.ofInt 64 (s.h.pc.toNat + 4 * imm.toInt))
        else (s.wx d v).advance) ∧
    exec (.jmp far) s = .next (s.setPc target) ∧
    exec (.call far) s = .next ((s.wx 1#7 (s.h.pc + 4#64)).setPc target) ∧
    exec (.jr a) s = go (s.rx a) s ∧
    exec (.jalr d a) s = go (s.rx a) (s.wx d (s.h.pc + 4#64)) ∧
    exec .ret s = go (s.rx 1#7) s

/-- vsetl grants the length of R103, and a grant never exceeds GVL bytes; vwin moves the window by signed xa and writes
its old base to xd. Derived from 05_control R103 (the trap of reserved codes is decode's, R29, R30), 05_control
R105. For every state, count, block code and type: vsetl completes; with max the whole elements of the type in GVL
bytes (a multiple of 4 for 6-bit types) and q 4 for 6-bit types, 8 for cb8x2 and else 1, VL and xd take max where
the unsigned request is at least max, the request less its remainder by q where it is at least q, and else the
request; VTYPE takes the type and block code. Where GVL is even, the strip's bytes fit GVL; where it is at most
16384 the grant is at most 131072. And for every state vwin completes: xd takes the old VWB, VWB becomes (VWB + xa)
mod 512 with xa signed and read before xd is written; VMSEL, an instruction already issued, and everything else are
as before. -/
def Obligations.VsetlGrantsTheStrip : Prop :=
  ∀ (s : State) (d a : Reg) (blk : BlockLen) (ty : ElemType),
    let gvl := s.t.gvl.toNat
    let n := (s.rx a).toNat
    let whole := gvl * 8 / elemBits ty
    let most := if isSix ty then whole - whole % 4 else whole
    let q := if isSix ty then 4 else if ty = .cb8x2 then 8 else 1
    let vl := if most ≤ n then most else if q ≤ n then n - n % q else n
    exec (.vsetl d a blk ty) s =
      .next (({ s with h := { s.h with vl := BitVec.ofNat 18 vl, ty := ty, blk := blk } } : State).put d (BitVec.ofNat 64 vl)) ∧
    (gvl % 2 = 0 → bytesFor ty vl ≤ gvl) ∧ (gvl ≤ 16384 → vl ≤ 131072) ∧
    exec (.vwin d a) s = .next
      (({ s with h := { s.h with vwb := BitVec.ofInt 9 (s.h.vwb.toNat + (s.rx a).toInt) } } : State).put d
        (s.h.vwb.setWidth 64))

/-- sput to a writable register and sget of it give back the bits that the register has. Derived from 05_control R111,
03_words R70, R72, R75, 10_matrix R236, 17_traps R354, 18_partitions R376, R377. For the register numbers listed
with their level and writable bits, from every state whose level allows the access (a task having the turn for a
per-task register; a valid shape for MSHAPE; for the registers of a subpartition, PSEL naming one that the partition
manages; for FFLAGS, an FEX register and DCTR, no vector instruction under way and for FFLAGS no mread of the hart
queued): sput completes and leaves the x-registers as they are, sget of the state after it completes, and the value
read is xd within the register's bits. That PCTXBASE keeps bits 54 to 25 and reads bits 24 to 16 as 0 is the model's
choice (log 92). -/
def Obligations.RegisterWritesReadBack : Prop :=
  ∀ (s : State) (d e : Reg) (l : Level) (n : Nat) (m : Word),
    (l, n, m) ∈ writableRegs → l.rank ≤ s.level.rank → e ≠ 0#7 → s.regBusy n = false →
    (n ∈ [0x015, 0x104, 0x105] → s.who = .user) → (n = 0x015 → (shapeOf (s.rx d)).isSome = true) →
    (n = 0x609 → s.partOfSub ((s.rx d).toNat % 64) = some s.ownPart) →
    (n ∈ [0x60A, 0x60B, 0x60C, 0x60D] → s.managesSub s.cl.svc.psel.toNat = true) →
    ∃ t u, exec (.sput d (BitVec.ofNat 11 n)) s = .next t ∧ t.h.x = s.h.x ∧ t.h.pc = s.h.pc + 4#64 ∧
      exec (.sget e (BitVec.ofNat 11 n)) t = .next u ∧ u.rx e = s.rx d &&& m

/-- A register access above the hart's level traps 0x19, an unassigned number 0x01, an allowed sget writes the value to
xd, and an allowed sput writes the register. Derived from 03_words R70, R72, R74, 05_control R111, 17_traps R354,
18_partitions R376, R377. For every state and register number: sget and sput of a number in a higher level's range
trap 0x19; of a number in 0x200 to 0x3FF, or of an unassigned number in an allowed range, they trap 0x01; TRAPVAL is
the number and nothing else happens; that TRAPVAL2 is 0 is the model's choice (log 19). An sget of an assigned
number in an allowed range, where it has nothing to wait for (R74), completes and writes the register's value to xd.
An sput of a number in an allowed range that has a writable field, where it has nothing to wait for and the value is
one that the register takes, completes: the next state is the one in which the register is written, with the hart
past the instruction; of a number in an allowed range of any level with no writable field (the read-only registers
of the U, S, P and O ranges) it traps 0x01. (A per-task register has no effect where no task has the turn: the
model's choice, log 14.) -/
def Obligations.RegisterAccessLevels : Prop :=
  ∀ (s : State) (d : Reg) (n : BitVec 11),
    let privileged : Out := .next (takeTrap { cause := .privilege, val := n.setWidth 64 } false s)
    let illegal : Out := .next (takeTrap { cause := .illegal, val := n.setWidth 64 } false s)
    (∀ l, regLevel n.toNat = some l → s.level.rank < l.rank →
      exec (.sget d n) s = privileged ∧ exec (.sput d n) s = privileged) ∧
    (0x200 ≤ n.toNat → n.toNat < 0x400 → exec (.sget d n) s = illegal ∧ exec (.sput d n) s = illegal) ∧
    (∀ l, regLevel n.toNat = some l → l.rank ≤ s.level.rank →
      (s.readReg n.toNat = none → exec (.sget d n) s = illegal ∧ exec (.sput d n) s = illegal) ∧
      (∀ v, s.readReg n.toNat = some v → s.regBusy n.toNat = false →
        exec (.sget d n) s = .next (s.put d (BitVec.ofNat 64 v)))) ∧
    (regLevel n.toNat = some .u → s.regBusy n.toNat = false →
      (∀ h, s.h.setUreg n.toNat (s.rx d) = some h → exec (.sput d n) s = .next (State.advance { s with h := h })) ∧
      (∀ t, s.h.setUreg n.toNat (s.rx d) = none → s.t.setTreg n.toNat (s.rx d) = some t →
        (n = 0x015#11 → (shapeOf (s.rx d)).isSome = true) →
        exec (.sput d n) s = .next (if s.who = .user then State.advance { s with t := t } else s.advance)) ∧
      (s.h.setUreg n.toNat (s.rx d) = none → s.t.setTreg n.toNat (s.rx d) = none → exec (.sput d n) s = illegal)) ∧
    (∀ l, regLevel n.toNat = some l → l.rank ≤ s.level.rank → n.toNat ∈ readOnlyRegs → exec (.sput d n) s = illegal) ∧
    (Level.s.rank ≤ s.level.rank → n.toNat = 0x407 ∨ n.toNat = 0x408 → exec (.sput d n) s = .next (State.advance
      (s.mapSvc fun x => if n.toNat = 0x407 then { x with shandler := (s.rx d >>> 2).setWidth 62 }
        else { x with sscratch := s.rx d }))) ∧
    (Level.p.rank ≤ s.level.rank → ∀ w t, setPreg n.toNat (s.rx d) = some w → w s = .ok ((), t) →
      regLevel n.toNat = some .p → exec (.sput d n) s = .next t.advance) ∧
    (Level.o.rank ≤ s.level.rank → regLevel n.toNat = some .o → ∀ t, s.setOreg n.toNat (s.rx d) = some t →
      exec (.sput d n) s = .next t.advance)

/-- The register events write what their registers take. Derived from 03_words R72, R74, 05_control R111, 10_matrix
R223, R224, 18_partitions R374, R377, R379. An access of FFLAGS, an FEX register or DCTR performs once the hart has
no vector instruction under way: it is then the sput or sget itself, and completes with their state (FFLAGS where
every mread of the hart has retired); with one under way the event changes nothing. A valid MSHAPE value is written;
a write of PROT clears MM where its bit 1 is one; a restored VSTART or REPCNT takes its low bits; each then passes.
The owner's writes of ORANGE1, OKEY3 and OPLIM commit the stage-3 entry that passes Lydar's checks, install the key
with a zero counter, and set the power limit to the least of the written field and 2500 W (that a larger value is
cut to 2500 is the model's choice, log 37: R15 and R377 say only that the limit is at most that). -/
def Obligations.RegisterEventsAct : Prop :=
  ∀ (s : State) (d : Reg) (n : BitVec 11) (v : Word),
    (∀ w, s.h.flight.isSome = true → exec (.fflagsSyncAccess w d n) s = .next s) ∧
    (∀ w, s.h.flight = none → syncReg n.toNat = true →
      exec (.fflagsSyncAccess w d n) s = exec (if w then .sput d n else .sget d n) s) ∧
    (s.h.flight = none → s.regBusy 6 = false →
      exec (.fflagsSyncAccess false d 0x006#11) s = .next (s.put d (s.h.fflags.setWidth 64)) ∧
      exec (.fflagsSyncAccess true d 0x006#11) s =
        .next (({ s with h := { s.h with fflags := (s.rx d).setWidth 9, late := 0#9 } } : State).advance)) ∧
    (s.who = .user → (shapeOf (s.rx d)).isSome = true →
      exec (.mshapeWrite d) s = .next (({ s with t := { s.t with mshape := s.rx d } } : State).advance)) ∧
    (s.who = .user →
      exec (.protMmClear d) s =
        .next (({ s with t := { s.t with mm := s.t.mm && !(s.rx d).getLsbD 1 } } : State).advance)) ∧
    exec (.vstartRepcntRestore false d) s =
      .next (({ s with h := { s.h with vstart := (s.rx d).setWidth 18 } } : State).advance) ∧
    exec (.vstartRepcntRestore true d) s =
      .next (({ s with h := { s.h with repcnt := (s.rx d).setWidth 6 } } : State).advance) ∧
    (∃ t, exec (.orange1Write v) s = .next t ∧ t.o.orange1 = v ∧
      (t.o.ostat = 0#8 ↔ s.rangeCheck (bitsOf s.o.orsel.toNat 3 0) (bitsOf s.o.orsel.toNat 9 4) s.o.orange0 v = 0) ∧
      (t.o.ostat = 0#8 → (bitsOf s.o.orsel.toNat 9 4, s.o.orange0, v) ∈
        (t.partition (bitsOf s.o.orsel.toNat 3 0)).stage3)) ∧
    (∃ t, exec (.okey3Write v) s = .next t ∧ t.o.okey = s.o.okey.set 3 v ∧
      ∃ k ∈ t.keys, k.num = s.o.oksel.toNat ∧ k.counter = 0#32 ∧
        k.key = (t.o.okey.toList.flatMap fun w => bytesOf 8 w.toNat)) ∧
    exec (.oplimWrite v) s = .next { s with o := { s.o with oplim := BitVec.ofNat 12 (min (v.toNat % 4096) 2500) } }

/-- lfork gives the upper half of the lane groups to a child at the next instruction. Derived from 05_control R94, R106,
03_words R71, 01_machine R23. From every state: a hart with fewer than two lane groups, and a service core, which
has none (the model's choice, log 14), writes all ones to xd and passes. With two or more, a hart of a task in whose
handler a vector instruction stands stopped waits (the model's choice, log 71); any other completes lfork: the task
has one more hart, whose lane mask and the parent's are disjoint, together the old mask, and equally many for 2, 4
or 8 groups, the child's above the parent's (the parent keeps the lower half rounded down, which for 3, 5, 6 or 7
groups is the model's choice, log 71: R20 and R106 speak of 2, 4 and 8); the child's HARTID is its lowest group,
which is not 0; it starts after the lfork with xd zero and every other x-register its parent's, x127 among them
(R94), outside handler mode, with clear flags and the parent's names; the parent's xd is that HARTID, and its
earlier stores are committed (that they commit to memory at once, its store buffer empty, is the model's choice, log
64: R106 only orders them before the child). -/
def Obligations.ForkSplitsTheLanes : Prop :=
  ∀ (s : State) (d : Reg),
    let gs := (List.range 8).filter fun g => s.h.lgmask.getLsbD g
    (s.who ≠ .user ∨ gs.length < 2 → exec (.lfork d) s = .next (s.put d (BitVec.allOnes 64))) ∧
    (s.who = .user → 2 ≤ gs.length → s.h.stopped.isSome = true → exec (.lfork d) s = .next (s.enterWait .other)) ∧
    (s.who = .user → 2 ≤ gs.length → s.h.stopped = none → ∃ t c, exec (.lfork d) s = .next t ∧ t.t.harts = s.t.harts ++ [c] ∧
      t.h.lgmask ||| c.lgmask = s.h.lgmask ∧ t.h.lgmask &&& c.lgmask = 0#8 ∧
      ((List.range 8).countP fun g => t.h.lgmask.getLsbD g) = gs.length / 2 ∧
      (∀ g k, g < 8 → k < 8 → t.h.lgmask.getLsbD g = true → c.lgmask.getLsbD k = true → g < k) ∧
      c.lgmask.getLsbD c.id.toNat = true ∧ (∀ g, g < c.id.toNat → c.lgmask.getLsbD g = false) ∧ c.id ≠ 0#3 ∧
      c.parent = some s.h.id ∧ c.pc = s.h.pc + 4#64 ∧ c.rx d = 0#64 ∧ (∀ r, r ≠ d → c.rx r = s.rx r) ∧
      c.handler = false ∧ c.fflags = 0#9 ∧ c.names = s.h.names ∧ c.run = .ready ∧ c.sb = [] ∧
      t.h.pc = s.h.pc + 4#64 ∧ (d ≠ 0#7 → t.rx d = c.id.setWidth 64) ∧ (∀ r, r ≠ d → t.rx r = s.rx r) ∧
      t.h.sb = [] ∧ t.mem = s.drain.mem)

/-- ljoin of an ended child takes back its lane groups and flags; of no live child it traps 0x01; a child's ljoin x0
ends it. Derived from 05_control R107, 03_words R71. From every state: with xa zero and no children, hart 0 (a hart
with no parent) passes, and a child that has no operation of its own outstanding, no asynchronous trap held and no
stopped vector instruction ends with its stores committed (to memory at once: the model's choice, log 64). With xa
the HARTID of an ended child of the hart (the only one so numbered), the child is gone and its lane mask and flags
are joined to the hart's, which passes. With xa the HARTID of no live child, the word traps 0x01 with TRAPVAL2 xa. -/
def Obligations.JoinTakesLanesBack : Prop :=
  ∀ (s : State) (a : Reg),
    (s.rx a = 0#64 → (∀ h ∈ s.t.harts, h.parent ≠ some s.h.id) →
      (s.h.parent = none → exec (.ljoin a) s = .next s.advance) ∧
      (s.h.parent.isSome = true → s.t.idle (fun h => h = s.h.id) = true → s.h.held = [] → s.h.stopped = none →
        ∃ t, exec (.ljoin a) s = .next t ∧ t.h.run = .ended ∧ t.h.sb = [] ∧ t.mem = s.drain.mem)) ∧
    (∀ c, s.rx a = c.id.setWidth 64 → c.id ≠ 0#3 → c.parent = some s.h.id → c.run = .ended →
      s.t.harts.filter (fun h => h.id = c.id) = [c] →
      ∃ t, exec (.ljoin a) s = .next t ∧ t.h.lgmask = s.h.lgmask ||| c.lgmask ∧ t.h.fflags = s.h.fflags ||| c.fflags ∧
        t.h.fex = s.h.fex ∧ t.t.harts = (s.t.harts.filter fun h => h.id != c.id) ∧ t.h.x = s.h.x ∧
        t.h.pc = s.h.pc + 4#64) ∧
    (s.rx a ≠ 0#64 → (∀ h ∈ s.t.harts, ¬(h.parent = some s.h.id ∧ h.id.setWidth 64 = s.rx a)) →
      ∃ w, exec (.ljoin a) s = .next (takeTrap { cause := .illegal, val := w, val2 := s.rx a } false s))

/-- tdone of hart 0 with nothing outstanding ends the task; from another hart it traps 0x01. Derived from 05_control
R112, R113, 16_launch R345. Where hart 0 has the turn, no other hart is left, every operation the task issued has
completed, no asynchronous trap is held, no vector instruction stands stopped and the launch has no completion
record, tdone completes: stores and stash windows are written back and the task leaves its core, retired. From any
other hart of a task tdone traps 0x01 with the word in TRAPVAL; that TRAPVAL2 is 0 there is the model's choice (log
19). The tdone of a launch with a completion record (COMPL not 0) is not stated here. -/
def Obligations.TaskEndsAtTdone : Prop :=
  ∀ (s : State),
    (s.who = .user → s.h.id = 0#3 → s.t.harts = [] → s.t.idle (fun _ => true) = true → s.h.held = [] →
      s.h.stopped = none → pkCompl s.t.packet = 0 →
      exec .tdone s = .next (({ s.drain.flushAll with t := { s.drain.flushAll.t with windows := [] } } : State).leaveCore false)) ∧
    (s.who = .user → s.h.id ≠ 0#3 →
      exec .tdone s = .next (takeTrap { cause := .illegal, val := 0x40000006#64 } false s))

/-- rep puts the repeat of the next word in force, or (log 46) passes both words, and traps 0x01 before a word that may
not be repeated so. Derived from 03_words R65 to R67. Where the word after the rep can be fetched: if it may be
repeated with these steps, the rep completes with the repeat (count, stepped fields, stride) in force at the rep's
own address, or, where REPCNT is at least count already, passes both words with REPCNT 0 (that, and that the rep
itself fetches the word after it, is the model's choice, log 46: R65 to R67 are silent); otherwise the rep traps
0x01 with its word in TRAPVAL, and with TRAPVAL2 = 0 (the model's choice, log 19). Repeat i issues the word whose
stepped fields hold (f + i × stride) mod 128. -/
def Obligations.RepeatPrefixEngages : Prop :=
  ∀ (s u : State) (count : BitVec 6) (sd sa sb : Bool) (stride : BitVec 3) (w : IWord),
    fetchAt ((s.h.pc + 4#64).toNat) s = .ok (w, u) →
    (repAllowed w (count.toNat + 1) sd sa sb (stride.toNat + 1) = true →
      let r : Rep := { count := count.toNat + 1, sd := sd, sa := sa, sb := sb, stride := stride.toNat + 1 }
      exec (.rep count sd sa sb stride) s = .next (if count.toNat < u.h.repcnt.toNat
        then { u with h := { u.h with repcnt := 0#6, pc := u.h.pc + 8#64 } } else { u with h := { u.h with rep := some r } }) ∧
      ∀ i, let f := splitWord w
        let g := splitWord (r.word i w)
        let step (on : Bool) (x : Reg) := if on then (x.toNat + i * (stride.toNat + 1)) % 128 else x.toNat
        g.d.toNat = step sd f.d ∧ g.a.toNat = step sa f.a ∧ g.b.toNat = step sb f.b) ∧
    (repAllowed w (count.toNat + 1) sd sa sb (stride.toNat + 1) = false →
      exec (.rep count sd sa sb stride) s =
        .next (takeTrap { cause := .illegal, val := repWord count sd sa sb stride } false u))

/-- nop and yield only pass and are not repeatable; wid, tread, fstat, nstat and the barrier's bgen read the task's
values into xd. Derived from 05_control R109, R110, 12_sync R272, R277, 11_flume R256, 14_weir R309. nop and yield
complete from every state with only the program counter moved on and the wait ended; no `rep` may precede either.
With a task's hart having the turn: wid gives the selected field, count, width or the whole work identifier; tread
the counter of its context; fstat the channel's status word; nstat the context's last status word; bgen of a barrier
that exists its generation. Each completes from every such state and changes nothing but xd and the program counter. -/
def Obligations.HintsPassAndTaskValuesAreRead : Prop :=
  ∀ (s : State) (d a : Reg) (k : BitVec 3) (c : BitVec 4) (ch : BitVec 2) (wc : BitVec 1),
    (exec .nop s = .next { s with h := { s.h with pc := s.h.pc + 4#64, wait := none } } ∧
      exec .yield s = .next { s with h := { s.h with pc := s.h.pc + 4#64, wait := none } } ∧
      repUses .nop = none ∧ repUses .yield = none) ∧
    (s.who = .user →
    exec (.wid d k 0#2) s = .next (s.put d (BitVec.ofNat 64 (wiField s.t.packet s.t.wi.toNat k.toNat))) ∧
    exec (.wid d k 1#2) s = .next (s.put d (BitVec.ofNat 64 (pkCount s.t.packet k.toNat))) ∧
    exec (.wid d k 2#2) s = .next (s.put d (BitVec.ofNat 64 (pkWidth s.t.packet k.toNat))) ∧
    exec (.wid d k 3#2) s = .next (s.put d s.t.wi) ∧
    exec (.tread d c) s = .next (s.put d (BitVec.ofNat 64 (s.t.ctxReached c.toNat))) ∧
    exec (.fstat d ch) s = .next (s.put d (BitVec.ofNat 64 (s.channel ch.toNat).word)) ∧
    exec (.nstat d wc) s = .next (s.put d (s.weirCtx wc.toNat).last) ∧
    (∀ sc b, (s.rx a).toNat < 256 → s.barrier? (s.rx a).toNat = some (sc, b) →
      exec (.bgenBar d a) s = .next (s.put d b.g)))

/-- An instruction that uses the vector context traps 0x16 on a core whose context another task owns. Derived from
17_traps R359, R350, 03_words R69. For every instruction of the vector, chain, memory, stash, matrix, fgov and
collective families: where the hart's task does not own its core's vector context and the context is not empty in
its first residency, the instruction traps 0x16 with TRAPVAL the owner's save area and has no other effect; where
the context is empty in the task's first residency, the instruction is what it is once the task owns it. On a
service core, which has no task, its word traps 0x01 with TRAPVAL2 = 0 (the model's readings, logs 14 and 19, which
is also where 0x16 has TRAPVAL2 = 0), but for the collective instructions and those on registers and settings alone,
which run at every level: of the latter, vsetrun, xdmerge, mattach, mdetach and mshape, each answers a next state
there. -/
def Obligations.VectorContextIsRequired : Prop :=
  ∀ (i : Instr) (s : State), (usesContext i || collective i) = true →
    (∀ save, s.who = .user → s.vectorContext = .error save →
      exec i s = .next (takeTrap { cause := .vswitch, val := save } false s)) ∧
    (∀ u, s.who = .user → s.vectorContext = .ok u → exec i s = exec i u) ∧
    (s.who ≠ .user → usesContext i = true → registersOnly i = false →
      ∃ w, exec i s = .next (takeTrap { cause := .illegal, val := w } false s)) ∧
    (s.who ≠ .user → registersOnly i = true → ∃ t, exec i s = .next t)

/-- clen, cinfo, cpool and vget read a chain into xd; vsetrun sets the strip of a paged sequence. Derived from 06_chains
R141, R143, 09_vmem R213. With the vector context held: clen gives LEN of the latest version (pending, live,
spilled; 0 when empty), cinfo its word, cpool the quota left and the free swatches; vget gives the value of an
element that is below LEN and produced, whose swatch holds no poison. vsetrun grants the request cut at the end of
the block, writes the grant and the block number, and sets VL. Each completes and changes nothing else. -/
def Obligations.ChainQueriesRead : Prop :=
  ∀ (s : State) (d a b : Reg), s.holdsContext = true →
    exec (.clen d a) s = .next (s.put d (BitVec.ofNat 64 (s.entry (s.h.name a)).len)) ∧
    exec (.cinfo d a) s = .next (s.put d (BitVec.ofNat 64 (s.entry (s.h.name a)).info)) ∧
    exec (.cpool d) s = .next (s.put d (BitVec.ofNat 64 (s.t.poolq.toNat - s.poolUse s.t.uid + s.cl.freeCount * 2 ^ 32))) ∧
    (∀ e c, s.entry (s.h.name a) = e → e.state ≠ .empty → e.state ≠ .spilled → (s.rx b).toNat < e.len →
      (s.rx b).toNat < e.prog → s.cl.element e.tag e.segs (s.rx b).toNat = .ok c →
      exec (.vget d a b) s = .next (s.put d (elementWord e.tag (s.rx b).toNat c))) ∧
    (let bs := (s.rx b).toNat % 2 ^ 32
     let p := (s.rx b).toNat / 2 ^ 32
     let n := grant s.t.gvl.toNat s.h.ty (if bs = 0 then (s.rx a).toNat else min (s.rx a).toNat (bs - p % bs))
     exec (.vsetrun d a b) s = .next
      ((({ s with h := { s.h with vl := BitVec.ofNat 18 n } } : State).wpair d (BitVec.ofNat 64 n)
        (BitVec.ofNat 64 (if bs = 0 then 0 else p / bs))).advance))

/-- cnew, cdrop, cshare, cretype, cmovv and vput make the versions their rules give, where the checks of R129 pass.
Derived from 06_chains R124, R129, R131 to R133, R139, R140, R142. With the vector context held and the destination
not spilled: where no mread of the hart has yet to retire over the destination's version (R126): cnew with room for
its at most two swatches (none of them asked for before by another hart) makes a live chain of xa elements in
VTYPE's type, each of which reads as zero; cdrop leaves the name empty, with VERSION one higher where it was not
empty (the model's choice, log 18); cshare and cretype of a live source whose swatches can be held give the
destination the same segments, with the new type and whole-element length for cretype; cmovv between different names
moves the source's version and leaves the source empty; vput of an element below LEN, with room for copies and no
poison, makes a new live version of the same type and length, in which, where the segments lie in their swatches,
hold the chain's bytes and are referenced, the element reads as the low bits of xa (the low 16 for cb8x2, whose
index it replaces). Each completes, for each version made VERSION rises by one, and the hart passes. -/
def Obligations.ChainsAreMade : Prop :=
  ∀ (s : State) (d a b : Reg) (ty : ElemType), s.holdsContext = true →
    let kd := s.h.name d
    let ka := s.h.name a
    let e := s.entry ka
    (s.entry kd).state ≠ .spilled → s.boltBefore none = false → s.unretired kd = false →
    (bytesFor s.h.ty (s.rx a).toNat ≤ 512 → s.swatchRoom ((bytesFor s.h.ty (s.rx a).toNat + 255) / 256) = true →
      ∃ t segs, exec (.cnew d a) s = .next t ∧ newVersion s t kd s.h.ty (s.rx a).toNat segs ∧
        chainLen segs = bytesFor s.h.ty (s.rx a).toNat ∧ ∀ k, k < (s.rx a).toNat → t.cl.element s.h.ty segs k = .ok 0) ∧
    (∃ t, exec (.cdrop d) s = .next t ∧ (t.entry kd).state = .empty ∧ t.h.pc = s.h.pc + 4#64 ∧
      ((s.entry kd).state ≠ .empty → (t.entry kd).version = (s.entry kd).version + 1#16)) ∧
    (e.state = .live → s.canHold e.swatches →
      ∃ t, exec (.cshare d a) s = .next t ∧ newVersion s t kd e.tag e.len e.segs) ∧
    (∀ n, e.state = .live → s.canHold e.swatches → retypeLen ty (bytesFor e.tag e.len) = some n →
      ∃ t, exec (.cretype d a ty) s = .next t ∧ newVersion s t kd ty n e.segs) ∧
    (e.state = .live → ka ≠ kd →
      ∃ t, exec (.cmovv d a) s = .next t ∧ newVersion s t kd e.tag e.len e.segs ∧ (t.entry ka).state = .empty) ∧
    ((s.entry kd).state = .live → (s.rx b).toNat < (s.entry kd).len → s.canHold (s.entry kd).swatches →
      s.swatchRoom ((s.entry kd).segs.length + 1) = true → (∀ w ∈ s.cl.bolt, w.poison = false) →
      ∃ t segs, exec (.vput d a b) s = .next t ∧ newVersion s t kd (s.entry kd).tag (s.entry kd).len segs ∧
        segs.map Seg.count = (s.entry kd).segs.map Seg.count ∧
        ((∀ w ∈ s.cl.bolt, w.data.length = 256) → (∀ g ∈ (s.entry kd).segs, g.first + g.count ≤ 256) →
          bytesFor (s.entry kd).tag (s.entry kd).len ≤ chainLen (s.entry kd).segs →
          (∀ i, (s.entry kd).swatches.count i ≤ s.refs i) →
          t.cl.element (s.entry kd).tag segs (s.rx b).toNat =
            .ok ((s.rx a).toNat % 2 ^ (if (s.entry kd).tag = .cb8x2 then 16 else elemBits (s.entry kd).tag))))

/-- cseam, chemh, chemt, csplit and cslice give their names the segments that Cut and Coalesce give. Derived from
06_chains R121, R122, R129, R130, R135 to R137. With the vector context held, live sources, destinations not
spilled, references that can be held, no mread of the hart that has yet to retire over a destination's version
(R126), and room for a map that no other hart asked for before: cseam joins two chains of one type at a byte
position within the limits of R121; chemh drops xb elements from the head at a byte position, chemt from the tail;
csplit gives vd the tail and va the head at such a position (vd alone where the names are one); cslice cuts a count
at a start. Each completes with the types and lengths of the rules and the segments of Cut. -/
def Obligations.ChainsAreCutAndJoined : Prop :=
  ∀ (s : State) (d a b : Reg), s.holdsContext = true →
    let kd := s.h.name d
    let ka := s.h.name a
    let kb := s.h.name b
    let e := s.entry ka
    let f := s.entry kb
    let p := (s.rx b).toNat
    let piece (lo hi : Nat) := (cut ka e.segs lo hi).map (·.1)
    let holds (l : List Seg) := s.canHold (l.map Seg.swatch)
    (s.entry kd).state ≠ .spilled → e.state = .live → s.swatchRoom 2 = true → s.boltBefore none = false →
    s.unretired kd = false → s.unretired ka = false →
    (let joined := (coalesce ((e.segs.map fun g => (g, ka)) ++ f.segs.map fun g => (g, kb))).map (·.1)
     f.state = .live → f.tag = e.tag → bytePos e.tag e.len = true → joined.length ≤ 64 →
     bytesFor e.tag e.len + bytesFor f.tag f.len ≤ 16384 → holds joined →
     ∃ t, exec (.cseam d a b) s = .next t ∧ newVersion s t kd e.tag (e.len + f.len) joined) ∧
    ((p = e.len ∨ bytePos e.tag p = true) → p ≤ e.len → holds (piece (bytesFor e.tag p) (bytesFor e.tag e.len)) →
      ∃ t, exec (.chemh d a b) s = .next t ∧
        newVersion s t kd e.tag (e.len - p) (piece (bytesFor e.tag p) (bytesFor e.tag e.len))) ∧
    (p ≤ e.len → holds (piece 0 (bytesFor e.tag (e.len - p))) →
      ∃ t, exec (.chemt d a b) s = .next t ∧ newVersion s t kd e.tag (e.len - p) (piece 0 (bytesFor e.tag (e.len - p)))) ∧
    (let tail := piece (bytesFor e.tag p) (bytesFor e.tag e.len)
     let head := piece 0 (bytesFor e.tag p)
     (p = e.len ∨ bytePos e.tag p = true) → p ≤ e.len → holds (tail ++ head) →
     ∃ t, exec (.csplit d a b) s = .next t ∧ newVersion s t kd e.tag (e.len - p) tail ∧
       (ka ≠ kd → newVersion s t ka e.tag p head)) ∧
    (let start := p % 2 ^ 32
     let n := p / 2 ^ 32
     let part := piece (bytesFor e.tag start) (if n = 0 then bytesFor e.tag start else bytesFor e.tag (start + n))
     (n = 0 ∨ bytePos e.tag start = true) → start + n ≤ e.len → holds part →
     ∃ t, exec (.cslice d a b) s = .next t ∧ newVersion s t kd e.tag n part)

/-- Cut gives exactly the bytes asked for, and Coalesce changes no byte of a chain. Derived from 06_chains R120, R121,
R130. For every cluster and list of segments: Coalesce of a list reads as the list at every byte, and Cut of bytes
b0 to b1 of a chain that has them has length b1 minus b0 and reads at every byte as the chain does b0 bytes further
on. -/
def Obligations.CutAndCoalesceKeepTheBytes : Prop :=
  ∀ (c : Cluster) (k : Nat) (l : List Seg) (m : List (Seg × Nat)) (b0 b1 : Nat), (∀ g ∈ l, 0 < g.count) →
    (∀ off, c.chainByte ((coalesce m).map (·.1)) off = c.chainByte (m.map (·.1)) off) ∧
    (b0 ≤ b1 → b1 ≤ chainLen l →
      chainLen ((cut k l b0 b1).map (·.1)) = b1 - b0 ∧
      ∀ off, off < b1 - b0 → c.chainByte ((cut k l b0 b1).map (·.1)) off = c.chainByte l (b0 + off))

/-- cpost moves a live chain into an empty slot and ctake takes it out; a wait beyond WTMO ends as R144 says. Derived
from 06_chains R124, R126, R144, R145. With the vector context held and no earlier waiter for the slot: cpost of a
live chain to an empty slot of 0 to 63, with no mread of the hart that has yet to retire (R124), moves the version
there, leaves the name empty, and commits the hart's earlier stores (that they commit to memory at once is the
model's choice, log 64: R145 makes cpost a release at cluster scope); ctake from a full slot, where no mread of the
hart has yet to retire over the name's version (R126), moves the version to the name, empties the slot and writes 0
to xa. Each completes. A cpost that has waited beyond WTMO traps 0x1B with the slot and 1; a ctake that has so
waited writes 2 to xa and passes. -/
def Obligations.MailboxesPassChains : Prop :=
  ∀ (s : State) (d a b : Reg), (s.holdsContext = true →
    let kd := s.h.name d
    let slot := (s.rx b).toNat
    ((s.entry kd).state = .live → slot ≤ 63 → s.readsOf s.h.id = [] → (∀ m ∈ s.cl.mail, m.1 ≠ slot) →
      s.queuedBefore (WaitKind.posts slot) = false →
      ∃ t, exec (.cpost d b) s = .next t ∧ (t.entry kd).state = .empty ∧ (slot, s.entry kd) ∈ t.cl.mail ∧ t.h.sb = [] ∧
        t.mem = s.drain.mem ∧ t.h.pc = s.h.pc + 4#64) ∧
    (∀ e, (s.entry kd).state ≠ .spilled → slot ≤ 63 → (s.cl.mail.find? fun m => m.1 = slot) = some (slot, e) →
      s.queuedBefore (WaitKind.takes slot) = false → s.unretired kd = false →
      ∃ t, exec (.ctake d a b) s = .next t ∧ (∀ m ∈ t.cl.mail, m.1 ≠ slot) ∧ (t.entry kd).segs = e.segs ∧
        (t.entry kd).tag = e.tag ∧ (t.entry kd).len = e.len ∧ t.rx a = 0#64 ∧ t.h.pc = s.h.pc + 4#64)) ∧
    (∀ slot since, s.h.wait = some { kind := .cpost slot, since := since } → s.h.wtmo ≠ 0#64 →
      since + s.h.wtmo.toNat < s.time →
      exec .cpostTimeout s = .next (takeTrap { cause := .deadline, val := BitVec.ofNat 64 slot, val2 := 1#64 } false s)) ∧
    (∀ slot since, s.h.wait = some { kind := .ctake slot a, since := since } → s.h.wtmo ≠ 0#64 →
      since + s.h.wtmo.toNat < s.time → exec .ctakeTimeout s = .next (s.put a 2#64))

/-- A vector computation with nothing to stop it retires with a live chain of its type and length. Derived from
07_vector R149 to R157, 06_chains R124, R134, R138, 08_draws R195. For every element-wise, conversion, permute,
mask, vrand and cpack instruction, masked or not, with either form of the second operand: where nothing stops it
(the checks of R156 pass, sources complete, no poison, no trap enabled, room for 65 swatches), it completes in one
step. The destination name is live with the type of R152 (b1 for comparisons and masks, the target type for vcvt,
the source's for cpack), its length is VL (the source's for cpack; at most VL for vcompr), its segments hold exactly
its bytes, VERSION rises by one, VSTART is 0, no instruction is under way, and no x-register changes. -/
def Obligations.VectorComputationCompletes : Prop :=
  ∀ (i : Instr) (s : State) (v : VSpec), computeSpec i = some v → readyFor s v 65 →
    ∃ t tag len segs, exec i s = .next t ∧ newVersion s t (s.h.name v.word.d) tag len segs ∧
      v.op.destType s.h.ty (s.entry (s.h.name v.word.a)).tag = some tag ∧ chainLen segs = bytesFor tag len ∧
      (if v.op = .perm .compr then len ≤ s.h.vl.toNat
        else len = if v.op = .pack then (s.entry (s.h.name v.word.a)).len else s.h.vl.toNat) ∧
      t.h.vstart = 0#18 ∧ t.h.flight = none

/-- The integer element functions wrap, saturate, divide, shift and compare as their rules say. Derived from 07_vector
R158 to R163, R170. For codes a and b of n bits (n at least 1), read signed or unsigned: add, sub, rsub and mul are
exact modulo 2^n; adds and subs clamp the exact sum or difference to the range of the type and raise IOV exactly
when they clamp; avg is the sum plus one halved downwards; min and max return the smaller or larger operand; the
bitwise members act on every bit; the comparisons give 1 exactly when they hold; mulh is the high half of the exact
product; div and rem give all ones and the dividend with IDZ for a zero divisor, the dividend and 0 with IOV for the
lowest value by −1, and else the quotient cut towards zero and its remainder; a left or logical right shift moves
the bits and by n or more gives 0, an arithmetic right shift divides downwards, a rotation turns right modulo n. For
the integer types: abs and neg give the value modulo 2^n, with IOV for the lowest value of a signed type; not
inverts every bit, clz counts leading zeros, popc ones, mov copies and id gives the index modulo 2^n. -/
def Obligations.VectorIntegerElements : Prop :=
  ∀ (sg : Bool) (n a b : Nat), 1 ≤ n → a < 2 ^ n → b < 2 ^ n →
    let x := intOf sg n a
    let y := intOf sg n b
    let lo := intLo sg n
    let hi := intHi sg n
    (binInt .add sg n a b).1 = (a + b) % 2 ^ n ∧
    (binInt .sub sg n a b).1 = (a + 2 ^ n - b) % 2 ^ n ∧
    (binInt .rsub sg n a b).1 = (b + 2 ^ n - a) % 2 ^ n ∧
    (binInt .mul sg n a b).1 = a * b % 2 ^ n ∧
    (intOf sg n (binInt .adds sg n a b).1 = max lo (min hi (x + y)) ∧
      ((binInt .adds sg n a b).2 = if x + y < lo ∨ hi < x + y then fIOV else 0#9)) ∧
    (intOf sg n (binInt .subs sg n a b).1 = max lo (min hi (x - y)) ∧
      ((binInt .subs sg n a b).2 = if x - y < lo ∨ hi < x - y then fIOV else 0#9)) ∧
    intOf sg n (binInt .avg sg n a b).1 = (x + y + 1) / 2 ∧
    intOf sg n (binInt .min sg n a b).1 = min x y ∧ intOf sg n (binInt .max sg n a b).1 = max x y ∧
    (∀ i, i < n → (binInt .and sg n a b).1.testBit i = (a.testBit i && b.testBit i) ∧
      (binInt .or sg n a b).1.testBit i = (a.testBit i || b.testBit i) ∧
      (binInt .xor sg n a b).1.testBit i = (a.testBit i != b.testBit i) ∧
      (binInt .andn sg n a b).1.testBit i = (a.testBit i && !b.testBit i)) ∧
    (binInt .ceq sg n a b).1 = (if x = y then 1 else 0) ∧ (binInt .cne sg n a b).1 = (if x = y then 0 else 1) ∧
    (binInt .clt sg n a b).1 = (if x < y then 1 else 0) ∧ (binInt .cle sg n a b).1 = (if x ≤ y then 1 else 0) ∧
    (n ≤ b → (binInt .sll sg n a b).1 = 0 ∧ (binInt .srl sg n a b).1 = 0) ∧
    (b < n → (binInt .sll sg n a b).1 = a * 2 ^ b % 2 ^ n ∧ (binInt .srl sg n a b).1 = a / 2 ^ b) ∧
    intOf true n (binInt .sra sg n a b).1 = intOf true n a / 2 ^ b ∧
    (∀ i, i < n → (binInt .rot sg n a b).1.testBit i = a.testBit ((i + b) % n)) ∧
    intOf sg n (binInt .mulh sg n a b).1 = x * y / 2 ^ n ∧
    (y = 0 → binInt .div sg n a b = (2 ^ n - 1, fIDZ) ∧ binInt .rem sg n a b = (a, fIDZ)) ∧
    (sg = true → x = lo → y = -1 → binInt .div sg n a b = (a, fIOV) ∧ binInt .rem sg n a b = (0, fIOV)) ∧
    (y ≠ 0 → ¬ (sg = true ∧ x = lo ∧ y = -1) →
      intOf sg n (binInt .div sg n a b).1 = Int.tdiv x y ∧ (binInt .div sg n a b).2 = 0#9 ∧
      intOf sg n (binInt .rem sg n a b).1 = Int.tmod x y ∧ (binInt .rem sg n a b).2 = 0#9) ∧
    (∀ (t : ElemType) (i : Nat), isInt t = true → isSigned t = sg → elemBits t = n →
      let least := sg = true ∧ x = lo
      (least → unElem .abs t i a = (a, fIOV) ∧ unElem .neg t i a = (a, fIOV)) ∧
      (¬ least → intOf sg n (unElem .abs t i a).1 = (if x < 0 then -x else x) ∧ (unElem .abs t i a).2 = 0#9 ∧
        (unElem .neg t i a).1 = (2 ^ n - a) % 2 ^ n ∧ (unElem .neg t i a).2 = 0#9) ∧
      (∀ j, j < n → (unElem .not t i a).1.testBit j = !a.testBit j) ∧
      (unElem .clz t i a).1 ≤ n ∧ a < 2 ^ (n - (unElem .clz t i a).1) ∧
      (a ≠ 0 → 2 ^ (n - (unElem .clz t i a).1 - 1) ≤ a) ∧
      (unElem .popc t i a).1 = ((List.range n).countP fun j => a.testBit j) ∧
      (unElem .mov t i a).1 = a ∧ (unElem .id t i a).1 = i % 2 ^ n)

/-- The float functions give the exact result rounded once, and compare, select and scale as R165 to R169 say. Derived
from 07_vector R164 to R169, 02_numbers R42, R44. For each of the eight float types. Round: a number, or one that
lies above a given one by less than one unit of its last place as the sticky bit tells, is rounded once to the grid
of the format under the mode, with NX where it changes, and past the largest finite value with OF and NX to the
infinity or the largest value. Of numbers x, y and c: fadd, fsub, fmul, fma, fms and fnma deliver the exact x + y, x
− y, x × y, x × y + c, x × y − c and c − x × y rounded so; fdiv by a number that is not zero is Round of the exact
quotient, by its leading bits and a sticky bit; of a number that is not zero by zero it is the infinity of the right
sign (the code that stands for it where the format has none) with DZ and no other flag (that DZ stands alone in the
formats without infinities is the model's choice, log 79), of zero by zero NaN with NV. The comparisons give 1
exactly where they hold, and with a NaN 0 (fcun 1), with NV as R167 says. fmin and fmax return the code of the
smaller and the larger number, −0 below +0, and of one NaN the number. fsgn, fabs and fneg change the sign bit only.
scale delivers the exact product with the power of two, and NaN for code 255. -/
def Obligations.VectorFloatElements : Prop :=
  ∀ (t : ElemType) (rm : Rounding), isFloat t = true →
    let f := fmtOf t
    (∀ (neg sticky : Bool) (m : Nat) (e : Int) (x : ℚ), (m : ℚ) * 2 ^ e ≤ x → x < (m + 1) * 2 ^ e →
      (sticky = true ↔ x ≠ m * 2 ^ e) → (sticky = true → 2 ^ 32 ≤ m) → 0 < m →
      roundedTo f rm neg x (f.round rm false neg m e sticky)) ∧
    (∀ (x y c : FVal) (a k : Nat) (b : Option Nat), x.finite = true → y.finite = true → c.finite = true →
      delivers f rm (x.val + y.val) (binFloat .fadd f rm a x b y c) ∧
      delivers f rm (x.val - y.val) (binFloat .fsub f rm a x b y c) ∧
      delivers f rm (x.val * y.val) (binFloat .fmul f rm a x b y c) ∧
      delivers f rm (x.val * y.val + c.val) (binFloat .fma f rm a x b y c) ∧
      delivers f rm (x.val * y.val - c.val) (binFloat .fms f rm a x b y c) ∧
      delivers f rm (c.val - x.val * y.val) (binFloat .fnma f rm a x b y c) ∧
      (y.val ≠ 0 → x.val ≠ 0 → ∃ (m : Nat) (e : Int) (sticky : Bool), 2 ^ 32 ≤ m ∧
        (m : ℚ) * 2 ^ e ≤ |x.val / y.val| ∧ |x.val / y.val| < (m + 1) * 2 ^ e ∧
        (sticky = true ↔ |x.val / y.val| ≠ m * 2 ^ e) ∧
        binFloat .fdiv f rm a x b y c = f.round rm false (x.neg != y.neg) m e sticky) ∧
      (y.val ≠ 0 → x.val = 0 → binFloat .fdiv f rm a x b y c = (f.pack (x.neg != y.neg) 0 0, 0#9)) ∧
      (y.val = 0 → x.val ≠ 0 → binFloat .fdiv f rm a x b y c = (f.infinity (x.neg != y.neg), fDZ)) ∧
      (y.val = 0 → x.val = 0 → binFloat .fdiv f rm a x b y c = (f.nanResult.1, fNV)) ∧
      binFloat .fceq f rm a x b y c = (if x.val = y.val then 1 else 0, 0#9) ∧
      binFloat .fclt f rm a x b y c = (if x.val < y.val then 1 else 0, 0#9) ∧
      binFloat .fcle f rm a x b y c = (if x.val ≤ y.val then 1 else 0, 0#9) ∧
      binFloat .fcun f rm a x b y c = (0, 0#9) ∧
      (x.val < y.val ∨ (x.val = y.val ∧ x.neg = true ∧ y.neg = false) →
        binFloat .fmin f rm a x (some k) y c = (a, 0#9) ∧ binFloat .fmax f rm a x (some k) y c = (k, 0#9)) ∧
      (y.val < x.val ∨ (x.val = y.val ∧ y.neg = true ∧ x.neg = false) →
        binFloat .fmin f rm a x (some k) y c = (k, 0#9) ∧ binFloat .fmax f rm a x (some k) y c = (a, 0#9)) ∧
      (∀ sig, let nv := if sig then fNV else 0#9
        (∀ op ∈ [VBin.fmin, .fmax], binFloat op f rm a (.nan sig) (some k) y c = (k, nv) ∧
          binFloat op f rm a x b (.nan sig) c = (a, nv)) ∧
        binFloat .fceq f rm a (.nan sig) b y c = (0, nv) ∧ binFloat .fcun f rm a (.nan sig) b y c = (1, nv) ∧
        ∀ op ∈ [VBin.fclt, .fcle], binFloat op f rm a (.nan sig) b y c = (0, fNV) ∧ binFloat op f rm a x b (.nan sig) c = (0, fNV)) ∧
      (∀ e : Nat, e < 255 → delivers f rm (x.val * (2 : ℚ) ^ ((e : ℤ) - 127)) (scaleElem f rm x e)) ∧
      scaleElem f rm x 255 = (f.nan, 0#9)) ∧
    (∀ (a b c i : Nat) (xb : Word), a < 2 ^ elemBits t →
      let low := a % 2 ^ (elemBits t - 1)
      let top := 2 ^ (elemBits t - 1)
      unElem .fabs t i a = (low, 0#9) ∧ unElem .fneg t i a = (if a < top then low + top else low, 0#9) ∧
      (b < 2 ^ elemBits t → binElem .fsgn t rm a (some b) xb c = (if b < top then low else low + top, 0#9)) ∧
      binElem .fsgn t rm a none xb c = (if xb.getLsbD 31 then low + top else low, 0#9))

/-- Roots and special functions, conversions and permutes give the values of R170 to R175. Derived from 07_vector R170
to R175, 02_numbers R45 to R47. For f32, f16 and bf16: vfsqrt and vfrsqrt of a positive number are Round to nearest
of the exact root, by its leading bits and a sticky bit; vfrcp is the division of 1; vfexp2 of an integer between
−512 and 512 is Round of that power of two and vflog2 of a power of two Round of its exponent, exactly; the special
operands ±0, ±∞ and NaN give the values of R171. vcvt: between integer types it clamps with IOV; to an integer it
rounds under the mode and clamps with NV, NaN to 0; to a float type it rounds the exact value once; to the same type
it keeps the code, but for a signalling NaN. The permutes take the element that their rule names, or 0: vslup,
vsldn, vrgath (IDX outside the table), vzip, vunzip, vrev, vmerge and vbcast. -/
def Obligations.VectorSpecialAndMovedElements : Prop :=
  (∀ (t : ElemType) (i a : Nat), isWide t = true →
    let f := fmtOf t
    let x := f.decode a
    (x.finite = true → 0 < x.val →
      (∃ (m : Nat) (e : Int) (sticky : Bool), 2 ^ 32 ≤ m ∧ ((m : ℚ) * 2 ^ e) ^ 2 ≤ x.val ∧ x.val < ((m + 1) * 2 ^ e) ^ 2 ∧
        (sticky = true ↔ x.val ≠ (m * 2 ^ e) ^ 2) ∧ unElem .fsqrt t i a = f.round .rne false false m e sticky) ∧
      (∃ (m : Nat) (e : Int) (sticky : Bool), 2 ^ 32 ≤ m ∧ ((m : ℚ) * 2 ^ e) ^ 2 * x.val ≤ 1 ∧
        1 < ((m + 1) * 2 ^ e) ^ 2 * x.val ∧ (sticky = true ↔ ((m : ℚ) * 2 ^ e) ^ 2 * x.val ≠ 1) ∧
        unElem .frsqrt t i a = f.round .rne false false m e sticky) ∧
      (∀ n : ℤ, x.val = (2 : ℚ) ^ n → unElem .flog2 t i a = f.round .rne false (decide (n < 0)) n.natAbs 0 false)) ∧
    (x.finite = true → x.val < 0 → ∀ op ∈ [VUn.fsqrt, .frsqrt, .flog2], unElem op t i a = (f.nan, fNV)) ∧
    (∀ n : ℤ, x.finite = true → -512 < n → n < 512 → x.val = n → unElem .fexp2 t i a = f.round .rne false false 1 n false) ∧
    unElem .frcp t i a = f.div .rne (.fin false 1 0) x ∧
    (x.finite = true → x.val = 0 → unElem .fsqrt t i a = (f.pack x.neg 0 0, 0#9) ∧ unElem .ftanh t i a = (f.pack x.neg 0 0, 0#9) ∧
      (∀ op ∈ [VUn.frcp, .frsqrt], unElem op t i a = (f.infinity x.neg, fDZ)) ∧
      unElem .flog2 t i a = (f.infinity true, fDZ) ∧ unElem .fexp2 t i a = (f.pack false f.bias.toNat 0, 0#9)) ∧
    (∀ n, x = .inf n → unElem .frcp t i a = (f.pack n 0 0, 0#9) ∧ unElem .ftanh t i a = (f.pack n f.bias.toNat 0, 0#9) ∧
      unElem .fexp2 t i a = (if n then f.pack false 0 0 else f.infinity false, 0#9) ∧
      (n = true → ∀ op ∈ [VUn.fsqrt, .frsqrt, .flog2], unElem op t i a = (f.nan, fNV)) ∧
      (n = false → unElem .fsqrt t i a = (f.infinity false, 0#9) ∧ unElem .flog2 t i a = (f.infinity false, 0#9) ∧
        unElem .frsqrt t i a = (f.pack false 0 0, 0#9))) ∧
    (∀ sig, x = .nan sig → ∀ op ∈ [VUn.fsqrt, .frcp, .frsqrt, .flog2, .fexp2, .ftanh],
      unElem op t i a = (f.nan, if sig then fNV else 0#9))) ∧
  (∀ (rm : Rounding) (sat : Bool) (src dst : ElemType) (i c : Nat),
    let lo := intLo (isSigned dst) (elemBits dst)
    let hi := intHi (isSigned dst) (elemBits dst)
    let code := codeOf (elemBits dst)
    (isInt src = true →
      let v := intOf (isSigned src) (elemBits src) c
      (isInt dst = true → convert rm sat src dst i c =
        (if v < lo then code lo else if hi < v then code hi else code v, if v < lo ∨ hi < v then fIOV else 0#9)) ∧
      (isFloat dst = true → delivers (fmtOf dst) rm v (convert rm false src dst i c))) ∧
    (isInt src = false → src ≠ .b1 → src ≠ dst →
      let v := valueOf src i c
      (isInt dst = true → (v.isNan = true → convert rm sat src dst i c = (0, fNV)) ∧
        (v.finite = true → ∃ k : Nat, roundsTo rm v.neg |v.val| k ∧
          let z : ℤ := if v.neg then -(k : ℤ) else (k : ℤ)
          convert rm sat src dst i c = if z < lo then (code lo, fNV) else if hi < z then (code hi, fNV)
            else (code z, if (k : ℚ) = |v.val| then 0#9 else fNX))) ∧
      (isFloat dst = true → v.finite = true → delivers (fmtOf dst) rm v.val (convert rm false src dst i c))) ∧
    (isInt src = false → src ≠ .b1 → convert rm sat src src i c = if (valueOf src i c).isSig then ((fmtOf src).nan, fNV) else (c, 0#9))) ∧
  (∀ (s : State) (f : Flight) (i : Nat) (a b : Entry), f.va = some a → a.state = .live → b.state = .live →
    (∀ w ∈ s.cl.bolt, w.poison = false) →
    let at_ (e : Entry) (j : Nat) := s.cl.codeAt e j
    let gives (op : VPerm) (c : Nat) (fl : Flags) := f.op = .perm op → opElem f i s = .ok ((c, fl), s)
    gives .slup (if f.xb.toNat ≤ i then at_ a (i - f.xb.toNat) else 0) 0#9 ∧
    gives .sldn (if i + f.xb.toNat < a.len then at_ a (i + f.xb.toNat) else 0) 0#9 ∧
    gives .unzip (if 2 * i + f.xb.toNat % 2 < a.len then at_ a (2 * i + f.xb.toNat % 2) else 0) 0#9 ∧
    gives .rev (at_ a (f.vl - 1 - i)) 0#9 ∧
    (f.vb = none → let k := f.xb.toNat
      gives .rgath (if k < a.len then at_ a k else 0) (if k < a.len then 0#9 else fIDX) ∧
      (isInt f.ty = true → ∀ op ∈ [VPerm.merge, .bcast], gives op (f.xb.toNat % 2 ^ elemBits f.ty) 0#9)) ∧
    (f.vb = some b → let k := at_ b i
      gives .rgath (if k < a.len then at_ a k else 0) (if k < a.len then 0#9 else fIDX) ∧
      gives .zip (if i % 2 = 0 then at_ a (i / 2) else at_ b (i / 2)) 0#9 ∧
      gives .merge (at_ b i) 0#9 ∧ gives .bcast (at_ b 0) 0#9))

/-- Every reduction, draw, vmcount and vmlow completes; integer sums, extremes and counts are exact, and clear draws
pick their element. Derived from 08_draws R179 to R194, 07_vector R177, 02_numbers R48, R49. For every reduction and
draw but vrand, and for vmcount and vmlow, masked or not: where the hart holds the vector context with nothing under
way, the checks of R156 pass, the sources are complete and no swatch is poisoned, it completes, whatever flags it
raises or traps are enabled (a trap is held for the next boundary, R185); VSTART is 0, names are as before, and only
xd (and x(d+1) for a pair) changes among the registers. Unmasked: vredsum of integer elements gives their exact sum
mod 2^64, vmcount the number of ones, vmlow the index of the first one or VL, and the integer extremes of at least
one element give the largest or smallest value and, in the pair forms, the lowest index that has it. For f32
elements without NaN, vredosum is the sum in ascending order, one addition after the other, and vredsum that of one
or two elements. A draw over f32 of which just one weight is positive and finite and the others are zeros (for
vdrawt: one logit finite and the others −∞) picks that element, with its weight, and vdrawp the index that it
carries (an i32 index zero-extended: the model's choice, log 95). xdmerge with the context held writes its pair and
DCTR rises by one: of two finite non-negative weights the only non-zero one with its index, the empty draw of two
zeros, and else the rounded total with the right index exactly where coin × total is less than the right weight. -/
def Obligations.FoldsComplete : Prop :=
  ∀ (s : State) (m : Bool) (d a b : Reg),
    let red (op : VRed) := lite (.red op) m .none d a 0#7
    let codesOf (r : Reg) (l : List Nat) := m = false ∧ d ≠ 0#7 ∧ l.length = s.h.vl.toNat ∧ ∀ k, k < l.length →
      s.cl.element (s.entry (s.h.name r)).tag (s.entry (s.h.name r)).segs k = .ok (l.getD k 0)
    let codes (l : List Nat) := codesOf a l
    (foldReady s (red .sum) → ∃ t, exec (.vredsum m d a) s = .next t ∧ folded s t d false ∧
      (∀ l, codes l → isInt s.h.ty = true →
        t.rx d = BitVec.ofInt 64 ((l.map (intOf (isSigned s.h.ty) (elemBits s.h.ty))).sum)) ∧
      (∀ c, codes [c] → s.h.ty = .f32 → nanCode c = false → t.rx d = BitVec.ofNat 64 c) ∧
      ∀ c e, codes [c, e] → s.h.ty = .f32 → nanCode c = false → nanCode e = false →
        t.rx d = BitVec.ofNat 64 (canonF32 (addF32 c e).1)) ∧
    (foldReady s (red .osum) → ∃ t, exec (.vredosum m d a) s = .next t ∧ folded s t d false ∧
      ∀ c l, codes (c :: l) → s.h.ty = .f32 → (∀ e ∈ c :: l, nanCode e = false) →
        t.rx d = BitVec.ofNat 64 (canonF32 (l.foldl (fun acc e => (addF32 acc e).1) c))) ∧
    (foldReady s (red .max) → ∃ t, exec (.vredmax m d a) s = .next t ∧ folded s t d false ∧
      ∀ l, codes l → isInt s.h.ty = true → l ≠ [] → ∃ j, extremeAt s.h.ty true l j (t.rx d)) ∧
    (foldReady s (red .min) → ∃ t, exec (.vredmin m d a) s = .next t ∧ folded s t d false ∧
      ∀ l, codes l → isInt s.h.ty = true → l ≠ [] → ∃ j, extremeAt s.h.ty false l j (t.rx d)) ∧
    (foldReady s (red .maxi) → ∃ t, exec (.vredmaxi m d a) s = .next t ∧ folded s t d true ∧
      ∀ l, codes l → isInt s.h.ty = true → l ≠ [] → ∃ j, extremeAt s.h.ty true l j (t.rx d) ∧
        (nextReg d ≠ 0#7 → t.rx (nextReg d) = BitVec.ofNat 64 j)) ∧
    (foldReady s (red .mini) → ∃ t, exec (.vredmini m d a) s = .next t ∧ folded s t d true ∧
      ∀ l, codes l → isInt s.h.ty = true → l ≠ [] → ∃ j, extremeAt s.h.ty false l j (t.rx d) ∧
        (nextReg d ≠ 0#7 → t.rx (nextReg d) = BitVec.ofNat 64 j)) ∧
    (foldReady s (red .draw) → ∃ t, exec (.vdraw m d a) s = .next t ∧ folded s t d true ∧ t.h.dctr = s.h.dctr + 1#64 ∧
      ∀ l j, codes l → onlyWeight l j → t.rx d = BitVec.ofNat 64 j ∧
        (nextReg d ≠ 0#7 → t.rx (nextReg d) = BitVec.ofNat 64 (l.getD j 0))) ∧
    (foldReady s (red .drawt) → ∃ t, exec (.vdrawt m d a) s = .next t ∧ folded s t d true ∧
      t.h.dctr = s.h.dctr + 1#64 ∧
      ∀ l j, codes l → j < l.length → (∀ i, i < l.length → l.getD i 0 < 2 ^ 32) → l.getD j 0 % 2 ^ 31 < 0x7F800000 →
        (∀ i, i < l.length → i ≠ j → l.getD i 0 = 0xFF800000) → t.rx d = BitVec.ofNat 64 j ∧
        (nextReg d ≠ 0#7 → t.rx (nextReg d) = 0x3F800000#64)) ∧
    (foldReady s (lite (.red .drawp) m .vec d a b) → ∃ t, exec (.vdrawp m d a b) s = .next t ∧ folded s t d true ∧
      t.h.dctr = s.h.dctr + 1#64 ∧
      ∀ ix l j, codes ix → codesOf b l → onlyWeight l j → t.rx d = BitVec.ofNat 64 (ix.getD j 0) ∧
        (nextReg d ≠ 0#7 → t.rx (nextReg d) = BitVec.ofNat 64 (l.getD j 0))) ∧
    (foldReady s (lite (.mask .count) m .none d a 0#7) → ∃ t, exec (.vmcount m d a) s = .next t ∧ folded s t d false ∧
      ∀ l, codes l → t.rx d = BitVec.ofNat 64 (l.countP fun c => c = 1)) ∧
    (foldReady s (lite (.mask .low) m .none d a 0#7) → ∃ t, exec (.vmlow m d a) s = .next t ∧ folded s t d false ∧
      ∀ l, codes l → t.rx d = BitVec.ofNat 64 ((l.findIdx? fun c => c = 1).getD s.h.vl.toNat)) ∧
    (s.holdsContext = true → ∃ t, exec (.xdmerge d a b) s = .next t ∧ t.h.dctr = s.h.dctr + 1#64 ∧
      t.h.pc = s.h.pc + 4#64 ∧ (∀ r, r ≠ d → r ≠ nextReg d → t.rx r = s.rx r) ∧
      (let il := (s.rx a).toNat % 2 ^ 32
       let ir := (s.rx b).toNat % 2 ^ 32
       let wl := (s.rx (nextReg a)).toNat % 2 ^ 32
       let wr := (s.rx (nextReg b)).toNat % 2 ^ 32
       let total := (addF32 wl wr).1
       let part := (f32Fmt.deliverInv .rne
         (fvMul (coinVal s.h.dkey s.h.dstream s.h.dctr 0x7FFFFFFF) (f32Fmt.decode total))).1
       let right := fvLt (f32Fmt.decode part) (f32Fmt.decode wr)
       let pair : Nat × Nat := if wr = 0 then (if wl = 0 then (0xFFFFFFFF, 0) else (il, wl))
         else if wl = 0 then (ir, wr) else (if right then ir else il, total)
       wl < 0x7F800000 → wr < 0x7F800000 → (d ≠ 0#7 → t.rx d = BitVec.ofNat 64 pair.1) ∧
         (nextReg d ≠ 0#7 → t.rx (nextReg d) = BitVec.ofNat 64 pair.2)))

/-- A vector load or store whose elements lie in granted scratch retires with its chains or its bytes. Derived from
09_vmem R200 to R208, 06_chains R124, R134. For every vector load and store form, masked or not, with one to eight
fields: where nothing stops it and every element's bytes lie in granted scratch outside stash windows, aligned as
R202 says, it completes in one step. A load leaves each of its names live with VTYPE's type, length VL, and segments
that hold exactly its bytes; a store changes no name and no byte of memory, and no scratch byte outside the
elements' bytes. VSTART is 0 and no x-register changes. -/
def Obligations.VectorMemoryCompletes : Prop :=
  ∀ (i : Instr) (s : State) (loads : Bool) (form : VMemForm) (v : VSpec), memorySpec i = some (loads, form, v) →
    readyFor s v 520 → (∀ k j, k < s.h.vl.toNat → j < v.nf → elementInScratch s (v.capture s) form k j) →
    ∃ t, exec i s = .next t ∧ t.h.pc = s.h.pc + 4#64 ∧ t.h.vstart = 0#18 ∧ t.h.flight = none ∧ t.h.x = s.h.x ∧
      t.mem = s.mem ∧
      (loads = true → t.t.scratch = s.t.scratch ∧ ∀ k ∈ v.dNames s.h, (t.entry k).state = .live ∧ (t.entry k).tag = s.h.ty ∧
        (t.entry k).len = s.h.vl.toNat ∧ chainLen (t.entry k).segs = bytesFor s.h.ty s.h.vl.toNat) ∧
      (loads = false → t.h.names = s.h.names ∧ (Memory.wf s.t.scratch = true → ∀ off,
        (∀ k j idx o, k < s.h.vl.toNat → j < v.nf → (form = .indexed → (v.capture s).index k s = .ok (idx, s)) →
          o < ((v.capture s).addr form k j idx).2 →
          s.t.aperture + off ≠ ((v.capture s).addr form k j idx).1 + o ∧
          s.t.aperture + off ≠ (((v.capture s).addr form k j idx).1 + o) % 2 ^ 64) →
        cellGet t.t.scratch off = cellGet s.t.scratch off))

/-- Each element of a vector result is what its function gives of the captures, a load's what memory holds; a store's
bytes are the elements'. Derived from 07_vector R155 to R157, R174, 09_vmem R200 to R203, R206, R207, 06_chains
R134. For every element-wise, conversion, permute, mask, vrand and cpack instruction, and every vector load and
store form, where nothing stops it (as in the statements that they complete) and the swatches that the hart's names
show are allocated. Each element of the destination reads as the code that the instruction gives it from its
captures: the value of its function where the element is active, else the old element (va's for vmerge), 0 where
there is none; vcompr's elements are the elements of va whose bit in vb is one, in order, and its length is their
number. Each element of each name of a load reads as the little-endian value of its bytes in scratch at the address
of R201, or the old element where inactive, and for cb8x2 as the index that holds it. A store of unit stride leaves
each bit of an active element at its place from xa on, and each bit of an inactive element of a packed type as it
was; one of cb8x2 the bytes of each active index; in the other forms the bytes of an active element are those of its
code, where no later active element stores to them. -/
def Obligations.VectorElementsTakeTheirValues : Prop :=
  ∀ (i : Instr) (s : State) (v : VSpec), (∀ p ∈ s.h.names, ∀ j ∈ p.2.swatches, 1 ≤ s.refs j) →
    let f := v.capture s
    let old := s.entry (s.h.name v.word.d)
    (computeSpec i = some v → readyFor s v 65 → ∃ t, exec i s = .next t ∧
      let e := t.entry (s.h.name v.word.d)
      (v.op ≠ .perm .compr → ∀ k, k < e.len → ∃ c, givenTo f old k s = .ok (c, s) ∧
        t.cl.element e.tag e.segs k = .ok (c % 2 ^ codeBits e.tag)) ∧
      (v.op = .perm .compr →
        let taken := (List.range s.h.vl.toNat).filter fun k => s.cl.codeAt (s.entry (s.h.name v.word.b)) k = 1
        e.len = taken.length ∧ ∀ j, j < taken.length →
          t.cl.element e.tag e.segs j = .ok (s.cl.codeAt (s.entry (s.h.name v.word.a)) (taken.getD j 0)))) ∧
    (∀ form, memorySpec i = some (true, form, v) → readyFor s v 520 →
      (∀ k j, k < s.h.vl.toNat → j < v.nf → elementInScratch s f form k j) →
      ∃ t, exec i s = .next t ∧ ∀ k j, k < s.h.vl.toNat → j < v.nf →
        let name := fieldName s.h v.word.d j
        ∃ c, loadedTo f form (s.entry name) (if s.h.ty = .cb8x2 then k / 8 * 8 else k) j s = .ok (c, s) ∧
          t.cl.element s.h.ty (t.entry name).segs k = .ok (c % 2 ^ codeBits s.h.ty)) ∧
    (∀ form, memorySpec i = some (false, form, v) → readyFor s v 520 → Memory.wf s.t.scratch = true →
      (∀ k j, k < s.h.vl.toNat → j < v.nf → elementInScratch s f form k j) →
      ∃ t, exec i s = .next t ∧ ∀ k j on, k < s.h.vl.toNat → j < v.nf → f.moves true k s = .ok (on, s) →
        let code := s.cl.codeAt (s.entry (fieldName s.h v.word.d j)) k
        let bitAt (u : State) (b : Nat) :=
          (cellGet u.t.scratch (((s.rx v.word.a).toNat + b / 8) % 2 ^ 64 - s.t.aperture)).getLsbD (b % 8)
        (form = .unit → s.h.ty ≠ .cb8x2 → ∀ b, b < elemBits s.h.ty →
          bitAt t (k * elemBits s.h.ty + b) = if on then code.testBit b else bitAt s (k * elemBits s.h.ty + b)) ∧
        ((form ≠ .unit ∨ s.h.ty = .cb8x2) → on = true → ∀ idx, f.offset form true k s = .ok (idx, s) →
          (∀ k' j' idx', later k j k' j' → k' < s.h.vl.toNat → j' < v.nf → f.moves true k' s = .ok (true, s) →
            f.offset form true k' s = .ok (idx', s) →
            ∀ o o', o < (f.addr form k j idx).2 → o' < (f.addr form k' j' idx').2 →
              ((f.addr form k j idx).1 + o) % 2 ^ 64 ≠ ((f.addr form k' j' idx').1 + o') % 2 ^ 64) →
          scratchAt t f form k j idx = code))

/-- The vector events perform a piece, retire an instruction, begin a waiting fold, or end a wait for the bolt. Derived
from 07_vector R149, R150, 06_chains R124, R134, 08_draws R183, 10_matrix R233, 17_traps R362. Of a hart no mread of
which has yet to retire, over versions that have retired (R124), and with destinations that wait for no version met
at a barrier (the model's reading of R108, log 15): a computation under way with one destination, complete sources,
no poison, no enabled trap and room performs a piece: it retires or VSTART moves up. INSTRUCTION_RETIRE of a vector
instruction whose elements are all performed and whose destinations have their swatches retires it: nothing is under
way, VSTART is 0, its flags have joined FFLAGS and the hart has passed; under protected mode the comparison's
outcome is recorded for the hart's next instruction, and with no instruction under way nothing else happens (that
the comparison is an input of this event, which the next instruction then meets, is the model's choice, log 65: R362
squashes and traps 0x11). A fold under way whose sources are complete and hold no poison completes with no
instruction under way. A wait of 10 µs for a swatch traps 0x08, with VSTART in TRAPVAL for a stream and 0 for an
mread, and 1 in TRAPVAL2, never to the user handler. -/
def Obligations.VectorEventsAdvance : Prop :=
  ∀ (s : State) (f : Flight) (mm : Mismatch),
    (s.h.flight = none →
      exec (.instructionRetire mm) s =
        .next (if s.who = .user ∧ s.t.pm = true then { s with h := { s.h with mirror := mm } } else s)) ∧
    (s.h.flight = some f → f.op.folds = false → f.vl ≤ f.k → f.pinFault = none → s.readsOf s.h.id = [] →
      (∀ d ∈ f.dests, d.2.2.behind = [] ∧ s.heldBack d.2.1.id = false) →
      (∀ d ∈ f.dests, bytesFor d.2.1.tag (if f.op = .perm .compr then d.2.1.prog else d.2.1.len) ≤
        256 * d.2.1.segs.length) →
      ∃ t, exec (.instructionRetire mm) s = .next t ∧ t.h.flight = none ∧ t.h.vstart = 0#18 ∧
        t.h.fflags = s.h.fflags ||| f.flags ∧ t.h.pc = s.h.pc + 4#64 ∧ t.h.x = s.h.x ∧
        (s.who = .user → s.t.pm = true → t.h.mirror = mm)) ∧
    (∀ t0, s.h.flight = some f → f.boltSince = some t0 → t0 + 10000 ≤ s.time →
      exec .boltWaitTimeout s = .next (takeTrap
        { cause := .pool, val := BitVec.ofNat 64 s.h.vstart.toNat, val2 := 1#64, bound := some .s } false
        { s with h := Hart.halt { s.h with flight := some { f with boltSince := none } } })) ∧
    (∀ t0, s.h.flight = none → s.h.wait = some { kind := .bolt, since := t0 } → t0 + 10000 ≤ s.time →
      exec .boltWaitTimeout s = .next (takeTrap { cause := .pool, val := 0#64, val2 := 1#64, bound := some .s } false s)) ∧
    (s.h.flight = some f → f.op.folds = true → (∀ e ∈ f.captured, e.state ≠ .pending) →
      (∀ w ∈ s.cl.bolt, w.poison = false) →
      ∃ t, exec .reductionBegin s = .next t ∧ t.h.flight = none ∧ t.h.vstart = 0#18 ∧ t.h.pc = s.h.pc + 4#64) ∧
    (∀ n e old, s.h.flight = some f → f.dests = [(n, e, old)] → f.boltSince = none →
      ((∃ o, f.op = .bin o) ∨ (∃ o, f.op = .un o) ∨ (∃ a b c, f.op = .cvt a b c)) → f.vl < 2 ^ 18 →
      s.h.vstart.toNat ≤ f.vl → (∀ e ∈ f.captured, e.state ≠ .pending) → old.state ≠ .pending →
      old.behind = [] → s.heldBack e.id = false → s.readsOf s.h.id = [] → f.pinFault = none → bytesFor e.tag f.vl ≤ 16384 → bytesFor e.tag e.len ≤ 16384 → e.segs.length ≤ 64 → (∀ w ∈ s.cl.bolt, w.poison = false) →
      s.swatchRoom 65 = true → s.boltBefore none = false → s.h.ftrapen = 0#9 →
      ∃ t, exec .vectorPieceExecute s = .next t ∧ (t.h.flight = none ∨ s.h.vstart.toNat < t.h.vstart.toNat))

/-- smap binds the lowest free window number over pinned pages; sunmap, sflush and an eviction write lines back. Derived
from 09_vmem R215, R216, 01_machine R24, 15_collectives R317. With the vector context held and operands within the
bounds of R215: smap with no number free writes all ones; otherwise, once the pages of the global range are pinned,
it binds the lowest free number (which of the free numbers it is is the model's choice, log 106: R215 says 0 to 15),
with no line filled, and writes it to xd; where a page cannot be pinned (no translation, or a page of another node,
R317) it traps as the pinning does. sunmap of a live window writes its dirty lines back and ends the binding; sflush
writes back the dirty lines of one window, or of all with all ones in xa. A directory eviction writes a line back
and drops it. Each completes. -/
def Obligations.StashWindowsBindAndFlush : Prop :=
  ∀ (s : State) (d a b : Reg) (w : Window) (win line : Nat),
    (s.holdsContext = true →
      (let g := (s.rx a).toNat
       let o := (s.rx b).toNat % 2 ^ 32
       let len := (s.rx b).toNat / 2 ^ 32
       g % 256 = 0 → o % 256 = 0 → len % 256 = 0 → len ≠ 0 → len ≤ 2 ^ 23 → o + len ≤ s.t.scrb →
       (∀ v ∈ s.t.windows, overlaps v.off v.len o len = false ∧ overlaps v.va.toNat v.len g len = false) →
       (s.t.freeWindow = none → exec (.smap d a b) s = .next (s.put d (BitVec.allOnes 64))) ∧
       (∀ n ps u, s.t.freeWindow = some n → pinPages ((g % 65536 + len + 65535) / 65536) g s = .ok (ps, u) →
         let v : Window := { num := n, off := o, len := len, va := u.rx a, pages := ps, lines := [] }
         exec (.smap d a b) s =
           .next (({ u with t := { u.t with windows := u.t.windows ++ [v] } } : State).put d (BitVec.ofNat 64 n))) ∧
       (∀ n tr, s.t.freeWindow = some n → pinPages ((g % 65536 + len + 65535) / 65536) g s = .error (.trap tr) →
         exec (.smap d a b) s = .next (takeTrap tr false s))) ∧
      ((s.t.windows.find? fun v => BitVec.ofNat 64 v.num = s.rx a) = some w →
        (let f := s.flushWindow w
         exec (.sunmap a) s =
           .next ({ f with t := { f.t with windows := f.t.windows.filter fun v => v.num != w.num } } : State).advance) ∧
        (s.rx a ≠ BitVec.allOnes 64 → exec (.sflush a) s = .next (s.flushWindow w).advance)) ∧
      (s.rx a = BitVec.allOnes 64 → exec (.sflush a) s = .next s.flushAll.advance)) ∧
    ((s.t.windows.find? fun v => v.num = win) = some w →
      let f := s.flushLine w line
      exec (.stashEviction win line) s = .next
        { f with t := f.t.mapWindow win fun v => { v with lines := v.lines.filter fun l => l.line != line } })

/-- mattach grants bands, mdetach gives them up with the tiles, mshape writes a valid shape or traps 0x0D. Derived from
10_matrix R220 to R224, R237. With the vector context held: mattach of an attached task writes its bands; otherwise
it grants the least of xa, 8 and the reserved bands (half of them under protected mode), with every cell zero, and
writes the grant. mdetach with an empty queue gives up bands, cells and score program. mshape of a valid value
writes MSHAPE; of an invalid one it traps 0x0D with the value and 1. Each completes or traps from every such state. -/
def Obligations.MatrixAttachAndShape : Prop :=
  ∀ (s : State) (d a : Reg), s.holdsContext = true →
    (0 < s.t.matrix.bands → exec (.mattach d a) s = .next (s.put d (BitVec.ofNat 64 s.t.matrix.bands))) ∧
    (s.t.matrix.bands = 0 →
      let g := min (min (s.rx a).toNat 8) (if s.t.pm then s.t.matrix.reserved / 2 else s.t.matrix.reserved)
      exec (.mattach d a) s = .next
        (({ s with t := { s.t with matrix := { s.t.matrix with bands := g, cells := [] } } } : State).put d (BitVec.ofNat 64 g))) ∧
    (s.t.matrix.queue = [] → exec .mdetach s = .next
      ({ s with t := { s.t with matrix := { s.t.matrix with bands := 0, cells := [], prog := [] } } } : State).advance) ∧
    ((shapeOf (s.rx a)).isSome = true →
      exec (.mshape a) s = .next ({ s with t := { s.t with mshape := s.rx a } } : State).advance) ∧
    (shapeOf (s.rx a) = none →
      exec (.mshape a) s = .next (takeTrap { cause := .typeMismatch, val := s.rx a, val2 := 1#64 } false s))

/-- mzero, mread, mwrite, msprog, msmod, mmaf and mmao join the matrix queue where their checks pass. Derived from
10_matrix R219, R225, R226, R229, R230, R233, R238, R240. With the vector context held, bands attached and fewer
than 16 operations queued: mzero; mread and mwrite of a region within the tile and 4096 cells (mread with room for
its chain, its destination pending from then on with the region's length as f32; mwrite with a live f32 source long
enough); msprog of a valid program read from scratch; msmod within the tile (with any RPH but 0: that a value above
512 is accepted is the model's choice, log 90); mmaf and mmao with a valid MSHAPE, whose chain operands and scales
are live, of the right type and length, and whose scratch pairs keep their reserved bits zero and stay within
granted scratch. Each completes with one operation more at the end of the queue, next on the timeline. With 16
operations queued the hart is not ready: each of them waits, with no check made (R219). -/
def Obligations.MatrixInstructionsQueue : Prop :=
  ∀ (s : State) (d : BitVec 2) (f a b : Reg) (z bScr aScr : Bool), s.holdsContext = true →
    (16 ≤ s.t.matrix.queue.length → ∀ i ∈ ([.mzero d, .mread f d b, .mwrite d a b, .msprog a, .msmod d a b,
      .mmaf z bScr aScr d a b, .mmao z bScr aScr d a b] : List Instr), exec i s = .next (s.enterWait .other)) ∧
    (0 < s.t.matrix.bands → s.t.matrix.queue.length < 16 →
    let r := regionOf (s.rx b)
    let inTile := r.row0 + r.nr ≤ 64 * s.t.matrix.bands ∧ r.col0 + r.nc ≤ 256 ∧ r.nr * r.nc ≤ 4096
    let ea := s.entry (s.h.name a)
    let eb := s.entry (s.h.name b)
    (∃ t, exec (.mzero d) s = .next t ∧ queuedOp s t .zero d) ∧
    (inTile → (s.entry (s.h.name f)).state ≠ .spilled → s.swatchRoom 65 = true → s.boltBefore s.h.boltSince = false →
      ∃ t, exec (.mread f d b) s = .next t ∧ queuedOp s t .read d ∧ (t.entry (s.h.name f)).state = .pending ∧
        (t.entry (s.h.name f)).tag = .f32 ∧ (t.entry (s.h.name f)).len = r.nr * r.nc) ∧
    (inTile → ea.state = .live → ea.tag = .f32 → r.nr * r.nc ≤ ea.len →
      ∃ t, exec (.mwrite d a b) s = .next t ∧ queuedOp s t .write d) ∧
    ((s.rx a).toNat % 8 = 0 → s.scratchRun (s.rx a).toNat 10 = true →
      (∀ i, i < 16 → scoreOk (field (s.scratchBytes (s.rx a).toNat 80) (16 + 4 * i) 4) = true) →
      ∃ t, exec (.msprog a) s = .next t ∧ queuedOp s t .prog 0#2 ∧
        ∃ m ∈ t.t.matrix.queue, m.bytes = s.scratchBytes (s.rx a).toNat 80) ∧
    (bitsOf (s.rx b).toNat 15 0 ≠ 0 → bitsOf (s.rx b).toNat 47 32 ≤ 64 * s.t.matrix.bands → bitsOf (s.rx b).toNat 63 48 ≤ 256 →
      ∃ t, exec (.msmod d a b) s = .next t ∧ queuedOp s t .smod d) ∧
    (∀ x, shapeOf s.t.mshape = some x → x.m ≤ 64 * s.t.matrix.bands →
      let pa := s.rpair a
      let pb := s.rpair b
      let scale (k n blk : Nat) := blk ≠ 0 → (s.entry k).state = .live ∧ (s.entry k).tag = .e8m0 ∧
        n * ((x.k + blockLen blk - 1) / blockLen blk) ≤ (s.entry k).len
      let inScratch (p : Word × Word) (ty : ElemType) (rn : Nat × Nat × Bool) :=
        ∀ i o, i < rn.1 → o < bytesFor ty rn.2.1 → (pairOf p.1 p.2).place rn.2.2 i o < s.t.scrb
      (aScr = true → bitsOf pa.2.toNat 63 37 = 0 ∧ inScratch pa x.ea (x.runs true)) →
      (bScr = true → bitsOf pb.2.toNat 63 37 = 0 ∧ (x.nMajor = true ∨ bitsOf pb.2.toNat 31 0 = 0) ∧
        inScratch pb x.eb (x.runs false)) →
      (aScr = false → ea.state = .live ∧ ea.tag = x.ea ∧ x.m * x.k ≤ ea.len) →
      (bScr = false → eb.state = .live ∧ eb.tag = x.eb ∧ x.n * x.k ≤ eb.len) →
      scale x.sname x.m x.ablk → scale ((x.sname + 1) % 512) x.n x.bblk →
      (∃ t, exec (.mmaf z bScr aScr d a b) s = .next t ∧ queuedOp s t (.acc false z) d) ∧
      (∃ t, exec (.mmao z bScr aScr d a b) s = .next t ∧ queuedOp s t (.acc true z) d)))

/-- An eligible matrix operation executes on the cells, and an executed one completes and leaves the queue. Derived from
10_matrix R219, R227, R229 to R231, R234, R236, R237, R239, R240, 02_numbers R50, R51, 09_vmem R216, 06_chains R124,
R126. An operation that may execute first has the stash-window lines filled that its scratch operands touch (R216).
Where one cannot be filled, it fails: the cells stay and the trap is held for its hart (the model's choice, log 83).
Else, where its operands hold no poison, it executes, under protected mode where the mirrored pair agrees or does at
the second attempt (which sets MM): the cells become those of its result, an msprog installs its program, and it is
marked executed. Where an operand holds poison, or the pair differs again over a tile that it writes, it fails and
the cells stay. (That the pair's outcome is an input and that one event executes a whole operation are the model's
choices, logs 65 and 1.) The result of mmaf and mmao over chains without scales and finite elements: each cell of
the shape holds its old value, or zero, with the exact products added in ascending k, rounding each sum (mmao), or
the exact sums of groups of 64, 32 or 16 products by the types of R51 (mmaf); no other cell changes. That of msmod:
each cell of its region holds e0 of the installed program, run on the cell, the query and key positions and the head
number, each rounded once; no other changes. The operations of R239 on numbers deliver the exact sum, difference,
product or product plus third rounded once, 1.0 or zero as the comparison holds, the selected source, magnitude or
source. mzero's result zeroes its tile and keeps the others; a cell written reads back, and no other changes. An
executed operation completes: it leaves the queue, its flags join FFLAGS, the counter stands before the oldest that
is left, or at the last issued, and, with no other completed mread left unretired, the version that an mread of the
hart with the turn has filled retires where the hart's name still shows it, VERSION one higher, if the hart's
earlier mreads have completed and the name waits for nothing else; with an earlier one of the hart still queued the
name stays as it is (06_chains R124). -/
def Obligations.MatrixOperationsRunAndComplete : Prop :=
  ∀ (s : State) (n : Nat) (mm : Mismatch) (o : MOp),
    ((s.t.matrix.queue.find? fun m => m.n = n) = some o →
      (s.t.matrix.eligible o = true →
        let filled : Except (Trap × State) State := match shapeOf o.shape with
          | some x => (s.fillOperand o.a x.ea (x.runs true).1 (x.runs true).2.1 true).bind fun u =>
            u.fillOperand o.b x.eb (x.runs false).1 (x.runs false).2.1 (x.runs false).2.2
          | none => .ok s
        (s.t.windows = [] → filled = .ok s) ∧
        (∀ tr u, filled = .error (tr, u) →
          ∃ t, exec (.matrixOpExecute n mm) s = .next t ∧ t.t.matrix.cells = s.t.matrix.cells ∧
            (∀ m ∈ t.t.matrix.queue, m.n = n → m.executed = true ∧ m.failed = true) ∧
            (s.who = .user → o.hart = s.h.id → ∃ x, t.h.held = s.h.held ++ [x] ∧ x.cause = tr.cause ∧ x.val = tr.val)) ∧
        ∀ u, filled = .ok u →
        (∀ r, u.mResult o = .ok r → (s.t.pm && o.kind.writes && mm == .persists) = false →
          ∃ t, exec (.matrixOpExecute n mm) s = .next t ∧ t.t.matrix.cells = r.cells ∧
            (∀ m ∈ t.t.matrix.queue, m.n = n → m.executed = true) ∧
            t.t.matrix.prog = (if o.kind = .prog then o.bytes else s.t.matrix.prog) ∧
            t.t.mm = (s.t.mm || (s.t.pm && o.kind.writes && mm == .retried))) ∧
        ((∃ p, u.mResult o = .error p) ∨ (s.t.pm && o.kind.writes && mm == .persists) = true →
          ∃ t, exec (.matrixOpExecute n mm) s = .next t ∧ t.t.matrix.cells = s.t.matrix.cells ∧
            ∀ m ∈ t.t.matrix.queue, m.n = n → m.executed = true ∧ m.failed = true)) ∧
      (o.executed = true → ∃ t, exec (.matrixOpComplete n) s = .next t ∧ (∀ m ∈ t.t.matrix.queue, m.n ≠ n) ∧
        (s.who = .user → o.hart = s.h.id → t.h.fflags = s.h.fflags ||| o.flags) ∧
        t.t.matrix.reached = (match t.t.matrix.queue with | m :: _ => m.n - 1 | [] => t.t.matrix.issued) ∧
        ∀ e, o.dest = some e → s.who = .user → o.hart = s.h.id → (s.entry o.name).state = .pending → (s.entry o.name).id = e.id →
          e.id ∈ (s.entry o.name).behind → s.t.matrix.done = [] →
          ((∃ m ∈ s.t.matrix.queue, m.dest.isSome = true ∧ m.hart = o.hart ∧ m.n < n) → t.entry o.name = s.entry o.name) ∧
          ((∀ m ∈ s.t.matrix.queue, m.dest.isSome = true → m.hart = o.hart → n ≤ m.n) → s.heldBack e.id = false →
          (t.entry o.name).state = .live ∧ (t.entry o.name).version = (s.entry o.name).version + 1#16 ∧
            (t.entry o.name).segs = e.segs))) ∧
    (∀ r, o.kind = .zero → s.mResult o = .ok r → ∀ tile row col,
      cellOf r.cells tile row col = if tile = o.tile then 0 else cellOf s.t.matrix.cells tile row col) ∧
    (∀ ordered z x a b r, o.kind = .acc ordered z → shapeOf o.shape = some x → o.a = some (.chain a) → o.b = some (.chain b) →
      o.ascale = none → o.bscale = none → s.mResult o = .ok r →
      let u (m k : Nat) := valueOf x.ea k (s.cl.codeAt { a with tag := x.ea } (m * x.k + k))
      let w (k n : Nat) := if x.nMajor then valueOf x.eb k (s.cl.codeAt { b with tag := x.eb } (n * x.k + k))
        else valueOf x.eb n (s.cl.codeAt { b with tag := x.eb } (k * x.n + n))
      let g := if x.eb = .e2m1 ∨ x.eb = .cb8x2 then 64
        else if x.ea = .f16 ∨ x.ea = .bf16 ∨ x.eb = .f16 ∨ x.eb = .bf16 then 16 else 32
      ∀ tile row col, col < 256 →
        (tile = o.tile → row < x.m → col < x.n → (∀ k, k < x.k → (u row k).finite = true ∧ (w k col).finite = true) →
          let ps := (List.range x.k).map fun k => (u row k).val * (w k col).val
          addsUp (if ordered then ps else groupSums g ps) (if z then 0 else cellOf s.t.matrix.cells o.tile row col)
            (cellOf r.cells o.tile row col)) ∧
        (¬ (tile = o.tile ∧ row < x.m ∧ col < x.n) → cellOf r.cells tile row col = cellOf s.t.matrix.cells tile row col)) ∧
    (∀ r, o.kind = .smod → s.mResult o = .ok r → bitsOf o.xb.toNat 63 48 ≤ 256 →
      let rph := bitsOf o.xb.toNat 15 0
      ∀ tile row col, col < 256 →
        (tile = o.tile → row < bitsOf o.xb.toNat 47 32 → col < bitsOf o.xb.toNat 63 48 → ∃ q k h : Nat × Flags, ∃ fl,
          delivers f32Fmt .rne (((bitsOf o.xa.toNat 31 0 + row % rph) % 2 ^ 32 : ℕ) : ℚ) q ∧
          delivers f32Fmt .rne (((bitsOf o.xa.toNat 63 32 + col) % 2 ^ 32 : ℕ) : ℚ) k ∧
          delivers f32Fmt .rne ((bitsOf o.xb.toNat 31 16 + row / rph : ℕ) : ℚ) h ∧
          cellOf r.cells o.tile row col = (runScore s.t.matrix.prog 16 0
            [cellOf s.t.matrix.cells o.tile row col, q.1, k.1, h.1, 0, 0, 0, 0] fl).1.headD 0 % 2 ^ 32) ∧
        (¬ (tile = o.tile ∧ row < bitsOf o.xb.toNat 47 32 ∧ col < bitsOf o.xb.toNat 63 48) →
          cellOf r.cells tile row col = cellOf s.t.matrix.cells tile row col)) ∧
    (∀ a b c : Nat, a < 2 ^ 32 → b < 2 ^ 32 → c < 2 ^ 32 →
      let x := f32Fmt.decode a
      let y := f32Fmt.decode b
      let w := f32Fmt.decode c
      x.finite = true → y.finite = true → w.finite = true →
      delivers f32Fmt .rne (x.val + y.val) (scoreOp 1 a b c) ∧ delivers f32Fmt .rne (x.val - y.val) (scoreOp 2 a b c) ∧
      delivers f32Fmt .rne (x.val * y.val) (scoreOp 3 a b c) ∧ delivers f32Fmt .rne (x.val * y.val + w.val) (scoreOp 4 a b c) ∧
      scoreOp 8 a b c = (if x.val < y.val then 0x3F800000 else 0, 0#9) ∧
      scoreOp 9 a b c = (if x.val ≤ y.val then 0x3F800000 else 0, 0#9) ∧
      scoreOp 10 a b c = (if x.val = y.val then 0x3F800000 else 0, 0#9) ∧
      scoreOp 11 a b c = (if x.val = 0 then c else b, 0#9) ∧ scoreOp 12 a b c = (a % 2 ^ 31, 0#9) ∧ scoreOp 14 a b c = (a, 0#9)) ∧
    (∀ cells tile row col tile' row' col' v, col < 256 → col' < 256 → v < 2 ^ 32 →
      cellOf (setCell cells tile row col v) tile' row' col' =
        if tile' = tile ∧ row' = row ∧ col' = col then v else cellOf cells tile' row' col')

/-- The Flume instructions set levels, issue numbered commands, arm notifies, drain, cancel and resume. Derived from
11_flume R242, R246 to R256. fsetl sets size and tag base at level 0, count and strides at levels 1 to 6, within the
limits of R246. With 16 commands on the channel fgo and fgov are not issued yet: they wait, with no check made
(R247). fgo within the size limits and with room on the channel commits the hart's stores and puts the next-numbered
command with the captured settings and the armed notify at the end of the channel; fgov with the context held, a
byte count that divides into elements, no mread of the hart that has yet to retire over its destination's version
(R126), and room also makes its destination pending. fnotify arms an aligned write. fdrain passes once no command of
the hart is left and acquires. fcancel empties the channel, with its counter at the last issued, and discards an
armed notify, also on an idle channel (the model's reading of R254, log 107); fresume lets a stopped command run; an
fdrain beyond WTMO traps 0x1B. -/
def Obligations.FlumeChannelsAreProgrammed : Prop :=
  ∀ (s : State) (d a b : Reg) (c : BitVec 2) (l : BitVec 3),
    let x := s.channel c.toNat
    let sized := copies x.levels < 2 ^ 40 ∧ copies x.levels * x.size.toNat ≤ 2 ^ 48 ∧ x.cmds.length < 16
    let issued (t : State) (sb db : Word) := ∃ m, (t.channel c.toNat).cmds = x.cmds ++ [m] ∧ m.n = x.issued + 1 ∧
      (t.channel c.toNat).issued = x.issued + 1 ∧ m.hart = s.h.id ∧ m.levels = x.levels ∧ m.size = x.size.toNat ∧
      m.notify = x.armed ∧ (t.channel c.toNat).armed = none ∧ m.sb = sb ∧ m.db = db ∧ m.first = 0 ∧ t.h.sb = [] ∧
      t.mem = s.drain.mem ∧ t.h.pc = s.h.pc + 4#64
    (s.who = .user →
      (0 < (s.rx a).toNat → (s.rx a).toNat ≤ 16384 → (s.rx b).toNat % 16 = 0 →
        ∃ t, exec (.fsetl c 0#3 a b) s = .next t ∧ (t.channel c.toNat).size.toNat = (s.rx a).toNat ∧
          (t.channel c.toNat).tagb = s.rx b ∧ t.h.pc = s.h.pc + 4#64) ∧
      (1 ≤ l.toNat → l.toNat ≤ 6 → x.levels.length = 6 → 0 < (s.rx a).toNat → (s.rx a).toNat < 2 ^ 32 →
        ∃ t, exec (.fsetl c l a b) s = .next t ∧ (t.channel c.toNat).levels[l.toNat - 1]? =
          some { count := (s.rx a).setWidth 32, sstr := (s.rx b).setWidth 32, dstr := (s.rx b >>> 32).setWidth 32 } ∧
          t.h.pc = s.h.pc + 4#64) ∧
      (sized → ∃ t, exec (.fgo c a b) s = .next t ∧ issued t (s.rx a) (s.rx b)) ∧
      (16 ≤ x.cmds.length → exec (.fgo c a b) s = .next (s.enterWait .other)) ∧
      ((s.rx a).toNat % 8 = 0 → ∃ t, exec (.fnotify c a b) s = .next t ∧
        (t.channel c.toNat).armed = some (s.rx a, s.rx b) ∧ t.h.pc = s.h.pc + 4#64) ∧
      ((∀ m ∈ x.cmds, m.hart ≠ s.h.id) → exec (.fdrain c) s = .next s.acquire.advance) ∧
      (∃ t, exec (.fcancel c) s = .next t ∧ (t.channel c.toNat).cmds = [] ∧
        (t.channel c.toNat).reached = x.issued ∧ (t.channel c.toNat).armed = none ∧ t.h.pc = s.h.pc + 4#64) ∧
      ((∃ m ∈ x.cmds, m.state = .stopped) → ∃ t, exec (.fresume c) s = .next t ∧
        (∀ m ∈ (t.channel c.toNat).cmds, m.state ≠ .stopped) ∧ t.h.pc = s.h.pc + 4#64)) ∧
    (s.holdsContext = true → 16 ≤ x.cmds.length → exec (.fgov d c b) s = .next (s.enterWait .other)) ∧
    (s.holdsContext = true → sized → (s.entry (s.h.name d)).state ≠ .spilled → s.unretired (s.h.name d) = false →
      copies x.levels * x.size.toNat ≤ 16384 → s.swatchRoom 65 = true → s.boltBefore s.h.boltSince = false →
      ∀ n, retypeLen s.h.ty (copies x.levels * x.size.toNat) = some n →
      ∃ t, exec (.fgov d c b) s = .next t ∧ issued t (s.rx b) 0#64 ∧ (t.entry (s.h.name d)).state = .pending ∧
        (t.entry (s.h.name d)).len = n ∧ (t.entry (s.h.name d)).tag = s.h.ty) ∧
    (∀ k since, s.h.wait = some { kind := .fdrain k, since := since } → s.h.wtmo ≠ 0#64 →
      since + s.h.wtmo.toNat < s.time →
      exec .fdrainTimeout s = .next (takeTrap { cause := .deadline, val := BitVec.ofNat 64 k, val2 := 2#64 } false s))

/-- A Flume command copies its bytes one elementary copy at a time, stops at a fault, makes its notify write, and
completes. Derived from 11_flume R243, R244, R247, R248, R251, R252, R257, 09_vmem R198. One event makes one
elementary copy (the model's choice, log 1). The head command of a channel, not stopped and with copies left: where
the next copy meets no fault the run makes it, and the command runs with one copy more counted, an fgov's among
them; at a fault it stops where it is, or ends where the fault is poison. Where source and destination of the copy
each lie within one line of granted scratch: exactly the bytes of the size go from source to destination, and no
other scratch byte and no memory changes. With every copy made, the command completes: where its notify write can be
made (here in scratch) the value stands at the notify address, the command leaves the channel and its number is
reached. -/
def Obligations.FlumeCopiesMoveBytes : Prop :=
  ∀ (s : State) (c : BitVec 2) (m : FCmd) (rest : List FCmd), s.who = .user → Memory.wf s.t.scratch = true →
    (s.channel c.toNat).cmds = m :: rest → m.state ≠ .stopped → s.t.enginesOut = false →
    (let begun := if m.state = .queued then s.startVersion m else (m.keyV, s)
     m.first < copies m.levels →
     (∀ r, performCopy { m with keyV := begun.1 } begun.2 = .ok r →
       ∃ t m', exec (.flumeCommandRun c) s = .next t ∧ (t.channel c.toNat).cmds = m' :: rest ∧
         m'.first = m.first + 1 ∧ m'.state = .running) ∧
     (∀ f, performCopy { m with keyV := begun.1 } begun.2 = .error f →
       ∃ t, exec (.flumeCommandRun c) s = .next t ∧
         (f.cause ≠ .poison → ∃ m', (t.channel c.toNat).cmds = m' :: rest ∧ m'.state = .stopped ∧
           m'.cause = f.cause.code ∧ m'.first = m.first) ∧
         (f.cause = .poison → (t.channel c.toNat).cmds = rest ∧ (t.channel c.toNat).reached = m.n))) ∧
    (let src := m.src m.first
     let dst := m.dst m.first
     m.dest = none → m.first < copies m.levels → 0 < m.size → src % 256 + m.size ≤ 256 → dst % 256 + m.size ≤ 256 →
     s.scratchFree src m.size = true → s.scratchFree dst m.size = true →
     ∃ t m', exec (.flumeCommandRun c) s = .next t ∧ (t.channel c.toNat).cmds = m' :: rest ∧ m'.first = m.first + 1 ∧
       (∀ k, k < m.size → cellGet t.t.scratch (dst - s.t.aperture + k) = cellGet s.t.scratch (src - s.t.aperture + k)) ∧
       (∀ off, (off < dst - s.t.aperture ∨ dst - s.t.aperture + m.size ≤ off) →
         cellGet t.t.scratch off = cellGet s.t.scratch off) ∧ t.mem = s.mem) ∧
    (copies m.levels ≤ m.first →
      (m.notify = none → ∃ t, exec (.flumeCommandComplete c) s = .next t ∧ (t.channel c.toNat).cmds = rest ∧
        (t.channel c.toNat).reached = m.n ∧ t.t.scratch = s.t.scratch ∧ t.mem = s.mem) ∧
      (∀ at_ v, m.notify = some (at_, v) → at_.toNat % 8 = 0 → s.scratchFree at_.toNat 8 = true →
        ∃ t, exec (.flumeCommandComplete c) s = .next t ∧ (t.channel c.toNat).cmds = rest ∧
          (t.channel c.toNat).reached = m.n ∧ t.scratchBytes at_.toNat 8 = bytesOf 8 v.toNat))

/-- An aligned atomic on granted scratch or local memory returns the old word and stores the new one; an acquire-release
form commits earlier stores. Derived from 12_sync R264 to R267, 09_vmem R198, 13_ordering R281, R283. For every
atomic, in both forms: a misaligned address traps 0x03 with the address and 2 (R266). That an acquire-release form
has the hart's earlier stores committed to memory at once, before such a trap and at a scratch address too, is the
model's choice (log 64). Where the word is aligned in granted scratch outside stash windows and on no poisoned line,
the atomic completes: xd takes the old word, the word in scratch is the one the operation gives (amocas stores only
on equality with xd), every other scratch byte and register is as before, and the hart's stores are committed for an
acquire-release form and untouched for a plain one. Where the word is aligned in memory of this node outside alias
ranges and holds no poison, the atomic completes: the hart's buffered stores that touch the word commit first, with
those that they may not pass, xd takes the word as the directory gives it, and the new word is committed at once. -/
def Obligations.AtomicsReadModifyWrite : Prop :=
  ∀ (i : Instr) (s : State) (ar : Bool) (n : Nat) (d a : Reg) (f : Nat → Option Nat),
    atomicForm s i = some (ar, n, d, a, f) →
    let m := if ar then s.drain else s
    ((s.rx a).toNat % n ≠ 0 →
      exec i s = .next (takeTrap { cause := .misaligned, val := s.rx a, val2 := 2#64 } false m)) ∧
    ((s.rx a).toNat % n = 0 → s.scratchFree (s.rx a).toNat n = true → Memory.wf s.t.scratch = true →
      let old := ofBytes (s.scratchBytes (s.rx a).toNat n)
      ∃ t, exec i s = .next t ∧ (∀ r, t.rx r = if r = d ∧ d ≠ 0#7 then BitVec.ofNat 64 old else s.rx r) ∧
        ofBytes (t.scratchBytes (s.rx a).toNat n) = (f old).getD old ∧
        (∀ off, (off < (s.rx a).toNat - s.t.aperture ∨ (s.rx a).toNat - s.t.aperture + n ≤ off) →
          cellGet t.t.scratch off = cellGet s.t.scratch off) ∧
        t.mem = m.mem ∧ t.h.sb = m.h.sb ∧ t.h.pc = s.h.pc + 4#64) ∧
    (∀ x, (s.rx a).toNat % n = 0 → m.scratchOff (s.rx a).toNat = none → m.translate (s.rx a).toNat .amo = .ok x →
      m.noMemory x.pa = false → m.isLocal x.pa = true → m.aliasOf m.ownPart x.pp = none →
      let q := (m.setMarks true x).drainWhere fun e => overlaps e.pa e.cells.length x.pa n ||
        (decide (x.ord = .strong) && decide (e.ord = .strong))
      (∀ k, k < n → q.consumes (x.pa + k) = false) →
      let p := q.recall (x.pa / 256) false
      let old := ofBytes ((List.range n).map fun k => forward (x.pa + k) (cellGet p.mem (x.pa + k)) p.h.sb)
      let w := match f old with
        | some v => p.commitBytes x.pa (bytesOf n v)
        | none => p
      exec i s = .next ((if ar then w.drain else w).put d (BitVec.ofNat 64 old)))

/-- ldacq, strel and fence complete, with the stores before a release or fence committed first or kept in order. Derived
from 12_sync R263, R267 to R269, 13_ordering R282, R286, R291, 01_machine R23. ldacq of an aligned doubleword in
granted scratch completes with its value in xd; so does one in memory of this node outside alias ranges that meets
no poison, in the state in which the hart's release stores, with what stands before them, have committed. strel to
scratch commits the hart's earlier stores and writes the bytes; to memory it stands at the end of the store buffer,
marked as a release, but for a strongly ordered page of this node, where the hart's stores are committed and the
release with them (that earlier stores commit to memory at once, for scratch and for such a page, is the model's
choice, log 64). A fence with an empty class only passes; a fence whose predecessor class has stores leaves the
store buffer empty, with memory as those stores leave it once committed (at every scope: log 64), and, at device or
domain scope, the task's dirty stash lines once written back, all of them (the model's choice, log 63: R269 names
those that the hart's stores have left), once the engine operations of the hart that it names have completed; it
passes. -/
def Obligations.AcquireReleaseAndFence : Prop :=
  ∀ (s : State) (d a : Reg) (imm : BitVec 11) (sc : FenceScope) (pred succ : BitVec 4) (x : Xlat),
    let addr := s.rx a + imm.signExtend 64 * 8#64
    (addr.toNat % 8 = 0 → s.scratchFree addr.toNat 8 = true →
      (∃ t, exec (.ldacq d a imm) s = .next t ∧ t.h.pc = s.h.pc + 4#64 ∧
        (d ≠ 0#7 → t.rx d = BitVec.ofNat 64 (ofBytes (s.scratchBytes addr.toNat 8)))) ∧
      (Memory.wf s.t.scratch = true → ∃ t, exec (.strel d a imm) s = .next t ∧ t.h.pc = s.h.pc + 4#64 ∧ t.h.sb = [] ∧ t.mem = s.drain.mem ∧
        t.scratchBytes addr.toNat 8 = bytesOf 8 (s.rx d).toNat)) ∧
    (let q := s.acquire
     ∀ y, addr.toNat % 8 = 0 → q.scratchOff addr.toNat = none → q.translate addr.toNat .load = .ok y → q.noMemory y.pa = false →
      q.isLocal y.pa = true → q.aliasOf q.ownPart y.pp = none →
      let r := q.setMarks false y
      let m := if y.ord = .strong then r.drainWhere fun e => e.ord = .strong else r
      (∀ k, k < 8 → m.consumes (y.pa + k) = false) →
      let t := m.recall (y.pa / 256) false
      exec (.ldacq d a imm) s = .next (t.put d
        (BitVec.ofNat 64 (ofBytes ((List.range 8).map fun k => forward (y.pa + k) (cellGet t.mem (y.pa + k)) t.h.sb))))) ∧
    (addr.toNat % 8 = 0 → s.scratchOff addr.toNat = none → s.translate addr.toNat .store = .ok x → s.noMemory x.pa = false →
      s.aliasOf s.ownPart x.pp = none →
      let e : SbEntry := { pa := x.pa, ord := x.ord, va := addr, cells := whole (bytesOf 8 (s.rx d).toNat), rel := true,
                           insn := (s.h.flight.map fun f => f.born + 1).getD 0 }
      (x.ord ≠ .strong → ∃ t, exec (.strel d a imm) s = .next t ∧ t.h.pc = s.h.pc + 4#64 ∧ t.h.sb = s.h.sb ++ [e]) ∧
      (x.ord = .strong → s.isLocal x.pa = false → ∃ t l, exec (.strel d a imm) s = .next t ∧ t.h.pc = s.h.pc + 4#64 ∧
        t.h.sb = l ++ [e]) ∧
      (x.ord = .strong → s.isLocal x.pa = true → s.drain.translate addr.toNat .store = .ok x →
        exec (.strel d a imm) s = .next ((s.drain.setMarks true x).commitCells x.pa e.cells).advance)) ∧
    ((pred = 0#4 ∨ succ = 0#4) → exec (.fence sc pred succ) s = .next s.advance) ∧
    (pred ≠ 0#4 → succ ≠ 0#4 → (pred.getLsbD 3 = false ∨ s.enginesDone = true ∨ s.who ≠ .user) →
      ∃ t, exec (.fence sc pred succ) s = .next t ∧ t.h.pc = s.h.pc + 4#64 ∧ t.h.x = s.h.x ∧
        (pred.getLsbD 1 = true → t.h.sb = [] ∧
          t.mem = (if 3 ≤ sc.code ∧ s.who = .user then s.drain.flushAll else s.drain).mem))

/-- Barriers are made and joined, count arrivals, complete at the last one, and let waits pass whose phase is complete.
Derived from 12_sync R270 to R275, 17_traps R403. With a task's hart having the turn: binit of a number below 256
that the task does not have makes the barrier with no arrivals and generation 0 (1 to 8 arrivals at hart scope, at
launch scope in a gang launch), or at a shared scope joins the one that another task has made, with its arrivals and
generation; binit of a barrier that the task has with this count and scope only passes. barr at a barrier of any
scope writes its generation to xd, with the hart's stores committed to memory (at hart and cluster scope the model's
choice, log 64: R274 has them performed at that scope); below the last arrival it counts one more, at the last it
starts the next phase with none and the next generation mod 2^32. barw as the last arrival passes at once with the
old generation in xd; before it, it waits with its arrival made; one whose arrival stands passes, without another,
once the phase is complete. bwait and bwaitd (writing 0) pass once the phase is complete. A bwaitd whose deadline
has passed first takes the launch's deadline action, also when it waits already. -/
def Obligations.BarriersCountAndPass : Prop :=
  ∀ (s : State) (d a b : Reg) (bar : Barrier) (sc : Nat), s.who = .user →
    let num := (s.rx a).toNat
    let n := bitsOf (s.rx b).toNat 15 0
    let made (by_ : List Nat) (g0 : Word) (a0 : Nat) : Barrier := { num := num, n := n, a := a0, g := g0, by_ := by_ }
    num < 256 →
    (bitsOf (s.rx b).toNat 63 18 = 0 → bitsOf (s.rx b).toNat 17 16 = sc → sc ≠ 3 → n ≠ 0 → (sc = 0 → n ≤ 8) →
      (sc = 2 → pkGang s.t.packet = true ∧ s.myLaunch.isSome = true) →
      (s.barrier? num = none → (sc ≠ 0 → s.sharedBarrier sc num = none) →
        ∃ t, exec (.binit a b) s = .next t ∧ t.h.pc = s.h.pc + 4#64 ∧
          t.barrier? num = some (sc, made (if sc = 0 then [] else [s.t.uid]) 0#64 0)) ∧
      (∀ x, s.barrier? num = none → sc ≠ 0 → s.sharedBarrier sc num = some x → (x.n = n ∨ x.a = 0) →
        ∃ t, exec (.binit a b) s = .next t ∧ t.h.pc = s.h.pc + 4#64 ∧
          t.barrier? num = some (sc, made (if s.t.uid ∈ x.by_ then x.by_ else x.by_ ++ [s.t.uid]) x.g x.a)) ∧
      (s.barrier? num = some (sc, bar) → bar.n = n → exec (.binit a b) s = .next s.advance)) ∧
    (s.barrier? num = some (sc, bar) → sc ≤ 2 → (sc = 0 ∨ bar.by_ ≠ []) →
      let next := if bar.a + 1 = bar.n
        then { bar with a := 0, g := BitVec.ofNat 64 ((bar.g.toNat + 1) % 2 ^ 32) } else { bar with a := bar.a + 1 }
      (∃ t, exec (.barr d a) s = .next t ∧ (d ≠ 0#7 → t.rx d = bar.g) ∧ t.h.sb = [] ∧ t.h.pc = s.h.pc + 4#64 ∧
        t.barrier? num = some (sc, next)) ∧
      ((∀ w since, s.h.wait ≠ some { kind := .barw w, since := since }) →
        ∃ t, exec (.barw d a) s = .next t ∧ (d ≠ 0#7 → t.rx d = bar.g) ∧ t.barrier? num = some (sc, next) ∧
          (bar.a + 1 = bar.n → t.h.pc = s.h.pc + 4#64 ∧ t.h.wait = none) ∧
          (bar.a + 1 ≠ bar.n → t.h.pc = s.h.pc ∧ ∃ w since, t.h.wait = some { kind := .barw w, since := since } ∧
            w.num = num ∧ w.gen = bar.g))) ∧
    (s.barrier? num = some (sc, bar) → ∀ w since, s.h.wait = some { kind := .barw w, since := since } → w.num = num →
      phaseDone bar.g w.gen = true → exec (.barw d a) s = .next (s.pass sc bar).advance) ∧
    (s.barrier? num = some (sc, bar) →
      (phaseDone bar.g (s.rx b) = true → exec (.bwait a b) s = .next (s.pass sc bar).advance ∧
        exec (.bwaitd d a b) s = .next ((s.pass sc bar).put d 0#64)) ∧
      (phaseDone bar.g (s.rx b) = false → s.deadlinePassed = true →
        exec (.bwaitd d a b) s = .next (s.deadlineEnd d bar.num (s.rx b)) ∧
        ∀ since, s.h.wait = some { kind := .bwaitd d num (s.rx b), since := since } →
          exec .barrierDeadline s = .next (s.deadlineEnd d num (s.rx b))))

/-- waddr ends on a changed word, twait on a reached number, and both as R276 and R278 say beyond WTMO. Derived from
12_sync R276 to R278, 13_ordering R291. waddr of an aligned doubleword, in granted scratch or in memory of this node
outside alias ranges and without poison, that differs from xb completes with the word in xd, acquiring; one that
finds the word of memory equal to xb waits, with the tables marked as its poll has read them (R291); with a
misaligned address it traps 0x03. twait of number 0 writes 0; of a number that the context has not issued it traps
0x1A with the number and the context; of a reached number it writes the status of the operation and acquires. A
waddr that has waited beyond WTMO takes the old value; a twait that has, while its counter has not reached the
number, writes 2. -/
def Obligations.WaitsEndWhenTheirValueComes : Prop :=
  ∀ (s : State) (d a b : Reg) (c : BitVec 4) (old va : Word) (since : Nat),
    ((s.rx a).toNat % 8 = 0 → s.scratchFree (s.rx a).toNat 8 = true →
      BitVec.ofNat 64 (ofBytes (s.scratchBytes (s.rx a).toNat 8)) ≠ s.rx b →
      exec (.waddr d a b) s = .next (s.acquire.put d (BitVec.ofNat 64 (ofBytes (s.scratchBytes (s.rx a).toNat 8))))) ∧
    (∀ x, (s.rx a).toNat % 8 = 0 → s.acquire.scratchOff (s.rx a).toNat = none →
      s.acquire.translate (s.rx a).toNat .load = .ok x → s.acquire.noMemory x.pa = false →
      s.acquire.isLocal x.pa = true → s.acquire.aliasOf s.acquire.ownPart x.pp = none →
      let r := s.acquire.setMarks false x
      let m := if x.ord = .strong then r.drainWhere fun e => e.ord = .strong else r
      (∀ k, k < 8 → m.consumes (x.pa + k) = false) →
      let t := m.recall (x.pa / 256) false
      let v := BitVec.ofNat 64 (ofBytes ((List.range 8).map fun k => forward (x.pa + k) (cellGet t.mem (x.pa + k)) t.h.sb))
      exec (.waddr d a b) s = .next (if v = s.rx b then t.enterWait (.waddr d (s.rx b) (s.rx a)) else t.put d v)) ∧
    ((s.rx a).toNat % 8 ≠ 0 →
      exec (.waddr d a b) s = .next (takeTrap { cause := .misaligned, val := s.rx a } false s)) ∧
    (s.who = .user →
      ((s.rx b).toNat = 0 → exec (.twait d c b) s = .next (s.put d 0#64)) ∧
      (s.t.ctxIssued c.toNat < (s.rx b).toNat → exec (.twait d c b) s =
        .next (takeTrap { cause := .timeline, val := s.rx b, val2 := c.setWidth 64 } false s)) ∧
      (1 ≤ (s.rx b).toNat → (s.rx b).toNat ≤ s.t.ctxIssued c.toNat → (s.rx b).toNat ≤ s.t.ctxReached c.toNat →
        exec (.twait d c b) s = .next (s.acquire.put d (BitVec.ofNat 64 (s.t.opStatus c.toNat (s.rx b).toNat))))) ∧
    (s.h.wtmo ≠ 0#64 → since + s.h.wtmo.toNat < s.time →
      (s.h.wait = some { kind := .waddr d old va, since := since } → exec .waddrTimeout s = .next (s.put d old)) ∧
      (∀ k n, s.h.wait = some { kind := .twait d k n, since := since } → s.t.ctxReached k < n →
        exec .twaitTimeout s = .next (s.put d 2#64)))

/-- nbind, nunbind, ncmd and nfence act on their Weir context where the checks of R305 to R308 pass. Derived from
14_weir R303, R305 to R309, 18_partitions R365. nunbind of a slot below 16 empties it. nbind of a valid graph image
read from scratch, 256-byte aligned, to a slot below 16, where the task has drawn its Weir contexts or can draw
them, binds the image's bytes to the slot. ncmd of a valid block read from scratch that names a bound slot, whose
streams pass R306 and are pinned, with fewer than 16 commands on the context (with 16 it waits, with nothing
checked), commits the hart's stores (memory is then that of the state which the pinning leaves, with its stores
committed) and puts the next-numbered command, with the captured graph and block, at the end of the context. nfence
passes once every command issued when it was first reached has completed, and acquires; beyond WTMO it traps 0x1B. -/
def Obligations.WeirCommandsAreBoundAndIssued : Prop :=
  ∀ (s : State) (c : BitVec 1) (a b : Reg),
    let x := s.weirCtx c.toNat
    let va := (s.rx a).toNat
    let slot := (s.rx b).toNat
    (slot < 16 → ∃ t, exec (.nunbind c b) s = .next t ∧ (∀ p ∈ (t.weirCtx c.toNat).slots, p.1 ≠ slot) ∧
      t.h.pc = s.h.pc + 4#64) ∧
    (let len := field (s.scratchBytes va 64) 0 2
     let g := s.scratchBytes va len
     va % 256 = 0 → slot < 16 → (s.t.weirDrawn = true ∨ 2 ≤ s.usableAmount 4 s.t.sub) → 64 ≤ len → len % 8 = 0 →
     s.scratchRun va 8 = true → s.scratchRun va (len / 8) = true → graphErrors g = [] →
     ∃ t, exec (.nbind c a b) s = .next t ∧ (slot, g) ∈ (t.weirCtx c.toNat).slots ∧ t.t.weirDrawn = true ∧
       t.h.pc = s.h.pc + 4#64) ∧
    (16 ≤ x.cmds.length → exec (.ncmd c a) s = .next (s.enterWait .other)) ∧
    (let block := s.scratchBytes va 64
     va % 64 = 0 → s.scratchRun va 8 = true → blockErrors block = [] → x.cmds.length < 16 →
     ∀ k g pages u, (x.slots.find? fun p => p.1 = bitsOf (field block 0 8) 3 0) = some (k, g) →
       s.streamErrors (streamsOf g block) (wCount block) = [] →
       (streamsOf g block).mapM (fun w => pinStream w (pagesOf w.base (wCount block * w.size))) s = .ok (pages, u) →
       ∃ t m, exec (.ncmd c a) s = .next t ∧ (t.weirCtx c.toNat).cmds = x.cmds ++ [m] ∧ m.n = x.issued + 1 ∧
         m.graph = g ∧ m.block = block ∧ m.hart = s.h.id ∧ t.h.sb = [] ∧ t.mem = u.drain.mem ∧ t.h.pc = s.h.pc + 4#64) ∧
    ((∀ k n since, s.h.wait ≠ some { kind := .nfence k n, since := since }) → x.issued ≤ x.reached →
      exec (.nfence c) s = .next s.acquire.advance) ∧
    (∀ n since, s.h.wait = some { kind := .nfence c.toNat n, since := since } → n ≤ x.reached →
      exec (.nfence c) s = .next s.acquire.advance) ∧
    (∀ k n since, s.h.wait = some { kind := .nfence k n, since := since } → s.h.wtmo ≠ 0#64 →
      since + s.h.wtmo.toNat < s.time →
      exec .nfenceTimeout s =
        .next (takeTrap { cause := .deadline, val := BitVec.ofNat 64 (5 + k), val2 := 2#64 } false s))

/-- A Weir part runs its elements once and is finished; a command whose parts are finished completes. Derived from
14_weir R299 to R301, R306, R307, R309 to R311, 13_ordering R291, 02_numbers R42. A part of a context's first
command that is not finished runs its elements in order; it is then finished, with the element it failed at if a
poisoned byte stopped it, in which case event 3 goes to the S of the task's cluster, or of the one that stands in
for it (logs 21 and 60: the model's choice; so is that one event runs a whole part, log 1); its flags join the
command's. For each data element, the result of element p of the graph is that of its operation on its sources,
which are the streams' values, the scalars, the registers and the results of the elements before it. Of numbers, the
float operations of R300 deliver the exact sum, difference, product or product plus third rounded once, 1.0 or zero
as the comparison holds, or the selected source; the integer operations wrap, act on the bits or select; CVTF rounds
the i32 once, CVTI rounds towards zero and clamps with NV, and MOV keeps the code. A load extends an integer by its
sign or zeros and converts a float exactly; a store keeps the low bits of an integer and rounds a float once. A
command whose parts are all finished completes: where it asks for a completion write, memory is as that write leaves
it, or, where the write meets a fault, as its failed walk leaves it, and the trap 0x14 with the address and 6 is
held for its hart; it leaves the context and its number is reached (a task that has ended is gone with its last
command). -/
def Obligations.WeirPartsRunAndComplete : Prop :=
  ∀ (s : State) (c : BitVec 1) (k : Nat) (m : WCmd) (rest : List WCmd),
    (s.weirCtx c.toNat).cmds = m :: rest →
    (∀ p s1 fl fail, m.parts[k]? = some p → p.finished = false →
      runPart m (streamsOf m.graph m.block) (p.stop - p.first) p.first (initRegs m.graph) 0#9 s = (s1, fl, fail) →
      let s2 := s1.mapWeir c.toNat fun x => { x with cmds := x.cmds.map fun y => if y.n = m.n then
        { y with parts := setAt y.parts k { p with finished := true, fail := fail }, flags := y.flags ||| fl } else y }
      exec (.weirPartRun c k) s =
        .next (if fail.isSome then s2.eventS s.t.sub (some s.t.home) 3 (p.weir + m.n * 2 ^ 8) else s2)) ∧
    ((∀ p ∈ m.parts, p.finished = true) →
      ∃ t, exec (.weirCommandComplete c) s = .next t ∧
        (s.t.run ≠ .ended → (t.weirCtx c.toNat).cmds = rest ∧ (t.weirCtx c.toNat).reached = m.n) ∧
        (m.notifies = none → t.mem = s.mem) ∧
        ∀ na, m.notifies = some na →
          let write := engWrite false false 2 na (bytesOf 8 (bitsOf (field m.block 0 8) 63 40)) s
          (∀ u, write = .ok ((), u) → t.mem = u.mem) ∧
          (∀ f, write = .error f → t.mem = (s.walked f.reads f.seen).mem ∧ (s.who = .user → m.hart = s.h.id → s.t.run ≠ .ended →
            ∃ tr, t.h.held = s.h.held ++ [tr] ∧ tr.cause = .weir ∧ tr.val = BitVec.ofNat 64 (field m.block 56 8) ∧ tr.val2 = 6#64))) ∧
    (∀ g block regs loads i p, p < byteAt g 3 →
      let res := (graphRun g block regs loads i).1
      let src (j : Nat) := graphSource g block regs loads (res.take p) i p (byteAt g (64 + 16 * p + 1 + j))
      res.length = byteAt g 3 ∧ res.getD p 0 = (graphOp (byteAt g (64 + 16 * p)) (src 0) (src 1) (src 2)).1) ∧
    (∀ x y z : Nat, x < 2 ^ 32 → y < 2 ^ 32 → z < 2 ^ 32 →
      let u := f32Fmt.decode x
      let v := f32Fmt.decode y
      let w := f32Fmt.decode z
      (u.finite = true → v.finite = true → w.finite = true →
        delivers f32Fmt .rne (u.val + v.val) (graphOp 1 x y z) ∧ delivers f32Fmt .rne (u.val - v.val) (graphOp 2 x y z) ∧
        delivers f32Fmt .rne (u.val * v.val) (graphOp 3 x y z) ∧ delivers f32Fmt .rne (u.val * v.val + w.val) (graphOp 4 x y z) ∧
        graphOp 7 x y z = (if u.val = 0 then z else y, 0#9) ∧
        graphOp 8 x y z = (if u.val < v.val then 0x3F800000 else 0, 0#9) ∧
        graphOp 9 x y z = (if u.val ≤ v.val then 0x3F800000 else 0, 0#9) ∧
        ∃ k : Nat, roundsTo .rtz u.neg |u.val| k ∧
          let n : ℤ := if u.neg then -(k : ℤ) else (k : ℤ)
          graphOp 17 x y z = if n < -2 ^ 31 then (codeOf 32 (-2 ^ 31), fNV) else if 2 ^ 31 - 1 < n then (codeOf 32 (2 ^ 31 - 1), fNV)
            else (codeOf 32 n, if (k : ℚ) = |u.val| then 0#9 else fNX)) ∧
      graphOp 0 x y z = (0, 0#9) ∧ graphOp 10 x y z = ((x + y) % 2 ^ 32, 0#9) ∧
      graphOp 11 x y z = ((x + 2 ^ 32 - y) % 2 ^ 32, 0#9) ∧
      (∀ i, i < 32 → (graphOp 12 x y z).1.testBit i = (x.testBit i && y.testBit i) ∧
        (graphOp 13 x y z).1.testBit i = (x.testBit i || y.testBit i) ∧
        (graphOp 14 x y z).1.testBit i = (x.testBit i != y.testBit i)) ∧
      graphOp 15 x y z = (if x = 0 then z else y, 0#9) ∧ delivers f32Fmt .rne (intOf true 32 x) (graphOp 16 x y z) ∧
      graphOp 18 x y z = (x, 0#9)) ∧
    (∀ (t : ElemType) (x : Nat),
      (isInt t = true → elemBits t ≤ 32 → x < 2 ^ elemBits t →
        intOf (isSigned t) 32 (weirLoad t x).1 = intOf (isSigned t) (elemBits t) x) ∧
      (isInt t = true → weirStore t x = (x % 2 ^ elemBits t, 0#9)) ∧
      (isFloat t = true → x < 2 ^ elemBits t → ((fmtOf t).decode x).finite = true →
        (f32Fmt.decode (weirLoad t x).1).val = ((fmtOf t).decode x).val) ∧
      (isFloat t = true → x < 2 ^ 32 → (f32Fmt.decode x).finite = true → delivers (fmtOf t) .rne (f32Fmt.decode x).val (weirStore t x)))

/-- kgrp binds a valid group; kred, kgat, kcast and kdraw join their context; the engine runs and completes the first
command. Derived from 15_collectives R320, R323 to R327, R329 to R331, 08_draws R184, 18_partitions R365. With the
vector context held and no command on the context: kgrp with x0 unbinds; kgrp of a valid descriptor read from
scratch, whose tag the partition may use and no context has, where the context is drawn or can be, binds it at
position 0. With 16 commands on it each command waits, with nothing checked. A command with a valid block read from
scratch, pinned ranges and room commits the hart's stores and joins the context with the next number and position,
kdraw taking a value of DCTR. The engine runs the next chunk of the first command when every other rank has brought
its part (that what the peers bring is an input of the event is the model's choice, log 62, and so are a chunk for
one run, log 1, and what a chunk in hand holds, log 85): the command has then run, well or failed, or one chunk of
64 KiB more of it is done; with at most one chunk left it has run. A command that has run completes: where it asks
for a completion write, memory is as that write leaves it, or, where the write meets a fault, as its failed walk
leaves it, and the trap 0x15 with the address is held for its hart (that trap is the model's choice, log 23: R326
says nothing of a fault of this write); it leaves the context and its number is reached (a task that has ended is
gone with its last command). -/
def Obligations.CollectivesBindIssueAndRun : Prop :=
  ∀ (s : State) (c : BitVec 1) (a : Reg),
    let x := s.collCtx c.toNat
    let va := (s.rx a).toNat
    (s.holdsContext = true → x.cmds = [] →
      (∃ t, exec (.kgrp c 0#7) s = .next t ∧ (t.collCtx c.toNat).group = none ∧ t.h.pc = s.h.pc + 4#64) ∧
      (let h := s.scratchBytes va 16
       let g := s.scratchBytes va (16 + 4 * grpN h)
       a ≠ 0#7 → va % 16 = 0 → s.scratchRun va 2 = true → va + 16 + 4 * grpN h ≤ 2 ^ 64 →
       (∀ i, i < grpN h → s.scratchFree (va + 16 + 4 * i) 4 = true) →
       grpHead h = [] → grpRanks s.o.onode.toNat g = [] → s.partUse s.t.part 8 (grpTag g) = true →
       s.tagBound c.toNat (grpTag g) = false → (x.drawn = true ∨ 1 ≤ s.usableAmount 5 s.t.sub) →
       ∃ t, exec (.kgrp c a) s = .next t ∧ (t.collCtx c.toNat).group = some g ∧ (t.collCtx c.toNat).pos = 0 ∧
         t.h.pc = s.h.pc + 4#64)) ∧
    (s.holdsContext = true → 16 ≤ x.cmds.length → ∀ i ∈ [Instr.kred c a, .kgat c a, .kcast c a, .kdraw c a],
      exec i s = .next (s.enterWait .other)) ∧
    (s.holdsContext = true → x.cmds.length < 16 → va % 64 = 0 → s.scratchRun va 8 = true →
      ∀ g, x.group = some g →
      let block := s.scratchBytes va 64
      let issued (k : KKind) (i : Instr) := s.blockRefusals k g block = [] → ∀ ps pd u w,
        pinUsed false (kSrcRange k (grpMine g) block) s = .ok (ps, u) →
        pinUsed true (kDstRange k (grpN g) (grpMine g) block) u = .ok (pd, w) →
        ∃ t m, exec i s = .next t ∧ (t.collCtx c.toNat).cmds = x.cmds ++ [m] ∧ m.n = x.issued + 1 ∧ m.j = x.pos + 1 ∧
          m.kind = k ∧ m.block = block ∧ m.ran = false ∧ t.h.sb = [] ∧ t.mem = w.drain.mem ∧ t.h.pc = s.h.pc + 4#64 ∧
          t.h.dctr = if k = .draw then s.h.dctr + 1#64 else s.h.dctr
      issued .red (.kred c a) ∧ issued .gat (.kgat c a) ∧ issued .cast (.kcast c a) ∧ issued .draw (.kdraw c a)) ∧
    (∀ m rest g peers, x.cmds = m :: rest → x.group = some g → m.ran = false →
      (∀ r, r < grpN g → r ≠ grpMine g → ∃ p ∈ peers, p.rank = r) →
      ∃ t m', exec (.collectiveRun c peers) s = .next t ∧ (t.collCtx c.toNat).cmds.head? = some m' ∧ m'.n = m.n ∧
        (m'.ran = true ∨ m'.done = m.done + min 65536 (kBytes m.kind m.block - m.done)) ∧
        (kBytes m.kind m.block ≤ m.done + 65536 → m'.ran = true)) ∧
    (∀ m rest, x.cmds = m :: rest → m.ran = true →
      ∃ t, exec (.collectiveComplete c) s = .next t ∧
        (s.t.run ≠ .ended → (t.collCtx c.toNat).cmds = rest ∧ (t.collCtx c.toNat).reached = m.n) ∧
        (kNotify m.block = false → t.mem = s.mem) ∧
        (kNotify m.block = true →
          let write := engWrite false false 2 (field m.block 24 8) (bytesOf 8 (field m.block 32 8)) s
          (∀ u, write = .ok ((), u) → t.mem = u.mem) ∧
          (∀ f, write = .error f → t.mem = (s.walked f.reads f.seen).mem ∧ (s.who = .user → m.hart = s.h.id → s.t.run ≠ .ended →
            ∃ tr, t.h.held = s.h.held ++ [tr] ∧ tr.cause = .coll ∧ tr.val = BitVec.ofNat 64 (field m.block 24 8)))))

/-- A trap is delivered to the user handler where R350 lets it, else queued for its level; trap, tret and tdecl act as
R353 says. Derived from 17_traps R350, R352 to R354, R403, 03_words R69, R75, 13_ordering R291. For a hart of a
task. A trap first leaves the tables marked as its failed walk has read them (13_ordering R291). Then a trap that is
not bound to a level, whose cause may go to U, whose bit of UTRAPMASK is set, with UHANDLER set and outside handler
mode, fills the user record, enters handler mode at UHANDLER and keeps the stopped instruction, whose flags so far
join FFLAGS, and every other state. Any other trap goes to the level of its cause: while the queue has room (64
entries, the one in hand among them until it is answered: the model's choice, log 67) its record stands at the end
and the hart is stopped at its pc; a full queue keeps the record with the hart. trap raises 0x18 with its code; tret
returns to TRAPPC, or past it for 0x18; tdecl queues the recorded trap for S with DECL, or keeps it with the hart
while the queue is full; outside handler mode tret and tdecl trap 0x19, with TRAPVAL2 = 0 (the model's choice, log
19). A due asynchronous trap is taken at the boundary, and a command whose fault it is counts as delivered. -/
def Obligations.TrapsAreDeliveredOrEscalated : Prop :=
  ∀ (s : State) (tr : Trap) (async : Bool) (code : BitVec 7), s.who = .user →
    takeTrap tr async s = takeTrap { tr with reads := [], seen := [] } async (s.walked tr.reads tr.seen) ∧
    (tr.reads = [] → tr.seen = [] →
    let u := takeTrap tr async s
    let handled := tr.bound = none ∧ tr.cause.toUser = true ∧ s.t.utrapmask.getLsbD tr.cause.code.toNat = true ∧
      s.t.uhandler ≠ 0#62 ∧ s.h.handler = false
    let lvl := tr.bound.getD tr.cause.otherwise
    (handled →
      u.h.trapcause = tr.cause.code ∧ u.h.trapasync = async ∧ u.h.trappc = s.h.pc ∧ u.h.trapval = tr.val ∧
        u.h.trapval2 = tr.val2 ∧ u.h.handler = true ∧ u.h.pc = s.t.uhandler ++ 0#2 ∧ u.h.stopped = s.h.halt.flight ∧
        u.h.fflags = s.h.halt.fflags ∧ u.h.flight = none ∧ u.h.x = s.h.x ∧ u.h.names = s.h.names ∧ u.h.sb = s.h.sb ∧ u = { s with h := u.h }) ∧
    (¬ handled → lvl ≠ .p → lvl ≠ .o →
      (s.cl.svc.squeue.length + s.cl.svc.srec.toList.length < 64 → ∃ r, recordOf s tr async r ∧ u.cl.svc.squeue = s.cl.svc.squeue ++ [r] ∧
        u.h.run = .trapped ∧ u.h.pc = s.h.pc ∧ u.h.x = s.h.x ∧ u.h.flight = s.h.halt.flight ∧ u.t = s.t ∧ u.mem = s.mem) ∧
      (64 ≤ s.cl.svc.squeue.length + s.cl.svc.srec.toList.length → ∃ r, recordOf s tr async r ∧ u.h.trapRec = some r ∧ u.h.run = .blocked lvl ∧
        u = { s with h := u.h })) ∧
    (¬ handled → lvl = .p → s.cl.svc.pqueue.length + s.cl.svc.prec.toList.length < 64 → ∃ r, recordOf s tr async r ∧
      u.cl.svc.pqueue = s.cl.svc.pqueue ++ [r] ∧ u.h.run = .trapped ∧ u.h.pc = s.h.pc ∧ u.h.x = s.h.x) ∧
    (¬ handled → lvl = .o → ∃ r, recordOf s tr async r ∧ u.oqueue = s.oqueue ++ [r] ∧ u.h.run = .trapped ∧ u.h.pc = s.h.pc)) ∧
    exec (.trap code) s = .next (takeTrap { cause := .trapInstr, val := code.setWidth 64 } false s) ∧
    (s.h.handler = true → ∃ t, exec .tret s = .next t ∧ t.h.handler = false ∧
      t.h.pc = (if s.h.trapcause = 0x18#8 then s.h.trappc + 4#64 else s.h.trappc) ∧ t.h.flight = s.h.stopped ∧
      t.h.x = s.h.x ∧ t = { s with h := t.h }) ∧
    (s.h.handler = true → s.cl.svc.squeue.length + s.cl.svc.srec.toList.length < 64 → ∃ t r, exec .tdecl s = .next t ∧
      t.cl.svc.squeue = s.cl.svc.squeue ++ [r] ∧ r.cause = s.h.trapcause ∧ r.pc = s.h.trappc ∧ r.val = s.h.trapval ∧
      r.val2 = s.h.trapval2 ∧ r.decl = true ∧ r.nested = false ∧ r.task = some s.t.uid ∧
      t.h.handler = false ∧ t.h.run = .trapped ∧ t.h.x = s.h.x) ∧
    (s.h.handler = true → 64 ≤ s.cl.svc.squeue.length + s.cl.svc.srec.toList.length → ∃ t r, exec .tdecl s = .next t ∧ t.h.trapRec = some r ∧
      r.cause = s.h.trapcause ∧ r.pc = s.h.trappc ∧ r.decl = true ∧ t.h.handler = false ∧ t.h.run = .blocked .s ∧
      t = { s with h := t.h }) ∧
    (s.h.handler = false →
      exec .tret s = .next (takeTrap { cause := .privilege, val := wordVal .tret } false s) ∧
      exec .tdecl s = .next (takeTrap { cause := .privilege, val := wordVal .tdecl } false s)) ∧
    (s.h.run = .ready → s.h.due = some tr → (∀ f, s.h.flight = some f → f.op.folds = false) →
      exec .asyncTrapDelivery s =
        .next (takeTrap tr true { s.markDelivered tr with h := { s.h with held := s.h.held.erase tr } }))

/-- A service core takes P before S, with the record in its registers; Lydar takes O; sret answers and resumes the hart.
Derived from 17_traps R354, R355, 18_partitions R376 to R378. A service core in service that is ready takes the
oldest P entry unless P runs: the entry fills the P registers, P runs at PHANDLER, and S code that ran is broken off
at its pc. (What waits for room then enters the queue.) It takes the oldest S entry when the P queue is empty and no
handler runs or is broken off, at SHANDLER. Lydar takes the oldest O entry once the last is answered (the model's
choice, log 52). sret with xa = 0 at S lets the trapped hart run at STRAPPC, or past it for cause 0x18, and ends the
handler, so that the slot of its entry is free for what waits (that it frees with the answer is the model's choice,
log 67; a budget's record, which stops no hart, resumes none), and where the task has left its core the hart
continues there when it is loaded again; with 1 it parks the task into the aligned area at xb (where the save meets
no fault or wait), while an xb that is not a multiple of 4,096 traps 0x03 with TRAPVAL xb (R355 asks only for the
multiple: the cause and TRAPVAL are the model's choice, log 121, and TRAPVAL2 = 0 too, log 19), and with 2 it
abandons it; with another xa above 2 it traps 0x07 with TRAPVAL2 = 1 (TRAPVAL is a free value, log 20). sret with xa
= 0 of an event, or of what S code raised, at P ends the handler (that such a record, which has no task, counts as
answered so is the model's choice, log 32), and broken-off S code goes on once the P queue is empty, at the answered
trap's own pc where the trap was that code's. -/
def Obligations.ServiceCoresTakeAndAnswer : Prop :=
  ∀ (s : State) (n : Nat) (r : TrapRec) (rest : List TrapRec) (a b : Reg),
    let p := s.packed.withCluster n
    let v := p.cl.svc
    (p.cl.num = n → p.cl.service = true → v.hart.run = .ready → v.running ≠ some .p → v.pqueue = r :: rest →
      ∃ w : Service, exec (.serviceCoreTakeP n) s = .next (s.refocus (({ p with cl := { p.cl with svc := w } } : State).letQueue .p)) ∧
        w.pqueue = rest ∧ w.prec = some r ∧ w.running = some .p ∧ w.hart.pc = v.phandler ++ 0#2 ∧ w.hart.x = v.hart.x ∧
        w.broken = (if v.running = some .s then some v.hart.pc else v.broken) ∧ w.squeue = v.squeue ∧
        w.ptrapcause = r.cause ∧ w.ptrappc = r.pc ∧ w.ptrapval = r.val ∧ w.ptrapval2 = r.val2 ∧ w.ptraptask = r.taskid ∧
        w.ptrapaddr = r.addr ∧ w.ptrapx.setWidth 3 = r.core ∧ w.strapcause = v.strapcause ∧ w.strappc = v.strappc) ∧
    (p.cl.num = n → p.cl.service = true → v.hart.run = .ready → v.running = none → v.broken = none → v.pqueue = [] →
      v.squeue = r :: rest →
      ∃ w : Service, exec (.serviceCoreTakeS n) s = .next (s.refocus (({ p with cl := { p.cl with svc := w } } : State).letQueue .s)) ∧
        w.squeue = rest ∧ w.srec = some r ∧ w.running = some .s ∧ w.hart.pc = v.shandler ++ 0#2 ∧ w.hart.x = v.hart.x ∧
        w.strapcause = r.cause ∧ w.strappc = r.pc ∧ w.strapval = r.val ∧ w.strapval2 = r.val2 ∧ w.straptask = r.taskid ∧
        w.strapx = BitVec.ofBool r.async ++ BitVec.ofBool r.decl ++ BitVec.ofBool r.nested ++ r.hartid ++ r.core) ∧
    (s.orec = none → s.oqueue = r :: rest →
      ∃ t, exec .lydarTakeO s = .next t ∧ t.orec = some r ∧ t.oqueue = rest ∧ t.o.otrapcause = r.cause ∧ t.o.otrappc = r.pc ∧
        t.o.otrapval = r.val ∧ t.o.otrapval2 = r.val2 ∧ t.o.otraptask = r.taskid ∧ t.o.otrapaddr = r.addr ∧ t.tasks = s.tasks ∧
        t.mem = s.mem) ∧
    (s.who = .service →
      (s.cl.svc.running = some .s → s.cl.svc.srec = some r →
        (∀ uid, s.rx a = 0#64 → r.task = some uid → r.cause ≠ 0x1C#8 →
          ∃ t : State, exec (.sret a b) s = .next (t.letQueue .s) ∧ t.cl.svc.srec = none ∧ t.cl.svc.running = none ∧
            t.tasks = s.tasks.map fun k => if k.uid = uid then
              { k with harts := k.harts.map fun h => if h.id = r.hartid ∧ h.run = .trapped then
                { h with
                  run := .ready, pc := if r.cause = 0x18#8 then r.pc + 4#64 else r.pc, trapGen := none,
                  resumeAt := k.save.map fun _ => if r.cause = 0x18#8 then r.pc + 4#64 else r.pc,
                  wait := h.trapGen.map fun w => { kind := .barw w, since := s.time } } else h } else k) ∧
        (∀ uid, s.rx a = 0#64 → r.task = some uid → r.cause = 0x1C#8 →
          exec (.sret a b) s = .next (s.answered.letQueue .s)) ∧
        (∀ uid u, s.rx a = 1#64 → r.task = some uid → (s.rx b).toNat % 4096 = 0 →
          parkTask uid r.hartid (s.areaOf (s.rx b)) s = .ok ((), u) → exec (.sret a b) s = .next (u.answered.letQueue .s)) ∧
        (∀ uid, s.rx a = 2#64 → r.task = some uid → exec (.sret a b) s = .next ((s.abandon uid).answered.letQueue .s)) ∧
        (s.rx a = 1#64 → (s.rx b).toNat % 4096 ≠ 0 →
          exec (.sret a b) s = .next (takeTrap { cause := .misaligned, val := s.rx b } false s)) ∧
        (2 < (s.rx a).toNat → exec (.sret a b) s =
          .next (takeTrap { cause := .access, val := Config.trapValue s.time 0, val2 := 1#64 } false s))) ∧
      (s.cl.svc.running = some .p → s.cl.svc.prec = some r → r.cause = 0#8 → r.task = none → s.rx a = 0#64 →
        ∃ t : State, exec (.sret a b) s = .next (t.letQueue .p) ∧ t.cl.svc.prec = none ∧ t.tasks = s.tasks ∧
          (∀ pc, s.cl.svc.broken = some pc → s.cl.svc.pqueue = [] →
            t.cl.svc.running = some .s ∧ t.cl.svc.broken = none ∧ t.h.pc = pc) ∧
          ((s.cl.svc.broken = none ∨ s.cl.svc.pqueue ≠ []) → t.cl.svc.running = none)) ∧
      (∀ pc, s.cl.svc.running = some .p → s.cl.svc.prec = some r → r.cause ≠ 0#8 → r.task = none → r.fromP = false →
        r.fromS = true → s.rx a = 0#64 → s.cl.svc.broken = some pc → s.cl.svc.pqueue = [] →
        ∃ t : State, exec (.sret a b) s = .next (t.letQueue .p) ∧ t.cl.svc.prec = none ∧ t.cl.svc.running = some .s ∧ t.cl.svc.broken = none ∧
          t.h.pc = (if r.cause = 0x18#8 then r.pc + 4#64 else r.pc)))

/-- sret, ctxsave, ctxload, tlbinv and fwset trap in user mode and act at the levels that may run them. Derived from
17_traps R355, R358, R359, 18_partitions R375, 14_weir R313, 03_words R69, 09_vmem R216, 13_ordering R291. At U each
of the five traps 0x19 with its word (and TRAPVAL2 = 0: the model's choice, log 19). At a service core: ctxsave and
ctxload at an address that is not a multiple of 4,096 trap 0x03, with xa in TRAPVAL and TRAPVAL2 = 0 (the model's
choices, logs 121 and 19); with no part selected they pass; ctxsave of SPILL without NAMES traps 0x07 with reason 1;
ctxload of NAMES with address 0 takes the vector contexts of the record's core from their owner. With one of SCALAR,
NAMES, TILES, SCRATCH, ENGINES selected ctxsave saves that part of the record's task and ctxload loads it (the
engines' part for a task other than the one that saved it is gone from that one: the model's choice, log 25), where
the save or load itself meets no fault and no wait; tiles and scratch that are saved are free, and loaded ones are
reserved again. tlbinv with bits above 15 traps 0x07 with reason 8, and with xa in TRAPVAL (the model's choice, log
121); with valid operands it completes, or waits while a vector instruction holds a pin that it selects; with no
stash window in the tasks it names it commits the stores, drops the entries of the TLBs that it names, and passes; a
window whose pinned pages it selects keeps no line of them and no pin of them (that kinds 1 and 3 take every entry
that their row names, whatever xb holds, is the model's choice, log 7). fwset at P with a readable descriptor
disables its window for FMT = 0, sets a valid one, and traps 0x14 with the first offending byte and reason 5 for
another. -/
def Obligations.ContextsWindowsAndTranslationsAreManaged : Prop :=
  ∀ (s : State) (a b : Reg),
    (s.who = .user → ∀ i ∈ [Instr.sret a b, .ctxsave a b, .ctxload a b, .tlbinv a b, .fwset a b],
      exec i s = .next (takeTrap { cause := .privilege, val := wordVal i } false s)) ∧
    (s.who = .service →
      ((s.rx a).toNat % 4096 ≠ 0 → ∀ i ∈ [Instr.ctxsave a b, .ctxload a b],
        exec i s = .next (takeTrap { cause := .misaligned, val := s.rx a } false s)) ∧
      ((s.rx a).toNat % 4096 = 0 → s.rx b = 0#64 → ∀ i ∈ [Instr.ctxsave a b, .ctxload a b], exec i s = .next s.advance) ∧
      ((s.rx a).toNat % 4096 = 0 → s.rx b = 4#64 →
        exec (.ctxsave a b) s = .next (takeTrap { cause := .access, val := s.rx a, val2 := 1#64 } false s)) ∧
      (∀ r uid, s.curRec = some r → (s.cl.cores.toList.getD r.core.toNat {}).owner = some uid → s.rx a = 0#64 → s.rx b = 2#64 →
        ∃ t, exec (.ctxload a b) s = .next t ∧ ∀ k ∈ t.cl.cores.toList, k.owner ≠ some uid) ∧
      ((s.rx a).toNat % 4096 = 0 → ∀ (r : Area) (uid : Nat) (u : State), r = s.areaOf (s.rx a) →
        (s.recTask = some uid →
          (∀ p ∈ ([(1#64, fun k => saveScalar k.t.uid r k), (8#64, saveTiles r), (32#64, saveEngines r)] : List (Word × Act Unit)),
            s.rx b = p.1 → onTask uid p.2 s = .ok ((), u) → exec (.ctxsave a b) s = .next u.advance) ∧
          (∀ p ∈ ([(1#64, fun k => loadScalar k.t.uid r k), (8#64, loadTiles r)] : List (Word × Act Unit)),
            s.rx b = p.1 → onTask uid p.2 s = .ok ((), u) → exec (.ctxload a b) s = .next u.advance) ∧
          (∀ src v, s.rx b = 32#64 → areaOwner r 5 s = .ok (src, v) → onTask uid (fun k => loadEngines r (src.getD k.t) k) v = .ok ((), u) →
            exec (.ctxload a b) s = .next (State.advance (match src with
              | some t => if t.uid = uid then u else u.mapWholeTask t.uid Task.noEngines
              | none => u))) ∧
          ∀ scr v, s.rx b = 16#64 → headWord r 104 s = .ok (scr, v) → scr ≠ 0 →
            (onTask uid (saveScratch r scr) v = .ok ((), u) → exec (.ctxsave a b) s = .next u.advance) ∧
            (onTask uid (loadScratch r scr) v = .ok ((), u) → exec (.ctxload a b) s = .next u.advance)) ∧
        (s.rx b = 2#64 →
          (s.recOwner = some uid → onTask uid (saveNames r none []) s = .ok ((), u) → exec (.ctxsave a b) s = .next u.advance) ∧
          (s.recOwner = none → saveNoNames r false s = .ok ((), u) → exec (.ctxsave a b) s = .next u.advance))) ∧
      (2 ^ 16 ≤ (s.rx a).toNat → bitsOf (s.rx a).toNat 15 15 = 0 →
        exec (.tlbinv a b) s = .next (takeTrap { cause := .access, val := s.rx a, val2 := 8#64 } false s)) ∧
      (let kind := bitsOf (s.rx a).toNat 15 14
       let n := (s.rx a).toNat % 2 ^ 14
       let p := s.tlbHits kind n (s.rx b)
       (s.rx a).toNat < 2 ^ 16 → (kind ≤ 1 ∨ s.level = .p) →
       (kind = 0 → n < 4096 ∧ (if s.level = .s then s.hasManage (.sub s.ownSub) 3 n else s.partManage s.ownPart 3 n) = true) →
       (kind = 2 → n < 64 ∧ s.partOfSub n = some s.ownPart) → (kind = 1 ∨ kind = 3 → n = 0) →
       (s.cl.svc.running = some .s ∨ s.cl.svc.running = some .p) →
       ((∀ k ∈ s.tlbTasks kind n, k.holdsPin p = false) →
         ∃ t, exec (.tlbinv a b) s = .next t ∧ ((∀ k ∈ s.tlbTasks kind n, k.windows = []) → t = (s.drain.tlbDrop p).advance)) ∧
       ((∃ k ∈ s.tlbTasks kind n, k.holdsPin p = true) → exec (.tlbinv a b) s = .next (s.enterWait .other)))) ∧
    (∀ (r : Area) (k u : State),
      (saveTiles r k = .ok ((), u) → k.t.matrix.queue = [] ∧ u.t.matrix.reserved = 0 ∧ u.t.matrix.cells = []) ∧
      (loadTiles r k = .ok ((), u) → u.t.matrix.reserved = pkBands k.t.packet) ∧
      (∀ scr, saveScratch r scr k = .ok ((), u) → u.t.scrb = 0 ∧ u.t.scratch = []) ∧
      (∀ scr, loadScratch r scr k = .ok ((), u) → u.t.scrb = pkScrb k.t.packet)) ∧
    (∀ (p : WindowPin → Bool), ∀ w ∈ (s.unpin p).t.windows, ∃ v ∈ s.t.windows, w.num = v.num ∧
      w.pages = v.pages.map (fun x => if x.any p then none else x) ∧ ∀ l ∈ w.lines, v.lineOn p l.line = false) ∧
    (s.who = .service → s.cl.svc.running = some .p → (s.rx a).toNat < 16 → (s.rx b).toNat % 64 = 0 →
      ∀ d u, withBlock (s.rx b) 8 pure s = .ok (d, u) → u.ownPart = s.ownPart →
      (field d 32 1 = 0 → ∃ t, exec (.fwset a b) s = .next t ∧
        ∀ w ∈ t.windows, ¬ (w.part = s.ownPart ∧ w.num = (s.rx a).toNat)) ∧
      (field d 32 1 ≠ 0 → u.fwErrors s.ownPart (s.rx a).toNat d = [] → ∃ t, exec (.fwset a b) s = .next t ∧
        { part := s.ownPart, num := (s.rx a).toNat, desc := d } ∈ t.windows) ∧
      (∀ o rest, field d 32 1 ≠ 0 → u.fwErrors s.ownPart (s.rx a).toNat d = o :: rest → exec (.fwset a b) s =
        .next (takeTrap { cause := .weir, val := BitVec.ofNat 64 (rest.foldl Nat.min o), val2 := 5#64 } false s)))

/-- A launch reaches its queue by message, UALink write or wqpost, gets the next number or its rejection, and wqstat
reads the queue. Derived from 16_launch R334, R335, R337, R347 to R349, 18_partitions R366. For a queue that exists
and whose subpartition has use: a 128-byte message on its connection, or a UALink write where it admits them, that
no check of R337 refuses gets the next launch number and stands last among its launches; on another connection it
gets a negative acknowledgement, and a queue that admits no UALink writes gives an error response; a launch that a
check refuses is reported rejected, and the UALink write answers its number, or 2^63 plus the reason (6 without use:
the model's choice, log 13). Checking the packet's ASID leaves the tables read as R291 says. wqpost of a packet in
scratch to a queue of this device that the level may use commits the hart's stores and writes the launch number,
2^63 + the reason, or 2^63 + 6 where no queue was granted (the model's choice, log 13); to a queue of another node
it waits for the answer, which comes at its next turn with the stores committed then (the model's choice, log 27),
and beyond WTMO it writes 2^63 + 255. (A wqpost whose packet lies outside scratch is not stated here.) wqstat 0
reads the status word, whose WAITING, PC, AGED and WT are the queue's, 1 and 2 read TL and the number accepted,
another selection above 2 traps 0x01, with the word in TRAPVAL (inferred: R349 gives the cause only) and TRAPVAL2 =
0 (the model's choice, log 19); reserved bits, a queue without use and another node trap 0x07 with 1, 2 and 3. -/
def Obligations.QueuesTakeLaunches : Prop :=
  ∀ (s : State) (n : BitVec 12) (conn : BitVec 16) (pk : List Byte) (d a b : Reg),
    (∀ q, s.queue? n.toNat = some q →
      (s.queueOpen q = true → pk.length = 128 → s.rejectReason q pk = none →
        let joined (t : State) := t.queues = s.queues.map fun x => if x.num = q.num then
          { x with accepted := q.accepted + 1, launches := x.launches ++ [{ num := q.accepted + 1, packet := pk }] } else x
        (q.conn = conn → ∃ t, exec (.launchMessage n conn pk) s = .next t ∧ joined t ∧ t.mem = (s.asidRead q.sub (pkAsid pk)).2.mem ∧ t.replies = s.replies) ∧
        (q.ualink = true → ∃ t, exec (.launchWriteUalink n pk) s = .next t ∧ joined t ∧
          t.replies = s.replies ++ [.launch (BitVec.ofNat 64 (q.accepted + 1))])) ∧
      (∀ reason, s.queueOpen q = true → pk.length = 128 → s.rejectReason q pk = some reason →
        (q.conn = conn → exec (.launchMessage n conn pk) s =
          .next ((if reason < 6 then s else (s.asidRead q.sub (pkAsid pk)).2).reportRejection q pk reason)) ∧
        (q.ualink = true → ∃ t, exec (.launchWriteUalink n pk) s = .next t ∧ t.queues = s.queues ∧
          t.replies = s.replies ++ [.launch (BitVec.ofNat 64 (2 ^ 63 + reason))])) ∧
      (s.queueOpen q = false → pk.length = 128 → q.ualink = true → ∃ t, exec (.launchWriteUalink n pk) s = .next t ∧
        t.queues = s.queues ∧ t.replies = s.replies ++ [.launch 0x8000000000000006#64]) ∧
      (q.conn ≠ conn → exec (.launchMessage n conn pk) s = .next { s with replies := s.replies ++ [.nak conn] }) ∧
      (q.ualink = false → exec (.launchWriteUalink n pk) s = .next { s with replies := s.replies ++ [.error] })) ∧
    (let xb := s.rx b
     let qn := bitsOf xb.toNat 11 0
     let here := bitsOf xb.toNat 21 12 = s.o.onode.toNat ∨ (bitOf xb.toNat 22 = false ∧ bitsOf xb.toNat 21 12 = 0)
     (xb.toNat < 2 ^ 23 → here → s.mayPost qn = true →
       ((s.rx a).toNat % 128 = 0 → s.scratchRun (s.rx a).toNat 16 = true →
         ∃ t, exec (.wqpost d a b) s = .next t ∧ t.h.sb = [] ∧ t.h.pc = s.h.pc + 4#64 ∧
           t.mem = (match s.drain.queue? qn with
             | none => s.drain
             | some q => (s.drain.arrive q (s.scratchBytes (s.rx a).toNat 128)).2).mem ∧
           (s.drain.queue? qn = none → d ≠ 0#7 → t.rx d = 0x8000000000000006#64) ∧
           ∀ q, s.drain.queue? qn = some q →
             let p := s.scratchBytes (s.rx a).toNat 128
             (∀ reason, s.drain.rejectReason q p = some reason → d ≠ 0#7 → t.rx d = BitVec.ofNat 64 (2 ^ 63 + reason)) ∧
             (s.drain.rejectReason q p = none → (d ≠ 0#7 → t.rx d = BitVec.ofNat 64 (q.accepted + 1)) ∧
               ∃ x, t.queue? qn = some x ∧ x.launches = q.launches ++ [{ num := q.accepted + 1, packet := p }])) ∧
       (∀ q, s.queue? qn = some q →
         (s.rx a = 0#64 → exec (.wqstat d a b) s = .next (s.put d (BitVec.ofNat 64 (s.queueStatus q)))) ∧
         ((s.rx a).toNat = 1 → exec (.wqstat d a b) s = .next (s.put d (BitVec.ofNat 64 q.tl))) ∧
         ((s.rx a).toNat = 2 → exec (.wqstat d a b) s = .next (s.put d (BitVec.ofNat 64 q.accepted)))) ∧
       (2 < (s.rx a).toNat →
         exec (.wqstat d a b) s = .next (takeTrap { cause := .illegal, val := wordVal (.wqstat d a b) } false s))) ∧
     (xb.toNat < 2 ^ 23 → ¬ here →
       exec (.wqstat d a b) s = .next (takeTrap { cause := .access, val := xb, val2 := 3#64 } false s) ∧
       ((s.rx a).toNat % 128 = 0 → s.scratchRun (s.rx a).toNat 16 = true →
         ((∀ w e, s.h.wait = some w → w.kind ≠ .wqpost e) →
           exec (.wqpost d a b) s = .next { s with h := { s.h with wait := some { kind := .wqpost d, since := s.time } } }) ∧
         (∀ w e, s.h.wait = some w → w.kind = .wqpost e →
           ∃ t, exec (.wqpost d a b) s = .next t ∧ t.h.sb = [] ∧ t.mem = s.drain.mem ∧ t.h.pc = s.h.pc + 4#64))) ∧
     (∀ q : Queue, (q.launches.filter fun l => !l.finished).length < 512 →
       let v := s.queueStatus q
       v % 2 ^ 9 = (q.launches.filter fun l => !l.finished).length ∧ v / 2 ^ 12 % 8 = q.pc.toNat ∧
         v / 2 ^ 15 % 2 = (if q.aged then 1 else 0) ∧ v / 2 ^ 16 % 256 = q.wt.toNat) ∧
     ∀ i ∈ [Instr.wqpost d a b, .wqstat d a b],
       (2 ^ 23 ≤ xb.toNat → exec i s = .next (takeTrap { cause := .access, val := xb, val2 := 1#64 } false s)) ∧
       (xb.toNat < 2 ^ 23 → here → s.mayPost qn = false →
         exec i s = .next (takeTrap { cause := .access, val := xb, val2 := 2#64 } false s))) ∧
    (∀ since, s.h.wait = some { kind := .wqpost d, since := since } → s.h.wtmo ≠ 0#64 → since + s.h.wtmo.toNat < s.time →
      exec .wqpostTimeout s = .next (s.put d 0x80000000000000FF#64))

/-- Launches start in turn, groups start whole on one cluster with the registers of R93, and ageing, reservations,
preloads, budgets and slices act. Derived from 16_launch R338 to R341, R343, R344, 17_traps R360, 18_partitions
R376, 05_control R93. For a queue: its oldest launch that has not begun begins where its turn has come and its
dependences hold; a GANG launch that fits whole and is served first starts with all its tasks. Its next group, where
a cluster fits and the queue is served first, adds one task for each of its members, resident on distinct free cores
of that cluster, with PROG, ARGS, the aperture, COMPL and the stack top in the start registers, and a preload of
that group is discarded; parked tasks of a group resume together, and where one of them cannot be loaded none does
and the queue has spent its turn; a rerun group restarts in its place. A wait of more than 10 ms raises it, and ends
where nothing is startable; a group at the highest priority of its subpartition that has been passed over for 10 ms,
or a rerun group, and that fits nowhere gets the cluster reserved for it that could hold it. A busy core takes as
its preload the next one-task group that has room nowhere now; the queues stay as they are: one has dispatched a
preloaded task only when it starts. Where ageing ends and how a reservation is made (log 35), what a preload may be
(log 50), and the agent that gets the record of an expired budget (log 21) are the model's choices. An expired
budget with a slot pre-empts the task and tells S 0x1C (where a save meets no fault in the context region; with one
the task runs on, log 33), with none it tells P event 8; the end of a slice saves the tasks of the cluster; that of
an idle cluster only moves the turn, and one without a slot tells P. -/
def Obligations.HeadgatePlacesWork : Prop :=
  ∀ (s : State) (n : BitVec 12) (cluster core : Nat),
    (∀ q, s.queue? n.toNat = some q →
      (∀ l, (q.launches.find? fun l => !l.begun) = some l → s.queueOpen q = true → q.turnOf l = true →
        s.depsHold l.packet = true → pkGang l.packet = false →
        exec (.launchStart n) s = .next ((s.mapLaunch q.num l.num fun l => { l with begun := true }).mapQueue q.num fun q =>
          { q with since := some (q.since.getD s.time) })) ∧
      (∀ l u, (q.launches.find? fun l => !l.begun) = some l → s.queueOpen q = true → q.turnOf l = true →
        s.depsHold l.packet = true → pkGang l.packet = true → s.gangFits q l = true → s.served q (effPrio q l) = true →
        placeGang q l (groupCount l.packet) 0 ((s.passOver q).takeTurns q (effPrio q l)) = some u →
        ∃ t, exec (.launchStart n) s = .next t ∧ t.tasks = u.tasks) ∧
      (∀ uids c, s.item q = some (.resume uids) → s.itemCluster q (.resume uids) = some c →
        s.served q (s.itemRank q (.resume uids)) = true →
        let k := s.itemKey q (.resume uids)
        let m := ((s.passOver q).takeTurns q (s.itemRank q (.resume uids))).unpreload k
        (∀ u, resumeAll uids c m = some u → exec (.groupDispatch n) s = .next (u.afterDispatch q k uids.length)) ∧
        (resumeAll uids c m = none →
          exec (.groupDispatch n) s = .next (m.mapQueue q.num fun p => { p with deficit := p.deficit - uids.length }))) ∧
      (∀ l uids c, s.item q = some (.rerun l uids) → s.itemCluster q (.rerun l uids) = some c →
        s.served q (s.itemRank q (.rerun l uids)) = true →
        let k := s.itemKey q (.rerun l uids)
        exec (.groupDispatch n) s =
          .next (((((s.passOver q).takeTurns q (s.itemRank q (.rerun l uids))).unpreload k).restart q l c uids).afterDispatch q k
            uids.length)) ∧
      (∀ l g c, s.item q = some (.group l g) → s.itemCluster q (.group l g) = some c →
        s.served q (s.itemRank q (.group l g)) = true →
        let v := s.unpreload (some (q.num, l.num, g))
        ∃ t new, exec (.groupDispatch n) s = .next t ∧ t.tasks = v.tasks ++ new ∧ new.length = groupSize l.packet ∧
          t.mem = s.mem ∧ ∀ k ∈ new, k.home = c ∧ k.launch = l.num ∧ k.sub = q.sub ∧ k.packet = l.packet ∧
            (∃ x ∈ v.freeCores c, k.run = .resident x) ∧
            ∃ h, k.harts = [h] ∧ h.pc = BitVec.ofNat 64 (pkProg l.packet) ∧ h.rx 2#7 = BitVec.ofNat 64 (pkArgs l.packet) ∧
              h.rx 3#7 = BitVec.ofNat 64 k.aperture ∧ h.rx 4#7 = BitVec.ofNat 64 (pkCompl l.packet) ∧ h.rx 1#7 = 0#64 ∧
              h.rx 127#7 = (if pkScrb l.packet = 0 then 0#64 else BitVec.ofNat 64 ((k.aperture + pkScrb l.packet) / 16 * 16))) ∧
      (∀ since, q.since = some since → s.startable q = false →
        ∃ t, exec (.priorityAgeing n) s = .next t ∧ t.queue? n.toNat = some { q with since := none }) ∧
      (∀ since, q.since = some since → s.startable q = true → since + 10000000 < s.time →
        ∃ t, exec (.priorityAgeing n) s = .next t ∧ t.queue? n.toNat = some { q with aged := true }) ∧
      (∀ l g c since, s.item q = some (.group l g) → s.itemRank q (.group l g) = s.topPrio q.sub → q.passed = some ((q.num, l.num, g), since) →
        since + 10000000 ≤ s.time →
        s.itemCluster q (.group l g) = none → (∀ k ∈ s.allClusters, k.reservedFor ≠ some (q.num, l.num, g)) →
        s.couldHold q (.group l g) = some c →
        exec (.groupReservation n) s = .next (s.mapCluster c fun k => { k with reservedFor := some (q.num, l.num, g) })) ∧
      (∀ l uids c key, s.item q = some (.rerun l uids) → s.itemCluster q (.rerun l uids) = none →
        s.itemKey q (.rerun l uids) = some key →
        (∀ k ∈ s.allClusters, k.reservedFor ≠ some key) → s.couldHold q (.rerun l uids) = some c →
        exec (.groupReservation n) s = .next (s.mapCluster c fun k => { k with reservedFor := some key }))) ∧
    (∀ k q l g, ((s.tasksOf cluster).filter fun t => t.onCore = some core) = [k] → k.run ≠ .preloaded core →
      s.preloadChoice cluster core = some (q, .group l g) → groupSize l.packet = 1 →
      ∃ t x, exec (.preload cluster core) s = .next t ∧ t.tasks = s.tasks ++ [x] ∧ t.queues = s.queues ∧ x.run = .preloaded core ∧
        x.home = cluster ∧ x.launch = l.num) ∧
    (s.who = .user → pkBudget s.t.packet ≠ 0 → s.t.since + pkBudget s.t.packet ≤ s.time → s.t.onCore ≠ none →
      (s.slotFor s.t = none → exec .budgetExpiry s = .next (s.lackSlot s.t.sub)) ∧
      ∀ i, s.slotFor s.t = some i →
        match preemptTask s.t.uid i s.packed with
        | .ok (_, p) => ∃ r, exec .budgetExpiry s = .next (p.toS s.cl.num r) ∧ r.cause = 0x1C#8 ∧ r.task = some s.t.uid ∧
            r.val = (s.t.queue ++ BitVec.ofNat 32 s.t.ord).setWidth 64
        | .error _ => exec .budgetExpiry s = .next s) ∧
    (s.tasksOf cluster = [] → (∀ k ∈ (s.packed.withCluster cluster).cl.cores.toList, k.owner = none) →
      exec (.timeSliceEnd cluster) s = .next (s.refocus (s.packed.withCluster cluster)).settleFocus) ∧
    (let incoming := (s.allClusters.find? fun c => c.num = cluster).bind (·.sub)
     (∀ q, (s.dropPreloads cluster incoming).preemptCluster cluster = .inl q →
       exec (.timeSliceEnd cluster) s = .next (s.refocus q).settleFocus) ∧
     ∀ sub, (s.dropPreloads cluster incoming).preemptCluster cluster = .inr sub →
       exec (.timeSliceEnd cluster) s = .next (s.eventP ((s.partOfSub sub).getD 16) 8 sub))

/-- pgrant, prevoke, pdeleg and pquery trap in user mode and on bad operands, and give or take what R368 says with its
status. Derived from 18_partitions R365 to R369, 03_words R69. At U each traps 0x19, with TRAPVAL2 = 0 (the model's
choice, log 19); with operands that R367 refuses each traps 0x07 with reason 8. At a higher level changes go on one
at a time in the order in which they arrive (R369): a pgrant, prevoke or pdeleg that is not first in the line of
changes waits (how the line is kept, log 58). First in the line: pgrant of an amount that the acting holder may
delegate moves COUNT from it to HOLDER, with the rights; pgrant of GROUPTAG values that the acting holder holds with
delegate adds the grant and answers 0; with items not held it answers 2, without delegate 1, and changes nothing but
xd; prevoke of GROUPTAG values leaves HOLDER no grant or delegation of the acting holder on them, and prevoke of an
amount that HOLDER and those below it have free moves COUNT back; pdeleg adds a delegation of use and manage only;
pquery writes the rights of HOLDER on item FIRST and whether it holds it, and changes nothing else. That status 2
comes before 1 and that an amount's rights are a grant of item 0 with count 1 are the model's choices (log 58).
Grants of items other than GROUPTAG values and amounts are not stated here. -/
def Obligations.RightsAreGrantedAndTaken : Prop :=
  ∀ (s : State) (d a b : Reg),
    let r := itemsOf (s.rx a)
    let n := bitsOf (s.rx b).toNat 5 0
    let rights : BitVec 3 := (s.rx b >>> 6).setWidth 3
    let all := [Instr.pgrant d a b, .prevoke d a b, .pdeleg d a b, .pquery d a b]
    (s.level = .u → ∀ i ∈ all, exec i s = .next (takeTrap { cause := .privilege, val := wordVal i } false s)) ∧
    (s.level ≠ .u → operandsOk (s.rx a) (s.rx b) = false →
      ∀ i ∈ all, exec i s = .next (takeTrap { cause := .access, val := s.rx a, val2 := 8#64 } false s)) ∧
    (s.level ≠ .u → operandsOk (s.rx a) (s.rx b) = true → s.changeLine.head? ≠ some s.changer →
      ∀ i ∈ [Instr.pgrant d a b, .prevoke d a b, .pdeleg d a b],
        exec i s = .next (({ s with changing := s.changeLine } : State).enterWait .other)) ∧
    (s.level ≠ .u → operandsOk (s.rx a) (s.rx b) = true →
      amountClass r.cls = false → ∃ v : Nat, exec (.pquery d a b) s = .next (s.put d (BitVec.ofNat 64 v)) ∧
        let h := if s.level = .o then Holder.part n else Holder.sub n
        v % 8 = (s.rightsOn h r.cls r.first).toNat ∧
        (v / 8 % 2 = 1 ↔ ∃ g ∈ s.grants, g.holder = h ∧ g.held = true ∧ g.covers r.cls r.first = true)) ∧
    (s.level ≠ .u → operandsOk (s.rx a) (s.rx b) = true → s.changeLine.head? = some s.changer →
      let done := ({ s with changing := s.changeLine } : State).changeDone s.changer
      (∀ h, amountClass r.cls = true → s.holderBelow n = some h → r.count ≤ s.amount r.cls s.acting →
        (s.amountRights r.cls s.acting).getLsbD 2 = true →
        ∃ t, exec (.pgrant d a b) s = .next t ∧ t.amount r.cls s.acting = s.amount r.cls s.acting - r.count ∧
          t.amount r.cls h = s.amount r.cls h + r.count ∧ (d ≠ 0#7 → t.rx d = 0#64) ∧
          { cls := r.cls, first := 0, count := 1, giver := s.acting, holder := h, rights := rights, held := true } ∈ t.grants) ∧
      (∀ h, r.cls = 8 → s.holderBelow n = some h → s.holdsAll s.acting r = true →
        s.givenAll s.acting r 0b100#3 = true →
        ∃ t, exec (.pgrant d a b) s = .next t ∧ (d ≠ 0#7 → t.rx d = 0#64) ∧ t.h.pc = s.h.pc + 4#64 ∧
          { cls := 8, first := r.first, count := r.count, giver := s.acting, holder := h, rights := rights, held := true } ∈ t.grants) ∧
      (amountClass r.cls = false → s.holdsAll s.acting r = false → exec (.pgrant d a b) s = .next (done.put d 2#64)) ∧
      (amountClass r.cls = false → s.holdsAll s.acting r = true → s.givenAll s.acting r 0b100#3 = false →
        exec (.pgrant d a b) s = .next (done.put d 1#64)) ∧
      (∀ h, r.cls = 8 → (s.level = .o ∧ n < 16 ∧ h = .part n ∨ s.level ≠ .o ∧ s.partOfSub n = some s.ownPart ∧ h = .sub n) →
        ∃ t, exec (.prevoke d a b) s = .next t ∧ (d ≠ 0#7 → t.rx d = 0#64) ∧ t.h.pc = s.h.pc + 4#64 ∧
          ∀ g ∈ t.grants, g.giver = s.acting → g.holder = h → g.meets r = false) ∧
      (∀ h, amountClass r.cls = true → (s.level = .o ∧ n < 16 ∧ h = .part n ∨ s.level = .p ∧ s.partOfSub n = some s.ownPart ∧ h = .sub n) →
        r.count ≤ ((s.holderTree h).map (s.amount r.cls)).sum →
        ∃ t, exec (.prevoke d a b) s = .next t ∧ (d ≠ 0#7 → t.rx d = 0#64) ∧
          t.amount r.cls s.acting = s.amount r.cls s.acting + r.count) ∧
      (s.level = .s → s.partOfSub n = some s.ownPart → amountClass r.cls = false → r.cls ≠ 0 →
        s.holdsAll s.acting r = true → s.givenAll s.acting r 0b100#3 = true →
        let g : Grant := ⟨r.cls, r.first, r.count, s.acting, .sub n, rights &&& 0b011#3, false⟩
        exec (.pdeleg d a b) s = .next (({ done with grants := s.grants ++ [g] } : State).put d 0#64)))

/-- Other devices and hosts read and write memory; failures of remote accesses trap; buffered stores commit in the order
allowed. Derived from 15_collectives R316 to R318, 01_machine R23, R27, 13_ordering R282, R286, 16_launch R335,
09_vmem R208, 05_control R99. Where no stash window holds a line: a store of 1 to 256 bytes to an OFFSET in memory
puts its bytes there and answers done; a load of bytes that are not poisoned answers them and changes no byte; an
atomic of 8 bytes answers the earlier ones; beyond memory the answer is an error. A host reaches the same memory at
partition-physical addresses that stage 3 maps. An error response, or 2 ms without one, traps 0x07 for the access
that waits, with 0x10 added to the TRAPVAL2 of R99 or R266 (0 for an element of a vector load), and holds an
asynchronous trap 0x07 with 0x11 for the oldest remote store, which leaves the buffer, with the other elements of
its line where it is one of a unit-stride vector store (15_collectives R317); where it has landed, so have they and
the stores that must go before them. With neither, an access of the task's engines fails. A buffered store that may
pass every earlier one commits, the first always; one that must not pass an earlier one (a release, a strong store,
a store to the same bytes, a later element of the same instruction, which stays behind on a page of any class: log
64) stays. Partition-physical host addresses (log 39), the error answer beyond memory (log 38), and which of the
waiting access, the oldest store and the engines an error concerns (log 27) are the model's choices. -/
def Obligations.OutsideAccessesReachMemory : Prop :=
  ∀ (s : State) (off : Nat) (bs : List Byte) (n part : Nat) (n64 : Word),
    let base := s.o.onode.toNat * 2 ^ 40
    let noLines := ∀ k ∈ s.t :: s.tasks, k.windows = []
    (noLines → 1 ≤ bs.length → bs.length ≤ 256 → off + bs.length ≤ 768 * 2 ^ 30 → Memory.wf s.mem = true →
      ∃ t, exec (.remoteRequest (.store off bs)) s = .next t ∧ t.replies = s.replies ++ [.done] ∧
        (∀ i, i < bs.length → cellGet t.mem (base + off + i) = bs.getD i 0#8) ∧
        ∀ pa, (pa < base + off ∨ base + off + bs.length ≤ pa) → cellGet t.mem pa = cellGet s.mem pa) ∧
    (noLines → 1 ≤ n → n ≤ 256 → off + n ≤ 768 * 2 ^ 30 → (∀ i, i < n → s.poisoned (base + off + i) = false) →
      ∃ t, exec (.remoteRequest (.load off n)) s = .next t ∧ t.replies = s.replies ++ [.data (cellsGet s.mem (base + off) n)] ∧
        t.mem = s.mem) ∧
    (768 * 2 ^ 30 < off + n → off + n ≤ 0xFF00000000 →
      exec (.remoteRequest (.load off n)) s = .next { s with replies := s.replies ++ [.error] }) ∧
    (∀ pa, noLines → 1 ≤ n → n ≤ 256 → s.stage3 part none off .load 0 = .ok pa →
      s.stage3 part none (off + n - 1) .load 0 = .ok (pa + (n - 1)) → s.isLocal pa = true → s.aliasOf part off = none →
      (∀ i, i < n → s.poisoned (pa + i) = false) →
      ∃ t, exec (.ueWindowAccess part (.load off n)) s = .next t ∧ t.replies = s.replies ++ [.data (cellsGet s.mem pa n)] ∧
        t.mem = s.mem) ∧
    (∀ pa op k, remoteSpan op = (off, k) → s.stage3 part none off (remoteKind op) 0 = .ok pa →
      s.stage3 part none (off + k - 1) (remoteKind op) 0 = .ok (pa + (k - 1)) → s.isLocal pa = true → s.aliasOf part off = none →
      exec (.ueWindowAccess part op) s =
        .next { (s.performRemote pa op).2 with replies := (s.performRemote pa op).2.replies ++ [(s.performRemote pa op).1] }) ∧
    (∀ op x, noLines → off + 8 ≤ 768 * 2 ^ 30 → off % 8 = 0 → op.toNat ≤ 9 →
      (∀ i, i < 8 → s.poisoned (base + off + i) = false) →
      ∃ t, exec (.remoteRequest (.atomic off op true x n64)) s = .next t ∧
        t.replies = s.replies ++ [.data (cellsGet s.mem (base + off) 8)]) ∧
    (∀ va v since, s.h.wait = some { kind := .remote va v, since := since } →
      let fails := takeTrap { cause := .access, val := va, val2 := (if s.h.flight.isSome then 0#64 else v) + 0x10#64 } false s
      (since ≤ s.time → exec .remoteErrorResponse s = .next fails) ∧
      (since + 2000000 ≤ s.time → exec .remoteAccessTimeout s = .next fails) ∧
      (s.time < since + 2000000 → exec .remoteAccessTimeout s = .next s)) ∧
    (∀ e, s.h.wait = none → (s.h.sb.find? fun e => !s.isLocal e.pa) = some e →
      let m := if Config.remoteLanded s.time then s.drainWhere fun x => x == e || e.together x else s
      ∀ i ∈ [Instr.remoteErrorResponse, .remoteAccessTimeout], ∃ t, exec i s = .next t ∧ t.h.sb = (m.h.sb.erase e).filter (fun x => !e.together x) ∧
        t.h.held = s.h.held ++ [{ cause := .access, val := e.va, val2 := 0x11#64 }] ∧ t.h.pc = s.h.pc ∧ t.mem = m.mem) ∧
    (s.h.wait = none → (s.h.sb.find? fun e => !s.isLocal e.pa) = none →
      ∀ i ∈ [Instr.remoteErrorResponse, .remoteAccessTimeout], exec i s = .next (if s.who = .user then s.engineFails else s)) ∧
    (∀ e k, s.h.sb[k]? = some e → (∀ x ∈ s.h.sb.take k, e.mayPass x = true) →
      ∃ t, exec (.storeCommit k) s = .next t ∧ t.h.sb = s.h.sb.eraseIdx k ∧ t.h.pc = s.h.pc ∧ t.mem = (s.commitEntry e).mem) ∧
    (∀ e rest, s.h.sb = e :: rest → ∃ t, exec (.storeCommit 0) s = .next t ∧ t.h.sb = rest ∧ t.h.pc = s.h.pc ∧
      t.mem = (s.commitEntry e).mem) ∧
    (∀ e x rest, s.h.sb = x :: e :: rest →
      ((e.rel = true ∧ x.ord ≠ .unordered) ∨ (e.ord = .strong ∧ x.ord = .strong) ∨
        (((e.ord ≠ .unordered ∧ x.ord ≠ .unordered) ∨ (e.insn ≠ 0 ∧ e.insn = x.insn)) ∧ overlaps e.pa e.cells.length x.pa x.cells.length = true)) →
      exec (.storeCommit 1) s = .next s)

/-- Fences take a chiplet out of service, power on gives the state of bring-up, and throttling, soft errors, link
failures and migrations act. Derived from 18_partitions R378, R380, R382, 01_machine R15, R22, R24, 13_ordering
R292, 15_collectives R331. Each of the five causes fences a chiplet below 8 that is in service: its clusters are out
of service, held by none, with empty bolts and mailboxes, it is counted as degraded, and O gets events 6 and 7. A
fenced chiplet can be reset. Power on with no failed chiplet gives the reset state with its node. The throttle keeps
the clock within 1,200 and 2,100 MHz, lowers it above the limit, and changes nothing else. A soft error that is
corrected is counted; one that is not poisons its line, marks its 32-byte word, or sets its swatch's poison. A link
failure tells O event 2, makes the engines compute again what is not acknowledged, and ends the commands of a group
that has lost a member. A page moves whole where nothing pins it, no command covers it and no stage-2 leaf leads to
either place; while a page table that leads there cannot be read whole, none moves. A migration at once and only
there (log 56), a fence as one event (log 57) and what is computed again after a link failure (log 85) are the
model's choices. -/
def Obligations.DeviceEventsAct : Prop :=
  ∀ (s : State) (ch cluster port watts src dst : Nat) (node : BitVec 10) (addr : Nat),
    (ch < 8 → ch ∉ s.degraded → cluster / 4 = ch →
      ∀ i ∈ [Instr.theigLinkFailure ch, .watchdogExpiry ch, .serviceCoreSoftError cluster, .fenceCommand ch,
          .sramSoftError (.serviceCore cluster)],
        ∃ t pre k, exec i s = .next t ∧ ch ∈ t.degraded ∧ t.oqueue = pre ++ [eventRec 6 ch, eventRec 7 k] ∧
          ∀ c ∈ t.allClusters, c.num / 4 = ch → c.service = false ∧ c.sub = none ∧ c.bolt = [] ∧ c.mail = []) ∧
    (ch ∈ s.degraded → ∃ t, exec (.chipletReset ch) s = .next t ∧ t.degraded = s.degraded ∧ t.mem = s.mem ∧
      ∀ c ∈ t.allClusters, c.num / 4 = ch → c.service = false ∧ c.sub = none ∧ c.bolt = []) ∧
    exec (.powerOn node []) s = .next { State.reset with agenda := s.agenda, o := { State.reset.o with onode := node } } ∧
    (∃ m, exec (.powerThrottle watts) s = .next { s with mhz := m } ∧
      (1200 ≤ s.mhz → s.mhz ≤ 2100 → 1200 ≤ m ∧ m ≤ 2100 ∧
        (s.o.oplim.toNat < watts → m = max 1200 (s.mhz - 100)) ∧ (watts ≤ s.o.oplim.toNat → m = min 2100 (s.mhz + 100)))) ∧
    (∃ t, exec (.sramSoftError (.line addr)) s = .next t ∧ t.mem = s.mem ∧ ∀ x, x / 256 = addr / 256 → t.poisoned x = true) ∧
    exec (.sramSoftError .corrected) s = .next { s with corrected := s.corrected + 1 } ∧
    (∃ t, exec (.sramSoftError (.word32 addr)) s = .next t ∧ t.mem = s.mem ∧ ∀ x, x / 32 = addr / 32 → t.poisoned x = true) ∧
    (∃ t, exec (.sramSoftError (.swatch s.cl.num addr)) s = .next t ∧ ∀ w ∈ t.cl.bolt, w.idx = addr → w.poison = true) ∧
    (s.who = .user → addr < s.t.scrb → ∃ t, exec (.sramSoftError (.scratchLine addr)) s = .next t ∧ t.mem = s.mem ∧
      { idx := addr / 256, written := [] } ∈ t.t.scrPoison) ∧
    (∃ t, exec (.linkFailure port none) s = .next t ∧ t.oqueue = s.oqueue ++ [eventRec 2 port] ∧ t.mem = s.mem ∧
      t.tasks = s.tasks.map fun k => { k with coll := k.coll.map CollCtx.reform }) ∧
    (∃ t, exec (.linkFailure port (some addr)) s = .next t ∧ t.oqueue = s.oqueue ++ [eventRec 2 port] ∧ t.mem = s.mem ∧
      ∀ k ∈ t.tasks, ∀ x ∈ k.coll.toList, x.hasNode addr = true → ∀ m ∈ x.cmds, m.ran = true) ∧
    ((∀ k ∈ s.allTasks, k.windows = []) → s.allEntries = none → exec (.pageMigration src dst false) s = .next s) ∧
    (∀ es, s.allEntries = some es → Memory.wf s.mem = true → s.isLocal src = true → s.isLocal dst = true → src % 65536 = 0 → dst % 65536 = 0 → src ≠ dst →
      src % 2 ^ 40 + 65536 ≤ 768 * 2 ^ 30 → dst % 2 ^ 40 + 65536 ≤ 768 * 2 ^ 30 →
      (∀ k ∈ s.allTasks, k.windows = []) →
      s.commandCovers none (fun pa => overlaps pa 65536 src 65536 || overlaps pa 65536 dst 65536) = false →
      s.vectorPins none (fun pa => overlaps pa 65536 src 65536 || overlaps pa 65536 dst 65536) = false →
      (∀ l ∈ es, bitOf l.2.2.2 1 = true → ∀ pa, s.leafTarget l = some pa →
        overlaps pa (leafLen l) src 65536 = false ∧ overlaps pa (leafLen l) dst 65536 = false) →
      ∃ t, exec (.pageMigration src dst false) s = .next t ∧
        (∀ i, i < 65536 → cellGet t.mem (dst + i) = cellGet s.mem (src + i)) ∧
        ∀ pa, (pa < dst ∨ dst + 65536 ≤ pa) → cellGet t.mem pa = cellGet s.mem pa)

/-- No access of a task or of supervisor code reaches memory of this node whose granule its partition or subpartition
may not use. Derived from 18_partitions R364, R366, R370 to R374. For every state, address and kind of access: where
a translation at level U or S succeeds with an address of this node, the partition has been given use of the granule
and the subpartition has use of it; at level P the partition has been given use. That the right of the partition is
what the owner gave it, whether or not it has granted the granule on, is the model's choice (log 24). (A page that a
vector instruction part-way has pinned stays as it was found, 09_vmem R205, and is left out.) A translation of a
user access beyond 2^55 fails with cause 0x04. -/
def Obligations.AccessesNeedTheGranule : Prop :=
  ∀ (s : State) (va : Nat) (k : Acc) (x : Xlat),
    (s.translate va k = .ok x → s.isLocal x.pa = true →
      (s.level = .u → s.h.pinned va k = none → s.partUse s.t.part 1 (granuleOf x.pa) = true ∧ s.hasUse (.sub s.t.sub) 1 (granuleOf x.pa) = true) ∧
      (s.level = .s → s.partUse s.ownPart 1 (granuleOf x.pa) = true ∧ s.hasUse (.sub s.ownSub) 1 (granuleOf x.pa) = true) ∧
      (s.level = .p → s.partUse s.ownPart 1 (granuleOf x.pa) = true)) ∧
    (s.level = .u → s.h.pinned va k = none → 2 ^ 55 ≤ va → s.translate va k = .error { cause := .page1 })

/-- A step in which the agent with the turn issues runs exactly the instruction that its word decodes to, one nanosecond
later. Derived from 03_words R53, R68, 17_traps R403, 13_ordering R293. With an empty agenda and the turn at an
agent that can issue, with no due asynchronous trap, expired budget, wait at its limit, comparison result, repeat
prefix or instruction under way: where the fetch at the program counter gives a word, the step is the effect of the
instruction that the word decodes to on the state that the fetch leaves, TIME one higher, followed by the choice of
who is next (the agenda and that choice are the model's, log 1; the nanosecond is, log 2); a word that decodes to
nothing traps 0x01 with the word, and with TRAPVAL2 = 0 (the model's choice, log 19). -/
def Obligations.StepRunsTheDecodedInstruction : Prop :=
  ∀ (s : State) (w : IWord) (u : State),
    let m : State := { s with time := s.time + 1 }
    s.agenda = [] → s.slot = .hart → m.canIssue = true → (s.who ≠ .user ∨ s.h.due = none) → m.budgetDue = false →
    m.limit.isNone = true → s.h.mirror = .agree → s.h.rep = none → s.h.flight = none →
    fetchAt s.h.pc.toNat m = .ok (w, u) →
    (∀ i, decode w = .ok i → step s = Out.map State.afterTurn (exec i u)) ∧
    (∀ e, decode w = .error e →
      step s = .next (takeTrap { cause := .illegal, val := w.setWidth 64 } false u).afterTurn)

/-- Words written out from the tables of the manual decode to the instructions they stand for. Derived from 03_words
R54, R55, R61 to R64, 05_control R97, R98, R100 to R103, 07_vector R153. One word of each family and format: scalar
arithmetic, constants, a load, a branch back, jumps, ret (0x3A00_0002), a register write, wid, nop, vsetl, rep,
chains, a masked scalar vadd, vcvt, a fold, vector memory, the matrix queue, Flume, an atomic, fence, a barrier, a
timeline, a Weir and a collective command, trap, sret and pgrant; and the words of all zeros and of all ones decode
to nothing. -/
def Obligations.SomeWordsDecode : Prop :=
  decode 0x02304140#32 = .ok (.add 12#7 8#7 20#7) ∧
  decode 0x02041031#32 = .ok (.sub 1#7 2#7 3#7) ∧
  decode 0x0617FFFF#32 = .ok (.addi 5#7 127#7 0x7FF#11) ∧
  decode 0x1426A5A5#32 = .ok (.lhi 9#7 0x2A5A5#18) ∧
  decode 0x181C37FE#32 = .ok (.ldd 7#7 6#7 0x7FE#11) ∧
  decode 0x280C27FC#32 = .ok (.beq 3#7 4#7 0x7FC#11) ∧
  decode 0x37FFFFFD#32 = .ok (.jmp 0x1FFFFFD#25) ∧
  decode 0x3A000002#32 = .ok (.ret) ∧
  decode 0x3E280105#32 = .ok (.sput 10#7 0x105#11) ∧
  decode 0x40282813#32 = .ok (.wid 10#7 5#3 1#2) ∧
  decode 0x40000004#32 = .ok (.nop) ∧
  decode 0x42285850#32 = .ok (.vsetl 10#7 11#7 .b32 .e4m3) ∧
  decode 0x443D6000#32 = .ok (.rep 7#6 true false true 3#3) ∧
  decode 0x5004114A#32 = .ok (.cretype 1#7 2#7 .f32) ∧
  decode 0x500C2053#32 = .ok (.cseam 3#7 4#7 5#7) ∧
  decode 0x5404103C#32 = .ok (.vadd true true 1#7 2#7 3#7) ∧
  decode 0x6A041136#32 = .ok (.vcvt false true .rdn 1#7 2#7 .bf16) ∧
  decode 0x80143008#32 = .ok (.vredsum true 5#7 6#7) ∧
  decode 0x8C041039#32 = .ok (.vlds true false 1#7 2#7 3#7) ∧
  decode 0xA208206A#32 = .ok (.mmaf true false true 2#2 4#7 6#7) ∧
  decode 0xB0581840#32 = .ok (.fsetl 2#2 5#3 3#7 4#7) ∧
  decode 0xB1901842#32 = .ok (.fgov 100#7 3#2 4#7) ∧
  decode 0xB8041030#32 = .ok (.amoadd 1#7 2#7 3#7) ∧
  decode 0xC00001D4#32 = .ok (.fence .domain 10#4 3#4) ∧
  decode 0xC2041034#32 = .ok (.bwaitd 1#7 2#7 3#7) ∧
  decode 0xC4044032#32 = .ok (.twait 1#7 8#4 3#7) ∧
  decode 0xC8044802#32 = .ok (.ncmd 1#1 9#7) ∧
  decode 0xD0044801#32 = .ok (.kred 1#1 9#7) ∧
  decode 0xD8026800#32 = .ok (.trap 77#7) ∧
  decode 0xD8001843#32 = .ok (.sret 3#7 4#7) ∧
  decode 0xDA041030#32 = .ok (.pgrant 1#7 2#7 3#7) ∧
  (∃ e, decode 0x00000000#32 = .error e) ∧
  (∃ e, decode 0xFFFFFFFF#32 = .error e)

/-- Every well-formed instruction has one word, decoding the word gives it back, and every word that decodes is the word
of what it decodes to. Derived from 03_words R54 to R57, R61 to R68, 02_numbers R29, R30, 05_control R109. For every
instruction that is no event and is well formed, there is a word, and the decoder reads that instruction from it
with every operand; and every word that decodes does so to a well-formed instruction whose word it is. So no bit of
an encoding is dropped, and no two words have one meaning. -/
def Obligations.DecodeAndEncodeAgree : Prop :=
  (∀ i : Instr, i.isEvent = false → i.wellFormed = true → ∃ w, encode i = some w ∧ decode w = .ok i) ∧
  ∀ (w : IWord) (i : Instr), decode w = .ok i → i.isEvent = false ∧ i.wellFormed = true ∧ encode i = some w

/-- Every step keeps memory and the scratch of every task in canonical form. Derived from 01_machine R7, R23, 09_vmem
R198, 18_partitions R382. For every state whose memory and scratch memories list rising addresses and no byte that
an unlisted address reads as, the next state of a step, whatever instruction, event or move it is, has them so
again. The form is the model's choice of representation; what it says of the hardware is that every byte has one
value. -/
def Obligations.StepKeepsTheMemories : Prop :=
  ∀ s t : State, s.memoriesWf → step s = .next t → t.memoriesWf

/-- Reset is the device after bring-up: memory zero, every cluster in service and held by none, no task, no grant,
registers at their reset values. Derived from 18_partitions R366, R377, R382, 01_machine R9, R15, 03_words R72. At
reset memory and scratch are in canonical form and every byte of memory reads as zero; there is no task, queue,
grant, event or agenda; the 32 clusters 0 to 31 are in service, held by none, with an empty bolt whose 32,768
swatches are free; ONODE and OSTAT are 0 and OPLIM is 2,500. A hart's registers that the manual gives a reset value
have it: FFLAGS 0, FRM RNE, DTEMP 0x3FB8AA3B, LLTHR 0x00100000, LGMASK 0xFF, FEX all ones. That every address reads
as zero, those of other nodes among them (log 6), and that the free swatches stand as one range (log 4) are the
model's choices. -/
def Obligations.ResetIsBringUp : Prop :=
  State.reset.memoriesWf ∧ (∀ pa, cellGet State.reset.mem pa = 0#8) ∧ State.reset.tasks = [] ∧ State.reset.queues = [] ∧
    State.reset.grants = [] ∧ State.reset.oqueue = [] ∧ State.reset.agenda = [] ∧ State.reset.poison = [] ∧
    State.reset.allClusters.map Cluster.num = List.range 32 ∧
    (∀ c ∈ State.reset.allClusters, c.service = true ∧ c.sub = none ∧ c.bolt = [] ∧ c.free = [(0, 32768)]) ∧
    State.reset.o.onode = 0#10 ∧ State.reset.o.ostat = 0#8 ∧ State.reset.o.oplim = 2500#12 ∧
    State.reset.h.fflags = 0#9 ∧ State.reset.h.frm = .rne ∧ State.reset.h.dtemp = 0x3FB8AA3B#32 ∧
    State.reset.h.llthr = 0x00100000#32 ∧ State.reset.h.lgmask = 0xFF#8 ∧ ∀ i : Fin 9, State.reset.h.fex.get i = 0xFFFFFFFF#32

end
end

