-- ==== Sys2Proof/Laws/Bolt.lean ====
section
/-! SUPPORT. What the operations on names and versions do (06_chains R119, R124, 05_control R108). -/

namespace Sys2Proof.Machine

/-! ### VERSION -/

/-- One more retirement of any hart is one more version in all. -/
theorem addCount_sum (h : Nat) : ∀ l : List (Nat × Nat), ((addCount h l).map (·.2)).sum = (l.map (·.2)).sum + 1
  | [] => rfl
  | (j, n) :: r => by
    unfold addCount
    split
    · simp; omega
    · simp [addCount_sum h r]; omega

/-- A retirement adds 1 to VERSION (R124, step 4). -/
theorem version_addCount (e f : Entry) (h : Nat) (hc : f.counts = addCount h e.counts) : f.version = e.version + 1#16 := by
  unfold Entry.version
  rw [hc, addCount_sum]
  exact BitVec.ofNat_add _ _

/-- A view joined with itself has seen nothing more. -/
@[simp] theorem joinCounts_nil (a : List (Nat × Nat)) : joinCounts a [] = a := rfl

/-! ### Two views of one name -/

@[simp] theorem laterEntry_counts (a b : Entry) : (laterEntry a b).counts = joinCounts a.counts b.counts := rfl

/-- What has not retired comes later than what has. -/
theorem before_of_retired {a b : Entry} (ha : a.behind = []) (hb : b.behind ≠ []) : a.before b = true := by
  have h : b.behind.isEmpty = false := by simpa using hb
  simp [Entry.before, ha, h]

/-- Of two that have retired the one with the larger stamp is the later. -/
theorem before_retired {a b : Entry} (ha : a.behind = []) (hb : b.behind = []) : a.before b = decide (a.stamp < b.stamp) := by
  simp [Entry.before, ha, hb]

/-- But for VERSION and what it retires behind the later version is one of the two. -/
theorem laterEntry_eq (a b : Entry) :
    laterEntry a b = { b with counts := joinCounts a.counts b.counts, behind := joinBehind b.behind a.behind } ∧ a.before b = true ∨
    laterEntry a b = { a with counts := joinCounts a.counts b.counts, behind := joinBehind a.behind b.behind } ∧ a.before b = false := by
  unfold laterEntry
  cases h : a.before b
  · right; simp
  · left; simp

/-- What has retired stays so. -/
@[simp] theorem joinBehind_nil (b : List Nat) : joinBehind [] b = [] := rfl

/-- What has not retired waits for all that either waits for. -/
theorem mem_joinBehind {a b : List Nat} (ha : a ≠ []) {i : Nat} : i ∈ joinBehind a b ↔ i ∈ a ∨ i ∈ b := by
  have h : a.isEmpty = false := by simpa using ha
  simp only [joinBehind, h, Bool.false_eq_true, ↓reduceIte, List.mem_append, List.mem_filter, Bool.not_eq_eq_eq_not, Bool.not_true,
    decide_eq_false_iff_not]
  tauto

/-! ### Retirement (R124) -/

/-- A version that has retired or is gone is waited for no more. -/
@[simp] theorem unblock_behind (v : Entry) (id d : Nat) : id ∉ (v.unblock id d).behind := by
  unfold Entry.unblock
  split
  · simp
  · assumption

/-- What did not wait for a version is not touched by its retirement. -/
theorem retired_of_not_mem (v : Entry) (h : BitVec 3) (k j id d : Nat) (hv : id ∉ v.behind) : v.retired h k j id d = v := by
  simp [Entry.retired, hv]

/-- VERSION of name `k` counts the retirement for every entry there that waited for it (R119). -/
theorem retired_version (v : Entry) (h : BitVec 3) (k id d : Nat) (hv : id ∈ v.behind) :
    (v.retired h k k id d).version = v.version + 1#16 :=
  version_addCount v _ h.toNat (by simp [Entry.retired, hv])

/-- What nothing is ahead of releases the superseded version at once. -/
@[simp] theorem dropLater_nil (s : State) (k : Nat) (old : Entry) : s.dropLater [] k old = s.dropVersion k old := by
  simp [State.dropLater]

/-! ### The table of names -/

@[simp] theorem setName_who (s : State) (k : Nat) (e : Entry) : (s.setName k e).who = s.who := rfl
@[simp] theorem setName_t (s : State) (k : Nat) (e : Entry) : (s.setName k e).t = s.t := rfl
@[simp] theorem setName_cl (s : State) (k : Nat) (e : Entry) : (s.setName k e).cl = s.cl := rfl
@[simp] theorem setName_mem (s : State) (k : Nat) (e : Entry) : (s.setName k e).mem = s.mem := rfl
@[simp] theorem setName_h_pc (s : State) (k : Nat) (e : Entry) : (s.setName k e).h.pc = s.h.pc := rfl
@[simp] theorem setName_h_x (s : State) (k : Nat) (e : Entry) : (s.setName k e).h.x = s.h.x := rfl

/-- The entry written is the one read. -/
theorem entryIn_setEntry (e : Entry) (k : Nat) : ∀ l : List (Nat × Entry), entryIn (setEntry l k e) k = e
  | [] => by simp [setEntry, entryIn]
  | (i, f) :: r => by
    unfold setEntry
    split
    · simp [entryIn]
    · split
      · simp [entryIn]
      · rename_i hne _
        have := entryIn_setEntry e k r
        unfold entryIn at this ⊢
        simpa [List.find?_cons, show ¬ i = k from fun x => hne x.symm] using this

/-- Every other entry stays. -/
theorem entryIn_setEntry_ne (e : Entry) {k j : Nat} (hj : j ≠ k) : ∀ l : List (Nat × Entry), entryIn (setEntry l k e) j = entryIn l j
  | [] => by simp [setEntry, entryIn, hj.symm]
  | (i, f) :: r => by
    unfold setEntry
    split
    · rename_i h; subst h; simp [entryIn, hj.symm]
    · split
      · simp [entryIn, hj.symm]
      · have := entryIn_setEntry_ne e hj r
        unfold entryIn at this ⊢
        by_cases h : i = j
        · simp [h]
        · simpa [List.find?_cons, h] using this

@[simp] theorem setName_entry (s : State) (k : Nat) (e : Entry) : (s.setName k e).entry k = e := entryIn_setEntry e k _

theorem setName_entry_ne (s : State) {k j : Nat} (e : Entry) (h : j ≠ k) : (s.setName k e).entry j = s.entry j :=
  entryIn_setEntry_ne e h _

end Sys2Proof.Machine
end

