-- ==== Sys2Proof/Laws/Memory.lean ====
section
/-! SUPPORT. Byte memories: reading after writing, and that every operation on a memory keeps its canonical form. -/

namespace Sys2Proof.Machine

/-! ### The canonical form -/

/-- A memory that starts higher also starts lower. -/
theorem cellsWf_mono {lo lo' : Nat} {m : List Host.Cell} (h : lo' ≤ lo) (hm : cellsWf lo m = true) : cellsWf lo' m = true := by
  cases m with
  | nil => rfl
  | cons c r =>
    obtain ⟨a, v⟩ := c
    simp only [cellsWf, Bool.and_eq_true, decide_eq_true_eq] at hm ⊢
    exact ⟨⟨by omega, hm.1.2⟩, hm.2⟩

/-- Below its first address a canonical memory reads as zero. -/
theorem cellGet_below {lo a : Nat} {m : List Host.Cell} (hm : cellsWf lo m = true) (h : a < lo) : cellGet m a = 0#8 := by
  cases m with
  | nil => rfl
  | cons c r =>
    obtain ⟨b, v⟩ := c
    simp only [cellsWf, Bool.and_eq_true, decide_eq_true_eq] at hm
    have h1 : a ≠ b := by omega
    have h2 : a < b := by omega
    simp [cellGet, h1, h2]

/-- One byte written keeps the canonical form. -/
theorem cellsWf_cellSet {lo a : Nat} {m : List Host.Cell} (v : Byte) (hm : cellsWf lo m = true) (h : lo ≤ a) :
    cellsWf lo (cellSet m a v) = true := by
  induction m generalizing lo with
  | nil =>
    simp only [cellSet]
    split
    · rfl
    · simp [cellsWf, *]
  | cons c r ih =>
    obtain ⟨b, w⟩ := c
    simp only [cellsWf, Bool.and_eq_true, decide_eq_true_eq] at hm
    simp only [cellSet]
    split
    · subst_vars
      split
      · exact cellsWf_mono (by omega) hm.2
      · simp [cellsWf, *]
    · split
      · split
        · simp [cellsWf, hm.1.1, hm.1.2, hm.2]
        · have : a + 1 ≤ b := by omega
          simp [cellsWf, hm.1.2, hm.2, *]
      · have hb : b + 1 ≤ a := by omega
        simp [cellsWf, hm.1.1, hm.1.2, ih hm.2 hb]

/-- The byte written is the byte read. -/
theorem cellGet_cellSet_same {lo : Nat} {m : List Host.Cell} (a : Nat) (v : Byte) (hm : cellsWf lo m = true) :
    cellGet (cellSet m a v) a = v := by
  induction m generalizing lo with
  | nil => by_cases hv : v = 0#8 <;> simp [cellSet, cellGet, hv]
  | cons c r ih =>
    obtain ⟨b, w⟩ := c
    simp only [cellsWf, Bool.and_eq_true, decide_eq_true_eq] at hm
    simp only [cellSet]
    split
    · subst_vars
      split
      · subst_vars; exact cellGet_below hm.2 (by omega)
      · simp [cellGet]
    · split
      · split
        · subst_vars; simp [cellGet, *]
        · simp [cellGet]
      · simp [cellGet, *, ih hm.2]

/-- Any other byte stays. -/
theorem cellGet_cellSet_ne {lo : Nat} {m : List Host.Cell} {a b : Nat} (v : Byte) (hm : cellsWf lo m = true) (h : b ≠ a) :
    cellGet (cellSet m a v) b = cellGet m b := by
  induction m generalizing lo with
  | nil => by_cases hv : v = 0#8 <;> simp [cellSet, cellGet, hv, h]
  | cons c r ih =>
    obtain ⟨k, w⟩ := c
    simp only [cellsWf, Bool.and_eq_true, decide_eq_true_eq] at hm
    simp only [cellSet]
    split
    · subst_vars
      split
      · by_cases hk : b < k
        · simp [cellGet, h, hk, cellGet_below hm.2 (show b < k + 1 by omega)]
        · simp [cellGet, h, hk]
      · simp [cellGet, h]
    · split
      · split
        · rfl
        · by_cases hk : b < a
          · have h1 : b ≠ k := by omega
            have h2 : b < k := by omega
            simp [cellGet, h, hk, h1, h2]
          · simp [cellGet, h, hk]
      · simp [cellGet, ih hm.2]

/-- Bytes written keep the canonical form. -/
theorem cellsWf_cellsSet (bs : List Byte) : ∀ (m : List Host.Cell) (a : Nat), Memory.wf m = true → Memory.wf (cellsSet m a bs) = true := by
  induction bs with
  | nil => exact fun _ _ h => h
  | cons b r ih => exact fun m a h => ih _ _ (cellsWf_cellSet b h (Nat.zero_le a))

/-- Bytes outside those written stay. -/
theorem cellGet_cellsSet_ne (bs : List Byte) : ∀ (m : List Host.Cell) (a p : Nat), Memory.wf m = true →
    (p < a ∨ a + bs.length ≤ p) → cellGet (cellsSet m a bs) p = cellGet m p := by
  induction bs with
  | nil => exact fun _ _ _ _ _ => rfl
  | cons b r ih =>
    intro m a p hm hp
    simp only [List.length_cons] at hp
    rw [cellsSet, ih _ _ _ (cellsWf_cellSet b hm (Nat.zero_le a)) (by omega)]
    exact cellGet_cellSet_ne b hm (by omega)

/-- Bytes written are read back. -/
theorem cellGet_cellsSet (bs : List Byte) : ∀ (m : List Host.Cell) (a i : Nat), Memory.wf m = true → i < bs.length →
    cellGet (cellsSet m a bs) (a + i) = bs.getD i 0#8 := by
  induction bs with
  | nil => intro _ _ _ _ h; simp at h
  | cons b r ih =>
    intro m a i hm hi
    have hw := cellsWf_cellSet b hm (Nat.zero_le a)
    cases i with
    | zero =>
      rw [cellsSet, Nat.add_zero, cellGet_cellsSet_ne r _ _ _ hw (by omega)]
      exact cellGet_cellSet_same a b hm
    | succ i =>
      simp only [List.length_cons] at hi
      have := ih (cellSet m a b) (a + 1) i hw (by omega)
      rw [cellsSet, show a + (i + 1) = a + 1 + i by omega, this]
      simp

/-- Cells left out keep the canonical form. -/
theorem cellsWf_filter (p : Host.Cell → Bool) {lo : Nat} {m : List Host.Cell} (hm : cellsWf lo m = true) :
    cellsWf lo (m.filter p) = true := by
  induction m generalizing lo with
  | nil => rfl
  | cons c r ih =>
    obtain ⟨a, v⟩ := c
    simp only [cellsWf, Bool.and_eq_true, decide_eq_true_eq] at hm
    simp only [List.filter]
    split
    · simp [cellsWf, hm.1.1, hm.1.2, ih hm.2]
    · exact cellsWf_mono (by omega) (ih hm.2)

/-- A range cleared keeps the canonical form. -/
theorem cellsWf_cellsClear {m : List Host.Cell} (lo hi : Nat) (hm : Memory.wf m = true) : Memory.wf (cellsClear m lo hi) = true :=
  cellsWf_filter _ hm

/-- Masked bytes written into scratch keep the canonical form. -/
theorem cellsWf_scratchCells (cs : List (Byte × Byte)) : ∀ (m : List Host.Cell) (off : Nat), Memory.wf m = true →
    Memory.wf (scratchCells m off cs) = true := by
  induction cs with
  | nil => exact fun _ _ h => h
  | cons c r ih => exact fun m off h => ih _ _ (cellsWf_cellSet _ h (Nat.zero_le off))

/-- Doublewords written keep the canonical form. -/
theorem cellsWf_putWords (l : List (Nat × Nat)) : ∀ (m : List Host.Cell), Memory.wf m = true → Memory.wf (putWords m l) = true := by
  induction l with
  | nil => exact fun _ h => h
  | cons c r ih => exact fun m h => ih _ (cellsWf_cellsSet _ _ _ h)

/-! ### The operations of the state on its memory -/

/-- Bits of one byte written keep the form of memory. -/
theorem writeByte_wf {s : State} (pa : Nat) (v mask : Byte) (h : Memory.wf s.mem = true) : Memory.wf (s.writeByte pa v mask).mem = true :=
  cellsWf_cellSet _ h (Nat.zero_le pa)

/-- Masked bytes written keep the form of memory. -/
theorem writeCells_wf (cs : List (Byte × Byte)) : ∀ (s : State) (pa : Nat), Memory.wf s.mem = true →
    Memory.wf (s.writeCells pa cs).mem = true := by
  induction cs with
  | nil => exact fun _ _ h => h
  | cons c r ih => exact fun s pa h => ih _ _ (writeByte_wf pa _ _ h)

/-- A recall keeps the form of memory. -/
theorem recall_wf {s : State} (line : Nat) (drop : Bool) (h : Memory.wf s.mem = true) : Memory.wf (s.recall line drop).mem = true := by
  unfold State.recall State.mapTasks
  dsimp only
  split
  · exact writeCells_wf _ _ _ h
  · exact h

/-- A committed write keeps the form of memory. -/
theorem commitCells_wf {s : State} (pa : Nat) (cs : List (Byte × Byte)) (h : Memory.wf s.mem = true) :
    Memory.wf (s.commitCells pa cs).mem = true :=
  writeCells_wf _ _ _ (recall_wf _ _ h)

/-- Committed bytes keep the form of memory. -/
theorem commitBytes_wf (bs : List Byte) : ∀ (s : State) (pa : Nat), Memory.wf s.mem = true → Memory.wf (s.commitBytes pa bs).mem = true := by
  induction bs with
  | nil => exact fun _ _ h => h
  | cons b r ih => exact fun s pa h => ih _ _ (commitCells_wf _ _ h)

/-- A read that the directory serves keeps the form of memory. -/
theorem lookAt_wf {s : State} (line : Nat) (h : Memory.wf s.mem = true) : Memory.wf (s.lookAt line).mem = true := by
  unfold State.lookAt
  split
  · exact h
  · exact recall_wf _ _ h

/-- Reads that the directory serves keep the form of memory. -/
theorem lookAll_wf (l : List Nat) : ∀ (s : State), Memory.wf s.mem = true → Memory.wf (s.lookAll l).mem = true := by
  induction l with
  | nil => exact fun _ h => h
  | cons a r ih => exact fun s h => ih _ (lookAt_wf _ h)

/-- Marked table entries keep the form of memory. -/
theorem markEntries_wf (bits : Byte) (l : List Nat) : ∀ (s : State), Memory.wf s.mem = true → Memory.wf (s.markEntries bits l).mem = true := by
  induction l with
  | nil => exact fun _ h => h
  | cons a r ih =>
    intro s h
    refine ih _ ?_
    split
    · exact h
    · exact commitCells_wf _ _ h

/-- The TLBs do not stand in memory. -/
@[simp] theorem tlbFill_mem (s : State) (x : Xlat) : (s.tlbFill x).mem = s.mem := by
  unfold State.tlbFill
  split
  · rfl
  · split <;> rfl

/-- Nor does what they drop. -/
@[simp] theorem tlbDrop_mem (s : State) (p : TlbEntry → Bool) : (s.tlbDrop p).mem = s.mem := rfl

/-- What a walk does to the tables keeps the form of memory. -/
theorem walked_wf (reads seen : List Nat) {s : State} (h : Memory.wf s.mem = true) : Memory.wf (s.walked reads seen).mem = true :=
  markEntries_wf _ _ _ (lookAll_wf _ _ h)

/-- What an access does to the tables keeps the form of memory. -/
theorem setMarks_wf (writes : Bool) (x : Xlat) {s : State} (h : Memory.wf s.mem = true) : Memory.wf (s.setMarks writes x).mem = true := by
  unfold State.setMarks
  rw [tlbFill_mem]
  exact markEntries_wf _ _ _ (walked_wf _ _ h)

/-- Committed stores keep the form of memory. -/
theorem commitAll_wf (l : List SbEntry) : ∀ (s : State), Memory.wf s.mem = true → Memory.wf (s.commitAll l).mem = true := by
  induction l with
  | nil => exact fun _ h => h
  | cons e r ih => exact fun s h => ih _ (commitCells_wf _ _ h)

/-- A drain keeps the form of memory. -/
theorem drain_wf {s : State} (h : Memory.wf s.mem = true) : Memory.wf s.drain.mem = true := commitAll_wf _ s h

/-- An acquire keeps the form of memory. -/
theorem acquire_wf {s : State} (h : Memory.wf s.mem = true) : Memory.wf s.acquire.mem = true := commitAll_wf _ s h

/-- Selected stores committed keep the form of memory. -/
theorem drainWhere_wf {s : State} (p : SbEntry → Bool) (h : Memory.wf s.mem = true) : Memory.wf (s.drainWhere p).mem = true :=
  commitAll_wf _ s h

/-- A zeroed range keeps the form of memory. -/
theorem zeroRange_wf {s : State} (lo hi : Nat) (h : Memory.wf s.mem = true) : Memory.wf (s.zeroRange lo hi).mem = true :=
  cellsWf_cellsClear lo hi h

/-- A store into scratch keeps the form of scratch. -/
theorem storeScratch_wf {s : State} (off : Nat) (cs : List (Byte × Byte)) (h : Memory.wf s.t.scratch = true) :
    Memory.wf (s.storeScratch off cs).t.scratch = true :=
  cellsWf_scratchCells cs _ _ h

/-- Reset memory is in canonical form. -/
theorem reset_memory_wf : Memory.wf State.reset.mem = true := rfl

end Sys2Proof.Machine
end

