-- ==== Sys2Proof/Laws/Ops.lean ====
section
/-! SUPPORT. What the shared operations can do: running a computation, how an instruction ends, taking a trap, and the
accesses to scratch. -/

namespace Sys2Proof.Machine

/-! ### Running a computation -/

/-- A sequence runs its first part and then the rest. -/
theorem Act.bind_run {α β : Type} (x : Act α) (f : α → Act β) (s : State) :
    (x >>= f) s = match x s with | .ok (a, t) => f a t | .error e => .error e := by
  show Except.bind _ _ = _
  cases x s <;> rfl

@[simp] theorem Act.pure_run {α : Type} (a : α) (s : State) : (pure a : Act α) s = .ok (a, s) := rfl
@[simp] theorem Act.get_run (s : State) : (get : Act State) s = .ok (s, s) := rfl
@[simp] theorem Act.set_run (s t : State) : (set t : Act PUnit) s = .ok (⟨⟩, t) := rfl
@[simp] theorem Act.modify_run (f : State → State) (s : State) : (modify f : Act PUnit) s = .ok (⟨⟩, f s) := rfl
@[simp] theorem Act.raise_run {α : Type} (tr : Trap) (s : State) : (raiseAct tr : Act α) s = .error (.trap tr) := rfl
@[simp] theorem Act.wait_run {α : Type} (k : WaitKind) (s : State) : (waitAct k : Act α) s = .error (.wait k) := rfl
@[simp] theorem Act.require_true (tr : Trap) (s : State) : requireAct true tr s = .ok ((), s) := rfl
@[simp] theorem Act.require_false (tr : Trap) (s : State) : requireAct false tr s = .error (.trap tr) := rfl

/-! ### How an instruction ends -/

/-- An instruction that answers a next state has had its effect, or taken a trap, or waits. -/
theorem finish_next {a : Act Unit} {s t : State} (h : finish a s = .next t) :
    (∃ u, a s = .ok (u, t)) ∨ (∃ tr, a s = .error (.trap tr) ∧ t = takeTrap tr false s) ∨
      ∃ k, a s = .error (.wait k) ∧ t = s.enterWait k := by
  unfold finish at h
  split at h
  · rename_i u t' e; cases h; exact .inl ⟨_, e⟩
  · rename_i tr e; cases h; exact .inr (.inl ⟨tr, e, rfl⟩)
  · rename_i k e; cases h; exact .inr (.inr ⟨k, e, rfl⟩)
  · cases h

/-- An instruction completes where its computation does. -/
theorem finish_ok {a : Act Unit} {s t : State} {u : Unit} (h : a s = .ok (u, t)) : finish a s = .next t := by
  simp [finish, h]

/-- It traps where its computation does. -/
theorem finish_trap {a : Act Unit} {s : State} {tr : Trap} (h : a s = .error (.trap tr)) :
    finish a s = .next (takeTrap tr false s) := by
  simp [finish, h]

/-- It waits where its computation does. -/
theorem finish_wait {a : Act Unit} {s : State} {k : WaitKind} (h : a s = .error (.wait k)) : finish a s = .next (s.enterWait k) := by
  simp [finish, h]

/-- A wait changes nothing but the wait of the hart. -/
theorem enterWait_frame (s : State) (k : WaitKind) : s.enterWait k = { s with h := { s.h with wait := (s.enterWait k).h.wait } } := by
  unfold State.enterWait
  split
  · split <;> rfl
  · rfl

/-! ### Taking a trap -/

/-- A trap that no walk came to leaves the tables alone. -/
@[simp] theorem walked_nil (s : State) : s.walked [] [] = s := rfl

/-- Where a trap goes to the user handler, only the hart changes, after what its walk did to the tables. -/
theorem takeTrap_user {tr : Trap} {s t : State} (async : Bool) (e : s.walked tr.reads tr.seen = t) (h : t.userDelivers tr = true) :
    takeTrap tr async s = { t with h := t.h.deliver t.t.uhandler tr async } := by
  subst e; simp [takeTrap, h]

/-- A trap of a task's hart that does not go to its handler is queued for its level, or held where the queue is full. -/
theorem takeTrap_escalates {tr : Trap} {s t : State} (async : Bool) (e : s.walked tr.reads tr.seen = t)
    (h : t.userDelivers tr = false) (hw : t.who = .user) :
    takeTrap tr async s = t.escalate (t.trapLevel tr) (t.trapRecord tr async) := by
  subst e; simp [takeTrap, h, hw]

/-- Taking a trap writes no memory but the marks of its walk. -/
theorem takeTrap_mem (tr : Trap) (async : Bool) (s : State) : (takeTrap tr async s).mem = (s.walked tr.reads tr.seen).mem := by
  unfold takeTrap
  dsimp only
  generalize s.walked tr.reads tr.seen = s
  split
  · rfl
  · have stop : ∀ (u : State) (r : HartRun), (u.stopAgent r).mem = u.mem := by
      intro u r; unfold State.stopAgent; split
      · split <;> rfl
      · rfl
    have esc : ∀ (u : State) (l : Level) (r : TrapRec), (u.escalate l r).mem = u.mem := by
      intro u l r
      unfold State.escalate
      split
      · rename_i v e
        rw [stop]
        unfold State.enqueue at e
        split at e
        · split at e
          · cases e; rfl
          · cases e
        · cases e; rfl
        · split at e
          · cases e; rfl
          · cases e
      · exact stop u (.blocked l)
    split
    · exact esc _ _ _
    · exact esc _ _ _
    · rfl

/-! ### Scratch -/

/-- What free scratch is. -/
theorem touchScratch_free {s : State} {off n : Nat} (va : Nat) (store : Bool) (val2 : Word) (h : off + n ≤ s.t.scrb)
    (hw : s.t.windowAt off = none) : touchScratch off n va store val2 s = .ok ((), s) := by
  unfold touchScratch
  simp [Act.bind_run, h, hw]

/-- A load from granted scratch, outside windows and off poisoned lines, gives its bytes and changes nothing. -/
theorem loadAt_scratch {s : State} {va n off : Nat} (k : Acc) (val2 : Word) (ho : s.scratchOff va = some off)
    (h : off + n ≤ s.t.scrb) (hw : s.t.windowAt off = none) (hp : (s.t.scrPoison.any fun m => decide (m.idx = off / 256)) = false) :
    loadAt va n k val2 s = .ok (cellsGet s.t.scratch off n, s) := by
  unfold loadAt
  simp only [Act.bind_run, Act.get_run, ho, touchScratch_free va k.writes val2 h hw, hp, Bool.not_false, Act.require_true,
    Act.pure_run]

/-- A store into granted scratch outside windows writes its cells there. -/
theorem storeCellsAt_scratch {s : State} {va off : Nat} (cells : List (Byte × Byte)) (val2 : Word) (ho : s.scratchOff va = some off)
    (h : off + cells.length ≤ s.t.scrb) (hw : s.t.windowAt off = none) :
    storeCellsAt va cells val2 s = .ok ((), s.storeScratch off cells) := by
  unfold storeCellsAt
  simp [Act.bind_run, ho, touchScratch_free va true val2 h hw]

/-- An atomic on free scratch gives the old bytes, and writes the new ones where there are any. -/
theorem amoAt_scratch {s : State} {va n off : Nat} (f : List Byte → Option (List Byte)) (ho : s.scratchOff va = some off)
    (h : off + n ≤ s.t.scrb) (hw : s.t.windowAt off = none) (hp : (s.t.scrPoison.any fun m => decide (m.idx = off / 256)) = false) :
    amoAt va n f s = .ok (cellsGet s.t.scratch off n,
      match f (cellsGet s.t.scratch off n) with
      | some bs => s.storeScratch off (whole bs)
      | none => s) := by
  unfold amoAt
  simp only [Act.bind_run, Act.get_run, ho, touchScratch_free va true 2#64 h hw, hp, Bool.not_false, Act.require_true]
  split <;> simp_all [Act.bind_run]

/-- A load from scratch sets no A bits: what follows it traps as it does. -/
theorem keepMarks_scratch {α : Type} {s : State} {va off : Nat} (r : Except Stop (α × State)) (ho : s.scratchOff va = some off) :
    s.keepMarks va r = r := by
  unfold State.keepMarks State.afterLoad
  rw [ho]
  split <;> rfl

/-- What follows a load, where it does not trap, is not changed by the marks. -/
@[simp] theorem keepMarks_ok {α : Type} (s : State) (va : Nat) (r : α × State) : s.keepMarks va (.ok r) = .ok r := rfl

/-- A run of words in free scratch is read as it stands there, and the rest of the instruction sees the state as it was. -/
theorem withWords_scratch {α : Type} {s : State} (sz : Nat) (k : List Byte → Act α) : ∀ (n va off : Nat) (bs : List Byte),
    (∀ i, i < n → va + sz * i < 2 ^ 64 ∧ s.scratchOff (va + sz * i) = some (off + sz * i) ∧ off + sz * i + sz ≤ s.t.scrb ∧
      s.t.windowAt (off + sz * i) = none ∧ (s.t.scrPoison.any fun m => decide (m.idx = (off + sz * i) / 256)) = false) →
    withWords sz k n va bs s = k (bs ++ (List.range n).flatMap fun i => cellsGet s.t.scratch (off + sz * i) sz) s
  | 0, _, _, bs, _ => by simp [withWords]
  | n + 1, va, off, bs, h => by
    obtain ⟨hlt, ho, hb, hw, hp⟩ := h 0 (Nat.succ_pos n)
    simp only [Nat.mul_zero, Nat.add_zero] at hlt ho hb hw hp
    have ih := withWords_scratch (s := s) sz k n (va + sz) (off + sz) (bs ++ cellsGet s.t.scratch off sz) fun i hi => by
      have := h (i + 1) (Nat.succ_lt_succ hi)
      simpa [Nat.mul_add, Nat.add_assoc, Nat.add_comm, Nat.add_left_comm] using this
    simp only [withWords, Nat.mod_eq_of_lt hlt, loadAt_scratch .load 0#64 ho hb hw hp, keepMarks_scratch _ ho, ih,
      List.range_succ_eq_map, List.flatMap_cons, List.flatMap_map, List.append_assoc, Nat.mul_zero, Nat.add_zero]
    have e : (fun i => cellsGet s.t.scratch (off + sz + sz * i) sz) = fun i => cellsGet s.t.scratch (off + sz * i.succ) sz := by
      funext i
      rw [Nat.mul_succ, Nat.add_assoc off, Nat.add_comm sz]
    rw [e]

/-! ### Walks, buffers and other nodes -/

/-- What follows a walk is changed only where it traps, and then only by the entries that the walk has read. -/
theorem afterWalk_run {α : Type} (x : Xlat) (a : Act α) (s : State) :
    afterWalk x a s = match a s with
      | .error (.trap tr) => .error (.trap { tr with reads := x.reads ++ tr.reads, seen := x.seen ++ tr.seen })
      | r => r := rfl

/-- An access without the buffered stores leaves them as they stood, and is the access of a hart that has none. -/
theorem withoutBuffer_ok {α : Type} {a : Act α} {s t : State} {y : α} (h : withoutBuffer a s = .ok (y, t)) :
    t.h.sb = s.h.sb ∧ ∃ u, a { s with h := { s.h with sb := [] } } = .ok (y, u) ∧ t = { u with h := { u.h with sb := s.h.sb } } := by
  unfold withoutBuffer at h
  split at h
  · cases h; exact ⟨rfl, _, ‹_›, rfl⟩
  · cases h

/-- An engine's work at a place is changed only where it fails, and then only by the entries of the place's walk. -/
theorem engVia_ok {α : Type} {p : Side} {done : Bool} {a : Eng α} {s : State} {r : α × State} :
    engVia p done a s = .ok r ↔ a s = .ok r := by
  unfold engVia
  cases a s <;> cases p <;> simp

/-- No access to this node waits for another. -/
theorem remoteTurn_local {s : State} {pa : Nat} (va : Nat) (val2 : Word) (h : s.isLocal pa = true) :
    remoteTurn pa va val2 s = .ok ((), s) := by
  unfold remoteTurn
  rw [h]; rfl

/-- A unit-stride load waits once for each line of another node: what it has been sent it does not wait for. -/
theorem remoteTurn_sent {s : State} (pa va : Nat) (val2 : Word) (h : s.h.sent va = true) : remoteTurn pa va val2 s = .ok ((), s) := by
  unfold remoteTurn
  rw [h, Bool.or_true]; rfl

end Sys2Proof.Machine
end

