-- ==== Sys2Proof/Laws/PerInstr.lean ====
section
/-! SUPPORT. The per-instruction law family of the encoding: the decoder reads back the fields that an instruction is
encoded in (03_words R53 to R68), one lemma per instruction. -/

namespace Sys2Proof.Laws

/-- The fields of the word that joins fields are those fields. -/
theorem splitWord_joinWord (f : Fields) : splitWord (joinWord f) = f := by
  obtain ⟨op, d, a, b, fn⟩ := f
  simp only [splitWord, joinWord, Fields.mk.injEq]
  refine ⟨?_, ?_, ?_, ?_, ?_⟩ <;> ext i hi <;>
    simp only [BitVec.getElem_extractLsb', BitVec.getLsbD_append] <;> grind

/-- Joining the fields of a word gives the word. -/
theorem joinWord_splitWord (w : IWord) : joinWord (splitWord w) = w := by
  ext i hi
  simp only [splitWord, joinWord, BitVec.getElem_append, BitVec.getElem_extractLsb']
  grind

theorem fmtB_imm11 (op : BitVec 7) (d a : Reg) (imm : BitVec 11) : (fmtB op d a imm).imm11 = imm := by
  ext i hi
  simp only [Fields.imm11, fmtB]
  grind

theorem fmtC_imm18 (op : BitVec 7) (d : Reg) (imm : BitVec 18) : (fmtC op d imm).imm18 = imm := by
  ext i hi
  simp only [Fields.imm18, fmtC]
  grind

theorem fmtJ_imm25 (op : BitVec 7) (imm : BitVec 25) : (fmtJ op imm).imm25 = imm := by
  ext i hi
  simp only [Fields.imm25, fmtJ]
  grind

theorem smallField_one (c : BitVec 1) (k : BitVec 1 → Except DecodeErr Instr) :
    smallField 2 (c.setWidth 7) k = k c := by
  have h : ((c.setWidth 7 : Reg).toNat < 2) ∧ (c.setWidth 7 : Reg).setWidth 1 = c := by revert c; decide
  simp only [smallField, h, if_true]

theorem smallField_two (c : BitVec 2) (k : BitVec 2 → Except DecodeErr Instr) :
    smallField 4 (c.setWidth 7) k = k c := by
  have h : ((c.setWidth 7 : Reg).toNat < 4) ∧ (c.setWidth 7 : Reg).setWidth 2 = c := by revert c; decide
  simp only [smallField, h, if_true]

theorem smallField_three (c : BitVec 3) (k : BitVec 3 → Except DecodeErr Instr) :
    smallField 8 (c.setWidth 7) k = k c := by
  have h : ((c.setWidth 7 : Reg).toNat < 8) ∧ (c.setWidth 7 : Reg).setWidth 3 = c := by revert c; decide
  simp only [smallField, h, if_true]

theorem smallField_nine (c : BitVec 4) (k : BitVec 4 → Except DecodeErr Instr) (hc : c.toNat ≤ 8) :
    smallField 9 (c.setWidth 7) k = k c := by
  have h : ((c.setWidth 7 : Reg).toNat < 9) ∧ (c.setWidth 7 : Reg).setWidth 4 = c := by
    revert hc; revert c; decide
  simp only [smallField, h, if_true]

theorem pairThen_of (f : Reg) (k : Except DecodeErr Instr) (h : pairField f = true) : pairThen f k = k := by
  simp only [pairThen, h, if_true]

theorem scratchThen_of (scr : Bool) (f : Reg) (k : Except DecodeErr Instr) (h : (!scr || scratchField f) = true) :
    scratchThen scr f k = k := by
  cases scr <;> simp_all [scratchThen]

/-- The bit ranges of the code word of a type in a field (R29). -/
theorem typeField (ty : ElemType) :
    ((0#2 ++ ty.code : Reg).extractLsb' 5 2) = 0#2 ∧ ((0#2 ++ ty.code : Reg).extractLsb' 0 5) = ty.code ∧
    ElemType.ofCode ty.code = some ty := by
  cases ty <;> decide

namespace Encoding

/-- The fields of a well-formed instruction decode to that instruction. -/
def Statement (i : Instr) : Prop :=
  ∀ f, fieldsOf i = some f → i.wellFormed = true → decodeFields f = .ok i

theorem add (d : Reg) (a : Reg) (b : Reg) : Statement (.add d a b) := by
  rintro _ ⟨⟩ _
  rfl

theorem sub (d : Reg) (a : Reg) (b : Reg) : Statement (.sub d a b) := by
  rintro _ ⟨⟩ _
  rfl

theorem and (d : Reg) (a : Reg) (b : Reg) : Statement (.and d a b) := by
  rintro _ ⟨⟩ _
  rfl

theorem or (d : Reg) (a : Reg) (b : Reg) : Statement (.or d a b) := by
  rintro _ ⟨⟩ _
  rfl

theorem xor (d : Reg) (a : Reg) (b : Reg) : Statement (.xor d a b) := by
  rintro _ ⟨⟩ _
  rfl

theorem sll (d : Reg) (a : Reg) (b : Reg) : Statement (.sll d a b) := by
  rintro _ ⟨⟩ _
  rfl

theorem srl (d : Reg) (a : Reg) (b : Reg) : Statement (.srl d a b) := by
  rintro _ ⟨⟩ _
  rfl

theorem sra (d : Reg) (a : Reg) (b : Reg) : Statement (.sra d a b) := by
  rintro _ ⟨⟩ _
  rfl

theorem slt (d : Reg) (a : Reg) (b : Reg) : Statement (.slt d a b) := by
  rintro _ ⟨⟩ _
  rfl

theorem sltn (d : Reg) (a : Reg) (b : Reg) : Statement (.sltn d a b) := by
  rintro _ ⟨⟩ _
  rfl

theorem min (d : Reg) (a : Reg) (b : Reg) : Statement (.min d a b) := by
  rintro _ ⟨⟩ _
  rfl

theorem max (d : Reg) (a : Reg) (b : Reg) : Statement (.max d a b) := by
  rintro _ ⟨⟩ _
  rfl

theorem minn (d : Reg) (a : Reg) (b : Reg) : Statement (.minn d a b) := by
  rintro _ ⟨⟩ _
  rfl

theorem maxn (d : Reg) (a : Reg) (b : Reg) : Statement (.maxn d a b) := by
  rintro _ ⟨⟩ _
  rfl

theorem andn (d : Reg) (a : Reg) (b : Reg) : Statement (.andn d a b) := by
  rintro _ ⟨⟩ _
  rfl

theorem orn (d : Reg) (a : Reg) (b : Reg) : Statement (.orn d a b) := by
  rintro _ ⟨⟩ _
  rfl

theorem mul (d : Reg) (a : Reg) (b : Reg) : Statement (.mul d a b) := by
  rintro _ ⟨⟩ _
  rfl

theorem mulh (d : Reg) (a : Reg) (b : Reg) : Statement (.mulh d a b) := by
  rintro _ ⟨⟩ _
  rfl

theorem mulhn (d : Reg) (a : Reg) (b : Reg) : Statement (.mulhn d a b) := by
  rintro _ ⟨⟩ _
  rfl

theorem div (d : Reg) (a : Reg) (b : Reg) : Statement (.div d a b) := by
  rintro _ ⟨⟩ _
  rfl

theorem divn (d : Reg) (a : Reg) (b : Reg) : Statement (.divn d a b) := by
  rintro _ ⟨⟩ _
  rfl

theorem rem (d : Reg) (a : Reg) (b : Reg) : Statement (.rem d a b) := by
  rintro _ ⟨⟩ _
  rfl

theorem remn (d : Reg) (a : Reg) (b : Reg) : Statement (.remn d a b) := by
  rintro _ ⟨⟩ _
  rfl

theorem clz (d : Reg) (a : Reg) : Statement (.clz d a) := by
  rintro _ ⟨⟩ _
  rfl

theorem ctz (d : Reg) (a : Reg) : Statement (.ctz d a) := by
  rintro _ ⟨⟩ _
  rfl

theorem popc (d : Reg) (a : Reg) : Statement (.popc d a) := by
  rintro _ ⟨⟩ _
  rfl

theorem bext (d : Reg) (a : Reg) (b : Reg) : Statement (.bext d a b) := by
  rintro _ ⟨⟩ _
  rfl

theorem bins (d : Reg) (a : Reg) (b : Reg) : Statement (.bins d a b) := by
  rintro _ ⟨⟩ _
  rfl

theorem addi (d : Reg) (a : Reg) (imm : BitVec 11) : Statement (.addi d a imm) := by
  rintro _ ⟨⟩ _
  exact congrArg (fun x => Except.ok (Instr.addi d a x)) (fmtB_imm11 _ _ _ imm)

theorem andi (d : Reg) (a : Reg) (imm : BitVec 11) : Statement (.andi d a imm) := by
  rintro _ ⟨⟩ _
  exact congrArg (fun x => Except.ok (Instr.andi d a x)) (fmtB_imm11 _ _ _ imm)

theorem ori (d : Reg) (a : Reg) (imm : BitVec 11) : Statement (.ori d a imm) := by
  rintro _ ⟨⟩ _
  exact congrArg (fun x => Except.ok (Instr.ori d a x)) (fmtB_imm11 _ _ _ imm)

theorem xori (d : Reg) (a : Reg) (imm : BitVec 11) : Statement (.xori d a imm) := by
  rintro _ ⟨⟩ _
  exact congrArg (fun x => Except.ok (Instr.xori d a x)) (fmtB_imm11 _ _ _ imm)

theorem slli (d : Reg) (a : Reg) (imm : BitVec 6) : Statement (.slli d a imm) := by
  rintro _ ⟨⟩ _
  show decodeShifti _ = _
  have h : ∀ imm : BitVec 6, (0#2 ++ 0#3 ++ imm : BitVec 11).extractLsb' 6 3 = 0#3 ∧
      (0#2 ++ 0#3 ++ imm : BitVec 11).extractLsb' 9 2 = 0#2 ∧ (0#2 ++ 0#3 ++ imm : BitVec 11).extractLsb' 0 6 = imm := by decide
  simp only [decodeShifti, fmtB_imm11, h, zeroThen, if_true]
  rfl

theorem srli (d : Reg) (a : Reg) (imm : BitVec 6) : Statement (.srli d a imm) := by
  rintro _ ⟨⟩ _
  show decodeShifti _ = _
  have h : ∀ imm : BitVec 6, (1#2 ++ 0#3 ++ imm : BitVec 11).extractLsb' 6 3 = 0#3 ∧
      (1#2 ++ 0#3 ++ imm : BitVec 11).extractLsb' 9 2 = 1#2 ∧ (1#2 ++ 0#3 ++ imm : BitVec 11).extractLsb' 0 6 = imm := by decide
  simp only [decodeShifti, fmtB_imm11, h, zeroThen, if_true]
  rfl

theorem srai (d : Reg) (a : Reg) (imm : BitVec 6) : Statement (.srai d a imm) := by
  rintro _ ⟨⟩ _
  show decodeShifti _ = _
  have h : ∀ imm : BitVec 6, (2#2 ++ 0#3 ++ imm : BitVec 11).extractLsb' 6 3 = 0#3 ∧
      (2#2 ++ 0#3 ++ imm : BitVec 11).extractLsb' 9 2 = 2#2 ∧ (2#2 ++ 0#3 ++ imm : BitVec 11).extractLsb' 0 6 = imm := by decide
  simp only [decodeShifti, fmtB_imm11, h, zeroThen, if_true]
  rfl

theorem slti (d : Reg) (a : Reg) (imm : BitVec 11) : Statement (.slti d a imm) := by
  rintro _ ⟨⟩ _
  exact congrArg (fun x => Except.ok (Instr.slti d a x)) (fmtB_imm11 _ _ _ imm)

theorem sltni (d : Reg) (a : Reg) (imm : BitVec 11) : Statement (.sltni d a imm) := by
  rintro _ ⟨⟩ _
  exact congrArg (fun x => Except.ok (Instr.sltni d a x)) (fmtB_imm11 _ _ _ imm)

theorem lhi (d : Reg) (imm : BitVec 18) : Statement (.lhi d imm) := by
  rintro _ ⟨⟩ _
  exact congrArg (fun x => Except.ok (Instr.lhi d x)) (fmtC_imm18 _ _ imm)

theorem lsh (d : Reg) (imm : BitVec 18) : Statement (.lsh d imm) := by
  rintro _ ⟨⟩ _
  exact congrArg (fun x => Except.ok (Instr.lsh d x)) (fmtC_imm18 _ _ imm)

theorem ldd (d : Reg) (a : Reg) (imm : BitVec 11) : Statement (.ldd d a imm) := by
  rintro _ ⟨⟩ _
  exact congrArg (fun x => Except.ok (Instr.ldd d a x)) (fmtB_imm11 _ _ _ imm)

theorem ldw (d : Reg) (a : Reg) (imm : BitVec 11) : Statement (.ldw d a imm) := by
  rintro _ ⟨⟩ _
  exact congrArg (fun x => Except.ok (Instr.ldw d a x)) (fmtB_imm11 _ _ _ imm)

theorem ldwn (d : Reg) (a : Reg) (imm : BitVec 11) : Statement (.ldwn d a imm) := by
  rintro _ ⟨⟩ _
  exact congrArg (fun x => Except.ok (Instr.ldwn d a x)) (fmtB_imm11 _ _ _ imm)

theorem ldbn (d : Reg) (a : Reg) (imm : BitVec 11) : Statement (.ldbn d a imm) := by
  rintro _ ⟨⟩ _
  exact congrArg (fun x => Except.ok (Instr.ldbn d a x)) (fmtB_imm11 _ _ _ imm)

theorem std (d : Reg) (a : Reg) (imm : BitVec 11) : Statement (.std d a imm) := by
  rintro _ ⟨⟩ _
  exact congrArg (fun x => Except.ok (Instr.std d a x)) (fmtB_imm11 _ _ _ imm)

theorem stw (d : Reg) (a : Reg) (imm : BitVec 11) : Statement (.stw d a imm) := by
  rintro _ ⟨⟩ _
  exact congrArg (fun x => Except.ok (Instr.stw d a x)) (fmtB_imm11 _ _ _ imm)

theorem stb (d : Reg) (a : Reg) (imm : BitVec 11) : Statement (.stb d a imm) := by
  rintro _ ⟨⟩ _
  exact congrArg (fun x => Except.ok (Instr.stb d a x)) (fmtB_imm11 _ _ _ imm)

theorem lddX (d : Reg) (a : Reg) (b : Reg) : Statement (.lddX d a b) := by
  rintro _ ⟨⟩ _
  rfl

theorem ldwX (d : Reg) (a : Reg) (b : Reg) : Statement (.ldwX d a b) := by
  rintro _ ⟨⟩ _
  rfl

theorem ldwnX (d : Reg) (a : Reg) (b : Reg) : Statement (.ldwnX d a b) := by
  rintro _ ⟨⟩ _
  rfl

theorem ldh (d : Reg) (a : Reg) (b : Reg) : Statement (.ldh d a b) := by
  rintro _ ⟨⟩ _
  rfl

theorem ldhn (d : Reg) (a : Reg) (b : Reg) : Statement (.ldhn d a b) := by
  rintro _ ⟨⟩ _
  rfl

theorem ldb (d : Reg) (a : Reg) (b : Reg) : Statement (.ldb d a b) := by
  rintro _ ⟨⟩ _
  rfl

theorem ldbnX (d : Reg) (a : Reg) (b : Reg) : Statement (.ldbnX d a b) := by
  rintro _ ⟨⟩ _
  rfl

theorem stdX (d : Reg) (a : Reg) (b : Reg) : Statement (.stdX d a b) := by
  rintro _ ⟨⟩ _
  rfl

theorem stwX (d : Reg) (a : Reg) (b : Reg) : Statement (.stwX d a b) := by
  rintro _ ⟨⟩ _
  rfl

theorem sth (d : Reg) (a : Reg) (b : Reg) : Statement (.sth d a b) := by
  rintro _ ⟨⟩ _
  rfl

theorem stbX (d : Reg) (a : Reg) (b : Reg) : Statement (.stbX d a b) := by
  rintro _ ⟨⟩ _
  rfl

theorem beq (d : Reg) (a : Reg) (imm : BitVec 11) : Statement (.beq d a imm) := by
  rintro _ ⟨⟩ _
  exact congrArg (fun x => Except.ok (Instr.beq d a x)) (fmtB_imm11 _ _ _ imm)

theorem bne (d : Reg) (a : Reg) (imm : BitVec 11) : Statement (.bne d a imm) := by
  rintro _ ⟨⟩ _
  exact congrArg (fun x => Except.ok (Instr.bne d a x)) (fmtB_imm11 _ _ _ imm)

theorem blt (d : Reg) (a : Reg) (imm : BitVec 11) : Statement (.blt d a imm) := by
  rintro _ ⟨⟩ _
  exact congrArg (fun x => Except.ok (Instr.blt d a x)) (fmtB_imm11 _ _ _ imm)

theorem bge (d : Reg) (a : Reg) (imm : BitVec 11) : Statement (.bge d a imm) := by
  rintro _ ⟨⟩ _
  exact congrArg (fun x => Except.ok (Instr.bge d a x)) (fmtB_imm11 _ _ _ imm)

theorem bltn (d : Reg) (a : Reg) (imm : BitVec 11) : Statement (.bltn d a imm) := by
  rintro _ ⟨⟩ _
  exact congrArg (fun x => Except.ok (Instr.bltn d a x)) (fmtB_imm11 _ _ _ imm)

theorem bgen (d : Reg) (a : Reg) (imm : BitVec 11) : Statement (.bgen d a imm) := by
  rintro _ ⟨⟩ _
  exact congrArg (fun x => Except.ok (Instr.bgen d a x)) (fmtB_imm11 _ _ _ imm)

theorem bsub (d : Reg) (a : Reg) (imm : BitVec 11) : Statement (.bsub d a imm) := by
  rintro _ ⟨⟩ _
  exact congrArg (fun x => Except.ok (Instr.bsub d a x)) (fmtB_imm11 _ _ _ imm)

theorem jmp (imm : BitVec 25) : Statement (.jmp imm) := by
  rintro _ ⟨⟩ _
  exact congrArg (fun x => Except.ok (Instr.jmp x)) (fmtJ_imm25 _ imm)

theorem call (imm : BitVec 25) : Statement (.call imm) := by
  rintro _ ⟨⟩ _
  exact congrArg (fun x => Except.ok (Instr.call x)) (fmtJ_imm25 _ imm)

theorem jr (a : Reg) : Statement (.jr a) := by
  rintro _ ⟨⟩ _
  rfl

theorem jalr (d : Reg) (a : Reg) : Statement (.jalr d a) := by
  rintro _ ⟨⟩ _
  rfl

theorem sget (d : Reg) (reg : BitVec 11) : Statement (.sget d reg) := by
  rintro _ ⟨⟩ _
  exact congrArg (fun x => Except.ok (Instr.sget d x)) (fmtB_imm11 _ _ _ reg)

theorem sput (d : Reg) (reg : BitVec 11) : Statement (.sput d reg) := by
  rintro _ ⟨⟩ _
  exact congrArg (fun x => Except.ok (Instr.sput d x)) (fmtB_imm11 _ _ _ reg)

theorem vwin (d : Reg) (a : Reg) : Statement (.vwin d a) := by
  rintro _ ⟨⟩ _
  rfl

theorem lfork (d : Reg) : Statement (.lfork d) := by
  rintro _ ⟨⟩ _
  rfl

theorem ljoin (a : Reg) : Statement (.ljoin a) := by
  rintro _ ⟨⟩ _
  rfl

theorem wid (d : Reg) (k : BitVec 3) (sel : BitVec 2) : Statement (.wid d k sel) := by
  rintro _ ⟨⟩ h
  show smallField 6 _ (fun k => smallField 4 _ fun sel => if widAllowed k sel then _ else _) = _
  have h : widAllowed k sel = true := h
  have hk : ∀ (k : BitVec 3) (sel : BitVec 2), widAllowed k sel = true →
      ((k.setWidth 7 : Reg).toNat < 6) ∧ (k.setWidth 7 : Reg).setWidth 3 = k := by decide
  have hs : ∀ sel : BitVec 2, ((sel.setWidth 7 : Reg).toNat < 4) ∧ (sel.setWidth 7 : Reg).setWidth 2 = sel := by decide
  simp only [smallField, fmtA, hk k sel h, hs, h, if_true]

theorem vsetl (d : Reg) (a : Reg) (blk : BlockLen) (ty : ElemType) : Statement (.vsetl d a blk ty) := by
  rintro _ ⟨⟩ h
  show decodeVsetl _ = _
  have h : blockAllowed blk ty = true := h
  have e : (0#4 ++ blk.code ++ ty.code : BitVec 11).extractLsb' 7 4 = 0#4 ∧
      BlockLen.ofCode ((0#4 ++ blk.code ++ ty.code : BitVec 11).extractLsb' 5 2) = some blk ∧
      ElemType.ofCode ((0#4 ++ blk.code ++ ty.code : BitVec 11).extractLsb' 0 5) = some ty := by
    cases blk <;> cases ty <;> decide
  simp only [decodeVsetl, fmtB_imm11, e.1, e.2.1, e.2.2, h, zeroThen, if_true]
  rfl

theorem rep (count : BitVec 6) (sd : Bool) (sa : Bool) (sb : Bool) (stride : BitVec 3) : Statement (.rep count sd sa sb stride) := by
  rintro _ ⟨⟩ _
  show decodeRep _ = _
  have e : ∀ (c : BitVec 6) (t : BitVec 3), let w : BitVec 25 := c ++ BitVec.ofBool sd ++ BitVec.ofBool sa ++ BitVec.ofBool sb ++ t ++ 0#13
      w.extractLsb' 0 13 = 0#13 ∧ w.extractLsb' 19 6 = c ∧ w.getLsbD 18 = sd ∧ w.getLsbD 17 = sa ∧ w.getLsbD 16 = sb ∧
      w.extractLsb' 13 3 = t := by
    intro c t
    refine ⟨?_, ?_, ?_, ?_, ?_, ?_⟩ <;> (try ext i hi) <;>
      simp only [BitVec.getElem_extractLsb', BitVec.getLsbD_append] <;> grind
  obtain ⟨e1, e2, e3, e4, e5, e6⟩ := e count stride
  simp only [decodeRep, fmtJ_imm25, e1, e2, e3, e4, e5, e6, zeroThen, if_true]

theorem cnew (d : Reg) (a : Reg) : Statement (.cnew d a) := by
  rintro _ ⟨⟩ _
  rfl

theorem cdrop (d : Reg) : Statement (.cdrop d) := by
  rintro _ ⟨⟩ _
  rfl

theorem cshare (d : Reg) (a : Reg) : Statement (.cshare d a) := by
  rintro _ ⟨⟩ _
  rfl

theorem cseam (d : Reg) (a : Reg) (b : Reg) : Statement (.cseam d a b) := by
  rintro _ ⟨⟩ _
  rfl

theorem chemh (d : Reg) (a : Reg) (b : Reg) : Statement (.chemh d a b) := by
  rintro _ ⟨⟩ _
  rfl

theorem chemt (d : Reg) (a : Reg) (b : Reg) : Statement (.chemt d a b) := by
  rintro _ ⟨⟩ _
  rfl

theorem csplit (d : Reg) (a : Reg) (b : Reg) : Statement (.csplit d a b) := by
  rintro _ ⟨⟩ _
  rfl

theorem cslice (d : Reg) (a : Reg) (b : Reg) : Statement (.cslice d a b) := by
  rintro _ ⟨⟩ _
  rfl

theorem cpack (d : Reg) (a : Reg) : Statement (.cpack d a) := by
  rintro _ ⟨⟩ _
  rfl

theorem cmovv (d : Reg) (a : Reg) : Statement (.cmovv d a) := by
  rintro _ ⟨⟩ _
  rfl

theorem cretype (d : Reg) (a : Reg) (ty : ElemType) : Statement (.cretype d a ty) := by
  rintro _ ⟨⟩ _
  obtain ⟨h1, h2, h3⟩ := typeField ty
  show zeroThen ((0#2 ++ ty.code : Reg).extractLsb' 5 2) (match ElemType.ofCode ((0#2 ++ ty.code : Reg).extractLsb' 0 5) with
    | some ty => _ | none => _) = _
  rw [h1, h2, h3]
  rfl

theorem cpost (d : Reg) (b : Reg) : Statement (.cpost d b) := by
  rintro _ ⟨⟩ _
  rfl

theorem ctake (d : Reg) (a : Reg) (b : Reg) : Statement (.ctake d a b) := by
  rintro _ ⟨⟩ _
  rfl

theorem clen (d : Reg) (a : Reg) : Statement (.clen d a) := by
  rintro _ ⟨⟩ _
  rfl

theorem cinfo (d : Reg) (a : Reg) : Statement (.cinfo d a) := by
  rintro _ ⟨⟩ _
  rfl

theorem cpool (d : Reg) : Statement (.cpool d) := by
  rintro _ ⟨⟩ _
  rfl

theorem vget (d : Reg) (a : Reg) (b : Reg) : Statement (.vget d a b) := by
  rintro _ ⟨⟩ _
  rfl

theorem vput (d : Reg) (a : Reg) (b : Reg) : Statement (.vput d a b) := by
  rintro _ ⟨⟩ _
  rfl

theorem vadd (m : Bool) (s : Bool) (d : Reg) (a : Reg) (b : Reg) : Statement (.vadd m s d a b) := by
  rintro _ ⟨⟩ _
  cases m <;> cases s <;> with_unfolding_all rfl

theorem vsub (m : Bool) (s : Bool) (d : Reg) (a : Reg) (b : Reg) : Statement (.vsub m s d a b) := by
  rintro _ ⟨⟩ _
  cases m <;> cases s <;> with_unfolding_all rfl

theorem vrsub (m : Bool) (s : Bool) (d : Reg) (a : Reg) (b : Reg) : Statement (.vrsub m s d a b) := by
  rintro _ ⟨⟩ _
  cases m <;> cases s <;> with_unfolding_all rfl

theorem vmul (m : Bool) (s : Bool) (d : Reg) (a : Reg) (b : Reg) : Statement (.vmul m s d a b) := by
  rintro _ ⟨⟩ _
  cases m <;> cases s <;> with_unfolding_all rfl

theorem vadds (m : Bool) (s : Bool) (d : Reg) (a : Reg) (b : Reg) : Statement (.vadds m s d a b) := by
  rintro _ ⟨⟩ _
  cases m <;> cases s <;> with_unfolding_all rfl

theorem vsubs (m : Bool) (s : Bool) (d : Reg) (a : Reg) (b : Reg) : Statement (.vsubs m s d a b) := by
  rintro _ ⟨⟩ _
  cases m <;> cases s <;> with_unfolding_all rfl

theorem vmulh (m : Bool) (s : Bool) (d : Reg) (a : Reg) (b : Reg) : Statement (.vmulh m s d a b) := by
  rintro _ ⟨⟩ _
  cases m <;> cases s <;> with_unfolding_all rfl

theorem vavg (m : Bool) (s : Bool) (d : Reg) (a : Reg) (b : Reg) : Statement (.vavg m s d a b) := by
  rintro _ ⟨⟩ _
  cases m <;> cases s <;> with_unfolding_all rfl

theorem vdiv (m : Bool) (s : Bool) (d : Reg) (a : Reg) (b : Reg) : Statement (.vdiv m s d a b) := by
  rintro _ ⟨⟩ _
  cases m <;> cases s <;> with_unfolding_all rfl

theorem vrem (m : Bool) (s : Bool) (d : Reg) (a : Reg) (b : Reg) : Statement (.vrem m s d a b) := by
  rintro _ ⟨⟩ _
  cases m <;> cases s <;> with_unfolding_all rfl

theorem vmin (m : Bool) (s : Bool) (d : Reg) (a : Reg) (b : Reg) : Statement (.vmin m s d a b) := by
  rintro _ ⟨⟩ _
  cases m <;> cases s <;> with_unfolding_all rfl

theorem vmax (m : Bool) (s : Bool) (d : Reg) (a : Reg) (b : Reg) : Statement (.vmax m s d a b) := by
  rintro _ ⟨⟩ _
  cases m <;> cases s <;> with_unfolding_all rfl

theorem vand (m : Bool) (s : Bool) (d : Reg) (a : Reg) (b : Reg) : Statement (.vand m s d a b) := by
  rintro _ ⟨⟩ _
  cases m <;> cases s <;> with_unfolding_all rfl

theorem vor (m : Bool) (s : Bool) (d : Reg) (a : Reg) (b : Reg) : Statement (.vor m s d a b) := by
  rintro _ ⟨⟩ _
  cases m <;> cases s <;> with_unfolding_all rfl

theorem vxor (m : Bool) (s : Bool) (d : Reg) (a : Reg) (b : Reg) : Statement (.vxor m s d a b) := by
  rintro _ ⟨⟩ _
  cases m <;> cases s <;> with_unfolding_all rfl

theorem vandn (m : Bool) (s : Bool) (d : Reg) (a : Reg) (b : Reg) : Statement (.vandn m s d a b) := by
  rintro _ ⟨⟩ _
  cases m <;> cases s <;> with_unfolding_all rfl

theorem vsll (m : Bool) (s : Bool) (d : Reg) (a : Reg) (b : Reg) : Statement (.vsll m s d a b) := by
  rintro _ ⟨⟩ _
  cases m <;> cases s <;> with_unfolding_all rfl

theorem vsrl (m : Bool) (s : Bool) (d : Reg) (a : Reg) (b : Reg) : Statement (.vsrl m s d a b) := by
  rintro _ ⟨⟩ _
  cases m <;> cases s <;> with_unfolding_all rfl

theorem vsra (m : Bool) (s : Bool) (d : Reg) (a : Reg) (b : Reg) : Statement (.vsra m s d a b) := by
  rintro _ ⟨⟩ _
  cases m <;> cases s <;> with_unfolding_all rfl

theorem vrot (m : Bool) (s : Bool) (d : Reg) (a : Reg) (b : Reg) : Statement (.vrot m s d a b) := by
  rintro _ ⟨⟩ _
  cases m <;> cases s <;> with_unfolding_all rfl

theorem vceq (m : Bool) (s : Bool) (d : Reg) (a : Reg) (b : Reg) : Statement (.vceq m s d a b) := by
  rintro _ ⟨⟩ _
  cases m <;> cases s <;> with_unfolding_all rfl

theorem vcne (m : Bool) (s : Bool) (d : Reg) (a : Reg) (b : Reg) : Statement (.vcne m s d a b) := by
  rintro _ ⟨⟩ _
  cases m <;> cases s <;> with_unfolding_all rfl

theorem vclt (m : Bool) (s : Bool) (d : Reg) (a : Reg) (b : Reg) : Statement (.vclt m s d a b) := by
  rintro _ ⟨⟩ _
  cases m <;> cases s <;> with_unfolding_all rfl

theorem vcle (m : Bool) (s : Bool) (d : Reg) (a : Reg) (b : Reg) : Statement (.vcle m s d a b) := by
  rintro _ ⟨⟩ _
  cases m <;> cases s <;> with_unfolding_all rfl

theorem vfadd (m : Bool) (s : Bool) (d : Reg) (a : Reg) (b : Reg) : Statement (.vfadd m s d a b) := by
  rintro _ ⟨⟩ _
  cases m <;> cases s <;> with_unfolding_all rfl

theorem vfsub (m : Bool) (s : Bool) (d : Reg) (a : Reg) (b : Reg) : Statement (.vfsub m s d a b) := by
  rintro _ ⟨⟩ _
  cases m <;> cases s <;> with_unfolding_all rfl

theorem vfmul (m : Bool) (s : Bool) (d : Reg) (a : Reg) (b : Reg) : Statement (.vfmul m s d a b) := by
  rintro _ ⟨⟩ _
  cases m <;> cases s <;> with_unfolding_all rfl

theorem vfdiv (m : Bool) (s : Bool) (d : Reg) (a : Reg) (b : Reg) : Statement (.vfdiv m s d a b) := by
  rintro _ ⟨⟩ _
  cases m <;> cases s <;> with_unfolding_all rfl

theorem vfmin (m : Bool) (s : Bool) (d : Reg) (a : Reg) (b : Reg) : Statement (.vfmin m s d a b) := by
  rintro _ ⟨⟩ _
  cases m <;> cases s <;> with_unfolding_all rfl

theorem vfmax (m : Bool) (s : Bool) (d : Reg) (a : Reg) (b : Reg) : Statement (.vfmax m s d a b) := by
  rintro _ ⟨⟩ _
  cases m <;> cases s <;> with_unfolding_all rfl

theorem vfma (m : Bool) (s : Bool) (d : Reg) (a : Reg) (b : Reg) : Statement (.vfma m s d a b) := by
  rintro _ ⟨⟩ _
  cases m <;> cases s <;> with_unfolding_all rfl

theorem vfms (m : Bool) (s : Bool) (d : Reg) (a : Reg) (b : Reg) : Statement (.vfms m s d a b) := by
  rintro _ ⟨⟩ _
  cases m <;> cases s <;> with_unfolding_all rfl

theorem vfceq (m : Bool) (s : Bool) (d : Reg) (a : Reg) (b : Reg) : Statement (.vfceq m s d a b) := by
  rintro _ ⟨⟩ _
  cases m <;> cases s <;> with_unfolding_all rfl

theorem vfclt (m : Bool) (s : Bool) (d : Reg) (a : Reg) (b : Reg) : Statement (.vfclt m s d a b) := by
  rintro _ ⟨⟩ _
  cases m <;> cases s <;> with_unfolding_all rfl

theorem vfcle (m : Bool) (s : Bool) (d : Reg) (a : Reg) (b : Reg) : Statement (.vfcle m s d a b) := by
  rintro _ ⟨⟩ _
  cases m <;> cases s <;> with_unfolding_all rfl

theorem vfcun (m : Bool) (s : Bool) (d : Reg) (a : Reg) (b : Reg) : Statement (.vfcun m s d a b) := by
  rintro _ ⟨⟩ _
  cases m <;> cases s <;> with_unfolding_all rfl

theorem vscale (m : Bool) (s : Bool) (d : Reg) (a : Reg) (b : Reg) : Statement (.vscale m s d a b) := by
  rintro _ ⟨⟩ _
  cases m <;> cases s <;> with_unfolding_all rfl

theorem vfnma (m : Bool) (s : Bool) (d : Reg) (a : Reg) (b : Reg) : Statement (.vfnma m s d a b) := by
  rintro _ ⟨⟩ _
  cases m <;> cases s <;> with_unfolding_all rfl

theorem vfsgn (m : Bool) (s : Bool) (d : Reg) (a : Reg) (b : Reg) : Statement (.vfsgn m s d a b) := by
  rintro _ ⟨⟩ _
  cases m <;> cases s <;> with_unfolding_all rfl

theorem vfsqrt (m : Bool) (d : Reg) (a : Reg) : Statement (.vfsqrt m d a) := by
  rintro _ ⟨⟩ _
  cases m <;> with_unfolding_all rfl

theorem vfrcp (m : Bool) (d : Reg) (a : Reg) : Statement (.vfrcp m d a) := by
  rintro _ ⟨⟩ _
  cases m <;> with_unfolding_all rfl

theorem vfrsqrt (m : Bool) (d : Reg) (a : Reg) : Statement (.vfrsqrt m d a) := by
  rintro _ ⟨⟩ _
  cases m <;> with_unfolding_all rfl

theorem vflog2 (m : Bool) (d : Reg) (a : Reg) : Statement (.vflog2 m d a) := by
  rintro _ ⟨⟩ _
  cases m <;> with_unfolding_all rfl

theorem vfexp2 (m : Bool) (d : Reg) (a : Reg) : Statement (.vfexp2 m d a) := by
  rintro _ ⟨⟩ _
  cases m <;> with_unfolding_all rfl

theorem vftanh (m : Bool) (d : Reg) (a : Reg) : Statement (.vftanh m d a) := by
  rintro _ ⟨⟩ _
  cases m <;> with_unfolding_all rfl

theorem vfabs (m : Bool) (d : Reg) (a : Reg) : Statement (.vfabs m d a) := by
  rintro _ ⟨⟩ _
  cases m <;> with_unfolding_all rfl

theorem vfneg (m : Bool) (d : Reg) (a : Reg) : Statement (.vfneg m d a) := by
  rintro _ ⟨⟩ _
  cases m <;> with_unfolding_all rfl

theorem vabs (m : Bool) (d : Reg) (a : Reg) : Statement (.vabs m d a) := by
  rintro _ ⟨⟩ _
  cases m <;> with_unfolding_all rfl

theorem vneg (m : Bool) (d : Reg) (a : Reg) : Statement (.vneg m d a) := by
  rintro _ ⟨⟩ _
  cases m <;> with_unfolding_all rfl

theorem vnot (m : Bool) (d : Reg) (a : Reg) : Statement (.vnot m d a) := by
  rintro _ ⟨⟩ _
  cases m <;> with_unfolding_all rfl

theorem vclz (m : Bool) (d : Reg) (a : Reg) : Statement (.vclz m d a) := by
  rintro _ ⟨⟩ _
  cases m <;> with_unfolding_all rfl

theorem vpopc (m : Bool) (d : Reg) (a : Reg) : Statement (.vpopc m d a) := by
  rintro _ ⟨⟩ _
  cases m <;> with_unfolding_all rfl

theorem vfcat (m : Bool) (d : Reg) (a : Reg) : Statement (.vfcat m d a) := by
  rintro _ ⟨⟩ _
  cases m <;> with_unfolding_all rfl

theorem vmov (m : Bool) (d : Reg) (a : Reg) : Statement (.vmov m d a) := by
  rintro _ ⟨⟩ _
  cases m <;> with_unfolding_all rfl

theorem vid (m : Bool) (d : Reg) : Statement (.vid m d) := by
  rintro _ ⟨⟩ _
  cases m <;> with_unfolding_all rfl

theorem vcvt (m : Bool) (sat : Bool) (rm : Rounding) (d : Reg) (a : Reg) (ty : ElemType) : Statement (.vcvt m sat rm d a ty) := by
  rintro _ ⟨⟩ _
  obtain ⟨h1, h2, h3⟩ := typeField ty
  have g : ∀ m s : Bool, ∀ k : BitVec 2, (vecFn m s k).getLsbD 3 = m ∧ (vecFn m s k).getLsbD 2 = s ∧
      (vecFn m s k).extractLsb' 0 2 = k := by decide
  obtain ⟨g1, g2, g3⟩ := g m sat rm.code
  show decodeVcvt _ = _
  simp only [decodeVcvt, fmtA, h1, h2, h3, g1, g2, g3, zeroThen, if_true]
  cases rm <;> rfl

theorem vslup (m : Bool) (d : Reg) (a : Reg) (b : Reg) : Statement (.vslup m d a b) := by
  rintro _ ⟨⟩ _
  cases m <;> with_unfolding_all rfl

theorem vsldn (m : Bool) (d : Reg) (a : Reg) (b : Reg) : Statement (.vsldn m d a b) := by
  rintro _ ⟨⟩ _
  cases m <;> with_unfolding_all rfl

theorem vrgath (m : Bool) (s : Bool) (d : Reg) (a : Reg) (b : Reg) : Statement (.vrgath m s d a b) := by
  rintro _ ⟨⟩ _
  cases m <;> cases s <;> with_unfolding_all rfl

theorem vcompr (d : Reg) (a : Reg) (b : Reg) : Statement (.vcompr d a b) := by
  rintro _ ⟨⟩ _
  with_unfolding_all rfl

theorem vzip (m : Bool) (d : Reg) (a : Reg) (b : Reg) : Statement (.vzip m d a b) := by
  rintro _ ⟨⟩ _
  cases m <;> with_unfolding_all rfl

theorem vunzip (m : Bool) (d : Reg) (a : Reg) (b : Reg) : Statement (.vunzip m d a b) := by
  rintro _ ⟨⟩ _
  cases m <;> with_unfolding_all rfl

theorem vrev (m : Bool) (d : Reg) (a : Reg) : Statement (.vrev m d a) := by
  rintro _ ⟨⟩ _
  cases m <;> with_unfolding_all rfl

theorem vmerge (s : Bool) (d : Reg) (a : Reg) (b : Reg) : Statement (.vmerge s d a b) := by
  rintro _ ⟨⟩ _
  cases s <;> with_unfolding_all rfl

theorem vbcast (m : Bool) (s : Bool) (d : Reg) (b : Reg) : Statement (.vbcast m s d b) := by
  rintro _ ⟨⟩ _
  cases m <;> cases s <;> with_unfolding_all rfl

theorem vmand (d : Reg) (a : Reg) (b : Reg) : Statement (.vmand d a b) := by
  rintro _ ⟨⟩ _
  with_unfolding_all rfl

theorem vmor (d : Reg) (a : Reg) (b : Reg) : Statement (.vmor d a b) := by
  rintro _ ⟨⟩ _
  with_unfolding_all rfl

theorem vmxor (d : Reg) (a : Reg) (b : Reg) : Statement (.vmxor d a b) := by
  rintro _ ⟨⟩ _
  with_unfolding_all rfl

theorem vmnot (d : Reg) (a : Reg) : Statement (.vmnot d a) := by
  rintro _ ⟨⟩ _
  with_unfolding_all rfl

theorem vmcount (m : Bool) (d : Reg) (a : Reg) : Statement (.vmcount m d a) := by
  rintro _ ⟨⟩ _
  cases m <;> with_unfolding_all rfl

theorem vmlow (m : Bool) (d : Reg) (a : Reg) : Statement (.vmlow m d a) := by
  rintro _ ⟨⟩ _
  cases m <;> with_unfolding_all rfl

theorem vredsum (m : Bool) (d : Reg) (a : Reg) : Statement (.vredsum m d a) := by
  rintro _ ⟨⟩ _
  cases m <;> with_unfolding_all rfl

theorem vredosum (m : Bool) (d : Reg) (a : Reg) : Statement (.vredosum m d a) := by
  rintro _ ⟨⟩ _
  cases m <;> with_unfolding_all rfl

theorem vredmax (m : Bool) (d : Reg) (a : Reg) : Statement (.vredmax m d a) := by
  rintro _ ⟨⟩ _
  cases m <;> with_unfolding_all rfl

theorem vredmin (m : Bool) (d : Reg) (a : Reg) : Statement (.vredmin m d a) := by
  rintro _ ⟨⟩ _
  cases m <;> with_unfolding_all rfl

theorem vredmaxi (m : Bool) (d : Reg) (a : Reg) : Statement (.vredmaxi m d a) := by
  rintro _ ⟨⟩ h
  have e : pairThen d (.ok (.vredmaxi m d a)) = .ok (.vredmaxi m d a) := pairThen_of d _ h
  cases m <;> with_unfolding_all exact e

theorem vredmini (m : Bool) (d : Reg) (a : Reg) : Statement (.vredmini m d a) := by
  rintro _ ⟨⟩ h
  have e : pairThen d (.ok (.vredmini m d a)) = .ok (.vredmini m d a) := pairThen_of d _ h
  cases m <;> with_unfolding_all exact e

theorem vdraw (m : Bool) (d : Reg) (a : Reg) : Statement (.vdraw m d a) := by
  rintro _ ⟨⟩ h
  have e : pairThen d (.ok (.vdraw m d a)) = .ok (.vdraw m d a) := pairThen_of d _ h
  cases m <;> with_unfolding_all exact e

theorem vdrawt (m : Bool) (d : Reg) (a : Reg) : Statement (.vdrawt m d a) := by
  rintro _ ⟨⟩ h
  have e : pairThen d (.ok (.vdrawt m d a)) = .ok (.vdrawt m d a) := pairThen_of d _ h
  cases m <;> with_unfolding_all exact e

theorem vdrawp (m : Bool) (d : Reg) (a : Reg) (b : Reg) : Statement (.vdrawp m d a b) := by
  rintro _ ⟨⟩ h
  have e : pairThen d (.ok (.vdrawp m d a b)) = .ok (.vdrawp m d a b) := pairThen_of d _ h
  cases m <;> with_unfolding_all exact e

theorem xdmerge (d : Reg) (a : Reg) (b : Reg) : Statement (.xdmerge d a b) := by
  rintro _ ⟨⟩ h
  have h : (pairField d && pairField a && pairField b) = true := h
  simp only [Bool.and_eq_true] at h
  have e : pairThen b (pairThen a (pairThen d (.ok (.xdmerge d a b)))) = .ok (.xdmerge d a b) := by
    rw [pairThen_of _ _ h.2, pairThen_of _ _ h.1.2, pairThen_of _ _ h.1.1]
  with_unfolding_all exact e

theorem vrand (m : Bool) (d : Reg) : Statement (.vrand m d) := by
  rintro _ ⟨⟩ _
  cases m <;> with_unfolding_all rfl

theorem vld (m : Bool) (nt : Bool) (d : Reg) (a : Reg) : Statement (.vld m nt d a) := by
  rintro _ ⟨⟩ _
  cases m <;> cases nt <;> with_unfolding_all rfl

theorem vlds (m : Bool) (nt : Bool) (d : Reg) (a : Reg) (b : Reg) : Statement (.vlds m nt d a b) := by
  rintro _ ⟨⟩ _
  cases m <;> cases nt <;> with_unfolding_all rfl

theorem vldx (m : Bool) (nt : Bool) (d : Reg) (a : Reg) (b : Reg) : Statement (.vldx m nt d a b) := by
  rintro _ ⟨⟩ _
  cases m <;> cases nt <;> with_unfolding_all rfl

theorem vlseg (m : Bool) (nt : Bool) (d : Reg) (a : Reg) (n : BitVec 3) : Statement (.vlseg m nt d a n) := by
  rintro _ ⟨⟩ h
  have h : (n != 0#3) = true := h
  have e0 : ∀ n : BitVec 3, (n != 0#3) = true → (n.setWidth 7 : Reg) ≠ 0#7 := by decide
  have e := e0 n h
  have g : ∀ m s : Bool, (vecFn m s 3).getLsbD 3 = m ∧ (vecFn m s 3).getLsbD 2 = s ∧ (vecFn m s 3).extractLsb' 0 2 = 3#2 := by
    decide
  obtain ⟨g1, g2, g3⟩ := g m nt
  show decodeMajor46 _ = _
  simp only [decodeMajor46, fmtA, g1, g2, g3, e, smallField_three, if_false]
  rfl

theorem vst (m : Bool) (nt : Bool) (d : Reg) (a : Reg) : Statement (.vst m nt d a) := by
  rintro _ ⟨⟩ _
  cases m <;> cases nt <;> with_unfolding_all rfl

theorem vsts (m : Bool) (nt : Bool) (d : Reg) (a : Reg) (b : Reg) : Statement (.vsts m nt d a b) := by
  rintro _ ⟨⟩ _
  cases m <;> cases nt <;> with_unfolding_all rfl

theorem vstx (m : Bool) (nt : Bool) (d : Reg) (a : Reg) (b : Reg) : Statement (.vstx m nt d a b) := by
  rintro _ ⟨⟩ _
  cases m <;> cases nt <;> with_unfolding_all rfl

theorem vsseg (m : Bool) (nt : Bool) (d : Reg) (a : Reg) (n : BitVec 3) : Statement (.vsseg m nt d a n) := by
  rintro _ ⟨⟩ h
  have h : (n != 0#3) = true := h
  have e0 : ∀ n : BitVec 3, (n != 0#3) = true → (n.setWidth 7 : Reg) ≠ 0#7 := by decide
  have e := e0 n h
  have g : ∀ m s : Bool, (vecFn m s 3).getLsbD 3 = m ∧ (vecFn m s 3).getLsbD 2 = s ∧ (vecFn m s 3).extractLsb' 0 2 = 3#2 := by
    decide
  obtain ⟨g1, g2, g3⟩ := g m nt
  show decodeMajor47 _ = _
  simp only [decodeMajor47, fmtA, g1, g2, g3, e, smallField_three, if_false]
  rfl

theorem vsetrun (d : Reg) (a : Reg) (b : Reg) : Statement (.vsetrun d a b) := by
  rintro _ ⟨⟩ h
  have e : pairThen d (.ok (.vsetrun d a b)) = .ok (.vsetrun d a b) := pairThen_of d _ h
  exact e

theorem smap (d : Reg) (a : Reg) (b : Reg) : Statement (.smap d a b) := by
  rintro _ ⟨⟩ _
  rfl

theorem sunmap (a : Reg) : Statement (.sunmap a) := by
  rintro _ ⟨⟩ _
  rfl

theorem sflush (a : Reg) : Statement (.sflush a) := by
  rintro _ ⟨⟩ _
  rfl

theorem mattach (d : Reg) (a : Reg) : Statement (.mattach d a) := by
  rintro _ ⟨⟩ _
  rfl

theorem mshape (a : Reg) : Statement (.mshape a) := by
  rintro _ ⟨⟩ _
  rfl

theorem mzero (d : BitVec 2) : Statement (.mzero d) := by
  rintro _ ⟨⟩ _
  exact smallField_two d (fun d => .ok (.mzero d))

theorem mread (d : Reg) (a : BitVec 2) (b : Reg) : Statement (.mread d a b) := by
  rintro _ ⟨⟩ _
  exact smallField_two a (fun a => .ok (.mread d a b))

theorem mwrite (d : BitVec 2) (a : Reg) (b : Reg) : Statement (.mwrite d a b) := by
  rintro _ ⟨⟩ _
  exact smallField_two d (fun d => .ok (.mwrite d a b))

theorem msprog (a : Reg) : Statement (.msprog a) := by
  rintro _ ⟨⟩ _
  rfl

theorem msmod (d : BitVec 2) (a : Reg) (b : Reg) : Statement (.msmod d a b) := by
  rintro _ ⟨⟩ _
  exact smallField_two d (fun d => .ok (.msmod d a b))

theorem mmaf (z : Bool) (bScr : Bool) (aScr : Bool) (d : BitVec 2) (a : Reg) (b : Reg) : Statement (.mmaf z bScr aScr d a b) := by
  rintro _ ⟨⟩ h
  have h : ((!aScr || scratchField a) && (!bScr || scratchField b)) = true := h
  rw [Bool.and_eq_true] at h
  have e : ∀ z bScr aScr : Bool, let f : BitVec 4 := BitVec.ofBool z ++ BitVec.ofBool bScr ++ BitVec.ofBool aScr ++ BitVec.ofBool false
      f.getLsbD 3 = z ∧ f.getLsbD 2 = bScr ∧ f.getLsbD 1 = aScr ∧ f.getLsbD 0 = false := by decide
  obtain ⟨e1, e2, e3, e4⟩ := e z bScr aScr
  show decodeMma _ = _
  simp only [decodeMma, fmtA, smallField_two, e1, e2, e3, e4, scratchThen_of _ _ _ h.1, scratchThen_of _ _ _ h.2]
  rfl

theorem mmao (z : Bool) (bScr : Bool) (aScr : Bool) (d : BitVec 2) (a : Reg) (b : Reg) : Statement (.mmao z bScr aScr d a b) := by
  rintro _ ⟨⟩ h
  have h : ((!aScr || scratchField a) && (!bScr || scratchField b)) = true := h
  rw [Bool.and_eq_true] at h
  have e : ∀ z bScr aScr : Bool, let f : BitVec 4 := BitVec.ofBool z ++ BitVec.ofBool bScr ++ BitVec.ofBool aScr ++ BitVec.ofBool true
      f.getLsbD 3 = z ∧ f.getLsbD 2 = bScr ∧ f.getLsbD 1 = aScr ∧ f.getLsbD 0 = true := by decide
  obtain ⟨e1, e2, e3, e4⟩ := e z bScr aScr
  show decodeMma _ = _
  simp only [decodeMma, fmtA, smallField_two, e1, e2, e3, e4, scratchThen_of _ _ _ h.1, scratchThen_of _ _ _ h.2]
  rfl

theorem fsetl (c : BitVec 2) (l : BitVec 3) (a : Reg) (b : Reg) : Statement (.fsetl c l a b) := by
  rintro _ ⟨⟩ h
  have h : (l != 7#3) = true := h
  have e : ∀ (c : BitVec 2) (l : BitVec 3), (0#2 ++ l ++ c : Reg).extractLsb' 5 2 = 0#2 ∧ (0#2 ++ l ++ c : Reg).extractLsb' 0 2 = c ∧
      (0#2 ++ l ++ c : Reg).extractLsb' 2 3 = l := by decide
  obtain ⟨e1, e2, e3⟩ := e c l
  show (if (0#2 ++ l ++ c : Reg).extractLsb' 2 3 = 7#3 then _ else
    zeroThen ((0#2 ++ l ++ c : Reg).extractLsb' 5 2) (Except.ok (Instr.fsetl ((0#2 ++ l ++ c : Reg).extractLsb' 0 2)
      ((0#2 ++ l ++ c : Reg).extractLsb' 2 3) a b))) = _
  rw [e1, e2, e3, if_neg (by simpa using h)]
  rfl

theorem fgo (c : BitVec 2) (a : Reg) (b : Reg) : Statement (.fgo c a b) := by
  rintro _ ⟨⟩ _
  exact smallField_two c (fun c => .ok (.fgo c a b))

theorem fgov (d : Reg) (c : BitVec 2) (b : Reg) : Statement (.fgov d c b) := by
  rintro _ ⟨⟩ _
  exact smallField_two c (fun c => .ok (.fgov d c b))

theorem fnotify (c : BitVec 2) (a : Reg) (b : Reg) : Statement (.fnotify c a b) := by
  rintro _ ⟨⟩ _
  exact smallField_two c (fun c => .ok (.fnotify c a b))

theorem fdrain (c : BitVec 2) : Statement (.fdrain c) := by
  rintro _ ⟨⟩ _
  exact smallField_two c (fun c => .ok (.fdrain c))

theorem fcancel (c : BitVec 2) : Statement (.fcancel c) := by
  rintro _ ⟨⟩ _
  exact smallField_two c (fun c => .ok (.fcancel c))

theorem fresume (c : BitVec 2) : Statement (.fresume c) := by
  rintro _ ⟨⟩ _
  exact smallField_two c (fun c => .ok (.fresume c))

theorem fstat (d : Reg) (c : BitVec 2) : Statement (.fstat d c) := by
  rintro _ ⟨⟩ _
  exact smallField_two c (fun c => .ok (.fstat d c))

theorem amoadd (d : Reg) (a : Reg) (b : Reg) : Statement (.amoadd d a b) := by
  rintro _ ⟨⟩ _
  rfl

theorem amoand (d : Reg) (a : Reg) (b : Reg) : Statement (.amoand d a b) := by
  rintro _ ⟨⟩ _
  rfl

theorem amoor (d : Reg) (a : Reg) (b : Reg) : Statement (.amoor d a b) := by
  rintro _ ⟨⟩ _
  rfl

theorem amoxor (d : Reg) (a : Reg) (b : Reg) : Statement (.amoxor d a b) := by
  rintro _ ⟨⟩ _
  rfl

theorem amomin (d : Reg) (a : Reg) (b : Reg) : Statement (.amomin d a b) := by
  rintro _ ⟨⟩ _
  rfl

theorem amomax (d : Reg) (a : Reg) (b : Reg) : Statement (.amomax d a b) := by
  rintro _ ⟨⟩ _
  rfl

theorem amominn (d : Reg) (a : Reg) (b : Reg) : Statement (.amominn d a b) := by
  rintro _ ⟨⟩ _
  rfl

theorem amomaxn (d : Reg) (a : Reg) (b : Reg) : Statement (.amomaxn d a b) := by
  rintro _ ⟨⟩ _
  rfl

theorem amoswp (d : Reg) (a : Reg) (b : Reg) : Statement (.amoswp d a b) := by
  rintro _ ⟨⟩ _
  rfl

theorem amocas (d : Reg) (a : Reg) (b : Reg) : Statement (.amocas d a b) := by
  rintro _ ⟨⟩ _
  rfl

theorem amofadd (d : Reg) (a : Reg) (b : Reg) : Statement (.amofadd d a b) := by
  rintro _ ⟨⟩ _
  rfl

theorem amoaddAr (d : Reg) (a : Reg) (b : Reg) : Statement (.amoaddAr d a b) := by
  rintro _ ⟨⟩ _
  rfl

theorem amoandAr (d : Reg) (a : Reg) (b : Reg) : Statement (.amoandAr d a b) := by
  rintro _ ⟨⟩ _
  rfl

theorem amoorAr (d : Reg) (a : Reg) (b : Reg) : Statement (.amoorAr d a b) := by
  rintro _ ⟨⟩ _
  rfl

theorem amoxorAr (d : Reg) (a : Reg) (b : Reg) : Statement (.amoxorAr d a b) := by
  rintro _ ⟨⟩ _
  rfl

theorem amominAr (d : Reg) (a : Reg) (b : Reg) : Statement (.amominAr d a b) := by
  rintro _ ⟨⟩ _
  rfl

theorem amomaxAr (d : Reg) (a : Reg) (b : Reg) : Statement (.amomaxAr d a b) := by
  rintro _ ⟨⟩ _
  rfl

theorem amominnAr (d : Reg) (a : Reg) (b : Reg) : Statement (.amominnAr d a b) := by
  rintro _ ⟨⟩ _
  rfl

theorem amomaxnAr (d : Reg) (a : Reg) (b : Reg) : Statement (.amomaxnAr d a b) := by
  rintro _ ⟨⟩ _
  rfl

theorem amoswpAr (d : Reg) (a : Reg) (b : Reg) : Statement (.amoswpAr d a b) := by
  rintro _ ⟨⟩ _
  rfl

theorem amocasAr (d : Reg) (a : Reg) (b : Reg) : Statement (.amocasAr d a b) := by
  rintro _ ⟨⟩ _
  rfl

theorem amofaddAr (d : Reg) (a : Reg) (b : Reg) : Statement (.amofaddAr d a b) := by
  rintro _ ⟨⟩ _
  rfl

theorem ldacq (d : Reg) (a : Reg) (imm : BitVec 11) : Statement (.ldacq d a imm) := by
  rintro _ ⟨⟩ _
  exact congrArg (fun x => Except.ok (Instr.ldacq d a x)) (fmtB_imm11 _ _ _ imm)

theorem strel (d : Reg) (a : Reg) (imm : BitVec 11) : Statement (.strel d a imm) := by
  rintro _ ⟨⟩ _
  exact congrArg (fun x => Except.ok (Instr.strel d a x)) (fmtB_imm11 _ _ _ imm)

theorem fence (scope : FenceScope) (pred : BitVec 4) (succ : BitVec 4) : Statement (.fence scope pred succ) := by
  rintro _ ⟨⟩ _
  have q : ∀ f : Fields, f.op = 0x60 → decodeFields f = decodeFence f := by
    intro f hf
    simp only [decodeFields, decodeLow, hf]
    rfl
  rw [q _ rfl]
  have e : ∀ (s p : BitVec 4) (c : BitVec 3), (s ++ p ++ c : BitVec 11).extractLsb' 0 3 = c ∧ (s ++ p ++ c : BitVec 11).extractLsb' 3 4 = p ∧
      (s ++ p ++ c : BitVec 11).extractLsb' 7 4 = s := by
    intro s p c
    refine ⟨?_, ?_, ?_⟩ <;> ext i hi <;> simp only [BitVec.getElem_extractLsb', BitVec.getLsbD_append] <;> grind
  obtain ⟨e1, e2, e3⟩ := e succ pred scope.code
  simp only [decodeFence, fmtB_imm11, e1, e2, e3]
  cases scope <;> rfl

theorem binit (a : Reg) (b : Reg) : Statement (.binit a b) := by
  rintro _ ⟨⟩ _
  rfl

theorem barr (d : Reg) (a : Reg) : Statement (.barr d a) := by
  rintro _ ⟨⟩ _
  rfl

theorem bwait (a : Reg) (b : Reg) : Statement (.bwait a b) := by
  rintro _ ⟨⟩ _
  rfl

theorem barw (d : Reg) (a : Reg) : Statement (.barw d a) := by
  rintro _ ⟨⟩ _
  rfl

theorem bwaitd (d : Reg) (a : Reg) (b : Reg) : Statement (.bwaitd d a b) := by
  rintro _ ⟨⟩ _
  rfl

theorem bgenBar (d : Reg) (a : Reg) : Statement (.bgenBar d a) := by
  rintro _ ⟨⟩ _
  rfl

theorem waddr (d : Reg) (a : Reg) (b : Reg) : Statement (.waddr d a b) := by
  rintro _ ⟨⟩ _
  rfl

theorem tread (d : Reg) (c : BitVec 4) : Statement (.tread d c) := by
  rintro _ ⟨⟩ h
  exact smallField_nine c (fun c => .ok (.tread d c)) (of_decide_eq_true h)

theorem twait (d : Reg) (c : BitVec 4) (b : Reg) : Statement (.twait d c b) := by
  rintro _ ⟨⟩ h
  exact smallField_nine c (fun c => .ok (.twait d c b)) (of_decide_eq_true h)

theorem nbind (c : BitVec 1) (a : Reg) (b : Reg) : Statement (.nbind c a b) := by
  rintro _ ⟨⟩ _
  exact smallField_one c (fun c => .ok (.nbind c a b))

theorem nunbind (c : BitVec 1) (b : Reg) : Statement (.nunbind c b) := by
  rintro _ ⟨⟩ _
  exact smallField_one c (fun c => .ok (.nunbind c b))

theorem ncmd (c : BitVec 1) (a : Reg) : Statement (.ncmd c a) := by
  rintro _ ⟨⟩ _
  exact smallField_one c (fun c => .ok (.ncmd c a))

theorem nfence (c : BitVec 1) : Statement (.nfence c) := by
  rintro _ ⟨⟩ _
  exact smallField_one c (fun c => .ok (.nfence c))

theorem nstat (d : Reg) (c : BitVec 1) : Statement (.nstat d c) := by
  rintro _ ⟨⟩ _
  exact smallField_one c (fun c => .ok (.nstat d c))

theorem kgrp (c : BitVec 1) (a : Reg) : Statement (.kgrp c a) := by
  rintro _ ⟨⟩ _
  exact smallField_one c (fun c => .ok (.kgrp c a))

theorem kred (c : BitVec 1) (a : Reg) : Statement (.kred c a) := by
  rintro _ ⟨⟩ _
  exact smallField_one c (fun c => .ok (.kred c a))

theorem kgat (c : BitVec 1) (a : Reg) : Statement (.kgat c a) := by
  rintro _ ⟨⟩ _
  exact smallField_one c (fun c => .ok (.kgat c a))

theorem kcast (c : BitVec 1) (a : Reg) : Statement (.kcast c a) := by
  rintro _ ⟨⟩ _
  exact smallField_one c (fun c => .ok (.kcast c a))

theorem kdraw (c : BitVec 1) (a : Reg) : Statement (.kdraw c a) := by
  rintro _ ⟨⟩ _
  exact smallField_one c (fun c => .ok (.kdraw c a))

theorem trap (code : BitVec 7) : Statement (.trap code) := by
  rintro _ ⟨⟩ _
  rfl

theorem sret (a : Reg) (b : Reg) : Statement (.sret a b) := by
  rintro _ ⟨⟩ _
  rfl

theorem ctxsave (a : Reg) (b : Reg) : Statement (.ctxsave a b) := by
  rintro _ ⟨⟩ _
  rfl

theorem ctxload (a : Reg) (b : Reg) : Statement (.ctxload a b) := by
  rintro _ ⟨⟩ _
  rfl

theorem tlbinv (a : Reg) (b : Reg) : Statement (.tlbinv a b) := by
  rintro _ ⟨⟩ _
  rfl

theorem wqpost (d : Reg) (a : Reg) (b : Reg) : Statement (.wqpost d a b) := by
  rintro _ ⟨⟩ _
  rfl

theorem wqstat (d : Reg) (a : Reg) (b : Reg) : Statement (.wqstat d a b) := by
  rintro _ ⟨⟩ _
  rfl

theorem fwset (a : Reg) (b : Reg) : Statement (.fwset a b) := by
  rintro _ ⟨⟩ _
  rfl

theorem pgrant (d : Reg) (a : Reg) (b : Reg) : Statement (.pgrant d a b) := by
  rintro _ ⟨⟩ _
  rfl

theorem prevoke (d : Reg) (a : Reg) (b : Reg) : Statement (.prevoke d a b) := by
  rintro _ ⟨⟩ _
  rfl

theorem pdeleg (d : Reg) (a : Reg) (b : Reg) : Statement (.pdeleg d a b) := by
  rintro _ ⟨⟩ _
  rfl

theorem pquery (d : Reg) (a : Reg) (b : Reg) : Statement (.pquery d a b) := by
  rintro _ ⟨⟩ _
  rfl

theorem ret : Statement .ret := by
  rintro _ ⟨⟩ _
  rfl

theorem nop : Statement .nop := by
  rintro _ ⟨⟩ _
  rfl

theorem yield : Statement .yield := by
  rintro _ ⟨⟩ _
  rfl

theorem tdone : Statement .tdone := by
  rintro _ ⟨⟩ _
  rfl

theorem mdetach : Statement .mdetach := by
  rintro _ ⟨⟩ _
  rfl

theorem tret : Statement .tret := by
  rintro _ ⟨⟩ _
  rfl

theorem tdecl : Statement .tdecl := by
  rintro _ ⟨⟩ _
  rfl

theorem fflagsSyncAccess (write : Bool) (d : Reg) (reg : BitVec 11) : Statement (.fflagsSyncAccess write d reg) := by
  rintro _ ⟨⟩

theorem mshapeWrite (d : Reg) : Statement (.mshapeWrite d) := by
  rintro _ ⟨⟩

theorem protMmClear (d : Reg) : Statement (.protMmClear d) := by
  rintro _ ⟨⟩

theorem vstartRepcntRestore (repcnt : Bool) (d : Reg) : Statement (.vstartRepcntRestore repcnt d) := by
  rintro _ ⟨⟩

theorem cpostTimeout : Statement .cpostTimeout := by
  rintro _ ⟨⟩

theorem ctakeTimeout : Statement .ctakeTimeout := by
  rintro _ ⟨⟩

theorem vectorPieceExecute : Statement .vectorPieceExecute := by
  rintro _ ⟨⟩

theorem boltWaitTimeout : Statement .boltWaitTimeout := by
  rintro _ ⟨⟩

theorem instructionRetire (mm : Mismatch) : Statement (.instructionRetire mm) := by
  rintro _ ⟨⟩

theorem reductionBegin : Statement .reductionBegin := by
  rintro _ ⟨⟩

theorem stashEviction (win : Nat) (line : Nat) : Statement (.stashEviction win line) := by
  rintro _ ⟨⟩

theorem matrixOpExecute (n : Nat) (mm : Mismatch) : Statement (.matrixOpExecute n mm) := by
  rintro _ ⟨⟩

theorem matrixOpComplete (n : Nat) : Statement (.matrixOpComplete n) := by
  rintro _ ⟨⟩

theorem fdrainTimeout : Statement .fdrainTimeout := by
  rintro _ ⟨⟩

theorem flumeCommandRun (c : BitVec 2) : Statement (.flumeCommandRun c) := by
  rintro _ ⟨⟩

theorem flumeCommandComplete (c : BitVec 2) : Statement (.flumeCommandComplete c) := by
  rintro _ ⟨⟩

theorem barrierDeadline : Statement .barrierDeadline := by
  rintro _ ⟨⟩

theorem waddrTimeout : Statement .waddrTimeout := by
  rintro _ ⟨⟩

theorem twaitTimeout : Statement .twaitTimeout := by
  rintro _ ⟨⟩

theorem nfenceTimeout : Statement .nfenceTimeout := by
  rintro _ ⟨⟩

theorem weirPartRun (c : BitVec 1) (k : Nat) : Statement (.weirPartRun c k) := by
  rintro _ ⟨⟩

theorem weirCommandComplete (c : BitVec 1) : Statement (.weirCommandComplete c) := by
  rintro _ ⟨⟩

theorem collectiveRun (c : BitVec 1) (peers : List PeerPart) : Statement (.collectiveRun c peers) := by
  rintro _ ⟨⟩

theorem collectiveComplete (c : BitVec 1) : Statement (.collectiveComplete c) := by
  rintro _ ⟨⟩

theorem wqpostTimeout : Statement .wqpostTimeout := by
  rintro _ ⟨⟩

theorem asyncTrapDelivery : Statement .asyncTrapDelivery := by
  rintro _ ⟨⟩

theorem serviceCoreTakeP (cluster : Nat) : Statement (.serviceCoreTakeP cluster) := by
  rintro _ ⟨⟩

theorem serviceCoreTakeS (cluster : Nat) : Statement (.serviceCoreTakeS cluster) := by
  rintro _ ⟨⟩

theorem lydarTakeO : Statement .lydarTakeO := by
  rintro _ ⟨⟩

theorem launchMessage (queue : BitVec 12) (conn : BitVec 16) (packet : List Byte) : Statement (.launchMessage queue conn packet) := by
  rintro _ ⟨⟩

theorem launchWriteUalink (queue : BitVec 12) (packet : List Byte) : Statement (.launchWriteUalink queue packet) := by
  rintro _ ⟨⟩

theorem launchStart (queue : BitVec 12) : Statement (.launchStart queue) := by
  rintro _ ⟨⟩

theorem groupDispatch (queue : BitVec 12) : Statement (.groupDispatch queue) := by
  rintro _ ⟨⟩

theorem priorityAgeing (queue : BitVec 12) : Statement (.priorityAgeing queue) := by
  rintro _ ⟨⟩

theorem groupReservation (queue : BitVec 12) : Statement (.groupReservation queue) := by
  rintro _ ⟨⟩

theorem preload (cluster : Nat) (core : Nat) : Statement (.preload cluster core) := by
  rintro _ ⟨⟩

theorem budgetExpiry : Statement .budgetExpiry := by
  rintro _ ⟨⟩

theorem timeSliceEnd (cluster : Nat) : Statement (.timeSliceEnd cluster) := by
  rintro _ ⟨⟩

theorem pageMigration (src : Nat) (dst : Nat) (large : Bool) : Statement (.pageMigration src dst large) := by
  rintro _ ⟨⟩

theorem remoteRequest (op : RemoteOp) : Statement (.remoteRequest op) := by
  rintro _ ⟨⟩

theorem ueWindowAccess (partition : Nat) (op : RemoteOp) : Statement (.ueWindowAccess partition op) := by
  rintro _ ⟨⟩

theorem remoteErrorResponse : Statement .remoteErrorResponse := by
  rintro _ ⟨⟩

theorem remoteAccessTimeout : Statement .remoteAccessTimeout := by
  rintro _ ⟨⟩

theorem linkFailure (port : Nat) (lostNode : Option Nat) : Statement (.linkFailure port lostNode) := by
  rintro _ ⟨⟩

theorem theigLinkFailure (chiplet : Nat) : Statement (.theigLinkFailure chiplet) := by
  rintro _ ⟨⟩

theorem watchdogExpiry (chiplet : Nat) : Statement (.watchdogExpiry chiplet) := by
  rintro _ ⟨⟩

theorem serviceCoreSoftError (cluster : Nat) : Statement (.serviceCoreSoftError cluster) := by
  rintro _ ⟨⟩

theorem fenceCommand (chiplet : Nat) : Statement (.fenceCommand chiplet) := by
  rintro _ ⟨⟩

theorem chipletReset (chiplet : Nat) : Statement (.chipletReset chiplet) := by
  rintro _ ⟨⟩

theorem powerThrottle (watts : Nat) : Statement (.powerThrottle watts) := by
  rintro _ ⟨⟩

theorem powerOn (node : BitVec 10) (failed : List Nat) : Statement (.powerOn node failed) := by
  rintro _ ⟨⟩

theorem orange1Write (v : Word) : Statement (.orange1Write v) := by
  rintro _ ⟨⟩

theorem okey3Write (v : Word) : Statement (.okey3Write v) := by
  rintro _ ⟨⟩

theorem oplimWrite (v : Word) : Statement (.oplimWrite v) := by
  rintro _ ⟨⟩

theorem sramSoftError (site : SramSite) : Statement (.sramSoftError site) := by
  rintro _ ⟨⟩

theorem storeCommit (n : Nat) : Statement (.storeCommit n) := by
  rintro _ ⟨⟩

end Encoding

end Sys2Proof.Laws
end

