-- ==== Sys2Proof/Laws/State.lean ====
section
/-! SUPPORT. What the small updates of the state leave as it was: one lemma for each field. -/

namespace Sys2Proof.Machine

/-! ### State.setPc -/

@[simp] theorem State.setPc_who (s : State) (v : Word) : (s.setPc v).who = s.who := rfl
@[simp] theorem State.setPc_t (s : State) (v : Word) : (s.setPc v).t = s.t := rfl
@[simp] theorem State.setPc_cl (s : State) (v : Word) : (s.setPc v).cl = s.cl := rfl
@[simp] theorem State.setPc_tasks (s : State) (v : Word) : (s.setPc v).tasks = s.tasks := rfl
@[simp] theorem State.setPc_clusters (s : State) (v : Word) : (s.setPc v).clusters = s.clusters := rfl
@[simp] theorem State.setPc_mem (s : State) (v : Word) : (s.setPc v).mem = s.mem := rfl
@[simp] theorem State.setPc_poison (s : State) (v : Word) : (s.setPc v).poison = s.poison := rfl
@[simp] theorem State.setPc_ecc (s : State) (v : Word) : (s.setPc v).ecc = s.ecc := rfl
@[simp] theorem State.setPc_time (s : State) (v : Word) : (s.setPc v).time = s.time := rfl
@[simp] theorem State.setPc_queues (s : State) (v : Word) : (s.setPc v).queues = s.queues := rfl
@[simp] theorem State.setPc_grants (s : State) (v : Word) : (s.setPc v).grants = s.grants := rfl
@[simp] theorem State.setPc_amounts (s : State) (v : Word) : (s.setPc v).amounts = s.amounts := rfl
@[simp] theorem State.setPc_granules (s : State) (v : Word) : (s.setPc v).granules = s.granules := rfl
@[simp] theorem State.setPc_parts (s : State) (v : Word) : (s.setPc v).parts = s.parts := rfl
@[simp] theorem State.setPc_subs (s : State) (v : Word) : (s.setPc v).subs = s.subs := rfl
@[simp] theorem State.setPc_keys (s : State) (v : Word) : (s.setPc v).keys = s.keys := rfl
@[simp] theorem State.setPc_windows (s : State) (v : Word) : (s.setPc v).windows = s.windows := rfl
@[simp] theorem State.setPc_tlb (s : State) (v : Word) : (s.setPc v).tlb = s.tlb := rfl
@[simp] theorem State.setPc_barriers (s : State) (v : Word) : (s.setPc v).barriers = s.barriers := rfl
@[simp] theorem State.setPc_aliasLines (s : State) (v : Word) : (s.setPc v).aliasLines = s.aliasLines := rfl
@[simp] theorem State.setPc_o (s : State) (v : Word) : (s.setPc v).o = s.o := rfl
@[simp] theorem State.setPc_oqueue (s : State) (v : Word) : (s.setPc v).oqueue = s.oqueue := rfl
@[simp] theorem State.setPc_orec (s : State) (v : Word) : (s.setPc v).orec = s.orec := rfl
@[simp] theorem State.setPc_lydarLog (s : State) (v : Word) : (s.setPc v).lydarLog = s.lydarLog := rfl
@[simp] theorem State.setPc_lateEvents (s : State) (v : Word) : (s.setPc v).lateEvents = s.lateEvents := rfl
@[simp] theorem State.setPc_corrected (s : State) (v : Word) : (s.setPc v).corrected = s.corrected := rfl
@[simp] theorem State.setPc_changing (s : State) (v : Word) : (s.setPc v).changing = s.changing := rfl
@[simp] theorem State.setPc_hostMsgs (s : State) (v : Word) : (s.setPc v).hostMsgs = s.hostMsgs := rfl
@[simp] theorem State.setPc_replies (s : State) (v : Word) : (s.setPc v).replies = s.replies := rfl
@[simp] theorem State.setPc_mhz (s : State) (v : Word) : (s.setPc v).mhz = s.mhz := rfl
@[simp] theorem State.setPc_degraded (s : State) (v : Word) : (s.setPc v).degraded = s.degraded := rfl
@[simp] theorem State.setPc_nextUid (s : State) (v : Word) : (s.setPc v).nextUid = s.nextUid := rfl
@[simp] theorem State.setPc_agenda (s : State) (v : Word) : (s.setPc v).agenda = s.agenda := rfl
@[simp] theorem State.setPc_moves (s : State) (v : Word) : (s.setPc v).moves = s.moves := rfl
@[simp] theorem State.setPc_slot (s : State) (v : Word) : (s.setPc v).slot = s.slot := rfl
@[simp] theorem State.setPc_h_id (s : State) (v : Word) : (s.setPc v).h.id = s.h.id := rfl
@[simp] theorem State.setPc_h_x (s : State) (v : Word) : (s.setPc v).h.x = s.h.x := rfl
@[simp] theorem State.setPc_h_pc (s : State) (v : Word) : (s.setPc v).h.pc = v := rfl
@[simp] theorem State.setPc_h_lgmask (s : State) (v : Word) : (s.setPc v).h.lgmask = s.h.lgmask := rfl
@[simp] theorem State.setPc_h_vl (s : State) (v : Word) : (s.setPc v).h.vl = s.h.vl := rfl
@[simp] theorem State.setPc_h_ty (s : State) (v : Word) : (s.setPc v).h.ty = s.h.ty := rfl
@[simp] theorem State.setPc_h_blk (s : State) (v : Word) : (s.setPc v).h.blk = s.h.blk := rfl
@[simp] theorem State.setPc_h_vwb (s : State) (v : Word) : (s.setPc v).h.vwb = s.h.vwb := rfl
@[simp] theorem State.setPc_h_vmsel (s : State) (v : Word) : (s.setPc v).h.vmsel = s.h.vmsel := rfl
@[simp] theorem State.setPc_h_vstart (s : State) (v : Word) : (s.setPc v).h.vstart = s.h.vstart := rfl
@[simp] theorem State.setPc_h_fflags (s : State) (v : Word) : (s.setPc v).h.fflags = s.h.fflags := rfl
@[simp] theorem State.setPc_h_fex (s : State) (v : Word) : (s.setPc v).h.fex = s.h.fex := rfl
@[simp] theorem State.setPc_h_frm (s : State) (v : Word) : (s.setPc v).h.frm = s.h.frm := rfl
@[simp] theorem State.setPc_h_dkey (s : State) (v : Word) : (s.setPc v).h.dkey = s.h.dkey := rfl
@[simp] theorem State.setPc_h_dstream (s : State) (v : Word) : (s.setPc v).h.dstream = s.h.dstream := rfl
@[simp] theorem State.setPc_h_dctr (s : State) (v : Word) : (s.setPc v).h.dctr = s.h.dctr := rfl
@[simp] theorem State.setPc_h_dtemp (s : State) (v : Word) : (s.setPc v).h.dtemp = s.h.dtemp := rfl
@[simp] theorem State.setPc_h_llthr (s : State) (v : Word) : (s.setPc v).h.llthr = s.h.llthr := rfl
@[simp] theorem State.setPc_h_repcnt (s : State) (v : Word) : (s.setPc v).h.repcnt = s.h.repcnt := rfl
@[simp] theorem State.setPc_h_wtmo (s : State) (v : Word) : (s.setPc v).h.wtmo = s.h.wtmo := rfl
@[simp] theorem State.setPc_h_bdeadl (s : State) (v : Word) : (s.setPc v).h.bdeadl = s.h.bdeadl := rfl
@[simp] theorem State.setPc_h_ftrapen (s : State) (v : Word) : (s.setPc v).h.ftrapen = s.h.ftrapen := rfl
@[simp] theorem State.setPc_h_trapcause (s : State) (v : Word) : (s.setPc v).h.trapcause = s.h.trapcause := rfl
@[simp] theorem State.setPc_h_trapasync (s : State) (v : Word) : (s.setPc v).h.trapasync = s.h.trapasync := rfl
@[simp] theorem State.setPc_h_trappc (s : State) (v : Word) : (s.setPc v).h.trappc = s.h.trappc := rfl
@[simp] theorem State.setPc_h_trapval (s : State) (v : Word) : (s.setPc v).h.trapval = s.h.trapval := rfl
@[simp] theorem State.setPc_h_trapval2 (s : State) (v : Word) : (s.setPc v).h.trapval2 = s.h.trapval2 := rfl
@[simp] theorem State.setPc_h_handler (s : State) (v : Word) : (s.setPc v).h.handler = s.h.handler := rfl
@[simp] theorem State.setPc_h_parent (s : State) (v : Word) : (s.setPc v).h.parent = s.h.parent := rfl
@[simp] theorem State.setPc_h_run (s : State) (v : Word) : (s.setPc v).h.run = s.h.run := rfl
@[simp] theorem State.setPc_h_trapRec (s : State) (v : Word) : (s.setPc v).h.trapRec = s.h.trapRec := rfl
@[simp] theorem State.setPc_h_resumeAt (s : State) (v : Word) : (s.setPc v).h.resumeAt = s.h.resumeAt := rfl
@[simp] theorem State.setPc_h_names (s : State) (v : Word) : (s.setPc v).h.names = s.h.names := rfl
@[simp] theorem State.setPc_h_flight (s : State) (v : Word) : (s.setPc v).h.flight = s.h.flight := rfl
@[simp] theorem State.setPc_h_stopped (s : State) (v : Word) : (s.setPc v).h.stopped = s.h.stopped := rfl
@[simp] theorem State.setPc_h_stoppedGen (s : State) (v : Word) : (s.setPc v).h.stoppedGen = s.h.stoppedGen := rfl
@[simp] theorem State.setPc_h_trapGen (s : State) (v : Word) : (s.setPc v).h.trapGen = s.h.trapGen := rfl
@[simp] theorem State.setPc_h_rep (s : State) (v : Word) : (s.setPc v).h.rep = s.h.rep := rfl
@[simp] theorem State.setPc_h_wait (s : State) (v : Word) : (s.setPc v).h.wait = s.h.wait := rfl
@[simp] theorem State.setPc_h_held (s : State) (v : Word) : (s.setPc v).h.held = s.h.held := rfl
@[simp] theorem State.setPc_h_sb (s : State) (v : Word) : (s.setPc v).h.sb = s.h.sb := rfl
@[simp] theorem State.setPc_h_mirror (s : State) (v : Word) : (s.setPc v).h.mirror = s.h.mirror := rfl
@[simp] theorem State.setPc_h_late (s : State) (v : Word) : (s.setPc v).h.late = s.h.late := rfl
@[simp] theorem State.setPc_h_lastOp (s : State) (v : Word) : (s.setPc v).h.lastOp = s.h.lastOp := rfl

/-! ### State.advance -/

@[simp] theorem State.advance_who (s : State) : (s.advance).who = s.who := rfl
@[simp] theorem State.advance_t (s : State) : (s.advance).t = s.t := rfl
@[simp] theorem State.advance_cl (s : State) : (s.advance).cl = s.cl := rfl
@[simp] theorem State.advance_tasks (s : State) : (s.advance).tasks = s.tasks := rfl
@[simp] theorem State.advance_clusters (s : State) : (s.advance).clusters = s.clusters := rfl
@[simp] theorem State.advance_mem (s : State) : (s.advance).mem = s.mem := rfl
@[simp] theorem State.advance_poison (s : State) : (s.advance).poison = s.poison := rfl
@[simp] theorem State.advance_ecc (s : State) : (s.advance).ecc = s.ecc := rfl
@[simp] theorem State.advance_time (s : State) : (s.advance).time = s.time := rfl
@[simp] theorem State.advance_queues (s : State) : (s.advance).queues = s.queues := rfl
@[simp] theorem State.advance_grants (s : State) : (s.advance).grants = s.grants := rfl
@[simp] theorem State.advance_amounts (s : State) : (s.advance).amounts = s.amounts := rfl
@[simp] theorem State.advance_granules (s : State) : (s.advance).granules = s.granules := rfl
@[simp] theorem State.advance_parts (s : State) : (s.advance).parts = s.parts := rfl
@[simp] theorem State.advance_subs (s : State) : (s.advance).subs = s.subs := rfl
@[simp] theorem State.advance_keys (s : State) : (s.advance).keys = s.keys := rfl
@[simp] theorem State.advance_windows (s : State) : (s.advance).windows = s.windows := rfl
@[simp] theorem State.advance_tlb (s : State) : (s.advance).tlb = s.tlb := rfl
@[simp] theorem State.advance_barriers (s : State) : (s.advance).barriers = s.barriers := rfl
@[simp] theorem State.advance_aliasLines (s : State) : (s.advance).aliasLines = s.aliasLines := rfl
@[simp] theorem State.advance_o (s : State) : (s.advance).o = s.o := rfl
@[simp] theorem State.advance_oqueue (s : State) : (s.advance).oqueue = s.oqueue := rfl
@[simp] theorem State.advance_orec (s : State) : (s.advance).orec = s.orec := rfl
@[simp] theorem State.advance_lydarLog (s : State) : (s.advance).lydarLog = s.lydarLog := rfl
@[simp] theorem State.advance_lateEvents (s : State) : (s.advance).lateEvents = s.lateEvents := rfl
@[simp] theorem State.advance_corrected (s : State) : (s.advance).corrected = s.corrected := rfl
@[simp] theorem State.advance_changing (s : State) : (s.advance).changing = s.changing := rfl
@[simp] theorem State.advance_hostMsgs (s : State) : (s.advance).hostMsgs = s.hostMsgs := rfl
@[simp] theorem State.advance_replies (s : State) : (s.advance).replies = s.replies := rfl
@[simp] theorem State.advance_mhz (s : State) : (s.advance).mhz = s.mhz := rfl
@[simp] theorem State.advance_degraded (s : State) : (s.advance).degraded = s.degraded := rfl
@[simp] theorem State.advance_nextUid (s : State) : (s.advance).nextUid = s.nextUid := rfl
@[simp] theorem State.advance_agenda (s : State) : (s.advance).agenda = s.agenda := rfl
@[simp] theorem State.advance_moves (s : State) : (s.advance).moves = s.moves := rfl
@[simp] theorem State.advance_slot (s : State) : (s.advance).slot = s.slot := rfl
@[simp] theorem State.advance_h_id (s : State) : (s.advance).h.id = s.h.id := rfl
@[simp] theorem State.advance_h_x (s : State) : (s.advance).h.x = s.h.x := rfl
@[simp] theorem State.advance_h_pc (s : State) : (s.advance).h.pc = s.h.pc + 4#64 := rfl
@[simp] theorem State.advance_h_lgmask (s : State) : (s.advance).h.lgmask = s.h.lgmask := rfl
@[simp] theorem State.advance_h_vl (s : State) : (s.advance).h.vl = s.h.vl := rfl
@[simp] theorem State.advance_h_ty (s : State) : (s.advance).h.ty = s.h.ty := rfl
@[simp] theorem State.advance_h_blk (s : State) : (s.advance).h.blk = s.h.blk := rfl
@[simp] theorem State.advance_h_vwb (s : State) : (s.advance).h.vwb = s.h.vwb := rfl
@[simp] theorem State.advance_h_vmsel (s : State) : (s.advance).h.vmsel = s.h.vmsel := rfl
@[simp] theorem State.advance_h_vstart (s : State) : (s.advance).h.vstart = s.h.vstart := rfl
@[simp] theorem State.advance_h_fflags (s : State) : (s.advance).h.fflags = s.h.fflags := rfl
@[simp] theorem State.advance_h_fex (s : State) : (s.advance).h.fex = s.h.fex := rfl
@[simp] theorem State.advance_h_frm (s : State) : (s.advance).h.frm = s.h.frm := rfl
@[simp] theorem State.advance_h_dkey (s : State) : (s.advance).h.dkey = s.h.dkey := rfl
@[simp] theorem State.advance_h_dstream (s : State) : (s.advance).h.dstream = s.h.dstream := rfl
@[simp] theorem State.advance_h_dctr (s : State) : (s.advance).h.dctr = s.h.dctr := rfl
@[simp] theorem State.advance_h_dtemp (s : State) : (s.advance).h.dtemp = s.h.dtemp := rfl
@[simp] theorem State.advance_h_llthr (s : State) : (s.advance).h.llthr = s.h.llthr := rfl
@[simp] theorem State.advance_h_repcnt (s : State) : (s.advance).h.repcnt = s.h.repcnt := rfl
@[simp] theorem State.advance_h_wtmo (s : State) : (s.advance).h.wtmo = s.h.wtmo := rfl
@[simp] theorem State.advance_h_bdeadl (s : State) : (s.advance).h.bdeadl = s.h.bdeadl := rfl
@[simp] theorem State.advance_h_ftrapen (s : State) : (s.advance).h.ftrapen = s.h.ftrapen := rfl
@[simp] theorem State.advance_h_trapcause (s : State) : (s.advance).h.trapcause = s.h.trapcause := rfl
@[simp] theorem State.advance_h_trapasync (s : State) : (s.advance).h.trapasync = s.h.trapasync := rfl
@[simp] theorem State.advance_h_trappc (s : State) : (s.advance).h.trappc = s.h.trappc := rfl
@[simp] theorem State.advance_h_trapval (s : State) : (s.advance).h.trapval = s.h.trapval := rfl
@[simp] theorem State.advance_h_trapval2 (s : State) : (s.advance).h.trapval2 = s.h.trapval2 := rfl
@[simp] theorem State.advance_h_handler (s : State) : (s.advance).h.handler = s.h.handler := rfl
@[simp] theorem State.advance_h_parent (s : State) : (s.advance).h.parent = s.h.parent := rfl
@[simp] theorem State.advance_h_run (s : State) : (s.advance).h.run = s.h.run := rfl
@[simp] theorem State.advance_h_trapRec (s : State) : (s.advance).h.trapRec = s.h.trapRec := rfl
@[simp] theorem State.advance_h_resumeAt (s : State) : (s.advance).h.resumeAt = s.h.resumeAt := rfl
@[simp] theorem State.advance_h_names (s : State) : (s.advance).h.names = s.h.names := rfl
@[simp] theorem State.advance_h_flight (s : State) : (s.advance).h.flight = s.h.flight := rfl
@[simp] theorem State.advance_h_stopped (s : State) : (s.advance).h.stopped = s.h.stopped := rfl
@[simp] theorem State.advance_h_stoppedGen (s : State) : (s.advance).h.stoppedGen = s.h.stoppedGen := rfl
@[simp] theorem State.advance_h_trapGen (s : State) : (s.advance).h.trapGen = s.h.trapGen := rfl
@[simp] theorem State.advance_h_rep (s : State) : (s.advance).h.rep = s.h.rep := rfl
@[simp] theorem State.advance_h_wait (s : State) : (s.advance).h.wait = none := rfl
@[simp] theorem State.advance_h_held (s : State) : (s.advance).h.held = s.h.held := rfl
@[simp] theorem State.advance_h_sb (s : State) : (s.advance).h.sb = s.h.sb := rfl
@[simp] theorem State.advance_h_mirror (s : State) : (s.advance).h.mirror = s.h.mirror := rfl
@[simp] theorem State.advance_h_late (s : State) : (s.advance).h.late = s.h.late := rfl
@[simp] theorem State.advance_h_lastOp (s : State) : (s.advance).h.lastOp = s.h.lastOp := rfl

/-! ### State.wx -/

@[simp] theorem State.wx_who (s : State) (r : Reg) (v : Word) : (s.wx r v).who = s.who := rfl
@[simp] theorem State.wx_t (s : State) (r : Reg) (v : Word) : (s.wx r v).t = s.t := rfl
@[simp] theorem State.wx_cl (s : State) (r : Reg) (v : Word) : (s.wx r v).cl = s.cl := rfl
@[simp] theorem State.wx_tasks (s : State) (r : Reg) (v : Word) : (s.wx r v).tasks = s.tasks := rfl
@[simp] theorem State.wx_clusters (s : State) (r : Reg) (v : Word) : (s.wx r v).clusters = s.clusters := rfl
@[simp] theorem State.wx_mem (s : State) (r : Reg) (v : Word) : (s.wx r v).mem = s.mem := rfl
@[simp] theorem State.wx_poison (s : State) (r : Reg) (v : Word) : (s.wx r v).poison = s.poison := rfl
@[simp] theorem State.wx_ecc (s : State) (r : Reg) (v : Word) : (s.wx r v).ecc = s.ecc := rfl
@[simp] theorem State.wx_time (s : State) (r : Reg) (v : Word) : (s.wx r v).time = s.time := rfl
@[simp] theorem State.wx_queues (s : State) (r : Reg) (v : Word) : (s.wx r v).queues = s.queues := rfl
@[simp] theorem State.wx_grants (s : State) (r : Reg) (v : Word) : (s.wx r v).grants = s.grants := rfl
@[simp] theorem State.wx_amounts (s : State) (r : Reg) (v : Word) : (s.wx r v).amounts = s.amounts := rfl
@[simp] theorem State.wx_granules (s : State) (r : Reg) (v : Word) : (s.wx r v).granules = s.granules := rfl
@[simp] theorem State.wx_parts (s : State) (r : Reg) (v : Word) : (s.wx r v).parts = s.parts := rfl
@[simp] theorem State.wx_subs (s : State) (r : Reg) (v : Word) : (s.wx r v).subs = s.subs := rfl
@[simp] theorem State.wx_keys (s : State) (r : Reg) (v : Word) : (s.wx r v).keys = s.keys := rfl
@[simp] theorem State.wx_windows (s : State) (r : Reg) (v : Word) : (s.wx r v).windows = s.windows := rfl
@[simp] theorem State.wx_tlb (s : State) (r : Reg) (v : Word) : (s.wx r v).tlb = s.tlb := rfl
@[simp] theorem State.wx_barriers (s : State) (r : Reg) (v : Word) : (s.wx r v).barriers = s.barriers := rfl
@[simp] theorem State.wx_aliasLines (s : State) (r : Reg) (v : Word) : (s.wx r v).aliasLines = s.aliasLines := rfl
@[simp] theorem State.wx_o (s : State) (r : Reg) (v : Word) : (s.wx r v).o = s.o := rfl
@[simp] theorem State.wx_oqueue (s : State) (r : Reg) (v : Word) : (s.wx r v).oqueue = s.oqueue := rfl
@[simp] theorem State.wx_orec (s : State) (r : Reg) (v : Word) : (s.wx r v).orec = s.orec := rfl
@[simp] theorem State.wx_lydarLog (s : State) (r : Reg) (v : Word) : (s.wx r v).lydarLog = s.lydarLog := rfl
@[simp] theorem State.wx_lateEvents (s : State) (r : Reg) (v : Word) : (s.wx r v).lateEvents = s.lateEvents := rfl
@[simp] theorem State.wx_corrected (s : State) (r : Reg) (v : Word) : (s.wx r v).corrected = s.corrected := rfl
@[simp] theorem State.wx_changing (s : State) (r : Reg) (v : Word) : (s.wx r v).changing = s.changing := rfl
@[simp] theorem State.wx_hostMsgs (s : State) (r : Reg) (v : Word) : (s.wx r v).hostMsgs = s.hostMsgs := rfl
@[simp] theorem State.wx_replies (s : State) (r : Reg) (v : Word) : (s.wx r v).replies = s.replies := rfl
@[simp] theorem State.wx_mhz (s : State) (r : Reg) (v : Word) : (s.wx r v).mhz = s.mhz := rfl
@[simp] theorem State.wx_degraded (s : State) (r : Reg) (v : Word) : (s.wx r v).degraded = s.degraded := rfl
@[simp] theorem State.wx_nextUid (s : State) (r : Reg) (v : Word) : (s.wx r v).nextUid = s.nextUid := rfl
@[simp] theorem State.wx_agenda (s : State) (r : Reg) (v : Word) : (s.wx r v).agenda = s.agenda := rfl
@[simp] theorem State.wx_moves (s : State) (r : Reg) (v : Word) : (s.wx r v).moves = s.moves := rfl
@[simp] theorem State.wx_slot (s : State) (r : Reg) (v : Word) : (s.wx r v).slot = s.slot := rfl
@[simp] theorem State.wx_h (s : State) (r : Reg) (v : Word) : (s.wx r v).h = s.h.wx r v := rfl

/-! ### State.put -/

@[simp] theorem State.put_who (s : State) (r : Reg) (v : Word) : (s.put r v).who = s.who := rfl
@[simp] theorem State.put_t (s : State) (r : Reg) (v : Word) : (s.put r v).t = s.t := rfl
@[simp] theorem State.put_cl (s : State) (r : Reg) (v : Word) : (s.put r v).cl = s.cl := rfl
@[simp] theorem State.put_tasks (s : State) (r : Reg) (v : Word) : (s.put r v).tasks = s.tasks := rfl
@[simp] theorem State.put_clusters (s : State) (r : Reg) (v : Word) : (s.put r v).clusters = s.clusters := rfl
@[simp] theorem State.put_mem (s : State) (r : Reg) (v : Word) : (s.put r v).mem = s.mem := rfl
@[simp] theorem State.put_poison (s : State) (r : Reg) (v : Word) : (s.put r v).poison = s.poison := rfl
@[simp] theorem State.put_ecc (s : State) (r : Reg) (v : Word) : (s.put r v).ecc = s.ecc := rfl
@[simp] theorem State.put_time (s : State) (r : Reg) (v : Word) : (s.put r v).time = s.time := rfl
@[simp] theorem State.put_queues (s : State) (r : Reg) (v : Word) : (s.put r v).queues = s.queues := rfl
@[simp] theorem State.put_grants (s : State) (r : Reg) (v : Word) : (s.put r v).grants = s.grants := rfl
@[simp] theorem State.put_amounts (s : State) (r : Reg) (v : Word) : (s.put r v).amounts = s.amounts := rfl
@[simp] theorem State.put_granules (s : State) (r : Reg) (v : Word) : (s.put r v).granules = s.granules := rfl
@[simp] theorem State.put_parts (s : State) (r : Reg) (v : Word) : (s.put r v).parts = s.parts := rfl
@[simp] theorem State.put_subs (s : State) (r : Reg) (v : Word) : (s.put r v).subs = s.subs := rfl
@[simp] theorem State.put_keys (s : State) (r : Reg) (v : Word) : (s.put r v).keys = s.keys := rfl
@[simp] theorem State.put_windows (s : State) (r : Reg) (v : Word) : (s.put r v).windows = s.windows := rfl
@[simp] theorem State.put_tlb (s : State) (r : Reg) (v : Word) : (s.put r v).tlb = s.tlb := rfl
@[simp] theorem State.put_barriers (s : State) (r : Reg) (v : Word) : (s.put r v).barriers = s.barriers := rfl
@[simp] theorem State.put_aliasLines (s : State) (r : Reg) (v : Word) : (s.put r v).aliasLines = s.aliasLines := rfl
@[simp] theorem State.put_o (s : State) (r : Reg) (v : Word) : (s.put r v).o = s.o := rfl
@[simp] theorem State.put_oqueue (s : State) (r : Reg) (v : Word) : (s.put r v).oqueue = s.oqueue := rfl
@[simp] theorem State.put_orec (s : State) (r : Reg) (v : Word) : (s.put r v).orec = s.orec := rfl
@[simp] theorem State.put_lydarLog (s : State) (r : Reg) (v : Word) : (s.put r v).lydarLog = s.lydarLog := rfl
@[simp] theorem State.put_lateEvents (s : State) (r : Reg) (v : Word) : (s.put r v).lateEvents = s.lateEvents := rfl
@[simp] theorem State.put_corrected (s : State) (r : Reg) (v : Word) : (s.put r v).corrected = s.corrected := rfl
@[simp] theorem State.put_changing (s : State) (r : Reg) (v : Word) : (s.put r v).changing = s.changing := rfl
@[simp] theorem State.put_hostMsgs (s : State) (r : Reg) (v : Word) : (s.put r v).hostMsgs = s.hostMsgs := rfl
@[simp] theorem State.put_replies (s : State) (r : Reg) (v : Word) : (s.put r v).replies = s.replies := rfl
@[simp] theorem State.put_mhz (s : State) (r : Reg) (v : Word) : (s.put r v).mhz = s.mhz := rfl
@[simp] theorem State.put_degraded (s : State) (r : Reg) (v : Word) : (s.put r v).degraded = s.degraded := rfl
@[simp] theorem State.put_nextUid (s : State) (r : Reg) (v : Word) : (s.put r v).nextUid = s.nextUid := rfl
@[simp] theorem State.put_agenda (s : State) (r : Reg) (v : Word) : (s.put r v).agenda = s.agenda := rfl
@[simp] theorem State.put_moves (s : State) (r : Reg) (v : Word) : (s.put r v).moves = s.moves := rfl
@[simp] theorem State.put_slot (s : State) (r : Reg) (v : Word) : (s.put r v).slot = s.slot := rfl
@[simp] theorem State.put_h_pc (s : State) (r : Reg) (v : Word) : (s.put r v).h.pc = (s.h.wx r v).pc + 4#64 := rfl
@[simp] theorem State.put_h_wait (s : State) (r : Reg) (v : Word) : (s.put r v).h.wait = none := rfl
@[simp] theorem State.put_h_x (s : State) (r : Reg) (v : Word) : (s.put r v).h.x = (s.h.wx r v).x := rfl

/-! ### Hart.wx -/

@[simp] theorem Hart.wx_id (h : Hart) (r : Reg) (v : Word) : (h.wx r v).id = h.id := by
  unfold Hart.wx; split <;> rfl
@[simp] theorem Hart.wx_pc (h : Hart) (r : Reg) (v : Word) : (h.wx r v).pc = h.pc := by
  unfold Hart.wx; split <;> rfl
@[simp] theorem Hart.wx_lgmask (h : Hart) (r : Reg) (v : Word) : (h.wx r v).lgmask = h.lgmask := by
  unfold Hart.wx; split <;> rfl
@[simp] theorem Hart.wx_vl (h : Hart) (r : Reg) (v : Word) : (h.wx r v).vl = h.vl := by
  unfold Hart.wx; split <;> rfl
@[simp] theorem Hart.wx_ty (h : Hart) (r : Reg) (v : Word) : (h.wx r v).ty = h.ty := by
  unfold Hart.wx; split <;> rfl
@[simp] theorem Hart.wx_blk (h : Hart) (r : Reg) (v : Word) : (h.wx r v).blk = h.blk := by
  unfold Hart.wx; split <;> rfl
@[simp] theorem Hart.wx_vwb (h : Hart) (r : Reg) (v : Word) : (h.wx r v).vwb = h.vwb := by
  unfold Hart.wx; split <;> rfl
@[simp] theorem Hart.wx_vmsel (h : Hart) (r : Reg) (v : Word) : (h.wx r v).vmsel = h.vmsel := by
  unfold Hart.wx; split <;> rfl
@[simp] theorem Hart.wx_vstart (h : Hart) (r : Reg) (v : Word) : (h.wx r v).vstart = h.vstart := by
  unfold Hart.wx; split <;> rfl
@[simp] theorem Hart.wx_fflags (h : Hart) (r : Reg) (v : Word) : (h.wx r v).fflags = h.fflags := by
  unfold Hart.wx; split <;> rfl
@[simp] theorem Hart.wx_fex (h : Hart) (r : Reg) (v : Word) : (h.wx r v).fex = h.fex := by
  unfold Hart.wx; split <;> rfl
@[simp] theorem Hart.wx_frm (h : Hart) (r : Reg) (v : Word) : (h.wx r v).frm = h.frm := by
  unfold Hart.wx; split <;> rfl
@[simp] theorem Hart.wx_dkey (h : Hart) (r : Reg) (v : Word) : (h.wx r v).dkey = h.dkey := by
  unfold Hart.wx; split <;> rfl
@[simp] theorem Hart.wx_dstream (h : Hart) (r : Reg) (v : Word) : (h.wx r v).dstream = h.dstream := by
  unfold Hart.wx; split <;> rfl
@[simp] theorem Hart.wx_dctr (h : Hart) (r : Reg) (v : Word) : (h.wx r v).dctr = h.dctr := by
  unfold Hart.wx; split <;> rfl
@[simp] theorem Hart.wx_dtemp (h : Hart) (r : Reg) (v : Word) : (h.wx r v).dtemp = h.dtemp := by
  unfold Hart.wx; split <;> rfl
@[simp] theorem Hart.wx_llthr (h : Hart) (r : Reg) (v : Word) : (h.wx r v).llthr = h.llthr := by
  unfold Hart.wx; split <;> rfl
@[simp] theorem Hart.wx_repcnt (h : Hart) (r : Reg) (v : Word) : (h.wx r v).repcnt = h.repcnt := by
  unfold Hart.wx; split <;> rfl
@[simp] theorem Hart.wx_wtmo (h : Hart) (r : Reg) (v : Word) : (h.wx r v).wtmo = h.wtmo := by
  unfold Hart.wx; split <;> rfl
@[simp] theorem Hart.wx_bdeadl (h : Hart) (r : Reg) (v : Word) : (h.wx r v).bdeadl = h.bdeadl := by
  unfold Hart.wx; split <;> rfl
@[simp] theorem Hart.wx_ftrapen (h : Hart) (r : Reg) (v : Word) : (h.wx r v).ftrapen = h.ftrapen := by
  unfold Hart.wx; split <;> rfl
@[simp] theorem Hart.wx_trapcause (h : Hart) (r : Reg) (v : Word) : (h.wx r v).trapcause = h.trapcause := by
  unfold Hart.wx; split <;> rfl
@[simp] theorem Hart.wx_trapasync (h : Hart) (r : Reg) (v : Word) : (h.wx r v).trapasync = h.trapasync := by
  unfold Hart.wx; split <;> rfl
@[simp] theorem Hart.wx_trappc (h : Hart) (r : Reg) (v : Word) : (h.wx r v).trappc = h.trappc := by
  unfold Hart.wx; split <;> rfl
@[simp] theorem Hart.wx_trapval (h : Hart) (r : Reg) (v : Word) : (h.wx r v).trapval = h.trapval := by
  unfold Hart.wx; split <;> rfl
@[simp] theorem Hart.wx_trapval2 (h : Hart) (r : Reg) (v : Word) : (h.wx r v).trapval2 = h.trapval2 := by
  unfold Hart.wx; split <;> rfl
@[simp] theorem Hart.wx_handler (h : Hart) (r : Reg) (v : Word) : (h.wx r v).handler = h.handler := by
  unfold Hart.wx; split <;> rfl
@[simp] theorem Hart.wx_parent (h : Hart) (r : Reg) (v : Word) : (h.wx r v).parent = h.parent := by
  unfold Hart.wx; split <;> rfl
@[simp] theorem Hart.wx_run (h : Hart) (r : Reg) (v : Word) : (h.wx r v).run = h.run := by
  unfold Hart.wx; split <;> rfl
@[simp] theorem Hart.wx_trapRec (h : Hart) (r : Reg) (v : Word) : (h.wx r v).trapRec = h.trapRec := by
  unfold Hart.wx; split <;> rfl
@[simp] theorem Hart.wx_resumeAt (h : Hart) (r : Reg) (v : Word) : (h.wx r v).resumeAt = h.resumeAt := by
  unfold Hart.wx; split <;> rfl
@[simp] theorem Hart.wx_names (h : Hart) (r : Reg) (v : Word) : (h.wx r v).names = h.names := by
  unfold Hart.wx; split <;> rfl
@[simp] theorem Hart.wx_flight (h : Hart) (r : Reg) (v : Word) : (h.wx r v).flight = h.flight := by
  unfold Hart.wx; split <;> rfl
@[simp] theorem Hart.wx_stopped (h : Hart) (r : Reg) (v : Word) : (h.wx r v).stopped = h.stopped := by
  unfold Hart.wx; split <;> rfl
@[simp] theorem Hart.wx_stoppedGen (h : Hart) (r : Reg) (v : Word) : (h.wx r v).stoppedGen = h.stoppedGen := by
  unfold Hart.wx; split <;> rfl
@[simp] theorem Hart.wx_trapGen (h : Hart) (r : Reg) (v : Word) : (h.wx r v).trapGen = h.trapGen := by
  unfold Hart.wx; split <;> rfl
@[simp] theorem Hart.wx_rep (h : Hart) (r : Reg) (v : Word) : (h.wx r v).rep = h.rep := by
  unfold Hart.wx; split <;> rfl
@[simp] theorem Hart.wx_wait (h : Hart) (r : Reg) (v : Word) : (h.wx r v).wait = h.wait := by
  unfold Hart.wx; split <;> rfl
@[simp] theorem Hart.wx_held (h : Hart) (r : Reg) (v : Word) : (h.wx r v).held = h.held := by
  unfold Hart.wx; split <;> rfl
@[simp] theorem Hart.wx_sb (h : Hart) (r : Reg) (v : Word) : (h.wx r v).sb = h.sb := by
  unfold Hart.wx; split <;> rfl
@[simp] theorem Hart.wx_mirror (h : Hart) (r : Reg) (v : Word) : (h.wx r v).mirror = h.mirror := by
  unfold Hart.wx; split <;> rfl
@[simp] theorem Hart.wx_late (h : Hart) (r : Reg) (v : Word) : (h.wx r v).late = h.late := by
  unfold Hart.wx; split <;> rfl
@[simp] theorem Hart.wx_lastOp (h : Hart) (r : Reg) (v : Word) : (h.wx r v).lastOp = h.lastOp := by
  unfold Hart.wx; split <;> rfl

/-- A register other than the one written keeps its value. -/
theorem Hart.rx_wx_ne (h : Hart) (r d : Reg) (v : Word) (hne : r ≠ d) : (h.wx d v).rx r = h.rx r := by
  unfold Hart.rx Hart.wx
  split
  · rfl
  · split
    · rfl
    · have : (d.toNat) ≠ r.toNat := fun e => hne (BitVec.eq_of_toNat_eq e.symm)
      exact Vector.getElem_set_ne d.isLt r.isLt this

end Sys2Proof.Machine
end

