-- ==== Sys2Proof/Tests/Slice0.lean ====
section
/-! SUPPORT. Tests of the model: ill-formed instructions that the checks refuse, words of the manual's encoding tables
decoded, and for each statement with hypotheses a state and operands that meet them, with what the statement concludes
there. Words are computed from the fields of spec/opcode_table.json; results from the rules that each test names. -/

namespace Sys2Proof.Tests

set_option Elab.async false

open Sys2Proof Sys2Proof.Machine

/-! ### States of the tests -/

/-- A task of a small device, its hart at 0x10_0000 (Machine/Place.lean). -/
def base : State := State.reset.placed

/-- The state with these registers of the hart. -/
def regs (s : State) (l : List (Nat × Word)) : State :=
  { s with h := { s.h with x := l.foldl (fun x p => x.set! p.1 p.2) s.h.x } }

/-- The scratch aperture of the task. -/
def ap : Word := 0x40000000000000#64

/-- The task holds the vector context of its core. -/
def ctx : State := { base with cl := { base.cl with cores := base.cl.cores.set 0 { owner := some 1 } } }

/-- The outcome is a next state at which `p` holds. -/
def ends (o : Out) (p : State → Bool) : Bool :=
  match o with
  | .next t => p t
  | _ => false

/-- The outcome is a next state in which register `d` holds `v` and the hart has passed. -/
def wrote (s : State) (o : Out) (d : Reg) (v : Word) : Bool :=
  ends o fun t => decide (t.rx d = v ∧ t.h.pc = s.h.pc + 4#64)

/-- The outcome is a next state in which the hart is at `pc`. -/
def went (o : Out) (pc : Word) : Bool := ends o fun t => decide (t.h.pc = pc)

/-- The outcome is a next state in which one trap or event waits for S, with this cause and TRAPVAL. -/
def trapped (o : Out) (cause : BitVec 8) (val : Word) : Bool :=
  ends o fun t => decide (t.cl.svc.squeue.map (fun r => (r.cause, r.val)) = [(cause, val)])

/-- A translation succeeds and `p` holds of it. -/
def xlat (s : State) (va : Nat) (k : Acc) (p : Xlat → Bool) : Bool :=
  match s.translate va k with
  | .ok x => p x
  | .error _ => false

/-- A page of memory that a scalar access reaches (13_ordering R282, 14_weir R314). -/
def plain (s : State) (x : Xlat) : Bool :=
  !s.noMemory x.pa && decide (x.ord ≠ .strong) && decide (s.aliasOf s.ownPart x.pp = none)

/-! ### Instructions that are not well formed -/

/-- 05_control R109: a field above 5, and the whole identifier with a field that is not 0. -/
theorem test_wid_ill_formed : (Instr.wid 1#7 6#3 0#2).wellFormed = false ∧ (Instr.wid 1#7 1#3 3#2).wellFormed = false ∧
    (Instr.wid 1#7 5#3 0#2).wellFormed = true ∧ (Instr.wid 1#7 0#3 3#2).wellFormed = true := by decide

/-- 02_numbers R30: a block length goes with the types it is for, and code 3 is none. -/
theorem test_vsetl_ill_formed : (Instr.vsetl 1#7 2#7 .b16 .f32).wellFormed = false ∧
    (Instr.vsetl 1#7 2#7 .b16 .cb8x2).wellFormed = false ∧ (Instr.vsetl 1#7 2#7 .b32 .cb8x2).wellFormed = true ∧
    decode 0x43b6306d#32 = .error .reservedType := by decide +kernel

/-- 08_draws R179: a pair begins at 1 to 126. -/
theorem test_pairs_ill_formed : (Instr.vredmaxi false 0#7 1#7).wellFormed = false ∧
    (Instr.vredmini false 127#7 1#7).wellFormed = false ∧ (Instr.vdraw false 0#7 1#7).wellFormed = false ∧
    (Instr.vdrawt false 127#7 1#7).wellFormed = false ∧ (Instr.vdrawp false 0#7 1#7 2#7).wellFormed = false ∧
    (Instr.xdmerge 1#7 127#7 2#7).wellFormed = false ∧ (Instr.xdmerge 1#7 2#7 0#7).wellFormed = false ∧
    (Instr.vsetrun 0#7 1#7 2#7).wellFormed = false ∧ (Instr.xdmerge 1#7 126#7 2#7).wellFormed = true := by decide

/-- 09_vmem R203: a segment form has 2 to 8 fields. -/
theorem test_segments_ill_formed : (Instr.vlseg false false 1#7 2#7 0#3).wellFormed = false ∧
    (Instr.vsseg true false 1#7 2#7 0#3).wellFormed = false ∧ (Instr.vsseg true false 1#7 2#7 7#3).wellFormed = true := by decide

/-- 03_words R57: a scratch pair is even. -/
theorem test_scratch_pairs_ill_formed : (Instr.mmaf false false true 0#2 5#7 6#7).wellFormed = false ∧
    (Instr.mmao false true false 0#2 5#7 7#7).wellFormed = false ∧
    (Instr.mmao false true false 0#2 5#7 6#7).wellFormed = true := by decide

/-- 11_flume R246: the levels are 0 to 6. -/
theorem test_fsetl_ill_formed : (Instr.fsetl 0#2 7#3 1#7 2#7).wellFormed = false ∧
    (Instr.fsetl 0#2 6#3 1#7 2#7).wellFormed = true := by decide

/-- 12_sync R277: the contexts are 0 to 8. -/
theorem test_contexts_ill_formed : (Instr.tread 1#7 9#4).wellFormed = false ∧
    (Instr.twait 1#7 15#4 2#7).wellFormed = false ∧ (Instr.twait 1#7 8#4 2#7).wellFormed = true := by decide

/-- 03_words R56, R57, R61, R62, R68: majors, codes, types and registers that are not, and fields that must be zero. -/
theorem test_words_refused : decode 0x00000000#32 = .error .illegalMajor ∧ decode 0xFFFFFFFF#32 = .error .illegalMajor ∧
    decode 0x0200000F#32 = .ok (.orn 0#7 0#7 0#7) ∧ decode 0x0400000F#32 = .error .reservedCode ∧
    decode 0x04000017#32 = .error .nonZeroField ∧ decode 0x46000000#32 = .error .reservedMajor ∧
    decode 0x5000000D#32 = .error .reservedCode ∧ decode 0x5000017A#32 = .error .reservedType ∧
    decode 0xB0700000#32 = .error .badRegister ∧ decode 0x8C000003#32 = .error .badRegister ∧
    decode 0xA0400007#32 = .error .badRegister ∧ decode 0xA0000008#32 = .error .reservedCode := by decide +kernel

/-! ### Scalar instructions -/

/-- 05_control R97: the ends of the ranges of one, two and three words. -/
theorem test_meets_ConstantsReachTheirRanges :
    ((0x1FFFF#64 : Word).setWidth 18).signExtend 64 = 0x1FFFF#64 ∧ ((-0x20000#64 : Word).setWidth 18).signExtend 64 = -0x20000#64 ∧
    ((0x7FFFFFFFF#64 : Word).setWidth 36).signExtend 64 = 0x7FFFFFFFF#64 ∧
    ((-0x800000000#64 : Word).setWidth 36).signExtend 64 = -0x800000000#64 ∧
    ((0x1FFFFFFFFFFFFF#64 : Word).setWidth 54).signExtend 64 = 0x1FFFFFFFFFFFFF#64 ∧
    ((-0x20000000000000#64 : Word).setWidth 54).signExtend 64 = -0x20000000000000#64 := by decide

/-- 05_control R95, R96: the numbers where a wrong width, order or sign would show. -/
theorem test_arithmetic_values :
    let s := regs base [(1, 0x8000000000000000#64), (2, BitVec.allOnes 64), (3, 65#64), (4, 3#64)]
    wrote s (exec (.add 5#7 1#7 1#7) s) 5#7 0#64 ∧ wrote s (exec (.sub 5#7 4#7 3#7) s) 5#7 0xFFFFFFFFFFFFFFC2#64 ∧
    wrote s (exec (.sra 5#7 1#7 3#7) s) 5#7 0xC000000000000000#64 ∧
    wrote s (exec (.sll 5#7 4#7 3#7) s) 5#7 6#64 ∧ wrote s (exec (.slt 5#7 1#7 4#7) s) 5#7 1#64 ∧
    wrote s (exec (.sltn 5#7 1#7 4#7) s) 5#7 0#64 ∧ wrote s (exec (.div 5#7 1#7 2#7) s) 5#7 0x8000000000000000#64 ∧
    wrote s (exec (.rem 5#7 1#7 2#7) s) 5#7 0#64 ∧ wrote s (exec (.div 5#7 1#7 0#7) s) 5#7 (BitVec.allOnes 64) ∧
    wrote s (exec (.remn 5#7 3#7 0#7) s) 5#7 65#64 ∧ wrote s (exec (.mulh 5#7 2#7 2#7) s) 5#7 0#64 ∧
    wrote s (exec (.mulhn 5#7 2#7 2#7) s) 5#7 0xFFFFFFFFFFFFFFFE#64 ∧ wrote s (exec (.clz 5#7 0#7) s) 5#7 64#64 ∧
    wrote s (exec (.addi 5#7 4#7 0x7FF#11) s) 5#7 2#64 ∧ wrote s (exec (.add 0#7 4#7 4#7) s) 0#7 0#64 := by decide +kernel

/-- A destination that is a source, x0, and the frame's hypotheses. -/
theorem test_meets_ScalarArithmeticFrame :
    let s := regs base [(5, 7#64)]
    registerOnly (.bins 5#7 5#7 5#7) = some 5#7 ∧ ends (exec (.bins 5#7 5#7 5#7) s) (fun _ => true) = true ∧
    registerOnly (.popc 0#7 5#7) = some 0#7 ∧ ends (exec (.popc 0#7 5#7) s) (fun _ => true) = true := by decide +kernel

/-- 05_control R98, 09_vmem R198: the first and last bytes of granted scratch, and the aperture's end. -/
theorem test_meets_ScalarLoadsFromScratch :
    let s := regs base [(4, ap), (5, ap + 0xFFFF8#64), (6, 7#64)]
    scalarLoad s (.ldd 7#7 4#7 0#11) = some (8, false, 7#7, ap) ∧ ap.toNat % 8 = 0 ∧ s.scratchFree ap.toNat 8 = true ∧
    scalarLoad s (.ldb 7#7 5#7 6#7) = some (1, true, 7#7, ap + 0xFFFFF#64) ∧ s.scratchFree (ap.toNat + 0xFFFFF) 1 = true ∧
    s.scratchFree (ap.toNat + 0xFFFF8) 8 = true ∧ s.scratchFree (ap.toNat + 0x100000) 1 = false := by decide +kernel

/-- 05_control R98, 09_vmem R198: a byte stored, read back with and without its sign. -/
theorem test_meets_ScalarStoresIntoScratch :
    let s := regs base [(4, ap), (7, 0x1234567890ABCD80#64)]
    scalarStore s (.stb 7#7 4#7 0x3FF#11) = some (1, 7#7, ap + 0x3FF#64) ∧ s.scratchFree (ap.toNat + 0x3FF) 1 = true ∧
    Memory.wf s.t.scratch = true ∧
    ends (exec (.stb 7#7 4#7 0x3FF#11) s) (fun t => wrote t (exec (.ldbn 8#7 4#7 0x3FF#11) t) 8#7 0x80#64) = true := by
  decide +kernel

/-- The same address after the store; little-endian order (R99); the sign of a word. -/
theorem test_meets_ScalarStoresIntoScratch_load :
    let s := regs base [(4, ap), (7, 0x12345678FFEEDDCC#64)]
    scalarStore s (.stw 7#7 4#7 1#11) = some (4, 7#7, ap + 4#64) ∧ (ap.toNat + 4) % 4 = 0 ∧ s.scratchFree (ap.toNat + 4) 4 = true ∧
    ends (exec (.stw 7#7 4#7 1#11) s) (fun t => decide (scalarLoad t (.ldw 8#7 4#7 1#11) = some (4, true, 8#7, ap + 4#64)) &&
      wrote t (exec (.ldw 8#7 4#7 1#11) t) 8#7 0xFFFFFFFFFFEEDDCC#64 &&
      wrote t (exec (.ldbn 8#7 4#7 4#11) t) 8#7 0xCC#64) = true := by decide +kernel

/-- 18_partitions R370: a page that scalar loads and stores reach, and both kinds of access to its last doubleword. -/
theorem test_meets_ScalarAccessesToMemory :
    let s := regs base [(4, 0x200000#64), (5, 0x20FFF8#64)]
    (0x20FFF8 : Nat) % 8 = 0 ∧ s.scratchOff 0x20FFF8 = none ∧
    scalarLoad s (.lddX 7#7 5#7 0#7) = some (8, false, 7#7, 0x20FFF8#64) ∧
    xlat s 0x20FFF8 .load (fun x => plain s x && s.isLocal x.pa &&
      (List.range 8).all fun k => !(s.setMarks false x).consumes (x.pa + k)) = true ∧
    scalarStore s (.stdX 7#7 5#7 0#7) = some (8, 7#7, 0x20FFF8#64) ∧ xlat s 0x20FFF8 .store (plain s) = true ∧
    ends (exec (.stdX 5#7 5#7 0#7) s) (fun t => decide (t.h.sb.length = 1) &&
      wrote t (exec (.lddX 7#7 5#7 0#7) t) 7#7 0x20FFF8#64) = true := by decide +kernel

/-- 05_control R99, 17_traps R350: a misaligned load, and a store where nothing is mapped. -/
theorem test_meets_ScalarAccessesTrap :
    let s := regs base [(4, 0x200001#64), (5, 0x40000000#64)]
    scalarLoad s (.ldhn 7#7 4#7 0#7) = some (2, false, 7#7, 0x200001#64) ∧ (0x200001 : Nat) % 2 ≠ 0 ∧
    scalarStore s (.std 7#7 5#7 0#11) = some (8, 7#7, 0x40000000#64) ∧ s.scratchOff 0x40000000 = none ∧
    (match s.translate 0x40000000 .store with | .error e => decide (e.cause = .page1) | .ok _ => false) = true ∧
    ends (exec (.std 7#7 5#7 0#11) s) (fun t => decide ((t.cl.svc.squeue.map TrapRec.cause) = [0x04#8])) = true := by
  decide +kernel

/-- 01_machine R24, 17_traps R361: the last word of a poisoned line of scratch, and of one of memory. -/
theorem test_meets_ScalarAccessesTrap_poison :
    let s := regs { base with t := { base.t with scrPoison := [{ idx := 1, written := [] }] } } [(4, ap + 0x1F8#64)]
    let m := regs (base.poisonLine 0x2000) [(4, 0x2000F8#64)]
    scalarLoad s (.lddX 7#7 4#7 0#7) = some (8, false, 7#7, ap + 0x1F8#64) ∧ s.scratchOff (ap.toNat + 0x1F8) = some 0x1F8 ∧
    0x1F8 + 8 ≤ s.t.scrb ∧ s.t.windowAt 0x1F8 = none ∧ (∃ p ∈ s.t.scrPoison, p.idx = 0x1F8 / 256) ∧
    trapped (exec (.lddX 7#7 4#7 0#7) s) 0x10#8 (ap + 0x100#64) = true ∧
    scalarLoad m (.lddX 7#7 4#7 0#7) = some (8, false, 7#7, 0x2000F8#64) ∧ m.scratchOff 0x2000F8 = none ∧
    xlat m 0x2000F8 .load (fun x => plain m x && m.isLocal x.pa && (m.setMarks false x).consumes (x.pa + 7)) = true ∧
    trapped (exec (.lddX 7#7 4#7 0#7) m) 0x10#8 0x200000#64 = true := by decide +kernel

/-- 05_control R100 to R102: a branch back, one not taken, a count down to zero, a misaligned jump. -/
theorem test_branches_and_jumps :
    let s := regs base [(4, 1#64), (5, BitVec.allOnes 64), (6, 0x100102#64)]
    went (exec (.blt 5#7 4#7 0x7FF#11) s) 0xFFFFC#64 ∧ went (exec (.bltn 5#7 4#7 0x7FF#11) s) 0x100004#64 ∧
    wrote s (exec (.bsub 4#7 4#7 0x7FF#11) s) 4#7 0#64 ∧
    ends (exec (.jr 6#7) s) (fun t => decide ((t.cl.svc.squeue.map fun r => (r.cause, r.val)) = [(0x03#8, 0x100102#64)])) ∧
    went (exec (.call 0x1FFFFFF#25) s) 0xFFFFC#64 := by decide +kernel

/-- 05_control R103: a count at, above and below the elements of the budget, and rounding to whole groups. -/
theorem test_vsetl_lengths :
    let s := regs base [(4, 4096#64), (5, 4095#64), (6, 100000#64), (7, 21#64)]
    ends (exec (.vsetl 9#7 4#7 .none .f32) s) (fun t => decide (t.h.vl = 4096#18)) ∧
    ends (exec (.vsetl 9#7 5#7 .none .f32) s) (fun t => decide (t.rx 9#7 = 4095#64)) ∧
    ends (exec (.vsetl 9#7 6#7 .none .f32) s) (fun t => decide (t.rx 9#7 = 4096#64)) ∧
    ends (exec (.vsetl 9#7 7#7 .b32 .cb8x2) s) (fun t => decide (t.rx 9#7 = 16#64)) ∧
    ends (exec (.vsetl 9#7 7#7 .b16 .e2m3) s) (fun t => decide (t.rx 9#7 = 20#64)) := by decide +kernel

/-- 03_words R70, R72: a register of each level, at levels that reach it. -/
theorem test_meets_RegisterWritesReadBack :
    (.u, 0x003, 0x1FF#64) ∈ writableRegs ∧ Level.rank .u ≤ base.level.rank ∧ base.who = .user ∧
    (.o, 0x70D, 0x3F#64) ∈ writableRegs ∧ Level.rank .o ≤ ({ base with who := .lydar } : State).level.rank ∧
    ends (exec (.sput 4#7 0x105#11) (regs base [(4, BitVec.allOnes 64)])) (fun t =>
      wrote t (exec (.sget 5#7 0x105#11) t) 5#7 0x0D3CFF9E#64) = true ∧ base.regBusy 6 = false := by decide +kernel

/-- 03_words R70: the first number above the user's range, reserved ranges, and a number that is assigned. -/
theorem test_meets_RegisterAccessLevels :
    regLevel 0x400 = some .s ∧ base.level.rank < Level.rank .s ∧ regLevel 0x000 = some .u ∧
    (base.readReg 0x000).isSome = true ∧ base.readReg 0x1FF = none ∧ regLevel 0x1FF = some .u ∧
    ends (exec (.sget 4#7 0x400#11) base) (fun t => decide ((t.cl.svc.squeue.map TrapRec.cause) = [0x19#8])) = true ∧
    ends (exec (.sget 4#7 0x200#11) base) (fun t => decide ((t.cl.svc.squeue.map TrapRec.cause) = [0x01#8])) = true ∧
    ends (exec (.sget 4#7 0x3FF#11) base) (fun t => decide ((t.cl.svc.squeue.map TrapRec.cause) = [0x01#8])) = true ∧
    (base.h.setUreg 0x003 (base.rx 4#7)).isSome = true ∧ base.regBusy 0x003 = false ∧
    (base.h.setUreg 0x104 0#64).isNone = true ∧ (base.t.setTreg 0x104 0#64).isSome = true ∧
    (base.h.setUreg 0x002 0#64).isNone = true ∧ (base.t.setTreg 0x002 0#64).isNone = true ∧
    trapped (exec (.sput 4#7 0x002#11) base) 0x01#8 2#64 = true ∧
    (({ base with who := .lydar } : State).setOreg 0x70D 0#64).isSome = true := by
  decide +kernel

/-- The register events: no instruction under way, a synchronised register, a valid MSHAPE value (10_matrix R223). -/
theorem test_meets_RegisterEventsAct :
    let s := regs base [(4, 0x4A400000201#64)]
    s.h.flight = none ∧ syncReg 0x006 = true ∧ s.regBusy 6 = false ∧ s.who = .user ∧ (shapeOf (s.rx 4#7)).isSome = true ∧
    ends (exec (.mshapeWrite 4#7) s) (fun t => decide (t.t.mshape = 0x4A400000201#64 ∧ t.h.pc = 0x100004#64)) = true ∧
    ends (exec (.fflagsSyncAccess true 4#7 0x006#11) s) (fun t => decide (t.h.fflags = 1#9)) = true := by decide +kernel

/-! ### Harts, the end of a task, repetition, hints -/

/-- The task with two harts: hart 0 with lane groups 0 to 3 and an ended child with the others. -/
def twoHarts : State :=
  let c : Hart := { id := 4#3, lgmask := 0xF0#8, parent := some 0#3, run := .ended, fflags := 0x21#9 }
  let s := regs base [(4, 4#64), (5, 3#64)]
  { s with h := { s.h with lgmask := 0x0F#8, fflags := 0x02#9 }, t := { s.t with harts := [c] } }

/-- 05_control R106: one lane group, two, and eight. -/
theorem test_meets_ForkSplitsTheLanes :
    let one : State := { base with h := { base.h with lgmask := 0x10#8 } }
    let two : State := { base with h := { base.h with lgmask := 0x11#8 } }
    ((List.range 8).filter fun g => one.h.lgmask.getLsbD g).length < 2 ∧
    2 ≤ ((List.range 8).filter fun g => two.h.lgmask.getLsbD g).length ∧
    wrote one (exec (.lfork 7#7) one) 7#7 (BitVec.allOnes 64) = true ∧
    ends (exec (.lfork 7#7) two) (fun t => decide (t.rx 7#7 = 4#64 ∧ t.h.lgmask = 0x01#8 ∧
      (t.t.harts.map fun c => (c.id, c.lgmask, c.pc, c.rx 7#7)) = [(4#3, 0x10#8, 0x100004#64, 0#64)])) = true ∧
    ends (exec (.lfork 7#7) base) (fun t => decide (t.rx 7#7 = 4#64 ∧ t.h.lgmask = 0x0F#8)) = true ∧
    (let c : State := { base with who := .service }
     c.who ≠ .user ∧ ends (exec (.lfork 7#7) c) (fun t => decide (t.rx 7#7 = BitVec.allOnes 64 ∧ t.t.harts = [])) = true) := by
  decide +kernel

/-- 05_control R107: the child that has ended, a number that no child has, and the child's own end. -/
theorem test_meets_JoinTakesLanesBack :
    twoHarts.rx 4#7 = (4#3 : BitVec 3).setWidth 64 ∧ (4#3 : BitVec 3) ≠ 0#3 ∧
    (twoHarts.t.harts.filter fun h => h.id = 4#3).map Hart.run = [.ended] ∧
    twoHarts.rx 5#7 ≠ 0#64 ∧ (∀ h ∈ twoHarts.t.harts, ¬(h.parent = some twoHarts.h.id ∧ h.id.setWidth 64 = twoHarts.rx 5#7)) ∧
    ends (exec (.ljoin 4#7) twoHarts) (fun t => decide (t.h.lgmask = 0xFF#8 ∧ t.h.fflags = 0x23#9 ∧ t.t.harts = [])) = true ∧
    base.rx 0#7 = 0#64 ∧ base.t.harts = [] ∧ base.h.parent = none ∧
    (let s : State := { base with h := { base.h with id := 4#3, parent := some 0#3 } }
     s.t.idle (fun h => h = s.h.id) = true ∧ s.h.held = [] ∧ s.h.stopped = none ∧
     ends (exec (.ljoin 0#7) s) (fun t => decide (t.h.run = .ended)) = true) := by decide +kernel

/-- 05_control R112: hart 0 with nothing outstanding, and a hart that is not 0. -/
theorem test_meets_TaskEndsAtTdone :
    base.who = .user ∧ base.h.id = 0#3 ∧ base.t.harts = [] ∧ base.t.idle (fun _ => true) = true ∧ base.h.held = [] ∧ base.h.stopped = none ∧
    pkCompl base.t.packet = 0 ∧
    ends (exec .tdone base) (fun t => decide (t.who ≠ .user ∧ t.t.used = false)) = true ∧
    (let s : State := { base with h := { base.h with id := 4#3 } }
     s.h.id ≠ 0#3 ∧ ends (exec .tdone s) (fun t => decide ((t.cl.svc.squeue.map fun r => (r.cause, r.val)) = [(0x01#8, 0x40000006#64)]))) := by
  decide +kernel

/-- A word after the rep of the next instruction. -/
def repeated (w : IWord) : State := base.putWord 0x100004 w

/-- 03_words R65, R66: a vadd may be repeated, an add may not; REPCNT at and below the count. -/
theorem test_meets_RepeatPrefixEngages :
    let w : IWord := 0x54041030#32
    let s := repeated w
    (match fetchAt ((s.h.pc + 4#64).toNat) s with | .ok (v, _) => decide (v = w) | .error _ => false) = true ∧
    repAllowed w 2 true true true 1 = true ∧
    ends (exec (.rep 1#6 true true true 0#3) s) (fun t => decide (t.h.rep = some ⟨2, true, true, true, 1⟩ ∧ t.h.pc = s.h.pc)) = true ∧
    ends (exec (.rep 1#6 true true true 0#3) { s with h := { s.h with repcnt := 2#6 } })
      (fun t => decide (t.h.rep = none ∧ t.h.pc = s.h.pc + 8#64 ∧ t.h.repcnt = 0#6)) = true ∧
    (let v : IWord := 0x40000004#32
     (match fetchAt ((s.h.pc + 4#64).toNat) (repeated v) with | .ok (x, _) => decide (x = v) | .error _ => false) = true ∧
     repAllowed v 2 true false false 1 = false) := by decide +kernel

/-- 12_sync R272: the barrier of the last number. -/
def oneBarrier : State :=
  { regs base [(4, 255#64), (5, 2#64), (6, 254#64), (7, 7#64)] with
    t := { base.t with barriers := [{ num := 255, n := 2, a := 1, g := 0xFFFFFFFF#64 }] } }

/-- 05_control R109, 12_sync R272. -/
theorem test_meets_HintsPassAndTaskValuesAreRead :
    oneBarrier.who = .user ∧ (oneBarrier.rx 4#7).toNat < 256 ∧ (oneBarrier.barrier? 255).isSome = true ∧
    wrote oneBarrier (exec (.bgenBar 9#7 4#7) oneBarrier) 9#7 0xFFFFFFFF#64 = true := by decide +kernel

/-! ### Chains and vectors -/

/-- A live version over one swatch. -/
def liveIn (tag : ElemType) (len swatch bytes id : Nat) : Entry :=
  { state := .live, tag := tag, segs := [⟨swatch, 0, bytes⟩], len := len, prog := len, id := id }

/-- A swatch with these first bytes, referenced once, of the task. -/
def swatch (i : Nat) (l : List Nat) : Swatch :=
  { idx := i, data := (l.map fun n => BitVec.ofNat 8 n) ++ List.replicate (256 - l.length) 0#8, refs := 1, poison := false,
    owner := 0#6, charge := some 1 }

/-- Names 1 and 2 hold 4 elements of i32 each (1, 2, -1, 4 and 10, 20, 30, 40), name 3 the mask 0b1010; VTYPE is i32,
VL 4. -/
def vec : State :=
  let s := ctx
  { s with
    h := { s.h with
      names := [(1, liveIn .i32 4 0 16 1), (2, liveIn .i32 4 1 16 2), (3, liveIn .b1 4 2 1 3)],
      ty := .i32, vl := 4#18, vmsel := 3#9 },
    cl := { s.cl with
      bolt := [swatch 0 [1, 0, 0, 0, 2, 0, 0, 0, 255, 255, 255, 255, 4, 0, 0, 0],
        swatch 1 [10, 0, 0, 0, 20, 0, 0, 0, 30, 0, 0, 0, 40, 0, 0, 0], swatch 2 [10]],
      free := [(3, 32765)] },
    t := { s.t with gone := [], nextStamp := 10 } }

/-- The bytes of the chain that a register names. -/
def chain (s : State) (r : Reg) : List Byte :=
  match s.cl.chainBytes (s.entry (s.h.name r)).segs 0 (chainLen (s.entry (s.h.name r)).segs) with
  | .ok bs => bs
  | .error _ => []

/-- A task that owns its core's context, one that does not, a first residency, and a service core. -/
theorem test_meets_VectorContextIsRequired :
    let s : State := { base with cl := { base.cl with cores := base.cl.cores.set 0 { owner := some 9, ownerSave := 0x5000#64 } } }
    usesContext (.cpool 5#7) = true ∧ s.who = .user ∧ s.vectorContext = .error 0x5000#64 ∧
    trapped (exec (.cpool 5#7) s) 0x16#8 0x5000#64 = true ∧
    collective (.kdraw 0#1 5#7) = true ∧ trapped (exec (.kdraw 0#1 5#7) s) 0x16#8 0x5000#64 = true ∧
    (match base.vectorContext with | .ok u => decide (u.cl.cores.toList.map (·.owner) = some 1 :: List.replicate 7 none) | .error _ => false) = true ∧
    ends (exec (.cpool 5#7) base) (fun t => decide (t.h.pc = 0x100004#64)) = true ∧
    (let s : State := { base with who := .service }
     s.who ≠ .user ∧ registersOnly .mdetach = true ∧ registersOnly (.cpool 5#7) = false ∧
     ends (exec (.mattach 9#7 5#7) s) (fun t => decide (t.h.pc = s.h.pc + 4#64 ∧ t.t = s.t)) = true) := by decide +kernel

/-- 06_chains R141, R143: the last element below LEN; 09_vmem R213: the end of a block. -/
theorem test_meets_ChainQueriesRead :
    let s := regs vec [(5, 2#64), (6, 100#64), (7, 0x0000000300000004#64)]
    s.holdsContext = true ∧ (s.entry (s.h.name 1#7)).state = .live ∧ (s.rx 5#7).toNat < (s.entry (s.h.name 1#7)).len ∧
    (s.rx 5#7).toNat < (s.entry (s.h.name 1#7)).prog ∧
    s.cl.element .i32 (s.entry (s.h.name 1#7)).segs 2 = .ok 0xFFFFFFFF ∧
    wrote s (exec (.vget 9#7 1#7 5#7) s) 9#7 (BitVec.allOnes 64) = true ∧
    wrote s (exec (.clen 9#7 1#7) s) 9#7 4#64 = true ∧ wrote s (exec (.clen 9#7 8#7) s) 9#7 0#64 = true ∧
    wrote s (exec (.cpool 9#7) s) 9#7 (BitVec.ofNat 64 (32765 + 32765 * 2 ^ 32)) = true ∧
    wrote s (exec (.vsetrun 9#7 6#7 7#7) s) 9#7 1#64 = true := by decide +kernel

/-- 06_chains R129 to R142: two swatches at the limit of cnew, a new type whose elements are whole, a copy on write. -/
theorem test_meets_ChainsAreMade :
    let s := regs vec [(5, 3#64), (6, 128#64), (10, 77#64)]
    s.holdsContext = true ∧ (s.entry (s.h.name 4#7)).state ≠ .spilled ∧ s.boltBefore none = false ∧ s.unretired 4 = false ∧ bytesFor s.h.ty (s.rx 6#7).toNat ≤ 512 ∧
    s.swatchRoom ((bytesFor s.h.ty (s.rx 6#7).toNat + 255) / 256) = true ∧ s.swatchRoom 2 = true ∧
    ends (exec (.cnew 4#7 6#7) s) (fun t => decide ((t.entry 4).len = 128 ∧ chain t 4#7 = List.replicate 512 0#8)) = true ∧
    (s.entry (s.h.name 1#7)).state ≠ .empty ∧
    ends (exec (.cdrop 1#7) s) (fun t => decide ((t.entry 1).state = .empty ∧ (t.entry 1).version = (s.entry 1).version + 1#16)) = true ∧
    (s.entry 1).state = .live ∧ (∀ i ∈ (s.entry 1).swatches, 1 ≤ s.refs i ∧ s.refs i + (s.entry 1).swatches.count i ≤ 253) ∧
    ends (exec (.cshare 4#7 1#7) s) (fun t => decide (chain t 4#7 = chain s 1#7 ∧ t.refs 0 = 2)) = true ∧
    retypeLen .i64 (bytesFor .i32 4) = some 2 ∧
    ends (exec (.cretype 4#7 1#7 .i64) s) (fun t => decide ((t.entry 4).len = 2 ∧ (t.entry 4).tag = .i64)) = true ∧
    s.h.name 1#7 ≠ s.h.name 4#7 ∧
    ends (exec (.cmovv 4#7 1#7) s) (fun t => decide ((t.entry 1).state = .empty ∧ chain t 4#7 = chain s 1#7)) = true ∧
    (s.entry 1).state = .live ∧ (s.rx 5#7).toNat < (s.entry 1).len ∧ s.swatchRoom ((s.entry 1).segs.length + 1) = true ∧
    (∀ w ∈ s.cl.bolt, w.poison = false) ∧ s.unretired 1 = false ∧ (∀ w ∈ s.cl.bolt, w.data.length = 256) ∧
    (∀ g ∈ (s.entry 1).segs, g.first + g.count ≤ 256) ∧ bytesFor (s.entry 1).tag (s.entry 1).len ≤ chainLen (s.entry 1).segs ∧
    (∀ i ∈ (s.entry 1).swatches, (s.entry 1).swatches.count i ≤ s.refs i) ∧
    ends (exec (.vput 1#7 10#7 5#7) s) (fun t => decide (((chain t 1#7).drop 12) = [77#8, 0#8, 0#8, 0#8] ∧
      (t.entry 1).version = (s.entry 1).version + 1#16)) = true := by decide +kernel

/-- 06_chains R135 to R137: seams, whole heads and tails, and empty parts. -/
theorem test_meets_ChainsAreCutAndJoined :
    let s := regs vec [(2, 4#64), (5, 3#64), (7, 0x0000000200000001#64)]
    let e := s.entry 1
    let f := s.entry 2
    let joined := (coalesce ((e.segs.map fun g => (g, 1)) ++ f.segs.map fun g => (g, 2))).map (·.1)
    s.holdsContext = true ∧ (s.entry 4).state ≠ .spilled ∧ e.state = .live ∧ s.swatchRoom 2 = true ∧ s.boltBefore none = false ∧
    s.unretired 4 = false ∧ s.unretired 1 = false ∧ f.state = .live ∧ f.tag = e.tag ∧ bytePos e.tag e.len = true ∧ joined.length ≤ 64 ∧
    (∀ i ∈ joined.map Seg.swatch, 1 ≤ s.refs i ∧ s.refs i + (joined.map Seg.swatch).count i ≤ 253) ∧
    ends (exec (.cseam 4#7 1#7 2#7) s) (fun t => decide (chain t 4#7 = chain s 1#7 ++ chain s 2#7)) = true ∧
    bytePos e.tag 3 = true ∧ 3 ≤ e.len ∧
    (∀ i ∈ (((cut 1 e.segs 12 16).map (·.1)) ++ (cut 1 e.segs 0 12).map (·.1)).map Seg.swatch, 1 ≤ s.refs i ∧ s.refs i + 2 ≤ 253) ∧
    ends (exec (.chemh 4#7 1#7 5#7) s) (fun t => decide (chain t 4#7 = (chain s 1#7).drop 12)) = true ∧
    ends (exec (.chemh 4#7 1#7 2#7) s) (fun t => decide (chain t 4#7 = [] ∧ (t.entry 4).state = .live)) = true ∧
    ends (exec (.chemt 4#7 1#7 5#7) s) (fun t => decide (chain t 4#7 = (chain s 1#7).take 4)) = true ∧
    ends (exec (.csplit 4#7 1#7 5#7) s)
      (fun t => decide (chain t 4#7 = (chain s 1#7).drop 12 ∧ chain t 1#7 = (chain s 1#7).take 12)) = true ∧
    (s.rx 7#7).toNat % 2 ^ 32 + (s.rx 7#7).toNat / 2 ^ 32 ≤ e.len ∧ bytePos e.tag 1 = true ∧
    ends (exec (.cslice 4#7 1#7 7#7) s) (fun t => decide (chain t 4#7 = ((chain s 1#7).drop 4).take 8)) = true := by
  decide +kernel

/-- 06_chains R121, R130: a cut through two segments of three. -/
theorem test_meets_CutAndCoalesceKeepTheBytes :
    let l : List Seg := [⟨0, 0, 256⟩, ⟨1, 3, 10⟩, ⟨1, 13, 4⟩]
    (∀ g ∈ l, 0 < g.count) ∧ 250 ≤ 262 ∧ 262 ≤ chainLen l ∧ (cut 1 l 250 262).map (·.1) = [⟨0, 250, 6⟩, ⟨1, 3, 6⟩] ∧
    chainLen l ≤ chainLen l ∧ (cut 1 l 256 (chainLen l)).map (·.1) = [⟨1, 3, 14⟩] := by decide +kernel

/-- 06_chains R144, R145: the last slot, empty and full; a wait one nanosecond beyond WTMO. -/
theorem test_meets_MailboxesPassChains :
    let s := regs vec [(5, 63#64)]
    let full : State := { s with cl := { s.cl with mail := [(63, liveIn .i32 4 1 16 2)] } }
    let late (k : WaitKind) : State := { s with time := 111, h := { s.h with wtmo := 10#64, wait := some ⟨k, 100⟩ } }
    s.holdsContext = true ∧ (s.entry 1).state = .live ∧ (s.rx 5#7).toNat ≤ 63 ∧ (∀ m ∈ s.cl.mail, m.1 ≠ 63) ∧
    s.readsOf s.h.id = [] ∧ s.queuedBefore (WaitKind.posts 63) = false ∧
    ends (exec (.cpost 1#7 5#7) s) (fun t => decide ((t.entry 1).state = .empty ∧ t.cl.mail.map (·.1) = [63])) = true ∧
    (full.cl.mail.find? fun m => m.1 = 63) = some (63, liveIn .i32 4 1 16 2) ∧ full.queuedBefore (WaitKind.takes 63) = false ∧
    full.unretired 4 = false ∧
    ends (exec (.ctake 4#7 9#7 5#7) full) (fun t => decide (t.cl.mail = [] ∧ chain t 4#7 = chain s 2#7 ∧ t.rx 9#7 = 0#64)) = true ∧
    (late (.cpost 63)).h.wait = some ⟨.cpost 63, 100⟩ ∧ 100 + (late (.cpost 63)).h.wtmo.toNat < (late (.cpost 63)).time ∧
    trapped (exec .cpostTimeout (late (.cpost 63))) 0x1B#8 63#64 = true ∧
    wrote s (exec .ctakeTimeout (late (.ctake 63 9#7))) 9#7 2#64 = true := by decide +kernel

/-- Nothing stops an unmasked vadd of two chains, a masked cast to a narrower type, or a cpack; 07_vector R158. -/
theorem test_meets_VectorComputationCompletes :
    computeSpec (.vadd false false 4#7 1#7 2#7) = some (lite (.bin .add) false .vec 4#7 1#7 2#7) ∧
    readyFor vec (lite (.bin .add) false .vec 4#7 1#7 2#7) 65 ∧
    computeSpec (.cpack 4#7 1#7) = some (lite .pack false .none 4#7 1#7 0#7) ∧
    readyFor vec (lite .pack false .none 4#7 1#7 0#7) 65 ∧
    ends (exec (.vadd false false 4#7 1#7 2#7) vec) (fun t => decide (chain t 4#7 =
      [11#8, 0#8, 0#8, 0#8, 22#8, 0#8, 0#8, 0#8, 29#8, 0#8, 0#8, 0#8, 44#8, 0#8, 0#8, 0#8])) = true ∧
    ends (exec (.cpack 4#7 1#7) vec) (fun t => decide (chain t 4#7 = chain vec 1#7)) = true := by
  refine ⟨rfl, ?_, rfl, ?_, ?_, ?_⟩
  · unfold readyFor; decide +kernel
  · unfold readyFor; decide +kernel
  · decide +kernel
  · decide +kernel

/-- Masked elements keep the old version (07_vector R154); a comparison gives bits (R152); a scalar operand. -/
theorem test_vector_values :
    ends (exec (.vsub true false 2#7 2#7 1#7) vec) (fun t => decide (chain t 2#7 =
      [10#8, 0#8, 0#8, 0#8, 18#8, 0#8, 0#8, 0#8, 30#8, 0#8, 0#8, 0#8, 36#8, 0#8, 0#8, 0#8])) = true ∧
    ends (exec (.vclt false true 4#7 1#7 5#7) (regs vec [(5, 2#64)]))
      (fun t => decide (chain t 4#7 = [0b0101#8] ∧ (t.entry 4).tag = .b1 ∧ (t.entry 4).len = 4)) = true ∧
    ends (exec (.vrev false 4#7 1#7) vec) (fun t => decide ((chain t 4#7).take 4 = [4#8, 0#8, 0#8, 0#8])) = true := by
  decide +kernel

/-- Codes at the ends of i8; a shift by the width. -/
theorem test_meets_VectorIntegerElements :
    1 ≤ 8 ∧ 127 < 2 ^ 8 ∧ 128 < 2 ^ 8 ∧ binInt .adds true 8 127 1 = (127, fIOV) ∧ binInt .subs true 8 128 1 = (128, fIOV) ∧
    (binInt .avg true 8 127 127).1 = 127 ∧ (binInt .sll false 8 1 8).1 = 0 ∧ (binInt .mul true 8 128 255).1 = 128 ∧
    (intOf true 8 0 = 0 ∧ binInt .div true 8 7 0 = (255, fIDZ) ∧ binInt .rem true 8 7 0 = (7, fIDZ)) ∧
    (intOf true 8 128 = intLo true 8 ∧ intOf true 8 255 = -1 ∧ binInt .div true 8 128 255 = (128, fIOV) ∧ binInt .rem true 8 128 255 = (0, fIOV)) ∧
    (binInt .div true 8 249 2).1 = 253 ∧ (binInt .rem true 8 249 2).1 = 255 ∧ (binInt .sra true 8 128 9).1 = 255 ∧ (binInt .rot false 8 1 9).1 = 128 ∧
    (isInt .i8 = true ∧ isSigned .i8 = true ∧ elemBits .i8 = 8 ∧ unElem .abs .i8 0 128 = (128, fIOV) ∧ (unElem .abs .i8 0 255).1 = 1 ∧
      (unElem .clz .i8 3 1).1 = 7 ∧ (unElem .id .i4 18 0).1 = 2) := by
  decide +kernel

/-- 02_numbers R42, 07_vector R164 to R169: numbers, a NaN, an exact and an inexact code, a division by zero. -/
theorem test_meets_VectorFloatElements :
    isFloat .f16 = true ∧ ((3 : ℚ) * 2 ^ (0 : ℤ) ≤ 3 ∧ (3 : ℚ) < (3 + 1) * 2 ^ (0 : ℤ)) ∧
    ((2 ^ 32 : Nat) : ℚ) * 2 ^ (0 : ℤ) < 2 ^ 32 + 1 / 2 ∧
    (FVal.fin false 3 0).finite = true ∧ (FVal.fin false 3 0).val ≠ 0 ∧ (FVal.fin true 0 0).val = 0 ∧
    (FVal.fin true 0 0).val = (FVal.fin false 0 0).val ∧ (FVal.fin true 1 0).val < (FVal.fin false 0 0).val ∧
    binFloat .fadd (fmtOf .f16) .rne 0 (.fin false 2049 0) none (.fin false 0 0) (.fin false 0 0) = (0x6800, fNX) ∧
    binFloat .fms (fmtOf .f16) .rne 0 (.fin false 3 0) none (.fin false 3 0) (.fin false 8 0) = (0x3C00, 0#9) ∧
    binFloat .fmin (fmtOf .f16) .rne 0x8000 (.fin true 0 0) (some 0) (.fin false 0 0) (.fin false 0 0) = (0x8000, 0#9) ∧
    binFloat .fdiv (fmtOf .f16) .rne 0 (.fin true 1 0) none (.fin false 0 0) (.fin false 0 0) = (0xFC00, fDZ) ∧
    scaleElem (fmtOf .f16) .rne (.fin false 3 0) 126 = (0x3E00, 0#9) := by
  refine ⟨rfl, by norm_num, by norm_num, rfl, by norm_num [FVal.val], by norm_num [FVal.val], by norm_num [FVal.val],
    by norm_num [FVal.val], ?_, ?_, ?_, ?_, ?_⟩ <;> decide +kernel

/-- 07_vector R170 to R175: 4 and 2, 0, ±∞ and NaN; a code of i8 beyond n4; −2.5 to an integer; an index at the end. -/
theorem test_meets_VectorSpecialAndMovedElements :
    isWide .f16 = true ∧ (fmtOf .f16).decode 0x4400 = .fin false 1024 (-8) ∧ (FVal.fin false 1024 (-8)).val = 2 ^ (2 : ℤ) ∧
    0 < (FVal.fin false 1024 (-8)).val ∧ (FVal.fin false 1024 (-8)).val = (4 : ℤ) ∧ (FVal.fin true 1024 (-8)).val < 0 ∧
    unElem .fsqrt .f16 0 0x4400 = (0x4000, 0#9) ∧ unElem .flog2 .f16 0 0x4400 = (0x4000, 0#9) ∧
    unElem .fexp2 .f16 0 0x4400 = (0x4C00, 0#9) ∧ (fmtOf .f16).decode 0xFC00 = .inf true ∧ unElem .fexp2 .f16 0 0xFC00 = (0, 0#9) ∧
    (fmtOf .f16).decode 0x7C01 = .nan true ∧ unElem .frcp .f16 0 0x7C01 = (0x7E00, fNV) ∧
    convert .rne false .i8 .n4 0 17 = (15, fIOV) ∧ valueOf .f16 0 0xC100 = .fin true 1280 (-9) ∧
    convert .rne false .f16 .i8 0 0xC100 = (0xFE, fNX) ∧ convert .rdn false .f16 .i8 0 0xC100 = (0xFD, fNX) ∧
    convert .rne false .e8m0 .e8m0 0 7 = (7, 0#9) ∧
    (vec.entry 1).state = .live ∧ (∀ w ∈ vec.cl.bolt, w.poison = false) ∧
    ((lite (.perm .rgath) false .scalar 4#7 1#7 0#7).capture vec).vb.isNone = true ∧
    ((lite (.perm .zip) false .vec 4#7 1#7 2#7).capture vec).va.isSome = true ∧
    ends (exec (.vrgath false true 4#7 1#7 5#7) (regs vec [(5, 3#64)])) (fun t => decide (chain t 4#7 = (List.replicate 4 [4#8, 0#8, 0#8, 0#8]).flatten)) = true ∧
    ends (exec (.vslup false 4#7 1#7 5#7) (regs vec [(5, 3#64)])) (fun t => decide (chain t 4#7 = List.replicate 12 0#8 ++ [1#8, 0#8, 0#8, 0#8])) = true := by
  refine ⟨rfl, by decide +kernel, by norm_num [FVal.val], by norm_num [FVal.val], by norm_num [FVal.val],
    by norm_num [FVal.val], ?_, ?_, ?_, ?_, ?_, ?_, ?_, ?_, ?_, ?_, ?_, ?_, ?_, ?_, ?_, ?_, ?_, ?_⟩ <;> decide +kernel

/-- 08_draws R180, 07_vector R177: a sum with a negative element, a count, the index of the first one. -/
theorem test_meets_FoldsComplete :
    foldReady vec (lite (.red .sum) false .none 9#7 1#7 0#7) ∧ foldReady vec (lite (.red .maxi) true .none 9#7 1#7 0#7) ∧
    foldReady vec (lite (.mask .count) false .none 9#7 3#7 0#7) ∧
    (let s : State := { vec with h := { vec.h with ty := .f32, names := vec.h.names.map fun p => (p.1, if p.1 = 2 then { p.2 with tag := .f32 } else p.2) } }
     foldReady s (lite (.red .drawp) false .vec 9#7 1#7 2#7)) ∧
    (∀ k, k < 4 → vec.cl.element .i32 (vec.entry 1).segs k = .ok ([1, 2, 0xFFFFFFFF, 4].getD k 0)) ∧
    isInt vec.h.ty = true ∧ wrote vec (exec (.vredsum false 9#7 1#7) vec) 9#7 6#64 = true ∧
    ends (exec (.vredmaxi true 9#7 1#7) vec) (fun t => decide (t.rx 9#7 = 4#64 ∧ t.rx 10#7 = 3#64)) = true ∧
    wrote vec (exec (.vmcount false 9#7 3#7) vec) 9#7 2#64 = true ∧
    wrote vec (exec (.vmlow false 9#7 3#7) vec) 9#7 1#64 = true ∧
    ends (exec (.xdmerge 9#7 11#7 13#7) vec) (fun t => decide (t.h.dctr = 1#64)) = true := by
  unfold foldReady; decide +kernel

/-- Name 1 holds the f32 numbers 0, 2, 0, 0, name 2 the i32 indexes of `vec`, name 5 −∞, 1, −∞, −∞. -/
def weights : State :=
  { vec with
    h := { vec.h with ty := .f32, names := [(1, liveIn .f32 4 0 16 1), (2, liveIn .i32 4 1 16 2), (3, liveIn .b1 4 2 1 3), (5, liveIn .f32 4 4 16 5)] },
    cl := { vec.cl with bolt := [swatch 0 [0, 0, 0, 0, 0, 0, 0, 0x40], swatch 1 [10, 0, 0, 0, 20, 0, 0, 0, 30, 0, 0, 0, 40, 0, 0, 0], swatch 2 [10],
      swatch 4 [0, 0, 0x80, 0xFF, 0, 0, 0x80, 0x3F, 0, 0, 0x80, 0xFF, 0, 0, 0x80, 0xFF]], free := [(3, 1), (5, 32763)] } }

/-- 08_draws R180 to R194: extremes, sums and draws of which one element is the answer, two pairs to merge. -/
theorem test_meets_FoldsComplete_values :
    foldReady vec (lite (.red .mini) false .none 9#7 1#7 0#7) ∧ foldReady weights (lite (.red .osum) false .none 9#7 1#7 0#7) ∧
    foldReady weights (lite (.red .draw) false .none 9#7 1#7 0#7) ∧ foldReady weights (lite (.red .drawt) false .none 9#7 5#7 0#7) ∧
    foldReady weights (lite (.red .drawp) false .vec 9#7 2#7 1#7) ∧
    ends (exec (.vredmini false 9#7 1#7) vec) (fun t => decide (t.rx 9#7 = BitVec.allOnes 64 ∧ t.rx 10#7 = 2#64)) = true ∧
    onlyWeight [0, 0x40000000, 0, 0] 1 ∧ (∀ e ∈ [0, 0x40000000, 0, 0], nanCode e = false) ∧
    wrote weights (exec (.vredosum false 9#7 1#7) weights) 9#7 0x40000000#64 = true ∧
    ends (exec (.vdraw false 9#7 1#7) weights) (fun t => decide (t.rx 9#7 = 1#64 ∧ t.rx 10#7 = 0x40000000#64)) = true ∧
    ends (exec (.vdrawt false 9#7 5#7) weights) (fun t => decide (t.rx 9#7 = 1#64 ∧ t.rx 10#7 = 0x3F800000#64)) = true ∧
    ends (exec (.vdrawp false 9#7 2#7 1#7) weights) (fun t => decide (t.rx 9#7 = 20#64 ∧ t.rx 10#7 = 0x40000000#64)) = true ∧
    (let s := regs weights [(11, 7#64), (12, 0x3F800000#64), (13, 8#64), (14, 0#64)]
     ends (exec (.xdmerge 9#7 11#7 13#7) s) (fun t => decide (t.rx 9#7 = 7#64 ∧ t.rx 10#7 = 0x3F800000#64)) = true ∧
     ends (exec (.xdmerge 9#7 13#7 11#7) s) (fun t => decide (t.rx 9#7 = 7#64)) = true) := by
  unfold foldReady onlyWeight; decide +kernel

/-! ### Vector memory, stash windows, matrix -/

/-- The vector state with bytes 1 to 16 in scratch at offset 16, x5 there, x6 = 4. -/
def vecMem : State :=
  let s := regs vec [(5, ap + 16#64), (6, 4#64), (7, ap)]
  { s with t := { s.t with scratch := cellsSet [] 16 ((List.range 16).map fun i => BitVec.ofNat 8 (i + 1)) } }

/-- 09_vmem R200 to R205: a unit-stride load, a strided store, and an indexed load through name 2 (10, 20, 30, 40). -/
theorem test_meets_VectorMemoryCompletes :
    memorySpec (.vld false false 4#7 5#7) = some (true, .unit, lite (.load .unit) false .none 4#7 5#7 0#7) ∧
    readyFor vecMem (lite (.load .unit) false .none 4#7 5#7 0#7) 520 ∧
    (∀ k j, k < vecMem.h.vl.toNat → j < 1 →
      elementInScratch vecMem ((lite (.load .unit) false .none 4#7 5#7 0#7).capture vecMem) .unit k j) ∧
    ends (exec (.vld false false 4#7 5#7) vecMem)
      (fun t => decide (chain t 4#7 = (List.range 16).map fun i => BitVec.ofNat 8 (i + 1))) = true := by
  refine ⟨rfl, ?_, ?_, ?_⟩
  · unfold readyFor; decide +kernel
  · intro k j hk hj idx _
    exact (by decide +kernel : ∀ k < 4, ∀ j < 1,
      let f := (lite (.load .unit) false .none 4#7 5#7 0#7).capture vecMem
      (isPacked f.ty = true ∨ (f.addr .unit k j 0).1 % min (elemBits f.ty / 8) 8 = 0) ∧
      (isPacked f.ty = false → vecMem.scratchFree (f.addr .unit k j 0).1 (f.addr .unit k j 0).2 = true) ∧
      ∀ o, o < (f.addr .unit k j 0).2 → vecMem.scratchFree (((f.addr .unit k j 0).1 + o) % 2 ^ 64) 1 = true) k hk j hj
  · decide +kernel

theorem test_meets_VectorMemoryCompletes_store :
    let v := lite (.store .strided) false .scalar 1#7 5#7 6#7
    memorySpec (.vsts false false 1#7 5#7 6#7) = some (false, .strided, v) ∧
    readyFor vecMem v 520 ∧ Memory.wf vecMem.t.scratch = true ∧
    (∀ k j, k < vecMem.h.vl.toNat → j < 1 → elementInScratch vecMem (v.capture vecMem) .strided k j) ∧
    ends (exec (.vsts false false 1#7 5#7 6#7) vecMem)
      (fun t => decide (t.scratchBytes (ap.toNat + 16) 16 = chain vecMem 1#7)) = true := by
  refine ⟨rfl, ?_, ?_, ?_, ?_⟩
  · unfold readyFor; decide +kernel
  · decide +kernel
  · intro k j hk hj idx _
    exact (by decide +kernel : ∀ k < 4, ∀ j < 1,
      let f := (lite (.store .strided) false .scalar 1#7 5#7 6#7).capture vecMem
      (isPacked f.ty = true ∨ (f.addr .strided k j 0).1 % min (elemBits f.ty / 8) 8 = 0) ∧
      (isPacked f.ty = false → vecMem.scratchFree (f.addr .strided k j 0).1 (f.addr .strided k j 0).2 = true) ∧
      ∀ o, o < (f.addr .strided k j 0).2 → vecMem.scratchFree (((f.addr .strided k j 0).1 + o) % 2 ^ 64) 1 = true) k hk j hj
  · decide +kernel

/-- 07_vector R155, 09_vmem R201: the swatches of the names are referenced; a value, a loaded and a stored element. -/
theorem test_meets_VectorElementsTakeTheirValues :
    let f := (lite (.bin .add) false .vec 4#7 1#7 2#7).capture vec
    let l := (lite (.load .unit) false .none 4#7 5#7 0#7).capture vecMem
    (∀ p ∈ vec.h.names, ∀ j ∈ p.2.swatches, 1 ≤ vec.refs j) ∧ (∀ p ∈ vecMem.h.names, ∀ j ∈ p.2.swatches, 1 ≤ vecMem.refs j) ∧
    (match givenTo f (vec.entry 4) 2 vec with | .ok (c, _) => decide (c = 29) | .error _ => false) = true ∧
    ends (exec (.vadd false false 4#7 1#7 2#7) vec) (fun t => decide (t.cl.element .i32 (t.entry 4).segs 2 = .ok 29)) = true ∧
    (match loadedTo l .unit (vecMem.entry 4) 3 0 vecMem with | .ok (c, _) => decide (c = 0x100F0E0D) | .error _ => false) = true ∧
    ends (exec (.vcompr 4#7 1#7 3#7) vec) (fun t => decide ((t.entry 4).len = 2 ∧ chain t 4#7 = [2#8, 0#8, 0#8, 0#8, 4#8, 0#8, 0#8, 0#8])) = true ∧
    ends (exec (.vst true false 1#7 7#7) vecMem) (fun t => decide (t.scratchBytes ap.toNat 16 =
      [0#8, 0#8, 0#8, 0#8, 2#8, 0#8, 0#8, 0#8, 0#8, 0#8, 0#8, 0#8, 4#8, 0#8, 0#8, 0#8])) = true := by
  decide +kernel

/-- Byte indexes of an i32 chain (10, 20) are added to the base (R201); three fields of a record (R203). -/
theorem test_vector_indexed_and_segments :
    let s : State := { vecMem with h := { vecMem.h with ty := .i8, vl := 2#18 } }
    ends (exec (.vldx false false 4#7 5#7 2#7) s) (fun t => decide (chain t 4#7 = [11#8, 0#8])) = true ∧
    ends (exec (.vlseg false false 4#7 5#7 2#3) s)
      (fun t => decide (chain t 4#7 = [1#8, 4#8] ∧ chain t 5#7 = [2#8, 5#8] ∧ chain t 6#7 = [3#8, 6#8])) = true := by
  decide +kernel

/-- A vadd under way with two of its four elements done; 06_chains R134. -/
def underWay : State :=
  let f := (lite (.bin .add) false .vec 4#7 1#7 2#7).capture vec
  let e : Entry := { state := .pending, tag := .i32, segs := [⟨3, 0, 16⟩], len := 4, prog := 2, id := 20 }
  { vec with
    h := { vec.h with flight := some { f with dests := [(4, e, {})], k := 2 }, vstart := 2#18, names := vec.h.names ++ [(4, e)] },
    cl := { vec.cl with bolt := (vec.cl.bolt.map fun w => { w with refs := 2 }) ++ [swatch 3 [11, 0, 0, 0, 22]], free := [(4, 32764)] } }

/-- A piece of the vadd; a wait for a swatch of exactly 10 µs; a fold that can begin; a comparison under protected mode. -/
theorem test_meets_VectorEventsAdvance :
    let s := underWay
    let folding : State := { vec with h := { vec.h with flight := some ((lite (.red .sum) false .none 9#7 1#7 0#7).capture vec) } }
    let waits : State := { s with time := 10500, h := { s.h with flight := s.h.flight.map fun f => { f with boltSince := some 500 } } }
    (match s.h.flight with
      | some f => decide (f.op = .bin .add ∧ f.dests.length = 1 ∧ f.boltSince = none ∧ f.vl < 2 ^ 18 ∧ s.h.vstart.toNat ≤ f.vl ∧
          f.pinFault.isNone ∧ (∀ e ∈ f.captured, e.state ≠ .pending) ∧ (∀ d ∈ f.dests, d.2.2.state ≠ .pending ∧ d.2.2.behind = [] ∧ s.heldBack d.2.1.id = false ∧ bytesFor d.2.1.tag f.vl ≤ 16384 ∧
            bytesFor d.2.1.tag d.2.1.len ≤ 16384 ∧ d.2.1.segs.length ≤ 64))
      | none => false) = true ∧ (∀ w ∈ s.cl.bolt, w.poison = false) ∧
    s.swatchRoom 65 = true ∧ s.boltBefore none = false ∧ s.h.ftrapen = 0#9 ∧ s.readsOf s.h.id = [] ∧
    ends (exec .vectorPieceExecute s) (fun t => decide (t.h.flight = none ∧ (chain t 4#7).drop 8 =
      [29#8, 0#8, 0#8, 0#8, 44#8, 0#8, 0#8, 0#8])) = true ∧
    (match folding.h.flight with | some f => f.op.folds && f.captured.all fun e => decide (e.state ≠ .pending) | none => false) = true ∧
    wrote folding (exec .reductionBegin folding) 9#7 6#64 = true ∧
    waits.h.flight.bind (·.boltSince) = some 500 ∧ 500 + 10000 ≤ waits.time ∧
    trapped (exec .boltWaitTimeout waits) 0x08#8 2#64 = true ∧ vec.h.flight = none ∧
    (let w : State := { vec with time := 10500, h := { vec.h with wait := some ⟨.bolt, 500⟩ } }
     w.h.flight = none ∧ w.h.wait = some ⟨.bolt, 500⟩ ∧ trapped (exec .boltWaitTimeout w) 0x08#8 0#64 = true) ∧
    (let d : State := { s with h := { s.h with fflags := 1#9, flight := s.h.flight.map fun f => { f with k := 4, flags := 2#9 } } }
     (match d.h.flight with
       | some f => !f.op.folds && decide (f.vl ≤ f.k) && f.pinFault.isNone && f.dests.all fun d => d.2.2.behind.isEmpty && decide (bytesFor d.2.1.tag d.2.1.len ≤ 256 * d.2.1.segs.length)
       | none => false) = true ∧
     ends (exec (.instructionRetire .agree) d) (fun t => decide (t.h.flight = none ∧ t.h.vstart = 0#18 ∧ t.h.fflags = 3#9)) = true) := by
  decide +kernel

/-- The synchronised registers and a fork, with a vector instruction under way or stopped in a handler. -/
theorem test_meets_RegisterEventsAct_and_ForkSplitsTheLanes_stopped :
    let s := underWay
    let h : State := { s with h := { s.h with handler := true, stopped := s.h.flight, flight := none } }
    s.h.flight.isSome = true ∧ ends (exec (.fflagsSyncAccess true 4#7 0x006#11) s) (fun t => decide (t.h.pc = s.h.pc)) = true ∧
    h.h.stopped.isSome = true ∧ ends (exec (.lfork 7#7) h) (fun t => decide (t.h.pc = h.h.pc ∧ t.t.harts = [])) = true := by decide +kernel

/-- A window of one line at the end of scratch over the start of a page, with its line dirty. -/
def mapped : State :=
  let w : Window := ⟨0, 0xFFF00, 256, 0x200000#64, [some ⟨0x200000, 0x200000, true, none⟩], [⟨0, true⟩]⟩
  let s := regs ctx [(5, 0x210000#64), (6, 0x0000010000000000#64), (7, 0#64), (8, BitVec.allOnes 64)]
  { s with t := { s.t with windows := [w], scratch := [(0xFFF00, 9#8)] } }

/-- 09_vmem R215, R216: the first range and the last number; a dirty line, all windows, one evicted line. -/
theorem test_meets_StashWindowsBindAndFlush :
    let s := mapped
    let full : State := { s with t := { s.t with windows := (List.range 16).map fun n =>
      { num := n, off := 0x80000 + n * 256, len := 256, va := BitVec.ofNat 64 (0x300000 + n * 256), pages := [], lines := [] } } }
    s.holdsContext = true ∧ (s.rx 5#7).toNat % 256 = 0 ∧ (s.rx 6#7).toNat % 2 ^ 32 = 0 ∧ (s.rx 6#7).toNat / 2 ^ 32 = 256 ∧
    0 + 256 ≤ s.t.scrb ∧
    (∀ v ∈ s.t.windows, overlaps v.off v.len 0 256 = false ∧ overlaps v.va.toNat v.len 0x210000 256 = false) ∧
    s.t.freeWindow = some 1 ∧
    (match pinPages ((0x210000 % 65536 + 256 + 65535) / 65536) 0x210000 s with | .ok (ps, _) => decide (ps.length = 1) | .error _ => false) = true ∧
    wrote s (exec (.smap 9#7 5#7 6#7) s) 9#7 1#64 = true ∧
    (let u := regs s [(5, 0x40000000#64)]
     (match pinPages ((0x40000000 % 65536 + 256 + 65535) / 65536) 0x40000000 u with | .error (.trap tr) => decide (tr.cause = .page1) | _ => false) = true ∧
     trapped (exec (.smap 9#7 5#7 6#7) u) 0x04#8 0x40000000#64 = true) ∧
    full.t.freeWindow = none ∧
    (∀ v ∈ full.t.windows, overlaps v.off v.len 0 256 = false ∧ overlaps v.va.toNat v.len 0x210000 256 = false) ∧
    wrote full (exec (.smap 9#7 5#7 6#7) full) 9#7 (BitVec.allOnes 64) = true ∧
    (s.t.windows.find? fun v => BitVec.ofNat 64 v.num = s.rx 7#7).isSome = true ∧ s.rx 7#7 ≠ BitVec.allOnes 64 ∧
    ends (exec (.sunmap 7#7) s) (fun t => decide (cellGet t.mem 0x200000 = 9#8 ∧ t.t.windows = [])) = true ∧
    s.rx 8#7 = BitVec.allOnes 64 ∧
    ends (exec (.sflush 8#7) s) (fun t => decide (cellGet t.mem 0x200000 = 9#8 ∧ t.t.windows.map (·.lines) = [[⟨0, false⟩]])) = true ∧
    (s.t.windows.find? fun v => v.num = 0).isSome = true ∧
    ends (exec (.stashEviction 0 0) s) (fun t => decide (cellGet t.mem 0x200000 = 9#8 ∧ t.t.windows.map (·.lines) = [[]])) = true := by
  decide +kernel

/-- The task attached to two bands, MSHAPE 2 × 2 × 1 of f16 with neither scales nor N major, name 1 the f32 column
(1, 2, 3, 4) and names 5 and 6 of two f16 elements (1, 2) and (3, 4); a score program of zeros at the aperture. -/
def mat : State :=
  let s := regs ctx [(4, ap), (5, 0x0002000000020000#64), (6, 0x0000000000000001#64), (7, 0x4A400000201#64), (8, 5#64), (10, ap)]
  { s with
    h := { s.h with names := [(1, liveIn .f32 4 0 16 1), (5, liveIn .f16 2 1 4 2), (6, liveIn .f16 2 2 4 3)] },
    cl := { s.cl with
      bolt := [swatch 0 [0, 0, 128, 63, 0, 0, 0, 64, 0, 0, 64, 64, 0, 0, 128, 64], swatch 1 [0, 60, 0, 64], swatch 2 [0, 66, 0, 68]],
      free := [(3, 32765)] },
    t := { s.t with mshape := 0x4A400000201#64, matrix := { s.t.matrix with reserved := 2, bands := 2 } } }

/-- 10_matrix R220 to R223: attached and not, valid and invalid shapes. -/
theorem test_meets_MatrixAttachAndShape :
    let free : State := { mat with t := { mat.t with matrix := { mat.t.matrix with bands := 0 } } }
    mat.holdsContext = true ∧ 0 < mat.t.matrix.bands ∧ wrote mat (exec (.mattach 9#7 8#7) mat) 9#7 2#64 = true ∧
    free.holdsContext = true ∧ free.t.matrix.bands = 0 ∧ wrote free (exec (.mattach 9#7 6#7) free) 9#7 1#64 = true ∧
    mat.t.matrix.queue = [] ∧ ends (exec .mdetach mat) (fun t => decide (t.t.matrix.bands = 0)) = true ∧
    (shapeOf (mat.rx 7#7)).isSome = true ∧ shapeOf (mat.rx 8#7) = none ∧
    trapped (exec (.mshape 8#7) mat) 0x0D#8 5#64 = true := by decide +kernel

/-- 10_matrix R225 to R240: a region of 2 × 2, a score program, a modifier, and a product of chains. -/
theorem test_meets_MatrixInstructionsQueue :
    let r := regionOf (mat.rx 5#7)
    (let q : State := { mat with t := { mat.t with matrix := { mat.t.matrix with
       queue := List.replicate 16 { n := 1, hart := 0#3, word := 0#32, kind := .zero, tile := 0 } } } }
     16 ≤ q.t.matrix.queue.length ∧ ends (exec (.mmaf true false false 0#2 9#7 9#7) q) (fun t => decide (t.h.pc = q.h.pc)) = true) ∧
    mat.holdsContext = true ∧ 0 < mat.t.matrix.bands ∧ mat.t.matrix.queue.length < 16 ∧
    r.row0 + r.nr ≤ 64 * mat.t.matrix.bands ∧ r.col0 + r.nc ≤ 256 ∧ r.nr * r.nc = 4 ∧
    (mat.entry (mat.h.name 9#7)).state ≠ .spilled ∧ mat.swatchRoom 65 = true ∧ mat.boltBefore none = false ∧
    (mat.entry (mat.h.name 1#7)).state = .live ∧ (mat.entry (mat.h.name 1#7)).tag = .f32 ∧ r.nr * r.nc ≤ (mat.entry (mat.h.name 1#7)).len ∧
    (mat.rx 4#7).toNat % 8 = 0 ∧ mat.scratchRun (mat.rx 4#7).toNat 10 = true ∧
    (∀ i, i < 16 → scoreOk (field (mat.scratchBytes (mat.rx 4#7).toNat 80) (16 + 4 * i) 4) = true) ∧
    bitsOf (mat.rx 6#7).toNat 15 0 ≠ 0 ∧ bitsOf (mat.rx 6#7).toNat 47 32 ≤ 128 ∧ bitsOf (mat.rx 6#7).toNat 63 48 ≤ 256 ∧
    (match shapeOf mat.t.mshape with
      | some x => decide (x.m ≤ 128 ∧ (mat.entry 5).tag = x.ea ∧ (mat.entry 6).tag = x.eb ∧ x.m * x.k ≤ (mat.entry 5).len ∧
          x.n * x.k ≤ (mat.entry 6).len ∧ x.ablk = 0 ∧ x.bblk = 0)
      | none => false) = true ∧ (mat.entry 5).state = .live ∧ (mat.entry 6).state = .live ∧
    ends (exec (.mread 9#7 3#2 5#7) mat) (fun t => decide ((t.entry 9).state = .pending ∧ (t.entry 9).len = 4)) = true ∧
    ends (exec (.mwrite 3#2 1#7 5#7) mat) (fun t => decide (t.t.matrix.queue.map (·.n) = [1])) = true ∧
    ends (exec (.msprog 4#7) mat) (fun t => decide (t.t.matrix.issued = 1)) = true ∧
    ends (exec (.msmod 0#2 6#7 6#7) mat) (fun t => decide (t.t.matrix.issued = 1)) = true ∧
    ends (exec (.mmaf true false false 0#2 5#7 6#7) mat) (fun t => decide (t.t.matrix.queue.map (·.kind) = [.acc false true])) = true := by decide +kernel

/-- A product of scratch pairs at the aperture (10_matrix R226): x10 and x11 describe runs from offset 0. -/
theorem test_meets_MatrixInstructionsQueue_scratch :
    let s := regs mat [(10, 0x0000000400000000#64), (11, 0#64)]
    let pa := s.rpair 10#7
    bitsOf pa.2.toNat 63 37 = 0 ∧ bitsOf pa.2.toNat 31 0 = 0 ∧
    (match shapeOf s.t.mshape with
      | some x => (List.range (x.runs true).1).all fun i => (List.range (bytesFor x.ea (x.runs true).2.1)).all fun o =>
          decide ((pairOf pa.1 pa.2).place (x.runs true).2.2 i o < s.t.scrb)
      | none => false) = true ∧
    ends (exec (.mmao false false true 1#2 10#7 6#7) s) (fun t => decide (t.t.matrix.queue.map (·.kind) = [.acc true false])) = true := by
  decide +kernel

/-- The state in which an mmaf of names 5 and 6 stands in the queue. -/
noncomputable def queued : State :=
  match exec (.mmaf true false false 0#2 5#7 6#7) mat with
  | .next t => t
  | _ => mat

/-- The state in which it has executed. -/
noncomputable def executed : State :=
  match exec (.matrixOpExecute 1 .agree) queued with
  | .next t => t
  | _ => mat

/-- 10_matrix R229: the outer product of (1, 2) and (3, 4), in f32; the operation completes. -/
theorem test_meets_MatrixOperationsRunAndComplete :
    (match queued.t.matrix.queue.find? fun m => m.n = 1 with
      | some o => queued.t.matrix.eligible o && (match queued.mResult o with | .ok _ => true | .error _ => false)
      | none => false) = true ∧ queued.t.pm = false ∧ queued.t.windows = [] ∧
    [(0, 0), (0, 1), (1, 0), (1, 1)].map (fun p => cellOf executed.t.matrix.cells 0 p.1 p.2) =
      [0x40400000, 0x40800000, 0x40C00000, 0x41000000] ∧
    (executed.t.matrix.queue.find? fun m => m.n = 1).map (·.executed) = some true ∧
    ends (exec (.matrixOpComplete 1) executed) (fun t => decide (t.t.matrix.queue = [] ∧ t.t.matrix.reached = 1)) = true ∧
    (let o : MOp := { n := 1, hart := 0#3, word := 0#32, kind := .zero, tile := 0 }
     (match executed.mResult o with | .ok r => decide (cellOf r.cells 0 1 1 = 0) | .error _ => false) = true) ∧
    ends (exec (.mread 9#7 3#2 5#7) mat) (fun t => decide ((t.t.matrix.queue.map fun m => m.dest.map (·.id)) = [some (t.entry 9).id]) &&
      ends (exec (.matrixOpExecute 1 .agree) t) fun u => ends (exec (.matrixOpComplete 1) u) fun v =>
        decide ((v.entry 9).state = .live ∧ (v.entry 9).version = 1#16)) = true ∧
    (let p : State := { queued with t := { queued.t with pm := true } }
     ends (exec (.matrixOpExecute 1 .persists) p) (fun t => decide (t.t.matrix.cells = [] ∧ t.t.matrix.queue.map (·.failed) = [true])) = true ∧
     ends (exec (.matrixOpExecute 1 .retried) p) (fun t => decide (t.t.mm = true ∧ cellOf t.t.matrix.cells 0 0 0 = 0x40400000)) = true) := by
  decide +kernel

/-- An mread whose version waits for its own retirement alone, and one on another tile that completes before it and retires
after it (06_chains R124). -/
theorem test_meets_MatrixOperationsRunAndComplete_mread :
    ends (exec (.mread 9#7 3#2 5#7) mat) (fun t => decide ((t.entry 9).behind = [(t.entry 9).id] ∧ t.readsOf t.h.id = [(t.entry 9).id] ∧
        t.t.matrix.done = [] ∧ t.heldBack (t.entry 9).id = false) &&
      (match t.t.matrix.queue.find? fun m => m.n = 1 with
      | some o => decide (o.hart = t.h.id ∧ o.dest.map (·.id) = some (t.entry 9).id ∧ (t.entry o.name).state = .pending)
      | none => false) &&
      ends (exec (.mread 11#7 2#2 5#7) t) fun u => decide ((u.t.matrix.queue.map fun m => (m.n, m.dest.isSome)) = [(1, true), (2, true)]) &&
      ends (exec (.matrixOpExecute 2 .agree) u) fun v => ends (exec (.matrixOpComplete 2) v) fun w =>
        decide (w.t.matrix.done.map (·.n) = [2] ∧ (w.entry 11).state = .pending ∧ (u.entry 11).id ∈ (u.entry 11).behind) &&
      ends (exec (.matrixOpExecute 1 .agree) w) fun x => ends (exec (.matrixOpComplete 1) x) fun y =>
        decide (y.t.matrix.done = [] ∧ (y.entry 9).state = .live ∧ (y.entry 11).state = .live)) = true := by decide +kernel

/-- 02_numbers R50, R51, 10_matrix R240: the elements of the queued mmaf are numbers; a modifier whose region is one cell. -/
theorem test_meets_MatrixOperationsRunAndComplete_values :
    (match queued.t.matrix.queue.find? fun m => m.n = 1 with
      | some o => decide (o.kind = .acc false true ∧ (o.a.bind MSrc.entry?).map (·.id) = some 2 ∧ (o.b.bind MSrc.entry?).map (·.id) = some 3 ∧
          o.ascale = none ∧ o.bscale = none) && match shapeOf o.shape with
        | some x => decide (x.m = 2 ∧ x.k = 1 ∧ x.n = 2) && (List.range 2).all fun i =>
            (valueOf x.ea 0 (queued.cl.codeAt { mat.entry 5 with tag := x.ea } i)).finite &&
            (valueOf x.eb i (queued.cl.codeAt { mat.entry 6 with tag := x.eb } i)).finite
        | none => false
      | none => false) = true ∧
    ends (exec (.msmod 0#2 11#7 12#7) (regs mat [(11, 0#64), (12, 0x0001000100000001#64)])) (fun t =>
      match t.t.matrix.queue.find? fun m => m.n = 1 with
      | some o => decide (o.kind = .smod ∧ bitsOf o.xb.toNat 63 48 = 1 ∧ bitsOf o.xb.toNat 47 32 = 1) && t.t.matrix.eligible o &&
          (match t.mResult o with | .ok _ => true | .error _ => false)
      | none => false) = true ∧
    (f32Fmt.decode 0x40400000).finite = true ∧ (f32Fmt.decode 0xC0000000).finite = true ∧ (f32Fmt.decode 0x3F800000).finite = true ∧
    scoreOp 1 0x40400000 0xC0000000 0 = (0x3F800000, 0#9) ∧ scoreOp 2 0x40400000 0xC0000000 0 = (0x40A00000, 0#9) ∧
    scoreOp 4 0x40400000 0xC0000000 0x3F800000 = (0xC0A00000, 0#9) ∧ scoreOp 8 0xC0000000 0x40400000 0 = (0x3F800000, 0#9) ∧
    scoreOp 11 0x80000000 1 2 = (2, 0#9) ∧ scoreOp 12 0xC0000000 0 0 = (0x40000000, 0#9) := by decide +kernel

/-- Whether the lines of operand A of command 1 are filled, as `ok` says. -/
def fillsA (t : State) (ok : Bool) : Bool :=
  match t.t.matrix.queue.find? fun m => m.n = 1 with
  | some o => (match shapeOf o.shape with
    | some x => (match t.fillOperand o.a x.ea (x.runs true).1 (x.runs true).2.1 true with
      | .error (tr, _) => !ok && decide (tr.cause = .poison)
      | .ok u => ok && u.t.windows.all fun w => w.lines.length = 1)
    | none => false)
  | none => false

/-- 09_vmem R216: an mmao over a scratch pair in an empty window whose line is poisoned in memory, and in one whose line is
not. -/
theorem test_meets_MatrixOperationsRunAndComplete_windows :
    let s := regs { mat with t := { mat.t with windows := [⟨0, 0, 256, 0x200000#64, [some ⟨0x200000, 0x200000, true, none⟩], []⟩] } }
      [(10, 0x0000000400000000#64), (11, 0#64)]
    ends (exec (.mmao false false true 1#2 10#7 6#7) s) (fun t =>
      fillsA t true && fillsA (t.poisonLine 0x2000) false &&
      ends (exec (.matrixOpExecute 1 .agree) (t.poisonLine 0x2000)) fun u =>
        decide (u.t.matrix.queue.map (·.failed) = [true] ∧ u.t.matrix.cells = [] ∧ u.h.held.map (·.cause) = [.poison])) = true := by
  decide +kernel

/-! ### Flume, atomics, fences, barriers, waits -/

/-- The task with channel 0 as given. -/
def flumeWith (c : Channel) : State :=
  let s := regs ctx [(4, ap), (5, ap + 0x100#64), (6, 16384#64), (7, 0xFFFFFFFF#64), (8, ap + 8#64)]
  { s with h := { s.h with ty := .f32 }, t := { s.t with flume := s.t.flume.set 0 c, scratch := [(3, 7#8), (0x1FF, 9#8)] } }

/-- A command of one copy of 16 bytes from the aperture to offset 0x100. -/
def oneCopy : FCmd :=
  { n := 1, hart := 0#3, size := 16, tagb := 0#64, levels := List.replicate 6 {}, sb := ap, db := ap + 0x100#64,
    notify := some (ap + 0x200#64, 0x1122334455667788#64) }

/-- 11_flume R246 to R256: the largest size and count, levels 1 and 6, a full queue but one, a stopped command. -/
theorem test_meets_FlumeChannelsAreProgrammed :
    let s := flumeWith {}
    let x := s.channel 0
    let busy := flumeWith { cmds := [{ oneCopy with state := .stopped }], issued := 1 }
    let late : State := { s with time := 111, h := { s.h with wtmo := 10#64, wait := some ⟨.fdrain 3, 100⟩ } }
    s.who = .user ∧ (s.rx 6#7).toNat = 16384 ∧ (s.rx 4#7).toNat % 16 = 0 ∧
    ends (exec (.fsetl 0#2 0#3 6#7 4#7) s) (fun t => decide ((t.channel 0).size.toNat = 16384)) = true ∧
    1 ≤ (1#3 : BitVec 3).toNat ∧ (6#3 : BitVec 3).toNat ≤ 6 ∧ x.levels.length = 6 ∧ 0 < (s.rx 7#7).toNat ∧ (s.rx 7#7).toNat < 2 ^ 32 ∧
    ends (exec (.fsetl 0#2 6#3 7#7 4#7) s) (fun t => decide (((t.channel 0).levels.map fun l => l.count) =
      [1#32, 1#32, 1#32, 1#32, 1#32, 0xFFFFFFFF#32])) = true ∧
    copies x.levels < 2 ^ 40 ∧ copies x.levels * x.size.toNat ≤ 2 ^ 48 ∧ x.cmds.length < 16 ∧
    ends (exec (.fgo 0#2 4#7 5#7) s) (fun t => decide ((t.channel 0).cmds.map (fun m => (m.n, m.sb, m.db)) = [(1, ap, ap + 0x100#64)])) = true ∧
    (s.rx 8#7).toNat % 8 = 0 ∧ ends (exec (.fnotify 0#2 8#7 7#7) s) (fun t => decide ((t.channel 0).armed = some (ap + 8#64, 0xFFFFFFFF#64))) = true ∧
    (∀ m ∈ x.cmds, m.hart ≠ s.h.id) ∧ ends (exec (.fdrain 0#2) s) (fun t => decide (t.h.pc = 0x100004#64)) = true ∧
    ends (exec (.fcancel 0#2) busy) (fun t => decide ((t.channel 0).cmds = [] ∧ (t.channel 0).reached = 1)) = true ∧
    (let full := flumeWith { cmds := List.replicate 16 oneCopy, issued := 16 }
     16 ≤ (full.channel 0).cmds.length ∧ full.who = .user ∧ full.holdsContext = true ∧
     [exec (.fgo 0#2 4#7 5#7) full, exec (.fgov 9#7 0#2 4#7) full].all fun o => ends o fun t => decide (t.h.pc = full.h.pc ∧
       (t.channel 0).cmds.length = 16 ∧ t.h.wait.isSome = true)) ∧
    (∃ m ∈ (busy.channel 0).cmds, m.state = .stopped) ∧
    s.holdsContext = true ∧ (s.entry (s.h.name 9#7)).state ≠ .spilled ∧ copies x.levels * x.size.toNat ≤ 16384 ∧
    s.swatchRoom 65 = true ∧ s.boltBefore none = false ∧ retypeLen s.h.ty (copies x.levels * x.size.toNat) = some 64 ∧
    ends (exec (.fgov 9#7 0#2 4#7) s) (fun t => decide ((t.entry 9).state = .pending ∧ (t.entry 9).len = 64)) = true ∧
    late.h.wait = some ⟨.fdrain 3, 100⟩ ∧ 100 + late.h.wtmo.toNat < late.time ∧
    trapped (exec .fdrainTimeout late) 0x1B#8 3#64 = true := by decide +kernel

/-- 11_flume R243, R252: the copy, then its completion with and without a notify write. -/
theorem test_meets_FlumeCopiesMoveBytes :
    let s := flumeWith { cmds := [oneCopy], issued := 1 }
    let done := flumeWith { cmds := [{ oneCopy with first := 1 }], issued := 1 }
    let quiet := flumeWith { cmds := [{ oneCopy with first := 1, notify := none }], issued := 1 }
    s.who = .user ∧ Memory.wf s.t.scratch = true ∧ oneCopy.state ≠ .stopped ∧ s.t.enginesOut = false ∧ oneCopy.dest = none ∧
    oneCopy.first < copies oneCopy.levels ∧ 0 < oneCopy.size ∧ oneCopy.src 0 % 256 + 16 ≤ 256 ∧ oneCopy.dst 0 % 256 + 16 ≤ 256 ∧
    s.scratchFree (oneCopy.src 0) 16 = true ∧ s.scratchFree (oneCopy.dst 0) 16 = true ∧
    ends (exec (.flumeCommandRun 0#2) s) (fun t => decide (t.t.scratch = [(3, 7#8), (0x103, 7#8), (0x1FF, 9#8)])) = true ∧
    (match performCopy { oneCopy with keyV := (s.startVersion oneCopy).1 } (s.startVersion oneCopy).2 with | .ok _ => true | .error _ => false) = true ∧
    (let m := { oneCopy with sb := 0x40000000#64 }
     let f := flumeWith { cmds := [m], issued := 1 }
     (match performCopy { m with keyV := (f.startVersion m).1 } (f.startVersion m).2 with | .error e => decide (e.cause ≠ .poison) | .ok _ => false) = true ∧
     ends (exec (.flumeCommandRun 0#2) f) (fun t => decide ((t.channel 0).cmds.map (fun c => (c.state, c.first)) = [(.stopped, 0)])) = true) ∧
    copies oneCopy.levels ≤ 1 ∧ s.scratchFree (ap.toNat + 0x200) 8 = true ∧
    ends (exec (.flumeCommandComplete 0#2) done) (fun t => decide (t.scratchBytes (ap.toNat + 0x200) 8 = bytesOf 8 0x1122334455667788 ∧
      (t.channel 0).cmds = [] ∧ (t.channel 0).reached = 1)) = true ∧
    ends (exec (.flumeCommandComplete 0#2) quiet) (fun t => decide ((t.channel 0).cmds = [])) = true := by decide +kernel

/-- 12_sync R264, R265: an aligned and a misaligned address; equal and unequal compares; the smaller signed word. -/
theorem test_meets_AtomicsReadModifyWrite :
    let s := regs ctx [(4, ap + 8#64), (5, ap + 4#64), (6, 9#64), (7, BitVec.allOnes 64)]
    let s : State := { s with t := { s.t with scratch := [(8, 9#8)] } }
    (atomicForm s (.amocas 6#7 4#7 7#7)).map (fun f => (f.1, f.2.1)) = some (false, 8) ∧
    (atomicForm s (.amofaddAr 6#7 5#7 7#7)).map (fun f => (f.1, f.2.1)) = some (true, 4) ∧
    (s.rx 4#7).toNat % 8 = 0 ∧ s.scratchFree (s.rx 4#7).toNat 8 = true ∧ Memory.wf s.t.scratch = true ∧ (s.rx 5#7).toNat % 8 ≠ 0 ∧
    ends (exec (.amocas 6#7 4#7 7#7) s) (fun t => decide (t.rx 6#7 = 9#64 ∧ t.scratchBytes (ap.toNat + 8) 8 = List.replicate 8 255#8)) = true ∧
    ends (exec (.amocas 7#7 4#7 6#7) s) (fun t => decide (t.rx 7#7 = 9#64 ∧ t.t.scratch = [(8, 9#8)])) = true ∧
    ends (exec (.amomin 8#7 4#7 7#7) s) (fun t => decide (t.scratchBytes (ap.toNat + 8) 8 = List.replicate 8 255#8)) = true ∧
    trapped (exec (.amoadd 6#7 5#7 7#7) s) 0x03#8 (ap + 4#64) = true ∧
    (let g := regs s [(8, 0x200000#64)]
     g.scratchOff 0x200000 = none ∧ xlat g 0x200000 .amo (fun x => plain g x && g.isLocal x.pa &&
       (List.range 8).all fun k => !(g.setMarks true x).consumes (x.pa + k)) = true ∧
     ends (exec (.amoadd 9#7 8#7 6#7) g) (fun t => decide (t.rx 9#7 = 0#64 ∧ cellGet t.mem 0x200000 = 9#8)) = true) := by decide +kernel

/-- 12_sync R267 to R269: scratch and memory, an empty class, a store to be committed. -/
theorem test_meets_AcquireReleaseAndFence :
    let s := regs ctx [(4, ap), (5, 0x200000#64), (6, 0x55#64)]
    let t0 : State := match exec (.stdX 6#7 5#7 0#7) s with | .next t => t | _ => s
    s.scratchFree (ap.toNat + 8) 8 = true ∧ (ap.toNat + 8) % 8 = 0 ∧ Memory.wf s.t.scratch = true ∧
    ends (exec (.strel 6#7 4#7 1#11) t0) (fun t => decide (cellGet t.mem 0x200000 = 0x55#8 ∧ t.t.scratch = [(8, 0x55#8)])) = true ∧
    ends (exec (.ldacq 7#7 4#7 1#11) s) (fun t => decide (t.rx 7#7 = 0#64)) = true ∧
    (let a := t0.acquire
     a.scratchOff 0x200000 = none ∧ xlat a 0x200000 .load (fun x => plain a x && a.isLocal x.pa &&
       (List.range 8).all fun k => !(a.setMarks false x).consumes (x.pa + k)) = true ∧
     wrote t0 (exec (.ldacq 7#7 5#7 0#11) t0) 7#7 0x55#64 = true) ∧
    s.scratchOff 0x200000 = none ∧ xlat s 0x200000 .store (plain s) = true ∧
    ends (exec (.strel 6#7 5#7 0#11) s) (fun t => decide (t.h.sb.map (·.rel) = [true])) = true ∧
    s.enginesDone = true ∧ t0.h.sb.length = 1 ∧
    ends (exec (.fence .hart 0xF#4 0x1#4) t0) (fun t => decide (t.h.sb = [] ∧ cellGet t.mem 0x200000 = 0x55#8)) = true ∧
    ends (exec (.fence .device 0#4 0xF#4) t0) (fun t => decide (t.h.sb.length = 1)) = true ∧
    ends (exec (.fence .device 2#4 0xF#4) mapped) (fun t => decide (cellGet t.mem 0x200000 = 9#8)) = true := by decide +kernel

/-- 13_ordering R282: the page of the tests as a strongly ordered one; both kinds of store perform at once on it. -/
theorem test_meets_strong_pages :
    let s := regs { base with mem := putWords base.mem [(0x50000, 0x3F + 2 ^ 6)] } [(5, 0x200000#64), (6, 0x55#64)]
    s.scratchOff 0x200000 = none ∧ scalarStore s (.stdX 6#7 5#7 0#7) = some (8, 6#7, 0x200000#64) ∧
    xlat s 0x200000 .store (fun x => !s.noMemory x.pa && decide (x.ord = .strong ∧ s.isLocal x.pa = true ∧ s.aliasOf s.ownPart x.pp = none)) = true ∧
    s.drain.translate 0x200000 .store = s.translate 0x200000 .store ∧
    ends (exec (.stdX 6#7 5#7 0#7) s) (fun t => decide (t.h.sb = [] ∧ cellGet t.mem 0x200000 = 0x55#8)) = true ∧
    ends (exec (.strel 6#7 5#7 0#11) s) (fun t => decide (t.h.sb = [] ∧ cellGet t.mem 0x200000 = 0x55#8)) = true ∧
    wrote s (exec (.lddX 7#7 5#7 0#7) s) 7#7 0#64 = true := by decide +kernel

/-- 12_sync R270 to R275: the last number, 1 and 8 arrivals, the last arrival and one before it, a passed deadline. -/
theorem test_meets_BarriersCountAndPass :
    let s := oneBarrier
    let two : State := { s with t := { s.t with barriers := [{ num := 255, n := 3, a := 1, g := 5#64 }] } }
    let late : State := { two with time := 50, h := { two.h with bdeadl := 50#64, wait := some ⟨.bwaitd 9#7 255 7#64, 10⟩ } }
    s.who = .user ∧ (s.rx 4#7).toNat < 256 ∧ s.barrier? 254 = none ∧ (s.rx 6#7).toNat < 256 ∧ bitsOf (s.rx 5#7).toNat 63 16 = 0 ∧
    1 ≤ (s.rx 5#7).toNat ∧ (regs s [(5, 8#64)] |>.rx 5#7).toNat ≤ 8 ∧
    ends (exec (.binit 6#7 5#7) s) (fun t => decide (t.barrier? 254 = some (0, { num := 254, n := 2, a := 0, g := 0#64 }))) = true ∧
    s.barrier? 255 = some (0, { num := 255, n := 2, a := 1, g := 0xFFFFFFFF#64 }) ∧
    ends (exec (.barr 9#7 4#7) s) (fun t => decide (t.rx 9#7 = 0xFFFFFFFF#64 ∧
      t.barrier? 255 = some (0, { num := 255, n := 2, a := 0, g := 0#64 }))) = true ∧
    ends (exec (.barr 9#7 4#7) two) (fun t => decide (t.barrier? 255 = some (0, { num := 255, n := 3, a := 2, g := 5#64 }))) = true ∧
    s.h.wait = none ∧ wrote s (exec (.barw 9#7 4#7) s) 9#7 0xFFFFFFFF#64 = true ∧
    ends (exec (.barw 9#7 4#7) two) (fun t => decide (t.h.pc = two.h.pc) && match t.h.wait.map Wait.kind with
      | some (.barw w) => decide (w.num = 255 ∧ w.gen = 5#64)
      | _ => false) = true ∧
    (let w : BarwWait := { word := 0#32, num := 255, gen := 4#64 }
     let b : State := { two with h := { two.h with wait := some ⟨.barw w, 10⟩ } }
     w.num = (b.rx 4#7).toNat ∧ phaseDone 5#64 w.gen = true ∧ went (exec (.barw 9#7 4#7) b) (b.h.pc + 4#64) = true) ∧
    s.sharedBarrier 1 254 = none ∧ bitsOf (regs s [(8, 0x10002#64)] |>.rx 8#7).toNat 17 16 = 1 ∧
    (let j : State := { regs s [(8, 0x10002#64)] with barriers := [(s.t.groupKey, { num := 254, n := 2, a := 1, g := 3#64, by_ := [77] })] }
     j.sharedBarrier 1 254 = some { num := 254, n := 2, a := 1, g := 3#64, by_ := [77] } ∧ j.barrier? 254 = none ∧
     ends (exec (.binit 6#7 8#7) j) (fun t => decide (t.barrier? 254 = some (1, { num := 254, n := 2, a := 1, g := 3#64, by_ := [77, 1] }))) = true) ∧
    phaseDone 5#64 4#64 = true ∧ wrote two (exec (.bwaitd 9#7 4#7 10#7) (regs two [(10, 4#64)])) 9#7 0#64 = true ∧
    phaseDone 5#64 (late.rx 7#7) = false ∧ late.deadlinePassed = true ∧ late.h.wait = some ⟨.bwaitd 9#7 255 (late.rx 7#7), 10⟩ ∧
    wrote late (exec .barrierDeadline late) 9#7 2#64 = true ∧ wrote late (exec (.bwaitd 9#7 4#7 7#7) late) 9#7 2#64 = true := by
  decide +kernel

/-- 12_sync R276 to R278: a changed word, numbers at and beyond the last issued, waits beyond WTMO. -/
theorem test_meets_WaitsEndWhenTheirValueComes :
    let s := flumeWith { issued := 3, reached := 2, status := [(2, 1)] }
    let s := regs s [(9, 2#64), (10, 4#64), (11, ap + 1#64)]
    let late (k : WaitKind) : State := { s with time := 111, h := { s.h with wtmo := 10#64, wait := some ⟨k, 100⟩ } }
    (s.rx 4#7).toNat % 8 = 0 ∧ s.scratchFree (s.rx 4#7).toNat 8 = true ∧
    BitVec.ofNat 64 (ofBytes (s.scratchBytes (s.rx 4#7).toNat 8)) ≠ s.rx 9#7 ∧
    wrote s (exec (.waddr 12#7 4#7 9#7) s) 12#7 0x07000000#64 = true ∧ (s.rx 11#7).toNat % 8 ≠ 0 ∧
    trapped (exec (.waddr 12#7 11#7 9#7) s) 0x03#8 (ap + 1#64) = true ∧ s.who = .user ∧ (s.rx 0#7).toNat = 0 ∧
    s.t.ctxIssued 0 < (s.rx 10#7).toNat ∧ trapped (exec (.twait 12#7 0#4 10#7) s) 0x1A#8 4#64 = true ∧
    1 ≤ (s.rx 9#7).toNat ∧ (s.rx 9#7).toNat ≤ s.t.ctxIssued 0 ∧ (s.rx 9#7).toNat ≤ s.t.ctxReached 0 ∧
    wrote s (exec (.twait 12#7 0#4 9#7) s) 12#7 1#64 = true ∧
    (late (.twait 12#7 0 3)).h.wtmo ≠ 0#64 ∧ 100 + (late (.twait 12#7 0 3)).h.wtmo.toNat < (late (.twait 12#7 0 3)).time ∧
    (late (.twait 12#7 0 3)).t.ctxReached 0 < 3 ∧ wrote s (exec .twaitTimeout (late (.twait 12#7 0 3))) 12#7 2#64 = true ∧
    (let m := regs s [(13, 0x200000#64)]
     m.acquire.scratchOff 0x200000 = none ∧ xlat m.acquire 0x200000 .load (fun x => plain m.acquire x && m.acquire.isLocal x.pa &&
       (List.range 8).all fun k => !(m.acquire.setMarks false x).consumes (x.pa + k)) = true ∧
     wrote m (exec (.waddr 12#7 13#7 9#7) m) 12#7 0#64 = true ∧
     ends (exec (.waddr 12#7 13#7 0#7) m) (fun t => decide (t.h.pc = m.h.pc ∧ t.h.wait.map (·.kind) = some (.waddr 12#7 0#64 0x200000#64))) = true) ∧
    wrote s (exec .waddrTimeout (late (.waddr 12#7 77#64 ap))) 12#7 77#64 = true := by decide +kernel

/-! ### Weirs and collectives -/

/-- Bytes given as numbers, followed by zeros up to `n`. -/
def padded (n : Nat) (l : List Nat) : List Byte := (l.map fun x => BitVec.ofNat 8 x) ++ List.replicate (n - l.length) 0#8

/-- 14_weir R296 to R300: one element that adds the index to load stream 0; load and store stream 0 of i32. -/
def image : List Byte :=
  padded 24 [80, 0, 1, 1, 0, 0, 0, 0, 1, 9, 0, 0] ++ padded 40 [1, 9, 0, 0] ++ padded 16 [0x0A, 0x10, 0x19]

/-- R306: slot 15, two elements, stream 0 at 0x20_0000. -/
def wBlock : List Byte := padded 64 [15, 9, 2, 0, 0, 0, 0, 0, 0, 0, 0x20]

/-- The image and the block in scratch, the words 5 and 6 at 0x20_0000, the contexts drawn. -/
def weirState : State :=
  let s := regs base [(4, ap), (5, 15#64), (6, ap + 0x100#64)]
  { s with
    mem := cellsSet s.mem 0x200000 (padded 8 [5, 0, 0, 0, 6]),
    t := { s.t with scratch := cellsSet (cellsSet [] 0 image) 0x100 wBlock, weirDrawn := true } }

/-- The state with the graph bound to slot 15 of context 1. -/
noncomputable def bound : State :=
  match exec (.nbind 1#1 4#7 5#7) weirState with
  | .next t => t
  | _ => base

/-- The state with the command issued. -/
noncomputable def issued : State :=
  match exec (.ncmd 1#1 6#7) bound with
  | .next t => t
  | _ => base

/-- The state with its part run. -/
noncomputable def parted : State :=
  match exec (.weirPartRun 1#1 0) issued with
  | .next t => t
  | _ => base

/-- 14_weir R305, R306, R308: the last slot, a valid image and block, nothing to wait for, a wait beyond WTMO. -/
theorem test_meets_WeirCommandsAreBoundAndIssued :
    let s := weirState
    let late : State := { s with time := 111, h := { s.h with wtmo := 10#64, wait := some ⟨.nfence 1 7, 100⟩ } }
    s.who = .user ∧ (s.rx 5#7).toNat < 16 ∧ (s.rx 4#7).toNat % 256 = 0 ∧ field (s.scratchBytes ap.toNat 64) 0 2 = 80 ∧
    s.scratchRun ap.toNat 8 = true ∧ s.scratchRun ap.toNat (80 / 8) = true ∧ headErrors (s.scratchBytes ap.toNat 64) = [] ∧
    graphErrors (s.scratchBytes ap.toNat 80) = [] ∧ (bound.weirCtx 1).slots = [(15, image)] ∧
    ends (exec (.nunbind 1#1 5#7) bound) (fun t => decide ((t.weirCtx 1).slots = [])) = true ∧
    (bound.rx 6#7).toNat % 64 = 0 ∧ bound.scratchRun (ap.toNat + 0x100) 8 = true ∧ blockErrors wBlock = [] ∧
    (bound.weirCtx 1).cmds.length < 16 ∧ ((bound.weirCtx 1).slots.find? fun p => p.1 = bitsOf (field wBlock 0 8) 3 0) = some (15, image) ∧
    bound.streamErrors (streamsOf image wBlock) (wCount wBlock) = [] ∧
    (match (streamsOf image wBlock).mapM (fun w => pinStream w (pagesOf w.base (wCount wBlock * w.size))) bound with
      | .ok (_, u) => decide ((u.weirCtx 1).cmds = [] ∧ (u.weirCtx 1).issued = 0 ∧ u.h = bound.h)
      | .error _ => false) = true ∧
    (issued.weirCtx 1).cmds.map (fun m => (m.n, m.parts.length)) = [(1, 1)] ∧
    (let full : State := { bound with t := { bound.t with weir := bound.t.weir.map fun x =>
       { x with cmds := List.replicate 16 { n := 1, hart := 0#3, graph := [], block := [], pages := [], parts := [] } } } }
     16 ≤ (full.weirCtx 1).cmds.length ∧
     ends (exec (.ncmd 1#1 6#7) full) (fun t => decide (t.h.pc = full.h.pc ∧ t.h.wait.isSome = true)) = true) ∧
    bound.h.wait = none ∧ (bound.weirCtx 1).issued ≤ (bound.weirCtx 1).reached ∧
    ends (exec (.nfence 1#1) bound) (fun t => decide (t.h.pc = bound.h.pc + 4#64)) = true ∧
    late.h.wait = some ⟨.nfence 1 7, 100⟩ ∧ 100 + late.h.wtmo.toNat < late.time ∧
    trapped (exec .nfenceTimeout late) 0x1B#8 6#64 = true ∧
    (let w : State := { bound with h := { bound.h with wait := some ⟨.nfence 1 0, 0⟩ } }
     0 ≤ (w.weirCtx 1).reached ∧ went (exec (.nfence 1#1) w) (bound.h.pc + 4#64) = true) ∧
    (let u : State := { s with t := { s.t with weirDrawn := false } }
     2 ≤ u.usableAmount 4 u.t.sub ∧ ends (exec (.nbind 1#1 4#7 5#7) u) (fun t => decide (t.t.weirDrawn = true ∧ (t.weirCtx 1).slots = [(15, image)])) = true) := by
  decide +kernel

/-- 14_weir R301, R307: 5 + 0 and 6 + 1 in place; the command completes. -/
theorem test_meets_WeirPartsRunAndComplete :
    (match (issued.weirCtx 1).cmds with
      | m :: _ => (match m.parts[0]? with | some p => !p.finished | none => false) && !bitOf (field m.block 0 8) 4
      | [] => false) = true ∧
    cellsGet parted.mem 0x200000 8 = [5#8, 0#8, 0#8, 0#8, 7#8, 0#8, 0#8, 0#8] ∧
    (match (parted.weirCtx 1).cmds with | m :: _ => m.parts.all fun p => p.finished | [] => false) = true ∧
    parted.t.run ≠ .ended ∧
    ends (exec (.weirCommandComplete 1#1) parted) (fun t => decide ((t.weirCtx 1).cmds = [] ∧ (t.weirCtx 1).reached = 1)) = true := by
  decide +kernel

/-- 14_weir R299 to R301: the one element of the graph on the second data element; operations and streams on numbers. -/
theorem test_meets_WeirPartsRunAndComplete_values :
    0 < byteAt image 3 ∧ (graphRun image wBlock (initRegs image) [6] 1).1 = [7] ∧
    (f32Fmt.decode 0x40400000).finite = true ∧ (f32Fmt.decode 0xC0200000).finite = true ∧
    graphOp 2 0x40400000 0xC0200000 0 = (0x40B00000, 0#9) ∧ graphOp 17 0xC0200000 0 0 = (0xFFFFFFFE, fNX) ∧
    graphOp 17 0xCF800000 0 0 = (0x80000000, fNV) ∧ graphOp 16 0xFFFFFFFF 0 0 = (0xBF800000, 0#9) ∧
    graphOp 11 0 1 0 = (0xFFFFFFFF, 0#9) ∧ graphOp 7 0x80000000 1 2 = (2, 0#9) ∧
    isInt .i4 = true ∧ weirLoad .i4 0xF = (0xFFFFFFFF, 0#9) ∧ weirLoad .n4 0xF = (15, 0#9) ∧ weirStore .i8 0x1FF = (0xFF, 0#9) ∧
    isFloat .bf16 = true ∧ ((fmtOf .bf16).decode 0x3FC0).finite = true ∧ weirLoad .bf16 0x3FC0 = (0x3FC00000, 0#9) ∧
    weirStore .f16 0x3F800001 = (0x3C00, fNX) := by decide +kernel

/-- The finished command with the completion value 7 at an address with these bytes (14_weir R306). -/
noncomputable def weirAsks (a : List Nat) : State :=
  { parted with t := { parted.t with weir := parted.t.weir.map fun x => { x with cmds := x.cmds.map fun m =>
    { m with block := padded 64 ([31, 9, 2, 0, 0, 7, 0, 0, 0, 0, 0x20] ++ List.replicate 45 0 ++ a) } } } }

/-- 14_weir R311: the completion write is made, or its fault held. -/
theorem test_meets_WeirPartsRunAndComplete_notify :
    (match ((weirAsks [8, 0, 0x20]).weirCtx 1).cmds with
      | m :: _ => decide (m.notifies = some 0x200008 ∧ m.hart = (weirAsks [8, 0, 0x20]).h.id)
      | [] => false) = true ∧
    ends (exec (.weirCommandComplete 1#1) (weirAsks [8, 0, 0x20])) (fun t => decide (cellGet t.mem 0x200008 = 7#8 ∧ t.h.held = [])) = true ∧
    ends (exec (.weirCommandComplete 1#1) (weirAsks [8, 0, 0, 0x40])) (fun t => decide (t.h.held.map (fun r => (r.cause, r.val, r.val2)) =
      [(.weir, 0x40000008#64, 6#64)])) = true := by
  decide +kernel

/-- 15_collectives R321, R325: ranks 0 and 1 at nodes 0 and 1, this one 0, tag 5; blocks of kred, kcast and kdraw. -/
def collState : State :=
  let s := regs ctx [(4, ap), (5, ap + 0x100#64), (6, ap + 0x140#64), (7, ap + 0x180#64)]
  let group := padded 24 [2, 0, 0, 0, 5, 0, 0, 0, 0, 0, 0, 0, 0, 0, 0, 0, 0, 0, 0, 0, 1]
  let red := padded 64 [0, 9, 255, 255, 1, 0, 0, 0, 0, 0, 0x20, 0, 0, 0, 0, 0, 0, 1, 0x20]
  let cast := padded 64 [0, 9, 0, 0, 1, 0, 0, 0, 0, 0, 0x20, 0, 0, 0, 0, 0, 0, 1, 0x20]
  let draw := padded 64 [0, 0, 255, 255, 1, 0, 0, 0, 0, 0, 0x20, 0, 0, 0, 0, 0, 0, 1, 0x20]
  { s with
    grants := s.grants ++ placeGrants 8 6, mem := cellsSet s.mem 0x200000 [3#8],
    t := { s.t with
      coll := s.t.coll.map fun x => { x with drawn := true },
      scratch := cellsSet (cellsSet (cellsSet (cellsSet [] 0 group) 0x100 red) 0x140 cast) 0x180 draw } }

/-- The state with the group bound to context 0. -/
noncomputable def grouped : State :=
  match exec (.kgrp 0#1 4#7) collState with
  | .next t => t
  | _ => base

/-- Whether a command's hypotheses hold: no refusal, and ranges that pin. -/
noncomputable def collReady (k : KKind) (off : Nat) : Bool :=
  let s := grouped
  let b := s.scratchBytes (ap.toNat + off) 64
  match (s.collCtx 0).group with
  | some g => decide (s.blockRefusals k g b = []) && decide (off % 64 = 0) && s.scratchRun (ap.toNat + off) 8 &&
      (match pinUsed false (kSrcRange k (grpMine g) b) s with
        | .ok (_, u) => (match pinUsed true (kDstRange k (grpN g) (grpMine g) b) u with
          | .ok (_, w) => decide (w.collCtx 0 = s.collCtx 0 ∧ w.h = s.h)
          | .error _ => false)
        | .error _ => false)
  | none => false

/-- The state with a kred at the head of context 0, then run with what rank 1 brings: the number 4. -/
noncomputable def reduced : State :=
  match exec (.kred 0#1 5#7) grouped with
  | .next t =>
    let peer : PeerPart := ⟨1, t.scratchBytes (ap.toNat + 0x100) 64 ++ padded 24 [0, 0, 2], padded 4 [4], false⟩
    (match exec (.collectiveRun 0#1 [peer]) t with
      | .next u => u
      | _ => base)
  | _ => base

/-- 15_collectives R323 to R330. -/
theorem test_meets_CollectivesBindIssueAndRun :
    let s := collState
    let h := s.scratchBytes ap.toNat 16
    let g := s.scratchBytes ap.toNat 24
    s.holdsContext = true ∧ (s.collCtx 0).cmds = [] ∧
    ends (exec (.kgrp 0#1 0#7) s) (fun t => decide ((t.collCtx 0).group = none)) = true ∧
    s.scratchRun ap.toNat 2 = true ∧ grpN h = 2 ∧ (∀ i, i < 2 → s.scratchFree (ap.toNat + 16 + 4 * i) 4 = true) ∧
    grpHead h = [] ∧ grpRanks s.o.onode.toNat g = [] ∧ s.partUse s.t.part 8 (grpTag g) = true ∧ s.tagBound 0 (grpTag g) = false ∧
    (s.collCtx 0).drawn = true ∧ (grouped.collCtx 0).group = some g ∧
    grouped.holdsContext = true ∧ (grouped.collCtx 0).cmds.length < 16 ∧
    collReady .red 0x100 = true ∧ collReady .gat 0x100 = true ∧ collReady .cast 0x140 = true ∧ collReady .draw 0x180 = true ∧
    ends (exec (.kdraw 0#1 7#7) grouped) (fun t => decide ((t.collCtx 0).issued = 1 ∧ t.h.dctr = 1#64)) = true ∧
    (let k : KCmd := { n := 1, j := 1, kind := .red, hart := 0#3, block := [], dkey := 0#64, dstream := 0#32, dctr := 0#64, pages := [] }
     let full : State := { grouped with t := { grouped.t with coll := grouped.t.coll.map fun x => { x with cmds := List.replicate 16 k } } }
     full.holdsContext = true ∧ 16 ≤ (full.collCtx 0).cmds.length ∧
     ends (exec (.kgat 0#1 5#7) full) (fun t => decide (t.h.pc = full.h.pc ∧ t.h.wait.isSome = true)) = true) ∧
    (reduced.collCtx 0).cmds.map (fun m => (m.ran, m.failed, kNotify m.block)) = [(true, false, false)] ∧
    cellsGet reduced.mem 0x200100 4 = [7#8, 0#8, 0#8, 0#8] ∧ reduced.t.run ≠ .ended ∧
    ends (exec (.collectiveComplete 0#1) reduced) (fun t => decide ((t.collCtx 0).cmds = [] ∧ (t.collCtx 0).reached = 1)) = true := by
  decide +kernel

/-- The command that has run, with the completion value 7 at an address with these bytes (15_collectives R325). -/
noncomputable def collAsks (a : List Nat) : State :=
  { reduced with t := { reduced.t with coll := reduced.t.coll.map fun x => { x with cmds := x.cmds.map fun m =>
    { m with block := padded 64 ([32, 9, 255, 255, 1] ++ List.replicate 19 0 ++ a ++ List.replicate (8 - a.length) 0 ++ [7]) } } } }

/-- 15_collectives R328: the completion write is made, or its fault held. -/
theorem test_meets_CollectivesBindIssueAndRun_notify :
    (match ((collAsks [0, 2, 0x20]).collCtx 0).cmds with
      | m :: _ => decide (kNotify m.block = true ∧ m.hart = (collAsks [0, 2, 0x20]).h.id)
      | [] => false) = true ∧
    ends (exec (.collectiveComplete 0#1) (collAsks [0, 2, 0x20])) (fun t => decide (cellGet t.mem 0x200200 = 7#8 ∧ t.h.held = [])) = true ∧
    ends (exec (.collectiveComplete 0#1) (collAsks [0, 2, 0, 0x40])) (fun t => decide (t.h.held.map (fun r => (r.cause, r.val)) =
      [(.coll, 0x40000200#64)])) = true := by
  decide +kernel

/-! ### Traps, service cores, the Headgate, rights -/

/-- A trap record of the task's hart 0. -/
def record (cause : BitVec 8) : TrapRec := { cause := cause, pc := 0x100008#64, val := 0xAA#64, val2 := 0#64, task := some 1 }

/-- The state with this service core on cluster 0. -/
def withSvc (s : State) (v : Service) : State := { s with cl := { s.cl with svc := v } }

/-- The turn is the service core's, with the task's hart trapped and these registers. -/
def service (v : Service) (l : List (Nat × Word)) : State :=
  let s : State := { base with h := { base.h with run := .trapped } }
  let p := withSvc s.packed v
  regs { p with who := .service } l

/-- 17_traps R350 to R354: to the user handler, to S with a queue of 63 and of 64, to P and O; in and out of the handler. -/
theorem test_meets_TrapsAreDeliveredOrEscalated :
    let tr : Trap := { cause := .timeline, val := 5#64 }
    let s : State := { base with t := { base.t with utrapmask := BitVec.allOnes 64, uhandler := 0x40000#62 } }
    let inside : State := { s with h := { s.h with handler := true, trapcause := 0x18#8, trappc := 0x100010#64 } }
    let fill (n : Nat) := withSvc base { squeue := List.replicate n (record 1#8) }
    s.who = .user ∧ tr.bound = none ∧ tr.cause.toUser = true ∧ s.t.utrapmask.getLsbD tr.cause.code.toNat = true ∧
    s.t.uhandler ≠ 0#62 ∧ s.h.handler = false ∧ (takeTrap tr false s).h.pc = 0x100000#64 ∧ (takeTrap tr false s).h.handler = true ∧
    base.t.uhandler = 0#62 ∧ tr.bound.getD tr.cause.otherwise = .s ∧ (fill 63).cl.svc.squeue.length < 64 ∧
    (takeTrap tr false (fill 63)).cl.svc.squeue.length = 64 ∧ (takeTrap tr false (fill 63)).h.run = .trapped ∧
    64 ≤ (fill 64).cl.svc.squeue.length ∧ (takeTrap tr false (fill 64)).h.run = .blocked .s ∧
    (takeTrap tr false (withSvc base { squeue := List.replicate 63 (record 1#8), srec := some (record 1#8) })).h.run = .blocked .s ∧
    Cause.page2.otherwise = .p ∧ base.cl.svc.pqueue.length < 64 ∧ Cause.range3.otherwise = .o ∧
    went (exec .tret inside) 0x100014#64 = true ∧ inside.cl.svc.squeue.length < 64 ∧
    ends (exec .tdecl inside) (fun t => decide ((t.cl.svc.squeue.map fun r => (r.cause, r.decl)) = [(0x18#8, true)])) = true ∧
    trapped (exec (.trap 77#7) base) 0x18#8 77#64 = true ∧ trapped (exec .tret base) 0x19#8 0xD8000001#64 = true ∧
    (let held : State := { base with h := { base.h with held := [tr] } }
     held.h.run = .ready ∧ held.h.due = some tr ∧ held.h.flight = none ∧
     trapped (exec .asyncTrapDelivery held) 0x1A#8 5#64 = true) ∧
    (let full : State := withSvc inside { squeue := List.replicate 64 (record 1#8) }
     full.h.handler = true ∧ 64 ≤ full.cl.svc.squeue.length ∧
     ends (exec .tdecl full) (fun t => decide (t.h.run = .blocked .s ∧ t.h.handler = false ∧ t.h.trapRec.isSome = true)) = true) := by decide +kernel

/-- 03_words R70: registers with no writable field, of S and of O. -/
theorem test_meets_RegisterAccessLevels_readOnly :
    let s := service { running := some .s } [(4, 1#64)]
    let o : State := { base with who := .lydar }
    0x400 ∈ readOnlyRegs ∧ regLevel 0x400 = some .s ∧ Level.rank .s ≤ s.level.rank ∧ 0x713 ∈ readOnlyRegs ∧ regLevel 0x713 = some .o ∧
    Level.rank .o ≤ o.level.rank ∧
    ends (exec (.sput 4#7 0x400#11) s) (fun t => decide (t.cl.svc.pqueue.map (fun r => (r.cause, r.val)) = [(0x01#8, 0x400#64)])) = true ∧
    ends (exec (.sput 4#7 0x713#11) o) (fun t => decide (t.o = o.o)) = true := by decide +kernel

/-- 18_partitions R376: the registers of the subpartition that PSEL names, and the levels' own registers. -/
theorem test_meets_RegisterWritesReadBack_levels :
    let p := service { running := some .p } [(4, BitVec.allOnes 64), (5, 64#64)]
    let s := service { running := some .s } [(4, BitVec.allOnes 64)]
    Level.rank .p ≤ p.level.rank ∧ p.partOfSub ((p.rx 5#7).toNat % 64) = some p.ownPart ∧ p.managesSub p.cl.svc.psel.toNat = true ∧
    ends (exec (.sput 4#7 0x60D#11) p) (fun t => wrote t (exec (.sget 6#7 0x60D#11) t) 6#7 0xFFFF0001#64) = true ∧
    ends (exec (.sput 5#7 0x609#11) p) (fun t => wrote t (exec (.sget 6#7 0x609#11) t) 6#7 0#64) = true ∧
    (match setPreg 0x60D (p.rx 4#7) with | some w => (match w p with | .ok _ => true | .error _ => false) | none => false) = true ∧
    Level.rank .s ≤ s.level.rank ∧
    ends (exec (.sput 4#7 0x407#11) s) (fun t => wrote t (exec (.sget 6#7 0x407#11) t) 6#7 0xFFFFFFFFFFFFFFFC#64) = true := by
  decide +kernel

/-- 17_traps R354, R355: P over running S code, S when nothing runs, O; answers with xa 0 and 3; an event at P. -/
theorem test_meets_ServiceCoresTakeAndAnswer :
    let busy := withSvc base { running := some .s, pqueue := [record 5#8], hart := { pc := 0x500#64 } }
    let free := withSvc base { squeue := [record 5#8], shandler := 0x100#62 }
    let owner : State := { base with oqueue := [record 6#8] }
    let atS := service { running := some .s, srec := some (record 0x18#8) } [(5, 3#64)]
    let atP := service { running := some .p, prec := some { cause := 0#8, val := 8#64, val2 := 0#64 }, broken := some 0x500#64 } []
    (busy.packed.withCluster 0).cl.num = 0 ∧ (busy.packed.withCluster 0).cl.service = true ∧
    (busy.packed.withCluster 0).cl.svc.hart.run = .ready ∧ (busy.packed.withCluster 0).cl.svc.running = some .s ∧
    (busy.packed.withCluster 0).cl.svc.pqueue = [record 5#8] ∧
    ends (exec (.serviceCoreTakeP 0) busy) (fun t => decide (t.cl.svc.running = some .p ∧ t.cl.svc.broken = some 0x500#64 ∧
      t.cl.svc.ptrapcause = 5#8)) = true ∧
    (free.packed.withCluster 0).cl.svc.running = none ∧ (free.packed.withCluster 0).cl.svc.broken = none ∧
    (free.packed.withCluster 0).cl.svc.pqueue = [] ∧ (free.packed.withCluster 0).cl.svc.squeue = [record 5#8] ∧
    ends (exec (.serviceCoreTakeS 0) free) (fun t => decide (t.cl.svc.running = some .s ∧ t.cl.svc.hart.pc = 0x400#64)) = true ∧
    owner.orec = none ∧ owner.oqueue = [record 6#8] ∧
    ends (exec .lydarTakeO owner) (fun t => decide (t.o.otrapcause = 6#8 ∧ t.oqueue = [])) = true ∧
    atS.who = .service ∧ atS.cl.svc.running = some .s ∧ atS.cl.svc.srec = some (record 0x18#8) ∧ atS.rx 0#7 = 0#64 ∧
    2 < (atS.rx 5#7).toNat ∧
    ends (exec (.sret 0#7 0#7) atS) (fun t => decide ((t.tasks.map fun k => k.harts.map fun h => (h.run, h.pc)) = [[(.ready, 0x10000C#64)]])) = true ∧
    (let away : State := { atS with tasks := atS.tasks.map fun k => { k with save := some (.s, 0x300000#64), run := .parked } }
     ends (exec (.sret 0#7 0#7) away) (fun t => decide ((t.tasks.map fun k => k.harts.map fun h => h.resumeAt) = [[some 0x10000C#64]])) = true) ∧
    atP.cl.svc.running = some .p ∧ atP.cl.svc.prec = some { cause := 0#8, val := 8#64, val2 := 0#64 } ∧ atP.cl.svc.broken = some 0x500#64 ∧
    ends (exec (.sret 0#7 0#7) atP) (fun t => decide (t.h.pc = 0x500#64 ∧ t.cl.svc.running = some .s)) = true ∧
    (let s := service { running := some .s, srec := some (record 1#8) } [(5, 1#64), (6, 2#64), (7, 0x300008#64)]
     s.rx 5#7 = 1#64 ∧ (s.rx 7#7).toNat % 4096 ≠ 0 ∧
     ends (exec (.sret 5#7 7#7) s) (fun t => decide (t.cl.svc.pqueue.map (fun r => (r.cause, r.val)) = [(0x03#8, 0x300008#64)])) = true ∧
     s.rx 6#7 = 2#64 ∧ ends (exec (.sret 6#7 0#7) s) (fun t => decide (t.tasks = [] ∧ t.cl.svc.running = none)) = true) ∧
    (let s := service { running := some .s, srec := some (record 0x1C#8) } []
     (record 0x1C#8).cause = 0x1C#8 ∧
     ends (exec (.sret 0#7 0#7) s) (fun t => decide (t.tasks.map (fun k => k.harts.map fun h => h.run) = [[.trapped]] ∧ t.cl.svc.srec = none)) = true) ∧
    (let r : TrapRec := { cause := 0x18#8, pc := 0x504#64, val := 0#64, val2 := 0#64, fromS := true }
     let s := service { running := some .p, prec := some r, broken := some 0x504#64 } []
     r.cause ≠ 0#8 ∧ r.task = none ∧ r.fromP = false ∧ s.cl.svc.pqueue = [] ∧
     ends (exec (.sret 0#7 0#7) s) (fun t => decide (t.h.pc = 0x508#64 ∧ t.cl.svc.running = some .s)) = true) := by decide +kernel

/-- 17_traps R358, 18_partitions R375, 14_weir R313: each operand at the edge of what its rule allows. -/
theorem test_meets_ContextsWindowsAndTranslationsAreManaged :
    let s := service { running := some .s, srec := some (record 1#8) }
      [(4, 0x201000#64), (5, 0x201008#64), (6, 4#64), (7, 2#64), (8, 0x10000#64), (9, 1#64)]
    let p0 := service { running := some .p } [(4, 15#64), (5, 0x200000#64)]
    let p : State := { p0 with mem := cellsSet p0.mem 0x200000 (padded 64 []) }
    base.who = .user ∧ s.who = .service ∧ (s.rx 5#7).toNat % 4096 ≠ 0 ∧ (s.rx 4#7).toNat % 4096 = 0 ∧ s.rx 0#7 = 0#64 ∧
    ends (exec (.ctxsave 4#7 0#7) s) (fun t => decide (t.h.pc = s.h.pc + 4#64)) = true ∧ s.rx 6#7 = 4#64 ∧
    s.curRec.isSome = true ∧ s.rx 7#7 = 2#64 ∧
    (let o : State := { s with cl := { s.cl with cores := s.cl.cores.set 0 { owner := some 1 } } }
     (o.cl.cores.toList.getD 0 {}).owner = some 1 ∧
     ends (exec (.ctxload 0#7 7#7) o) (fun t => decide ((t.cl.cores.toList.getD 0 {}).owner = none)) = true) ∧
    2 ^ 16 ≤ (s.rx 8#7).toNat ∧ bitsOf (s.rx 8#7).toNat 15 15 = 0 ∧
    s.cl.svc.running = some .s ∧ (s.rx 0#7).toNat = 0 ∧ s.hasManage (.sub s.ownSub) 3 0 = true ∧ (∀ k ∈ s.tasks, k.windows = []) ∧
    (∀ k ∈ s.tlbTasks 0 0, k.holdsPin (s.tlbHits 0 0 0#64) = false) ∧
    ends (exec (.tlbinv 0#7 0#7) s) (fun t => decide (t.h.pc = s.h.pc + 4#64)) = true ∧
    (∃ w ∈ (mapped.unpin fun x => decide (x.pa / 65536 = 0x20)).t.windows, w.lines = [] ∧ w.pages = [none]) ∧
    p.who = .service ∧ p.cl.svc.running = some .p ∧ (p.rx 4#7).toNat < 16 ∧ (p.rx 5#7).toNat % 64 = 0 ∧
    (match withBlock (p.rx 5#7) 8 pure p with
      | .ok (bs, u) => decide (u.ownPart = p.ownPart ∧ field bs 32 1 = 0)
      | .error _ => false) = true ∧
    ends (exec (.fwset 4#7 5#7) p) (fun t => decide (t.windows = [])) = true := by decide +kernel

/-- 18_partitions R375: an address takes the stage-1 entry of its own page, or of the 512 MiB page that contains it, and the
results built on its stage-2 page. -/
theorem test_tlbinv_takes_pages_that_contain_xb :
    let s : State := service { running := some .s } []
    let e : TlbEntry := { part := 0, sub := 0, asid := some 0, page := 2, mid := 0x50000, out := 0, pte1 := 0, pte2 := 0,
                          ord := .rc, enc := false, marks := [], dset := false, tabs := [(0x70000, false)] }
    s.tlbHits 0 0 0x2FFFF#64 e = true ∧ s.tlbHits 0 0 0x30000#64 e = false ∧ s.tlbHits 0 0 0x30000#64 { e with big1 := true } = true ∧
    s.tlbHits 2 0 0x5FFFF#64 e = true ∧ s.tlbHits 2 0 0x70008#64 e = true ∧ s.tlbHits 2 0 0x60000#64 e = false := by decide

/-- 17_traps R357, R358, 14_weir R313, 18_partitions R375: tiles saved and loaded, a pin that is waited for, a descriptor
with a reserved format. -/
theorem test_meets_ContextsWindowsAndTranslationsAreManaged_parts :
    let s0 := service { running := some .s, srec := some (record 1#8) } [(4, 0x300000#64), (6, 8#64)]
    let s : State := { s0 with tasks := s0.tasks.map fun k => { k with matrix := { k.matrix with reserved := 2 } } }
    let r := s.areaOf (s.rx 4#7)
    let p0 := service { running := some .p } [(4, 15#64), (5, 0x200000#64)]
    let p : State := { p0 with mem := cellsSet p0.mem 0x200000 (padded 64 [0, 0, 0, 0, 0, 0, 0, 0, 0, 0, 0, 0, 0, 0, 0, 0, 0, 0, 0, 0,
      0, 0, 0, 0, 0, 0, 0, 0, 0, 0, 0, 0, 7, 19]) }
    let y : TlbEntry := { part := 0, sub := 0, asid := some 0, page := 0x20, mid := 0x200000, out := 0x200000, pte1 := 0, pte2 := 0,
                          ord := .rc, enc := false, marks := [], dset := false }
    let x : Xlat := { pa := 0x200000, pp := 0x200000, ord := .rc, entry := some y }
    let f : Flight := { (lite (.load .unit) false .none 4#7 5#7 0#7).capture vec with pins := [(0x20, x)] }
    let pin : State := { s with tasks := s.tasks.map fun k => { k with harts := k.harts.map fun h => { h with flight := some f } } }
    s.who = .service ∧ (s.rx 4#7).toNat % 4096 = 0 ∧ s.rx 6#7 = 8#64 ∧ s.recTask = some 1 ∧
    (match onTask 1 (saveTiles r) s with | .ok (_, u) => decide (u.tasks.map (·.matrix.reserved) = [0]) | .error _ => false) = true ∧
    ends (exec (.ctxsave 4#7 6#7) s) (fun t => decide (t.tasks.map (·.matrix.reserved) = [0]) &&
      match onTask 1 (loadTiles r) t with | .ok _ => true | .error _ => false) = true ∧
    (∃ k ∈ pin.tlbTasks 0 0, k.holdsPin (pin.tlbHits 0 0 (BitVec.allOnes 64)) = true) ∧
    (match withBlock (p.rx 5#7) 8 pure p with
      | .ok (bs, u) => decide (u.ownPart = p.ownPart ∧ field bs 32 1 ≠ 0 ∧ u.fwErrors p.ownPart 15 bs = [32])
      | .error _ => false) = true ∧
    ends (exec (.fwset 4#7 5#7) p) (fun t => decide (t.oqueue.map (fun r => (r.cause, r.val, r.val2)) = [(0x14#8, 32#64, 5#64)])) = true := by
  decide +kernel

/-- 17_traps R358: the engines' part of a task that stands in an area. -/
theorem test_meets_ContextsWindowsAndTranslationsAreManaged_engines :
    let s0 := service { running := some .s, srec := some (record 1#8) } [(4, 0x300000#64), (6, 32#64)]
    let s : State := { s0 with tasks := s0.tasks.map fun k => { k with out := [(5, .s, 0x300000#64)] } }
    let r := s.areaOf (s.rx 4#7)
    s.rx 6#7 = 32#64 ∧
    (match areaOwner r 5 s with
      | .ok (src, v) => match onTask 1 (fun k => loadEngines r (src.getD k.t) k) v with | .ok _ => true | .error _ => false
      | .error _ => false) = true ∧
    ends (exec (.ctxload 4#7 6#7) s) (fun _ => true) = true := by decide +kernel

/-- A valid packet (16_launch R336, R337): PROG 0x10_0000, ARGS 0x1234, GVLC 6, QUOTA 1024. -/
def packet : List Byte :=
  bytesOf 8 0x100000 ++ bytesOf 8 0x1234 ++ List.replicate 32 0#8 ++ bytesOf 8 (6 + 1024 * 2 ^ 32) ++ List.replicate 72 0#8

/-- Queue 0 of subpartition 0. -/
def queue : Queue := { num := 0, sub := 0, pc := 7#3, wt := 1#8, ualink := true, conn := 5#16 }

/-- The device with queue 0, the packet at the aperture. -/
def launching : State :=
  let s := regs base [(4, ap), (5, 0x800000#64), (6, 1#64), (7, 3#64), (8, 2#64)]
  { s with queues := [queue], t := { s.t with scratch := cellsSet [] 0 packet } }

/-- 16_launch R335, R337, R347 to R349. -/
theorem test_meets_QueuesTakeLaunches :
    let s := launching
    let bad := List.replicate 120 0#8 ++ List.replicate 8 1#8
    let late : State := { s with time := 111, h := { s.h with wtmo := 10#64, wait := some ⟨.wqpost 9#7, 100⟩ } }
    s.queue? 0 = some queue ∧ s.queueOpen queue = true ∧ packet.length = 128 ∧ s.rejectReason queue packet = none ∧
    bad.length = 128 ∧ s.rejectReason queue bad = some 1 ∧ queue.ualink = true ∧
    ends (exec (.launchWriteUalink 0#12 packet) s) (fun t => decide (t.replies = [.launch 1#64])) = true ∧
    ends (exec (.launchWriteUalink 0#12 bad) s) (fun t => decide (t.replies = [.launch 0x8000000000000001#64])) = true ∧
    (let shut : State := { s with grants := [] }
     shut.queueOpen queue = false ∧
     ends (exec (.launchWriteUalink 0#12 packet) shut) (fun t => decide (t.replies = [.launch 0x8000000000000006#64])) = true) ∧ queue.conn ≠ 6#16 ∧
    ends (exec (.launchMessage 0#12 5#16 packet) s) (fun t => decide (t.queues.map (fun q => q.launches.map fun l => l.num) = [[1]])) = true ∧
    ends (exec (.launchMessage 0#12 6#16 packet) s) (fun t => decide (t.replies = [.nak 6#16] ∧ t.queues = s.queues)) = true ∧
    (s.rx 0#7).toNat < 2 ^ 23 ∧ bitsOf (s.rx 0#7).toNat 21 12 = s.o.onode.toNat ∧ s.mayPost 0 = true ∧
    (s.rx 4#7).toNat % 128 = 0 ∧ s.scratchRun (s.rx 4#7).toNat 16 = true ∧ s.drain.queue? 0 = some queue ∧
    wrote s (exec (.wqpost 9#7 4#7 0#7) s) 9#7 1#64 = true ∧ (s.rx 6#7).toNat = 1 ∧ (s.rx 8#7).toNat = 2 ∧ 2 < (s.rx 7#7).toNat ∧
    wrote s (exec (.wqstat 9#7 8#7 0#7) s) 9#7 0#64 = true ∧ 2 ^ 23 ≤ (s.rx 5#7).toNat ∧ s.mayPost 1 = false ∧ (s.rx 6#7).toNat < 2 ^ 23 ∧
    trapped (exec (.wqpost 9#7 4#7 6#7) s) 0x07#8 1#64 = true ∧
    (let n := regs s [(6, 0x1000#64)]
     (n.rx 6#7).toNat < 2 ^ 23 ∧ bitsOf (n.rx 6#7).toNat 21 12 ≠ n.o.onode.toNat ∧ n.h.wait = none ∧
     ends (exec (.wqpost 9#7 4#7 6#7) n) (fun t => decide (t.h.wait.map (·.kind) = some (.wqpost 9#7))) = true ∧
     trapped (exec (.wqstat 9#7 8#7 6#7) n) 0x07#8 0x1000#64 = true ∧
     ends (exec (.wqpost 9#7 4#7 6#7) { n with h := { n.h with wait := some ⟨.wqpost 9#7, 0⟩ } }) (fun t => decide (t.h.pc = n.h.pc + 4#64)) = true) ∧
    (queue.launches.filter fun l => !l.finished).length < 512 ∧
    late.h.wait = some ⟨.wqpost 9#7, 100⟩ ∧ 100 + late.h.wtmo.toNat < late.time ∧
    wrote late (exec .wqpostTimeout late) 9#7 0x80000000000000FF#64 = true := by decide +kernel

/-- The launch, and queue 0 with it: not begun, and begun. -/
def launchOf (begun : Bool) : Launch := { num := 1, packet := packet, begun := begun }

/-- Queue 0 with one launch. -/
def queueOf (begun : Bool) : Queue := { queue with accepted := 1, launches := [launchOf begun], since := some 0, passed := some ((0, 1, 0), 0) }

/-- The device with that queue, its task on core 0 of cluster 0, and its other cores taken where `full`. -/
def placing (begun full : Bool) : State :=
  let s := { launching with queues := [queueOf begun], time := 10000001 }
  if full then { s with tasks := (List.range 7).map fun n => { used := true, uid := n + 2, run := .resident (n + 1) } } else s

/-- 16_launch R338 to R343, 17_traps R360: just beyond 10 ms for ageing, 10 ms for a reservation. -/
theorem test_meets_HeadgatePlacesWork :
    let s := placing false false
    let g := placing true false
    let f := placing true true
    let spent : State := { base with time := 7, t := { base.t with packet := List.replicate 72 0#8 ++ bytesOf 8 7 } }
    let slots : State := { spent with subs := spent.subs.map fun p => { p with pctxbase := 0x1000001#64 } }
    s.queue? 0 = some (queueOf false) ∧ ((queueOf false).launches.find? fun l => !l.begun) = some (launchOf false) ∧
    s.queueOpen (queueOf false) = true ∧ (queueOf false).turnOf (launchOf false) = true ∧ s.depsHold packet = true ∧
    pkGang packet = false ∧
    ends (exec (.launchStart 0#12) s) (fun t => decide (t.queues.map (fun q => q.launches.map fun l => l.begun) = [[true]])) = true ∧
    g.queue? 0 = some (queueOf true) ∧
    (match g.item (queueOf true) with
      | some (.group l k) => decide (l = launchOf true ∧ g.itemCluster (queueOf true) (.group l k) = some 0 ∧
          g.served (queueOf true) (g.itemRank (queueOf true) (.group l k)) = true)
      | _ => false) = true ∧
    ends (exec (.groupDispatch 0#12) g) (fun t => decide (t.tasks.map (fun k => (k.run, k.harts.map fun h => (h.pc, h.rx 2#7))) =
      [(.resident 1, [(0x100000#64, 0x1234#64)])])) = true ∧
    (queueOf true).since = some 0 ∧ g.startable (queueOf true) = true ∧ 0 + 10000000 < g.time ∧
    ends (exec (.priorityAgeing 0#12) g) (fun t => decide (t.queues.map (·.aged) = [true])) = true ∧
    (match f.item (queueOf true) with
      | some (.group l k) => decide (f.itemRank (queueOf true) (.group l k) = f.topPrio 0 ∧
          f.itemCluster (queueOf true) (.group l k) = none ∧ f.couldHold (queueOf true) (.group l k) = some 0)
      | _ => false) = true ∧ (queueOf true).passed = some ((0, 1, 0), 0) ∧ (∀ k ∈ f.allClusters, k.reservedFor ≠ some (0, 1, 0)) ∧
    ends (exec (.groupReservation 0#12) f) (fun t => decide (t.cl.reservedFor = some (0, 1, 0))) = true ∧
    ((f.tasksOf 0).filter fun t => t.onCore = some 1).map (·.uid) = [2] ∧ (match f.preloadChoice 0 1 with | some (q, .group l _) => decide (q.num = 0 ∧ groupSize l.packet = 1) | _ => false) = true ∧
    ends (exec (.preload 0 1) f) (fun t => decide ((t.tasks.drop 7).map (·.run) = [.preloaded 1] ∧ t.queues = f.queues)) = true ∧
    spent.who = .user ∧ pkBudget spent.t.packet = 7 ∧ spent.t.since + 7 ≤ spent.time ∧ spent.t.onCore = some 0 ∧
    spent.slotFor spent.t = none ∧ slots.slotFor slots.t = some 0 ∧
    ends (exec .budgetExpiry spent) (fun t => decide (t.cl.svc.pqueue.map (·.val) = [8#64])) = true ∧
    spent.tasksOf 3 = [] ∧ (∀ k ∈ (spent.packed.withCluster 3).cl.cores.toList, k.owner = none) ∧
    (match (spent.dropPreloads 0 (some 0)).preemptCluster 0 with | .inr sub => decide (sub = 0) | .inl _ => false) = true ∧
    (let e : State := { g with queues := [{ queue with since := some 0 }] }
     e.startable { queue with since := some 0 } = false ∧
     ends (exec (.priorityAgeing 0#12) e) (fun t => decide (t.queues.map (·.since) = [none])) = true) := by decide +kernel

/-- 16_launch R339 to R341, 17_traps R356: a GANG launch that fits, a task to be run again, a parked one. -/
theorem test_meets_HeadgatePlacesWork_kinds :
    let gp : List Byte := packet.take 48 ++ bytesOf 8 (6 + 1024 * 2 ^ 32 + 2 ^ 12) ++ packet.drop 56
    let l : Launch := { num := 1, packet := gp }
    let q : Queue := { queue with accepted := 1, launches := [l] }
    let s := { launching with queues := [q] }
    let old (r : TaskRun) : Task := { used := true, uid := 5, queue := 0#12, launch := 1, packet := packet, run := r, harts := [{}] }
    let w (r : TaskRun) : State := { launching with queues := [queueOf true], tasks := [old r] }
    pkGang gp = true ∧ s.queueOpen q = true ∧ q.turnOf l = true ∧ s.depsHold gp = true ∧ s.gangFits q l = true ∧
    s.served q (effPrio q l) = true ∧
    (placeGang q l (groupCount gp) 0 ((s.passOver q).takeTurns q (effPrio q l))).isSome = true ∧
    ends (exec (.launchStart 0#12) s) (fun t => decide (t.tasks.map (·.run) = [.resident 1])) = true ∧
    (match (w .rerun).item (queueOf true) with
      | some i => (match i with | .rerun _ uids => decide (uids = [5]) | _ => false) && decide ((w .rerun).itemCluster (queueOf true) i = some 0) &&
          (w .rerun).served (queueOf true) ((w .rerun).itemRank (queueOf true) i)
      | none => false) = true ∧
    ends (exec (.groupDispatch 0#12) (w .rerun)) (fun t => decide (t.tasks.map (fun k => (k.run, k.ord)) = [(.resident 1, 0)])) = true ∧
    (match (w .parked).item (queueOf true) with
      | some i => (match i with | .resume us => decide (us = [5]) | _ => false) && decide ((w .parked).itemCluster (queueOf true) i = some 0) &&
          (w .parked).served (queueOf true) ((w .parked).itemRank (queueOf true) i)
      | none => false) = true ∧
    ends (exec (.groupDispatch 0#12) (w .parked)) (fun t => decide (t.tasks.map (·.run) = [.resident 1])) = true ∧
    (let b : State := { w .parked with tasks := [{ old .parked with save := some (.s, 0x40000000#64) }] }
     (match b.item (queueOf true) with
       | some (.resume us) => (resumeAll us 0 ((b.passOver (queueOf true)).takeTurns (queueOf true) (b.itemRank (queueOf true) (.resume us)))).isNone
       | _ => false) = true ∧
     ends (exec (.groupDispatch 0#12) b) (fun t => decide (t.tasks.map (·.run) = [.parked])) = true) := by decide +kernel

/-- Operand xa of the instructions of rights (18_partitions R367): class, FIRST, COUNT. -/
def items (cls first count : Nat) : Word := BitVec.ofNat 64 (cls + first * 2 ^ 8 + count * 2 ^ 40)

/-- 18_partitions R365 to R368: an amount at its limit, the last value of a class, items not held, a right that lacks. -/
theorem test_meets_RightsAreGrantedAndTaken :
    let l : List (Nat × Word) := [(4, items 4 0 512), (5, 0#64), (6, items 8 0xFFFFFFFF 1), (7, 0x1C0#64), (8, items 8 7 1), (10, items 9 0 1)]
    let o : State := regs { State.reset with who := .lydar } l
    let held (r : BitVec 3) : List Grant := [⟨8, 7, 1, .owner, .part 0, r, true⟩, ⟨8, 7, 1, .part 0, .sub 0, r, true⟩]
    let p (r : BitVec 3) : State := let v := service { running := some .p } l; { v with grants := v.grants ++ held r }
    let s : State := let v := service { running := some .s } l; { v with grants := v.grants ++ held 7#3 }
    (o.changeLine.head? = some o.changer ∧ (p 7#3).changeLine.head? = some (p 7#3).changer ∧ s.changeLine.head? = some s.changer) ∧
    base.level = .u ∧ ends (exec (.pquery 9#7 4#7 5#7) base) (fun t => decide (t.cl.svc.squeue.map (·.cause) = [0x19#8])) = true ∧ o.level ≠ .u ∧
    operandsOk (o.rx 4#7) (o.rx 5#7) = true ∧ operandsOk (o.rx 10#7) (o.rx 5#7) = false ∧ s.level ≠ .u ∧
    ends (exec (.pquery 9#7 10#7 5#7) s) (fun t => decide (t.cl.svc.pqueue.map (fun r => (r.cause, r.val)) = [(0x07#8, items 9 0 1)])) = true ∧
    (itemsOf (o.rx 4#7)).cls = 4 ∧ o.holderBelow 0 = some (.part 0) ∧ (itemsOf (o.rx 4#7)).count ≤ o.amount 4 o.acting ∧
    (o.amountRights 4 o.acting).getLsbD 2 = true ∧
    ends (exec (.pgrant 9#7 4#7 5#7) o) (fun t => decide (t.amount 4 (.part 0) = 512 ∧ t.amount 4 .owner = 0)) = true ∧
    (itemsOf (o.rx 6#7)).cls = 8 ∧ operandsOk (o.rx 6#7) (o.rx 7#7) = true ∧ o.holdsAll o.acting (itemsOf (o.rx 6#7)) = true ∧
    o.givenAll o.acting (itemsOf (o.rx 6#7)) 4#3 = true ∧
    ends (exec (.pgrant 9#7 6#7 7#7) o) (fun t => decide (t.rx 9#7 = 0#64 ∧ t.grants.length = 1)) = true ∧
    (p 7#3).level = .p ∧ (p 7#3).holdsAll (p 7#3).acting (itemsOf ((p 7#3).rx 6#7)) = false ∧ amountClass 8 = false ∧
    wrote (p 7#3) (exec (.pgrant 9#7 6#7 7#7) (p 7#3)) 9#7 2#64 = true ∧
    (p 3#3).holdsAll (p 3#3).acting (itemsOf ((p 3#3).rx 8#7)) = true ∧ operandsOk (items 8 7 1) 0x1C0#64 = true ∧
    (p 3#3).givenAll (p 3#3).acting (itemsOf ((p 3#3).rx 8#7)) 4#3 = false ∧
    wrote (p 3#3) (exec (.pgrant 9#7 8#7 7#7) (p 3#3)) 9#7 1#64 = true ∧
    (p 7#3).partOfSub 0 = some (p 7#3).ownPart ∧
    ends (exec (.prevoke 9#7 8#7 7#7) (p 7#3)) (fun t => decide (t.rx 9#7 = 0#64 ∧ (t.grants.filter fun g => g.cls = 8).length = 1)) = true ∧
    s.level = .s ∧ s.partOfSub 0 = some s.ownPart ∧ s.holdsAll s.acting (itemsOf (s.rx 8#7)) = true ∧
    s.givenAll s.acting (itemsOf (s.rx 8#7)) 4#3 = true ∧
    (let q : State := { (p 7#3) with amounts := [(4, .sub 0, 16)] }
     (itemsOf (items 4 0 16)).count ≤ ((q.holderTree (.sub 0)).map (q.amount 4)).sum ∧
     ends (exec (.prevoke 9#7 4#7 5#7) (regs q [(4, items 4 0 16)])) (fun t => decide (t.amount 4 (.part 0) = 16 ∧ t.rx 9#7 = 0#64)) = true) ∧
    wrote s (exec (.pdeleg 9#7 8#7 7#7) s) 9#7 0#64 = true ∧ ends (exec (.pquery 9#7 8#7 5#7) s) (fun t => decide ((t.rx 9#7).toNat % 16 = 15)) = true := by decide +kernel

/-- 18_partitions R369: Lydar's change comes after that of P, which waits in its instruction. -/
theorem test_meets_RightsAreGrantedAndTaken_line :
    let p := service { running := some .p } []
    let q : State := { p with h := { p.h with wait := some ⟨.other, 0⟩ } }
    let o : State := regs { q.packed with who := .lydar, changing := [32], h := {} } [(4, items 8 7 1), (5, 0#64)]
    o.level ≠ .u ∧ operandsOk (o.rx 4#7) (o.rx 5#7) = true ∧ o.changeLine = [32, 64] ∧ o.changer = 64 ∧
    ends (exec (.pgrant 9#7 4#7 5#7) o) (fun t => decide (t.h.wait.isSome = true ∧ t.changing = [32, 64] ∧ t.grants = o.grants)) = true := by
  decide +kernel

/-! ### The outside, steps, encodings -/

/-- 01_machine R23, R27, 13_ordering R282, R286, 15_collectives R318: 1 and 256 bytes, the last byte of memory and beyond,
a window that stage 3 maps, waits and stores of other nodes, the order of two buffered stores. -/
theorem test_meets_OutsideAccessesReachMemory :
    let s := base
    let last := 768 * 2 ^ 30 - 1
    let waits (n : Nat) : State := { s with time := n, h := { s.h with wait := some ⟨.remote 0x700000#64 4#64, 100⟩ } }
    let e : SbEntry := { pa := 2 ^ 40, ord := .rc, va := 0x800000#64, cells := [(1#8, 1#8)] }
    let far : State := { s with h := { s.h with sb := [e] } }
    let own (o : Ord) (r : Bool) (pa : Nat) : SbEntry := { pa := pa, ord := o, va := 0x200000#64, cells := [(7#8, 0xFF#8)], rel := r }
    let two (a b : SbEntry) : State := { s with h := { s.h with sb := [a, b] } }
    (∀ k ∈ s.t :: s.tasks, k.windows = []) ∧ last + 1 ≤ 768 * 2 ^ 30 ∧ Memory.wf s.mem = true ∧
    ends (exec (.remoteRequest (.store last [9#8])) s) (fun t => decide (t.replies = [.done] ∧ cellGet t.mem last = 9#8)) = true ∧
    (∀ i < 256, s.poisoned (0x10000 + i) = false) ∧
    ends (exec (.remoteRequest (.load 0x10000 256)) s) (fun t => decide (t.replies = [.data (cellsGet s.mem 0x10000 256)])) = true ∧
    768 * 2 ^ 30 < last + 2 ∧ last + 2 ≤ 0xFF00000000 ∧
    ends (exec (.remoteRequest (.load last 2)) s) (fun t => decide (t.replies = [.error])) = true ∧
    (match s.stage3 0 none 0x10000 .load 0, s.stage3 0 none (0x10000 + 3) .load 0 with
      | .ok a, .ok b => decide (a = 0x10000 ∧ b = a + 3)
      | _, _ => false) = true ∧ s.isLocal 0x10000 = true ∧ s.aliasOf 0 0x10000 = none ∧
    ends (exec (.ueWindowAccess 0 (.load 0x10000 4)) s) (fun t => decide (t.replies = [.data [1#8, 0#8, 2#8, 0#8]])) = true ∧
    (waits 100).h.wait = some ⟨.remote 0x700000#64 4#64, 100⟩ ∧ 100 ≤ (waits 100).time ∧ (waits 100).time < 100 + 2000000 ∧
    100 + 2000000 ≤ (waits 2000100).time ∧
    trapped (exec .remoteErrorResponse (waits 100)) 0x07#8 0x700000#64 = true ∧
    (let v : State := { waits 100 with h := { (waits 100).h with flight := underWay.h.flight } }
     ends (exec .remoteErrorResponse v) (fun t => decide (t.cl.svc.squeue.map (·.val2) = [0x10#64])) = true) ∧
    trapped (exec .remoteAccessTimeout (waits 2000100)) 0x07#8 0x700000#64 = true ∧
    ends (exec .remoteAccessTimeout (waits 100)) (fun t => decide (t.h.wait = (waits 100).h.wait)) = true ∧
    (match s.stage3 0 none 0x10000 .store 0, s.stage3 0 none (0x10000 + 0) .store 0 with
      | .ok a, .ok b => decide (a = 0x10000 ∧ b = a)
      | _, _ => false) = true ∧
    ends (exec (.ueWindowAccess 0 (.store 0x10000 [7#8])) s) (fun t => decide (t.replies = [.done] ∧ cellGet t.mem 0x10000 = 7#8)) = true ∧
    0x10000 % 8 = 0 ∧ (9#4 : BitVec 4).toNat ≤ 9 ∧
    ends (exec (.remoteRequest (.atomic 0x10000 0#4 true 2#64 0#64)) s) (fun t => decide (t.replies = [.data (cellsGet s.mem 0x10000 8)] ∧
      cellGet t.mem 0x10000 = 3#8)) = true ∧
    s.h.wait = none ∧ (s.h.sb.find? fun e => !s.isLocal e.pa) = none ∧
    (∀ x ∈ [own .rc false 0x200000], (own .rc false 0x200008).mayPass x = true) ∧
    far.h.wait = none ∧ (far.h.sb.find? fun e => !far.isLocal e.pa) = some e ∧
    (two (own .rc false 0x200000) (own .rc true 0x200008)).h.sb = own .rc false 0x200000 :: own .rc true 0x200008 :: [] ∧
    (own .rc false 0x200000).ord ≠ .unordered ∧ (own .rc true 0x200008).rel = true ∧ (own .strong false 0x200000).ord = .strong ∧
    overlaps 0x200000 1 0x200000 1 = true ∧
    ends (exec (.storeCommit 0) (two (own .rc false 0x200000) (own .rc true 0x200008)))
      (fun t => decide (t.h.sb.length = 1 ∧ cellGet t.mem 0x200000 = 7#8)) = true ∧
    ends (exec (.storeCommit 1) (two (own .rc false 0x200000) (own .rc true 0x200008))) (fun t => decide (t.h.sb.length = 2)) = true ∧
    ends (exec (.storeCommit 1) (two (own .strong false 0x200000) (own .strong false 0x200008))) (fun t => decide (t.h.sb.length = 2)) = true ∧
    ends (exec (.storeCommit 1) (two (own .rc false 0x200000) (own .rc false 0x200000))) (fun t => decide (t.h.sb.length = 2)) = true ∧
    (let v (pa : Nat) : SbEntry := { own .unordered false pa with insn := 4 }
     (v 0x200000).insn ≠ 0 ∧ ends (exec (.storeCommit 1) (two (v 0x200000) (v 0x200000))) (fun t => decide (t.h.sb.length = 2)) = true) ∧
    ends (exec (.storeCommit 1) (two (own .rc false 0x200000) (own .rc false 0x200008))) (fun t => decide (t.h.sb.length = 1)) = true := by
  decide +kernel

/-- 18_partitions R378, R380, R382: chiplet 7 and its clusters, the throttle at both ends of its range and at its limit,
a page with nothing on it and one 64 KiB beyond. -/
theorem test_meets_DeviceEventsAct :
    let s : State := State.reset
    let gone : State := { s with degraded := [7] }
    let slow : State := { s with mhz := 1200 }
    (7 < 8 ∧ 7 ∉ s.degraded ∧ 28 / 4 = 7 ∧ 31 / 4 = 7) ∧
    ends (exec (.watchdogExpiry 7) s) (fun t => decide (7 ∈ t.degraded ∧ t.oqueue.map (fun r => r.val) = [6#64, 7#64])) = true ∧
    7 ∈ gone.degraded ∧ ends (exec (.chipletReset 7) gone) (fun t => decide (t.degraded = [7])) = true ∧
    s.mhz = 2100 ∧ s.o.oplim.toNat = 2500 ∧
    ends (exec (.powerThrottle 2500) s) (fun t => decide (t.mhz = 2100)) = true ∧
    ends (exec (.powerThrottle 2501) s) (fun t => decide (t.mhz = 2000)) = true ∧
    ends (exec (.powerThrottle 2501) slow) (fun t => decide (t.mhz = 1200)) = true ∧
    Memory.wf s.mem = true ∧ s.isLocal 0x30000 = true ∧ s.isLocal 0x40000 = true ∧ 0x40000 % 65536 = 0 ∧
    0x40000 % 2 ^ 40 + 65536 ≤ 768 * 2 ^ 30 ∧ (∀ k ∈ s.allTasks, k.windows = []) ∧
    s.commandCovers none (fun pa => overlaps pa 65536 0x30000 65536 || overlaps pa 65536 0x40000 65536) = false ∧
    s.allEntries = some [] ∧
    ends (exec (.pageMigration 0x30000 0x40000 false) { s with mem := [(0x30005, 7#8)] }) (fun t => decide (cellGet t.mem 0x40005 = 7#8)) = true ∧
    (let bad : State := base.poisonLine ((frameOf ((base.subs.map (·.ps2root)).headD 0#64).toNat) / 256)
     (∀ k ∈ bad.allTasks, k.windows = []) ∧ bad.allEntries = none ∧ ends (exec (.pageMigration 0x30000 0x40000 false) bad) (fun t => decide (t = bad)) = true) ∧
    ends (exec (.sramSoftError .corrected) s) (fun t => decide (t.corrected = 1)) = true ∧
    ends (exec (.linkFailure 3 none) s) (fun t => decide (t.oqueue.map (fun r => r.val) = [2#64])) = true ∧
    s.vectorPins none (fun pa => overlaps pa 65536 0x30000 65536 || overlaps pa 65536 0x40000 65536) = false ∧
    ends (exec (.sramSoftError (.serviceCore 28)) s) (fun t => decide (7 ∈ t.degraded)) = true ∧
    base.who = .user ∧ 0xFFFFF < base.t.scrb ∧
    ends (exec (.sramSoftError (.scratchLine 0xFFFFF)) base) (fun t => decide (t.t.scrPoison.map Mark.idx = [0xFFF])) = true ∧
    ends (exec (.sramSoftError (.line 0x300)) s) (fun t => t.poisoned 0x3FF && !t.poisoned 0x400) = true := by decide +kernel

/-- 18_partitions R366, R370 to R374: each level reaches the granule it has been given; the first address that is not
of a user. -/
theorem test_meets_AccessesNeedTheGranule :
    let s := service { running := some .s } []
    let p := service { running := some .p } []
    base.level = .u ∧ s.level = .s ∧ p.level = .p ∧ base.h.pinned 0x200000 .load = none ∧ base.h.pinned (2 ^ 55) .load = none ∧
    xlat base 0x200000 .load (fun x => base.isLocal x.pa) = true ∧ xlat s 0x200000 .store (fun x => s.isLocal x.pa) = true ∧
    xlat p 0x200000 .load (fun x => p.isLocal x.pa) = true ∧
    (match base.translate (2 ^ 55) .load with | .error e => decide (e.cause = .page1) | .ok _ => false) = true := by decide +kernel

/-- 03_words R68: addi x9, x0, 5 at the program counter, and a word of zeros. -/
theorem test_meets_StepRunsTheDecodedInstruction :
    let s := base.putWord 0x100000 0x06240005#32
    let m (s : State) : State := { s with time := s.time + 1 }
    s.agenda = [] ∧ s.slot = .hart ∧ (m s).canIssue = true ∧ s.h.due = none ∧ (m s).budgetDue = false ∧
    (m s).limit.isNone = true ∧ s.h.mirror = .agree ∧ s.h.rep = none ∧ s.h.flight = none ∧
    base.agenda = [] ∧ base.slot = .hart ∧ (m base).canIssue = true ∧ base.h.due = none ∧ (m base).budgetDue = false ∧
    (m base).limit.isNone = true ∧ base.h.mirror = .agree ∧ base.h.rep = none ∧ base.h.flight = none ∧
    (match fetchAt s.h.pc.toNat (m s), fetchAt base.h.pc.toNat (m base) with
      | .ok (w, _), .ok (z, _) => decide (w = 0x06240005#32 ∧ z = 0#32)
      | _, _ => false) = true ∧
    decode 0x06240005#32 = .ok (.addi 9#7 0#7 5#11) ∧ decode 0#32 = .error .illegalMajor ∧
    ends (step s) (fun t => decide (t.time = base.time + 1)) = true ∧
    ends (step base) (fun t => decide (t.cl.svc.squeue.map (fun r => (r.cause, r.val)) = [(1#8, 0#64)])) = true := by decide +kernel

/-- 03_words R54: an instruction with an operand at the end of its range, and its word. -/
theorem test_meets_DecodeAndEncodeAgree :
    (Instr.addi 127#7 127#7 0x7FF#11).isEvent = false ∧ (Instr.addi 127#7 127#7 0x7FF#11).wellFormed = true ∧
    encode (.addi 127#7 127#7 0x7FF#11) = some 0x07FFFFFF#32 ∧
    decode 0x07FFFFFF#32 = .ok (.addi 127#7 127#7 0x7FF#11) := by decide +kernel

/-- 01_machine R23: the small device, whose step runs. -/
theorem test_meets_StepKeepsTheMemories : base.memoriesWf ∧ ends (step base) (fun _ => true) = true := by
  unfold State.memoriesWf; decide +kernel

/-! ### Words -/

theorem test_decode_majors_01 :
    decode 0x03353650#32 = .ok (.add 77#7 38#7 101#7) ∧
    decode 0x0217F401#32 = .ok (.sub 5#7 126#7 64#7) ∧
    decode 0x03681AC2#32 = .ok (.and 90#7 3#7 44#7) ∧
    decode 0x02868133#32 = .ok (.or 33#7 80#7 19#7) ∧
    decode 0x03353654#32 = .ok (.xor 77#7 38#7 101#7) ∧
    decode 0x0217F405#32 = .ok (.sll 5#7 126#7 64#7) ∧
    decode 0x03681AC6#32 = .ok (.srl 90#7 3#7 44#7) ∧
    decode 0x02868137#32 = .ok (.sra 33#7 80#7 19#7) ∧
    decode 0x03353658#32 = .ok (.slt 77#7 38#7 101#7) ∧
    decode 0x0217F409#32 = .ok (.sltn 5#7 126#7 64#7) ∧
    decode 0x03681ACA#32 = .ok (.min 90#7 3#7 44#7) ∧
    decode 0x0286813B#32 = .ok (.max 33#7 80#7 19#7) ∧
    decode 0x0335365C#32 = .ok (.minn 77#7 38#7 101#7) ∧
    decode 0x0217F40D#32 = .ok (.maxn 5#7 126#7 64#7) ∧
    decode 0x03681ACE#32 = .ok (.andn 90#7 3#7 44#7) ∧
    decode 0x0286813F#32 = .ok (.orn 33#7 80#7 19#7) := by
  decide +kernel

theorem test_decode_majors_02 :
    decode 0x05353650#32 = .ok (.mul 77#7 38#7 101#7) ∧
    decode 0x0417F401#32 = .ok (.mulh 5#7 126#7 64#7) ∧
    decode 0x05681AC2#32 = .ok (.mulhn 90#7 3#7 44#7) ∧
    decode 0x04868133#32 = .ok (.div 33#7 80#7 19#7) ∧
    decode 0x05353654#32 = .ok (.divn 77#7 38#7 101#7) ∧
    decode 0x0417F405#32 = .ok (.rem 5#7 126#7 64#7) ∧
    decode 0x05681AC6#32 = .ok (.remn 90#7 3#7 44#7) ∧
    decode 0x04868007#32 = .ok (.clz 33#7 80#7) ∧
    decode 0x05353008#32 = .ok (.ctz 77#7 38#7) ∧
    decode 0x0417F009#32 = .ok (.popc 5#7 126#7) ∧
    decode 0x05681ACA#32 = .ok (.bext 90#7 3#7 44#7) ∧
    decode 0x0486813B#32 = .ok (.bins 33#7 80#7 19#7) := by
  decide +kernel

theorem test_decode_majors_03_to_07 :
    decode 0x07353401#32 = .ok (.addi 77#7 38#7 0x401#11) ∧
    decode 0x0817F3FE#32 = .ok (.andi 5#7 126#7 0x3FE#11) ∧
    decode 0x0B681DA3#32 = .ok (.ori 90#7 3#7 0x5A3#11) ∧
    decode 0x0C868401#32 = .ok (.xori 33#7 80#7 0x401#11) ∧
    decode 0x0F353001#32 = .ok (.slli 77#7 38#7 0x1#6) ∧
    decode 0x0E17F221#32 = .ok (.srli 5#7 126#7 0x21#6) ∧
    decode 0x0F681C3E#32 = .ok (.srai 90#7 3#7 0x3E#6) := by
  decide +kernel

theorem test_decode_majors_08_to_0D :
    decode 0x108683FE#32 = .ok (.slti 33#7 80#7 0x3FE#11) ∧
    decode 0x133535A3#32 = .ok (.sltni 77#7 38#7 0x5A3#11) ∧
    decode 0x1415F0F3#32 = .ok (.lhi 5#7 0x1F0F3#18) ∧
    decode 0x17680001#32 = .ok (.lsh 90#7 0x1#18) ∧
    decode 0x188685A3#32 = .ok (.ldd 33#7 80#7 0x5A3#11) ∧
    decode 0x1B353401#32 = .ok (.ldw 77#7 38#7 0x401#11) := by
  decide +kernel

theorem test_decode_majors_0E_to_13 :
    decode 0x1C17F3FE#32 = .ok (.ldwn 5#7 126#7 0x3FE#11) ∧
    decode 0x1F681DA3#32 = .ok (.ldbn 90#7 3#7 0x5A3#11) ∧
    decode 0x20868401#32 = .ok (.std 33#7 80#7 0x401#11) ∧
    decode 0x233533FE#32 = .ok (.stw 77#7 38#7 0x3FE#11) ∧
    decode 0x2417F5A3#32 = .ok (.stb 5#7 126#7 0x5A3#11) ∧
    decode 0x27681AC0#32 = .ok (.lddX 90#7 3#7 44#7) ∧
    decode 0x26868131#32 = .ok (.ldwX 33#7 80#7 19#7) ∧
    decode 0x27353652#32 = .ok (.ldwnX 77#7 38#7 101#7) ∧
    decode 0x2617F403#32 = .ok (.ldh 5#7 126#7 64#7) ∧
    decode 0x27681AC4#32 = .ok (.ldhn 90#7 3#7 44#7) ∧
    decode 0x26868135#32 = .ok (.ldb 33#7 80#7 19#7) ∧
    decode 0x27353656#32 = .ok (.ldbnX 77#7 38#7 101#7) ∧
    decode 0x2617F408#32 = .ok (.stdX 5#7 126#7 64#7) ∧
    decode 0x27681AC9#32 = .ok (.stwX 90#7 3#7 44#7) ∧
    decode 0x2686813A#32 = .ok (.sth 33#7 80#7 19#7) ∧
    decode 0x2735365B#32 = .ok (.stbX 77#7 38#7 101#7) := by
  decide +kernel

theorem test_decode_majors_14_to_19 :
    decode 0x2817F5A3#32 = .ok (.beq 5#7 126#7 0x5A3#11) ∧
    decode 0x2B681C01#32 = .ok (.bne 90#7 3#7 0x401#11) ∧
    decode 0x2C8683FE#32 = .ok (.blt 33#7 80#7 0x3FE#11) ∧
    decode 0x2F3535A3#32 = .ok (.bge 77#7 38#7 0x5A3#11) ∧
    decode 0x3017F401#32 = .ok (.bltn 5#7 126#7 0x401#11) ∧
    decode 0x33681BFE#32 = .ok (.bgen 90#7 3#7 0x3FE#11) := by
  decide +kernel

theorem test_decode_majors_1A_to_1D :
    decode 0x348685A3#32 = .ok (.bsub 33#7 80#7 0x5A3#11) ∧
    decode 0x37A2B3C5#32 = .ok (.jmp 0x1A2B3C5#25) ∧
    decode 0x39A2B3C5#32 = .ok (.call 0x1A2B3C5#25) ∧
    decode 0x3A001800#32 = .ok (.jr 3#7) ∧
    decode 0x3A868001#32 = .ok (.jalr 33#7 80#7) ∧
    decode 0x3A000002#32 = .ok (.ret) := by
  decide +kernel

theorem test_decode_majors_1E_to_20 :
    decode 0x3D3403FE#32 = .ok (.sget 77#7 0x3FE#11) ∧
    decode 0x3E1405A3#32 = .ok (.sput 5#7 0x5A3#11) ∧
    decode 0x41681800#32 = .ok (.vwin 90#7 3#7) ∧
    decode 0x40840001#32 = .ok (.lfork 33#7) ∧
    decode 0x40013002#32 = .ok (.ljoin 38#7) ∧
    decode 0x40280033#32 = .ok (.wid 10#7 0#3 3#2) ∧
    decode 0x40000004#32 = .ok (.nop) ∧
    decode 0x40000005#32 = .ok (.yield) ∧
    decode 0x40000006#32 = .ok (.tdone) := by
  decide +kernel

theorem test_decode_majors_21_to_28 :
    decode 0x4228582D#32 = .ok (.vsetl 10#7 11#7 .b16 .e2m1) ∧
    decode 0x45FAA000#32 = .ok (.rep 63#6 false true false 5#3) ∧
    decode 0x51353000#32 = .ok (.cnew 77#7 38#7) ∧
    decode 0x50140001#32 = .ok (.cdrop 5#7) ∧
    decode 0x51681802#32 = .ok (.cshare 90#7 3#7) ∧
    decode 0x50868133#32 = .ok (.cseam 33#7 80#7 19#7) ∧
    decode 0x51353654#32 = .ok (.chemh 77#7 38#7 101#7) ∧
    decode 0x5017F405#32 = .ok (.chemt 5#7 126#7 64#7) ∧
    decode 0x51681AC6#32 = .ok (.csplit 90#7 3#7 44#7) ∧
    decode 0x50868137#32 = .ok (.cslice 33#7 80#7 19#7) ∧
    decode 0x51353008#32 = .ok (.cpack 77#7 38#7) ∧
    decode 0x5017F009#32 = .ok (.cmovv 5#7 126#7) ∧
    decode 0x5168192A#32 = .ok (.cretype 90#7 3#7 .f16) ∧
    decode 0x5084013B#32 = .ok (.cpost 33#7 19#7) ∧
    decode 0x5135365C#32 = .ok (.ctake 77#7 38#7 101#7) := by
  decide +kernel

theorem test_decode_majors_29_to_2A :
    decode 0x5217F000#32 = .ok (.clen 5#7 126#7) ∧
    decode 0x53681801#32 = .ok (.cinfo 90#7 3#7) ∧
    decode 0x52840002#32 = .ok (.cpool 33#7) ∧
    decode 0x53353653#32 = .ok (.vget 77#7 38#7 101#7) ∧
    decode 0x5217F404#32 = .ok (.vput 5#7 126#7 64#7) ∧
    decode 0x55681AC4#32 = .ok (.vadd false true 90#7 3#7 44#7) ∧
    decode 0x5486813D#32 = .ok (.vsub true true 33#7 80#7 19#7) ∧
    decode 0x55353652#32 = .ok (.vrsub false false 77#7 38#7 101#7) ∧
    decode 0x5417F40B#32 = .ok (.vmul true false 5#7 126#7 64#7) := by
  decide +kernel

theorem test_decode_majors_2B_to_2C :
    decode 0x57681AC4#32 = .ok (.vadds false true 90#7 3#7 44#7) ∧
    decode 0x5686813D#32 = .ok (.vsubs true true 33#7 80#7 19#7) ∧
    decode 0x57353652#32 = .ok (.vmulh false false 77#7 38#7 101#7) ∧
    decode 0x5617F40B#32 = .ok (.vavg true false 5#7 126#7 64#7) ∧
    decode 0x59681AC4#32 = .ok (.vdiv false true 90#7 3#7 44#7) ∧
    decode 0x5886813D#32 = .ok (.vrem true true 33#7 80#7 19#7) ∧
    decode 0x59353652#32 = .ok (.vmin false false 77#7 38#7 101#7) ∧
    decode 0x5817F40B#32 = .ok (.vmax true false 5#7 126#7 64#7) := by
  decide +kernel

theorem test_decode_majors_2D_to_2E :
    decode 0x5B681AC4#32 = .ok (.vand false true 90#7 3#7 44#7) ∧
    decode 0x5A86813D#32 = .ok (.vor true true 33#7 80#7 19#7) ∧
    decode 0x5B353652#32 = .ok (.vxor false false 77#7 38#7 101#7) ∧
    decode 0x5A17F40B#32 = .ok (.vandn true false 5#7 126#7 64#7) ∧
    decode 0x5D681AC4#32 = .ok (.vsll false true 90#7 3#7 44#7) ∧
    decode 0x5C86813D#32 = .ok (.vsrl true true 33#7 80#7 19#7) ∧
    decode 0x5D353652#32 = .ok (.vsra false false 77#7 38#7 101#7) ∧
    decode 0x5C17F40B#32 = .ok (.vrot true false 5#7 126#7 64#7) := by
  decide +kernel

theorem test_decode_majors_2F_to_30 :
    decode 0x5F681AC4#32 = .ok (.vceq false true 90#7 3#7 44#7) ∧
    decode 0x5E86813D#32 = .ok (.vcne true true 33#7 80#7 19#7) ∧
    decode 0x5F353652#32 = .ok (.vclt false false 77#7 38#7 101#7) ∧
    decode 0x5E17F40B#32 = .ok (.vcle true false 5#7 126#7 64#7) ∧
    decode 0x61681AC4#32 = .ok (.vfadd false true 90#7 3#7 44#7) ∧
    decode 0x6086813D#32 = .ok (.vfsub true true 33#7 80#7 19#7) ∧
    decode 0x61353652#32 = .ok (.vfmul false false 77#7 38#7 101#7) ∧
    decode 0x6017F40B#32 = .ok (.vfdiv true false 5#7 126#7 64#7) := by
  decide +kernel

theorem test_decode_majors_31_to_32 :
    decode 0x63681AC4#32 = .ok (.vfmin false true 90#7 3#7 44#7) ∧
    decode 0x6286813D#32 = .ok (.vfmax true true 33#7 80#7 19#7) ∧
    decode 0x63353652#32 = .ok (.vfma false false 77#7 38#7 101#7) ∧
    decode 0x6217F40B#32 = .ok (.vfms true false 5#7 126#7 64#7) ∧
    decode 0x65681AC4#32 = .ok (.vfceq false true 90#7 3#7 44#7) ∧
    decode 0x6486813D#32 = .ok (.vfclt true true 33#7 80#7 19#7) ∧
    decode 0x65353652#32 = .ok (.vfcle false false 77#7 38#7 101#7) ∧
    decode 0x6417F40B#32 = .ok (.vfcun true false 5#7 126#7 64#7) := by
  decide +kernel

theorem test_decode_majors_33_to_34 :
    decode 0x67681AC4#32 = .ok (.vscale false true 90#7 3#7 44#7) ∧
    decode 0x6686813D#32 = .ok (.vfnma true true 33#7 80#7 19#7) ∧
    decode 0x67353652#32 = .ok (.vfsgn false false 77#7 38#7 101#7) ∧
    decode 0x6817F008#32 = .ok (.vfsqrt true 5#7 126#7) ∧
    decode 0x69681810#32 = .ok (.vfrcp false 90#7 3#7) ∧
    decode 0x68868028#32 = .ok (.vfrsqrt true 33#7 80#7) ∧
    decode 0x69353030#32 = .ok (.vflog2 false 77#7 38#7) ∧
    decode 0x6817F048#32 = .ok (.vfexp2 true 5#7 126#7) ∧
    decode 0x69681850#32 = .ok (.vftanh false 90#7 3#7) ∧
    decode 0x68868068#32 = .ok (.vfabs true 33#7 80#7) ∧
    decode 0x69353070#32 = .ok (.vfneg false 77#7 38#7) ∧
    decode 0x6817F088#32 = .ok (.vabs true 5#7 126#7) ∧
    decode 0x69681890#32 = .ok (.vneg false 90#7 3#7) ∧
    decode 0x688680A8#32 = .ok (.vnot true 33#7 80#7) ∧
    decode 0x693530B0#32 = .ok (.vclz false 77#7 38#7) ∧
    decode 0x6817F0C8#32 = .ok (.vpopc true 5#7 126#7) ∧
    decode 0x696818D0#32 = .ok (.vfcat false 90#7 3#7) ∧
    decode 0x688680E8#32 = .ok (.vmov true 33#7 80#7) ∧
    decode 0x693400F0#32 = .ok (.vid false 77#7) := by
  decide +kernel

theorem test_decode_majors_35_to_37 :
    decode 0x6B18496B#32 = .ok (.vcvt true false .rup 70#7 9#7 .cb8x2) ∧
    decode 0x6D681AC4#32 = .ok (.vslup false 90#7 3#7 44#7) ∧
    decode 0x6C86813D#32 = .ok (.vsldn true 33#7 80#7 19#7) ∧
    decode 0x6D353652#32 = .ok (.vrgath false false 77#7 38#7 101#7) ∧
    decode 0x6C17F403#32 = .ok (.vcompr 5#7 126#7 64#7) ∧
    decode 0x6F681AC0#32 = .ok (.vzip false 90#7 3#7 44#7) ∧
    decode 0x6E86813D#32 = .ok (.vunzip true 33#7 80#7 19#7) ∧
    decode 0x6F353002#32 = .ok (.vrev false 77#7 38#7) ∧
    decode 0x6E17F40F#32 = .ok (.vmerge true 5#7 126#7 64#7) := by
  decide +kernel

theorem test_decode_majors_38_to_3A :
    decode 0x716802C4#32 = .ok (.vbcast false true 90#7 44#7) ∧
    decode 0x72868130#32 = .ok (.vmand 33#7 80#7 19#7) ∧
    decode 0x73353651#32 = .ok (.vmor 77#7 38#7 101#7) ∧
    decode 0x7217F402#32 = .ok (.vmxor 5#7 126#7 64#7) ∧
    decode 0x73681803#32 = .ok (.vmnot 90#7 3#7) ∧
    decode 0x74868008#32 = .ok (.vmcount true 33#7 80#7) ∧
    decode 0x75353001#32 = .ok (.vmlow false 77#7 38#7) := by
  decide +kernel

theorem test_decode_majors_40 :
    decode 0x8017F008#32 = .ok (.vredsum true 5#7 126#7) ∧
    decode 0x81681801#32 = .ok (.vredosum false 90#7 3#7) ∧
    decode 0x8086800A#32 = .ok (.vredmax true 33#7 80#7) ∧
    decode 0x81353003#32 = .ok (.vredmin false 77#7 38#7) ∧
    decode 0x8017F00C#32 = .ok (.vredmaxi true 5#7 126#7) ∧
    decode 0x81681805#32 = .ok (.vredmini false 90#7 3#7) := by
  decide +kernel

theorem test_decode_majors_41_to_46 :
    decode 0x82868008#32 = .ok (.vdraw true 33#7 80#7) ∧
    decode 0x83353001#32 = .ok (.vdrawt false 77#7 38#7) ∧
    decode 0x8217F40A#32 = .ok (.vdrawp true 5#7 126#7 64#7) ∧
    decode 0x83681AC3#32 = .ok (.xdmerge 90#7 3#7 44#7) ∧
    decode 0x8284000C#32 = .ok (.vrand true 33#7) ∧
    decode 0x8D353000#32 = .ok (.vld false false 77#7 38#7) ∧
    decode 0x8C17F409#32 = .ok (.vlds true false 5#7 126#7 64#7) ∧
    decode 0x8D681AC6#32 = .ok (.vldx false true 90#7 3#7 44#7) ∧
    decode 0x8C061077#32 = .ok (.vlseg false true 1#7 66#7 7#3) := by
  decide +kernel

theorem test_decode_majors_47_to_48 :
    decode 0x8F353000#32 = .ok (.vst false false 77#7 38#7) ∧
    decode 0x8E17F409#32 = .ok (.vsts true false 5#7 126#7 64#7) ∧
    decode 0x8F681AC6#32 = .ok (.vstx false true 90#7 3#7 44#7) ∧
    decode 0x8E06101B#32 = .ok (.vsseg true false 1#7 66#7 1#3) ∧
    decode 0x91353650#32 = .ok (.vsetrun 77#7 38#7 101#7) ∧
    decode 0x9017F401#32 = .ok (.smap 5#7 126#7 64#7) ∧
    decode 0x90001802#32 = .ok (.sunmap 3#7) ∧
    decode 0x90028003#32 = .ok (.sflush 80#7) := by
  decide +kernel

theorem test_decode_majors_50 :
    decode 0xA1353000#32 = .ok (.mattach 77#7 38#7) ∧
    decode 0xA003F002#32 = .ok (.mshape 126#7) ∧
    decode 0xA0080003#32 = .ok (.mzero 0x2#2) ∧
    decode 0xA0841934#32 = .ok (.mread 33#7 0x3#2 19#7) ∧
    decode 0xA0053655#32 = .ok (.mwrite 0x1#2 38#7 101#7) ∧
    decode 0xA003F006#32 = .ok (.msprog 126#7) ∧
    decode 0xA00C1AC7#32 = .ok (.msmod 0x3#2 3#7 44#7) ∧
    decode 0xA0000001#32 = .ok (.mdetach) := by
  decide +kernel

theorem test_decode_majors_51_to_58 :
    decode 0xA20C2072#32 = .ok (.mmaf false false true 3#2 4#7 7#7) ∧
    decode 0xA204286D#32 = .ok (.mmao true true false 1#2 5#7 6#7) ∧
    decode 0xB06FF400#32 = .ok (.fsetl 0x3#2 0x6#3 126#7 64#7) ∧
    decode 0xB0041AC1#32 = .ok (.fgo 0x1#2 3#7 44#7) ∧
    decode 0xB0841132#32 = .ok (.fgov 33#7 0x2#2 19#7) ∧
    decode 0xB00D3653#32 = .ok (.fnotify 0x3#2 38#7 101#7) ∧
    decode 0xB0040004#32 = .ok (.fdrain 0x1#2) ∧
    decode 0xB0080005#32 = .ok (.fcancel 0x2#2) ∧
    decode 0xB00C0006#32 = .ok (.fresume 0x3#2) ∧
    decode 0xB1340807#32 = .ok (.fstat 77#7 0x1#2) := by
  decide +kernel

theorem test_decode_majors_5C :
    decode 0xB817F400#32 = .ok (.amoadd 5#7 126#7 64#7) ∧
    decode 0xB9681AC1#32 = .ok (.amoand 90#7 3#7 44#7) ∧
    decode 0xB8868132#32 = .ok (.amoor 33#7 80#7 19#7) ∧
    decode 0xB9353653#32 = .ok (.amoxor 77#7 38#7 101#7) ∧
    decode 0xB817F404#32 = .ok (.amomin 5#7 126#7 64#7) ∧
    decode 0xB9681AC5#32 = .ok (.amomax 90#7 3#7 44#7) ∧
    decode 0xB8868136#32 = .ok (.amominn 33#7 80#7 19#7) ∧
    decode 0xB9353657#32 = .ok (.amomaxn 77#7 38#7 101#7) ∧
    decode 0xB817F408#32 = .ok (.amoswp 5#7 126#7 64#7) ∧
    decode 0xB9681AC9#32 = .ok (.amocas 90#7 3#7 44#7) ∧
    decode 0xB886813A#32 = .ok (.amofadd 33#7 80#7 19#7) := by
  decide +kernel

theorem test_decode_majors_5D :
    decode 0xBB353650#32 = .ok (.amoaddAr 77#7 38#7 101#7) ∧
    decode 0xBA17F401#32 = .ok (.amoandAr 5#7 126#7 64#7) ∧
    decode 0xBB681AC2#32 = .ok (.amoorAr 90#7 3#7 44#7) ∧
    decode 0xBA868133#32 = .ok (.amoxorAr 33#7 80#7 19#7) ∧
    decode 0xBB353654#32 = .ok (.amominAr 77#7 38#7 101#7) ∧
    decode 0xBA17F405#32 = .ok (.amomaxAr 5#7 126#7 64#7) ∧
    decode 0xBB681AC6#32 = .ok (.amominnAr 90#7 3#7 44#7) ∧
    decode 0xBA868137#32 = .ok (.amomaxnAr 33#7 80#7 19#7) ∧
    decode 0xBB353658#32 = .ok (.amoswpAr 77#7 38#7 101#7) ∧
    decode 0xBA17F409#32 = .ok (.amocasAr 5#7 126#7 64#7) ∧
    decode 0xBB681ACA#32 = .ok (.amofaddAr 90#7 3#7 44#7) := by
  decide +kernel

theorem test_decode_majors_5E_to_61 :
    decode 0xBC8683FE#32 = .ok (.ldacq 33#7 80#7 0x3FE#11) ∧
    decode 0xBF3535A3#32 = .ok (.strel 77#7 38#7 0x5A3#11) ∧
    decode 0xC00004B0#32 = .ok (.fence .hart 6#4 9#4) ∧
    decode 0xC2001AC0#32 = .ok (.binit 3#7 44#7) ∧
    decode 0xC2868001#32 = .ok (.barr 33#7 80#7) ∧
    decode 0xC2013652#32 = .ok (.bwait 38#7 101#7) ∧
    decode 0xC217F003#32 = .ok (.barw 5#7 126#7) ∧
    decode 0xC3681AC4#32 = .ok (.bwaitd 90#7 3#7 44#7) ∧
    decode 0xC21C4005#32 = .ok (.bgenBar 7#7 8#7) := by
  decide +kernel

theorem test_decode_majors_62_to_64 :
    decode 0xC5353650#32 = .ok (.waddr 77#7 38#7 101#7) ∧
    decode 0xC4141001#32 = .ok (.tread 5#7 0x2#4) ∧
    decode 0xC5683AC2#32 = .ok (.twait 90#7 0x7#4 44#7) ∧
    decode 0xC8068130#32 = .ok (.nbind 0x1#1 80#7 19#7) ∧
    decode 0xC8040651#32 = .ok (.nunbind 0x1#1 101#7) ∧
    decode 0xC807F002#32 = .ok (.ncmd 0x1#1 126#7) ∧
    decode 0xC8040003#32 = .ok (.nfence 0x1#1) ∧
    decode 0xC8840804#32 = .ok (.nstat 33#7 0x1#1) := by
  decide +kernel

theorem test_decode_majors_68_to_6C :
    decode 0xD0053000#32 = .ok (.kgrp 0x1#1 38#7) ∧
    decode 0xD007F001#32 = .ok (.kred 0x1#1 126#7) ∧
    decode 0xD0041802#32 = .ok (.kgat 0x1#1 3#7) ∧
    decode 0xD0068003#32 = .ok (.kcast 0x1#1 80#7) ∧
    decode 0xD0053004#32 = .ok (.kdraw 0x1#1 38#7) ∧
    decode 0xD803F800#32 = .ok (.trap 127#7) ∧
    decode 0xD8001AC3#32 = .ok (.sret 3#7 44#7) ∧
    decode 0xD8028134#32 = .ok (.ctxsave 80#7 19#7) ∧
    decode 0xD8013655#32 = .ok (.ctxload 38#7 101#7) ∧
    decode 0xD803F406#32 = .ok (.tlbinv 126#7 64#7) ∧
    decode 0xD9681AC7#32 = .ok (.wqpost 90#7 3#7 44#7) ∧
    decode 0xD8868138#32 = .ok (.wqstat 33#7 80#7 19#7) ∧
    decode 0xD8013659#32 = .ok (.fwset 38#7 101#7) ∧
    decode 0xD8000001#32 = .ok (.tret) ∧
    decode 0xD8000002#32 = .ok (.tdecl) := by
  decide +kernel

theorem test_decode_majors_6D :
    decode 0xDA17F400#32 = .ok (.pgrant 5#7 126#7 64#7) ∧
    decode 0xDB681AC1#32 = .ok (.prevoke 90#7 3#7 44#7) ∧
    decode 0xDA868132#32 = .ok (.pdeleg 33#7 80#7 19#7) ∧
    decode 0xDB353653#32 = .ok (.pquery 77#7 38#7 101#7) := by
  decide +kernel

end Sys2Proof.Tests
end

section
/-! The proof of `StepKeepsTheMemories`: what each operation of the model, from a write of a byte to the step, leaves canonical. -/

namespace Sys2Proof.Machine

/-! ### What it means that an operation keeps the memories canonical -/

/-- The state that an answer carries, where it carries one, has its memories canonical. -/
def OkWf {ε α : Type} (r : Except ε (α × State)) : Prop := ∀ (a : α) (t : State), r = .ok (a, t) → t.memoriesWf

/-- A computation that can stop early (an `Act` or an `Eng`) leaves the memories canonical where it ends. -/
def Keeps {ε α : Type} (a : StateT State (Except ε) α) : Prop := ∀ s : State, s.memoriesWf → OkWf (a s)

/-- The next state of an outcome, where there is one, has its memories canonical. -/
def Out.Wf (o : Out) : Prop := ∀ t : State, o = .next t → t.memoriesWf

/-- The state that a change of rights answers with has its memories canonical. -/
def Did.Wf : Did → Prop
  | .status _ s => s.memoriesWf
  | .wait s => s.memoriesWf

section Rules
variable {ε α β : Type}

protected theorem OkWf.ok {a : α} {s : State} (h : s.memoriesWf) : OkWf (.ok (a, s) : Except ε (α × State)) := by
  rintro _ _ ⟨⟩
  exact h

protected theorem OkWf.error {e : ε} : OkWf (.error e : Except ε (α × State)) := fun _ _ e => by cases e

protected theorem Keeps.pure {a : α} : Keeps (pure a : StateT State (Except ε) α) := fun _ h => .ok h

protected theorem Keeps.bind {x : StateT State (Except ε) α} {f : α → StateT State (Except ε) β} (hx : Keeps x) (hf : ∀ a, Keeps (f a)) :
    Keeps (x >>= f) := by
  intro s h b t e
  simp only [Bind.bind, StateT.bind, Except.bind] at e
  split at e
  · cases e
  · rename_i p ex
    exact hf _ _ (hx s h _ _ ex) b t e

protected theorem Keeps.get_bind {f : State → StateT State (Except ε) β} (hf : ∀ s : State, s.memoriesWf → Keeps (f s)) : Keeps (get >>= f) :=
  fun s h => hf s h s h

protected theorem Keeps.modify {f : State → State} (hf : ∀ s : State, s.memoriesWf → (f s).memoriesWf) :
    Keeps (modify f : StateT State (Except ε) PUnit) := fun s h => .ok (hf s h)

protected theorem Keeps.set {s : State} (h : s.memoriesWf) : Keeps (set s : StateT State (Except ε) PUnit) := fun _ _ => .ok h

protected theorem Keeps.error {e : State → ε} : Keeps (fun s => .error (e s) : StateT State (Except ε) α) := fun _ _ => .error

protected theorem Keeps.throw {e : ε} : Keeps (throw e : StateT State (Except ε) α) := fun _ _ => .error

protected theorem Keeps.run {a : StateT State (Except ε) α} {s t : State} {x : α} (h : s.memoriesWf) (ha : Keeps a)
    (e : a s = .ok (x, t)) : t.memoriesWf := ha s h x t e

protected theorem Keeps.mapM {f : α → StateT State (Except ε) β} (hf : ∀ x, Keeps (f x)) {l : List α} : Keeps (l.mapM f) := by
  induction l with
  | nil => exact List.mapM_nil (f := f) ▸ .pure
  | cons x r ih => exact List.mapM_cons (f := f) ▸ .bind (hf x) fun _ => .bind ih fun _ => .pure

protected theorem Keeps.forM {f : α → StateT State (Except ε) PUnit} (hf : ∀ x, Keeps (f x)) {l : List α} : Keeps (l.forM f) := by
  induction l with
  | nil => exact .pure
  | cons x r ih => exact .bind (hf x) fun _ => ih

end Rules

protected theorem State.memoriesWf.foldl {α : Type} {f : State → α → State} {l : List α} {s : State} (h : s.memoriesWf)
    (hf : ∀ (t : State) (x : α), t.memoriesWf → (f t x).memoriesWf) : (l.foldl f s).memoriesWf :=
  List.foldlRecOn l f h fun t ht x _ => hf t x ht

protected theorem Out.Wf.next {s : State} (h : s.memoriesWf) : Out.Wf (.next s) := by
  rintro _ ⟨⟩
  exact h

protected theorem Out.Wf.fault {f : Fault} : Out.Wf (.fault f) := fun _ e => by cases e

protected theorem Out.Wf.refused {r : Refusal} : Out.Wf (.refused r) := fun _ e => by cases e

protected theorem Did.Wf.status {n : Nat} {s : State} (h : s.memoriesWf) : (Did.status n s).Wf := h

protected theorem Did.Wf.wait {s : State} (h : s.memoriesWf) : (Did.wait s).Wf := h


protected theorem State.memoriesWf.memory {s : State} (h : s.memoriesWf) : Memory.wf s.mem = true := h.1

protected theorem State.memoriesWf.scratch {s : State} (h : s.memoriesWf) : Memory.wf s.t.scratch = true := h.2.1

protected theorem State.memoriesWf.others {s : State} (h : s.memoriesWf) : ∀ u ∈ s.tasks, Memory.wf u.scratch = true := h.2.2

/-- The tasks out of focus may change as long as each scratch stays canonical. -/
protected theorem State.memoriesWf.withTasks {s : State} {l : List Task} (h : s.memoriesWf)
    (hl : ∀ u ∈ l, Memory.wf u.scratch = true) : ({ s with tasks := l } : State).memoriesWf := ⟨h.memory, h.scratch, hl⟩

protected theorem State.memoriesWf.mapOthers {s : State} {f : Task → Task} (h : s.memoriesWf)
    (hf : ∀ u : Task, Memory.wf u.scratch = true → Memory.wf (f u).scratch = true) :
    ({ s with tasks := s.tasks.map f } : State).memoriesWf :=
  h.withTasks (List.forall_mem_map.2 fun u hu => hf u (h.others u hu))

/-- Tasks may be left out. -/
protected theorem State.memoriesWf.filterTasks {s : State} {p : Task → Bool} (h : s.memoriesWf) :
    ({ s with tasks := s.tasks.filter p } : State).memoriesWf := h.withTasks fun u hu => h.others u (List.mem_of_mem_filter hu)

/-- A task with canonical scratch may be added. -/
protected theorem State.memoriesWf.addTask {s : State} {t : Task} (h : s.memoriesWf) (ht : Memory.wf t.scratch = true) :
    ({ s with tasks := s.tasks ++ [t] } : State).memoriesWf :=
  h.withTasks (List.forall_mem_append.2 ⟨h.others, List.forall_mem_singleton.2 ht⟩)

section Branches
variable {ε α : Type} {c : Prop} [Decidable c]

protected theorem State.memoriesWf.ite {s t : State} (hs : s.memoriesWf) (ht : t.memoriesWf) : (if c then s else t).memoriesWf := by
  split
  · exact hs
  · exact ht

protected theorem OkWf.ite {a b : Except ε (α × State)} (ha : OkWf a) (hb : OkWf b) : OkWf (if c then a else b) := by
  split
  · exact ha
  · exact hb

protected theorem Keeps.ite {a b : StateT State (Except ε) α} (ha : Keeps a) (hb : Keeps b) : Keeps (if c then a else b) := by
  split
  · exact ha
  · exact hb

/-- A step that is taken only where `c` holds, before the rest that both branches share. -/
protected theorem Keeps.join {x : StateT State (Except ε) PUnit} {f : PUnit → StateT State (Except ε) α} (hx : Keeps x)
    (hf : ∀ r, Keeps (f r)) : Keeps (if c then x >>= f else f ⟨⟩) := .ite (.bind hx hf) (hf _)

protected theorem Out.Wf.ite {a b : Out} (ha : Out.Wf a) (hb : Out.Wf b) : Out.Wf (if c then a else b) := by
  split
  · exact ha
  · exact hb

protected theorem Did.Wf.ite {a b : Did} (ha : a.Wf) (hb : b.Wf) : (if c then a else b).Wf := by
  split
  · exact ha
  · exact hb

end Branches

section Operations
variable {s : State} {d a b : Reg} {m sc : Bool} {imm : BitVec 11}

/-! ### The state after reset -/

theorem reset_memoriesWf : State.reset.memoriesWf := ⟨rfl, rfl, List.forall_mem_nil _⟩

/-! ### The operations that the meanings share: registers, bytes, agents, traps and waits -/

protected theorem State.memoriesWf.wx {r : Reg} {v : Word} (h : s.memoriesWf) : (s.wx r v).memoriesWf := h
protected theorem State.memoriesWf.setPc {v : Word} (h : s.memoriesWf) : (s.setPc v).memoriesWf := h
protected theorem State.memoriesWf.advance (h : s.memoriesWf) : s.advance.memoriesWf := h
protected theorem State.memoriesWf.put {r : Reg} {v : Word} (h : s.memoriesWf) : (s.put r v).memoriesWf := h.wx.advance
protected theorem State.memoriesWf.mapHarts {f : Hart → Hart} (h : s.memoriesWf) : (s.mapHarts f).memoriesWf := h

protected theorem State.memoriesWf.mapHart {id : BitVec 3} {f : Hart → Hart} (h : s.memoriesWf) : (s.mapHart id f).memoriesWf :=
  h.mapHarts

protected theorem State.memoriesWf.packed (h : s.memoriesWf) : s.packed.memoriesWf := by
  unfold State.packed
  split
  · exact ⟨h.memory, rfl, List.forall_mem_cons.2 ⟨h.scratch, h.others⟩⟩
  · exact h
  · exact h

protected theorem State.memoriesWf.withCluster {n : Nat} (h : s.memoriesWf) : (s.withCluster n).memoriesWf := by
  unfold State.withCluster
  refine .ite h ?_
  split
  · exact h
  · exact h

protected theorem State.memoriesWf.focusHart {uid : Nat} {hid : BitVec 3} (h : s.memoriesWf) :
    (s.focusHart uid hid).memoriesWf := by
  unfold State.focusHart
  extract_lets p
  have hp : p.memoriesWf := h.packed
  split
  · exact hp
  · rename_i t ht
    split
    · exact hp
    · exact ⟨hp.withCluster.memory, hp.others t (List.mem_of_find?_eq_some ht),
        fun u hu => hp.withCluster.others u (List.mem_of_mem_filter hu)⟩

protected theorem State.memoriesWf.focusService {n : Nat} (h : s.memoriesWf) : (s.focusService n).memoriesWf :=
  h.packed.withCluster

protected theorem State.memoriesWf.mapClusters {f : Cluster → Cluster} (h : s.memoriesWf) : (s.mapClusters f).memoriesWf := h

protected theorem State.memoriesWf.mapCluster {n : Nat} {f : Cluster → Cluster} (h : s.memoriesWf) :
    (s.mapCluster n f).memoriesWf := h.mapClusters

protected theorem State.memoriesWf.mapTasks {f : Task → Task} (h : s.memoriesWf)
    (hf : ∀ u : Task, Memory.wf u.scratch = true → Memory.wf (f u).scratch = true) : (s.mapTasks f).memoriesWf := by
  refine ⟨h.memory, ?_, (h.mapOthers hf).others⟩
  change Memory.wf (if s.who = .user then f s.t else s.t).scratch = true
  split
  · exact hf _ h.scratch
  · exact h.scratch

protected theorem State.memoriesWf.mapTask {uid : Nat} {f : Task → Task} (h : s.memoriesWf)
    (hf : ∀ u : Task, Memory.wf u.scratch = true → Memory.wf (f u).scratch = true) : (s.mapTask uid f).memoriesWf :=
  h.mapTasks fun u hu => by
    split
    · exact hf u hu
    · exact hu

protected theorem State.memoriesWf.mapWholeTask {uid : Nat} {f : Task → Task} (h : s.memoriesWf)
    (hf : ∀ u : Task, Memory.wf u.scratch = true → Memory.wf (f u).scratch = true) : (s.mapWholeTask uid f).memoriesWf := by
  unfold State.mapWholeTask
  split
  · exact ⟨h.memory, hf { s.t with harts := s.h :: s.t.harts } h.scratch, h.others⟩
  · refine h.mapOthers fun u hu => ?_
    split
    · exact hf u hu
    · exact hu

protected theorem State.memoriesWf.mapQueue {n : Nat} {f : Queue → Queue} (h : s.memoriesWf) : (s.mapQueue n f).memoriesWf :=
  h

protected theorem State.memoriesWf.mapLaunch {n k : Nat} {f : Launch → Launch} (h : s.memoriesWf) :
    (s.mapLaunch n k f).memoriesWf := h.mapQueue

protected theorem State.memoriesWf.writeByte {pa : Nat} {v mask : Byte} (h : s.memoriesWf) : (s.writeByte pa v mask).memoriesWf :=
  ⟨writeByte_wf pa v mask h.memory, h.scratch, h.others⟩

protected theorem State.memoriesWf.writeCells {pa : Nat} {l : List (Byte × Byte)} (h : s.memoriesWf) :
    (s.writeCells pa l).memoriesWf := by
  induction l generalizing s pa with
  | nil => exact h
  | cons x r ih => exact ih h.writeByte

protected theorem State.memoriesWf.recall {line : Nat} {drop : Bool} (h : s.memoriesWf) : (s.recall line drop).memoriesWf := by
  unfold State.recall
  refine .mapTasks ?_ fun _ h' => h'
  split
  · exact h.writeCells
  · exact h

protected theorem State.memoriesWf.lookAt {line : Nat} (h : s.memoriesWf) : (s.lookAt line).memoriesWf := .ite h h.recall

protected theorem State.memoriesWf.lookAll {l : List Nat} (h : s.memoriesWf) : (s.lookAll l).memoriesWf := by
  induction l generalizing s with
  | nil => exact h
  | cons x r ih => exact ih h.lookAt

protected theorem State.memoriesWf.commitCells {pa : Nat} {cells : List (Byte × Byte)} (h : s.memoriesWf) :
    (s.commitCells pa cells).memoriesWf := h.recall.writeCells

protected theorem State.memoriesWf.commitBytes {pa : Nat} {l : List Byte} (h : s.memoriesWf) : (s.commitBytes pa l).memoriesWf := by
  induction l generalizing s pa with
  | nil => exact h
  | cons x r ih => exact ih h.commitCells

protected theorem State.memoriesWf.markEntries {bits : Byte} {l : List Nat} (h : s.memoriesWf) :
    (s.markEntries bits l).memoriesWf := by
  induction l generalizing s with
  | nil => exact h
  | cons x r ih =>
    unfold State.markEntries
    exact ih (.ite h h.commitCells)

protected theorem State.memoriesWf.enqueue {lvl : Level} {r : TrapRec} {t : State}
    (h : s.memoriesWf) (e : s.enqueue lvl r = some t) : t.memoriesWf := by
  unfold State.enqueue at e
  split at e
  · split at e <;> cases e
    exact h
  · cases e
    exact h
  · split at e <;> cases e
    exact h

protected theorem State.memoriesWf.stopAgent {run : HartRun} (h : s.memoriesWf) : (s.stopAgent run).memoriesWf := by
  unfold State.stopAgent
  split
  · split
    · exact h
    · exact h
  · exact h

protected theorem State.memoriesWf.escalate {lvl : Level} {r : TrapRec} (h : s.memoriesWf) : (s.escalate lvl r).memoriesWf := by
  unfold State.escalate
  split
  · exact (h.enqueue ‹_›).stopAgent
  · exact h.stopAgent

protected theorem State.memoriesWf.walked {reads seen : List Nat} (h : s.memoriesWf) : (s.walked reads seen).memoriesWf :=
  h.lookAll.markEntries

protected theorem State.memoriesWf.takeTrap {tr : Trap} {async : Bool} (h : s.memoriesWf) : (takeTrap tr async s).memoriesWf := by
  unfold takeTrap
  refine .ite h.walked ?_
  split
  · exact h.walked.escalate
  · exact h.walked.escalate
  · exact h.walked

protected theorem Keeps.trapAct {α : Type} {c : Cause} {val val2 : Word} : Keeps (trapAct c val val2 : Act α) := .error
protected theorem Keeps.raiseAct {α : Type} {tr : Trap} : Keeps (raiseAct tr : Act α) := .error
protected theorem Keeps.waitAct {α : Type} {k : WaitKind} : Keeps (waitAct k : Act α) := .error
protected theorem Keeps.requireAct {b : Bool} {tr : Trap} : Keeps (requireAct b tr) := .ite .pure .raiseAct

protected theorem State.memoriesWf.enterWait {k : WaitKind} (h : s.memoriesWf) : (s.enterWait k).memoriesWf := by
  unfold State.enterWait
  split
  · exact .ite h h
  · exact h

protected theorem State.memoriesWf.finish {a : Act Unit} (h : s.memoriesWf) (ha : Keeps a) : Out.Wf (finish a s) := by
  unfold finish
  split
  · exact .next (Keeps.run h ha ‹_›)
  · exact .next h.takeTrap
  · exact .next h.enterWait
  · exact .fault

protected theorem Keeps.requireLevel {l : Level} {w : Word} : Keeps (requireLevel l w) := .get_bind fun _ _ => .requireAct

/-! ### Addresses and memory: the three stages of translation -/

protected theorem State.memoriesWf.zeroRange {lo hi : Nat} (h : s.memoriesWf) : (s.zeroRange lo hi).memoriesWf :=
  ⟨zeroRange_wf lo hi h.memory, h.scratch, h.others⟩

protected theorem State.memoriesWf.aliasFill {n : Nat} {x : FormatWindow} {m : Nat} (h : s.memoriesWf) :
    (State.aliasFill n s x m).memoriesWf := by
  induction n generalizing s x m with
  | zero => exact h
  | succ n ih =>
    have hl := h.foldl (f := fun s v => State.aliasFill n s v.1 v.2) (l := s.innerLines x m) fun _ _ h => ih h
    unfold State.aliasFill
    dsimp only
    split
    · exact h
    · split
      · exact hl
      · exact hl

protected theorem State.memoriesWf.aliasRead {w : FormatWindow} {pp n : Nat} {bs : List Byte} {t : State}
    (h : s.memoriesWf) (e : s.aliasRead w pp n = some (bs, t)) : t.memoriesWf := by
  obtain ⟨_, -, e⟩ := Option.map_eq_some_iff.1 e
  cases e
  exact h.aliasFill.lookAll

protected theorem State.memoriesWf.tlbFill {x : Xlat} (h : s.memoriesWf) : (s.tlbFill x).memoriesWf := by
  unfold State.tlbFill
  split
  · exact h
  · exact .ite h h

protected theorem State.memoriesWf.tlbDrop {p : TlbEntry → Bool} (h : s.memoriesWf) : (s.tlbDrop p).memoriesWf := h

protected theorem State.memoriesWf.setMarks {writes : Bool} {x : Xlat} (h : s.memoriesWf) : (s.setMarks writes x).memoriesWf :=
  h.walked.markEntries.tlbFill

protected theorem State.memoriesWf.commitEntry {e : SbEntry} (h : s.memoriesWf) : (s.commitEntry e).memoriesWf :=
  h.commitCells

protected theorem State.memoriesWf.commitAll {l : List SbEntry} (h : s.memoriesWf) : (s.commitAll l).memoriesWf := by
  induction l generalizing s with
  | nil => exact h
  | cons x r ih => exact ih h.commitEntry

protected theorem State.memoriesWf.drain (h : s.memoriesWf) : s.drain.memoriesWf := h.commitAll
protected theorem State.memoriesWf.acquire (h : s.memoriesWf) : s.acquire.memoriesWf := h.commitAll

protected theorem State.memoriesWf.drainWhere {p : SbEntry → Bool} (h : s.memoriesWf) : (s.drainWhere p).memoriesWf :=
  h.commitAll

protected theorem State.memoriesWf.drainBytes {pa n : Nat} (h : s.memoriesWf) : (s.drainBytes pa n).memoriesWf :=
  h.drainWhere

protected theorem Keeps.afterWalk {α : Type} {x : Xlat} {a : Act α} (ha : Keeps a) : Keeps (afterWalk x a) := by
  intro s h
  unfold afterWalk
  split
  · exact .error
  · exact ha s h

protected theorem Keeps.physLoad {part : Nat} {x : Xlat} {va n : Nat} {val2 : Word} : Keeps (physLoad part x va n val2) := by
  unfold physLoad
  refine fun _ h => ?_
  dsimp only
  split
  · split
    · exact .ok (h.aliasRead ‹_›)
    · exact .error
  · exact .ite .error (.ok h.recall)

protected theorem Keeps.remoteTurn {pa va : Nat} {val2 : Word} : Keeps (remoteTurn pa va val2) := by
  unfold remoteTurn
  refine fun _ h => ?_
  dsimp only
  refine .ite (.ok h) ?_
  split
  · exact .ite (.ok h) .error
  · exact .ok h
  · exact .ok h
  · exact .error

protected theorem Keeps.windowLine {w : Window} {l va : Nat} {val2 : Word} : Keeps (windowLine w l va val2) := by
  unfold windowLine
  refine fun _ h => ?_
  dsimp only
  split
  · exact .ok h
  · split
    · exact .error
    · exact .ok h.setMarks

protected theorem Keeps.withoutBuffer {α : Type} {a : Act α} (ha : Keeps a) : Keeps (withoutBuffer a) := by
  intro s h
  unfold withoutBuffer
  split
  · rename_i x t e
    have ht : t.memoriesWf := ha { s with h := { s.h with sb := [] } } h x t e
    exact .ok ht
  · exact .error

/-- A line that comes into a stash window is written into scratch byte by byte. -/
protected theorem State.memoriesWf.fillScratch {a : Nat} {bs : List Byte} {p : List Mark} {f : Window → Window} {n : Nat}
    (h : s.memoriesWf) :
    ({ s with t := { s.t.mapWindow n f with scratch := cellsSet s.t.scratch a bs, scrPoison := p } } : State).memoriesWf :=
  ⟨h.memory, cellsWf_cellsSet bs _ a h.scratch, h.others⟩

protected theorem Keeps.fillLine {w : Window} {l va : Nat} {val2 : Word} : Keeps (fillLine w l va val2) := by
  unfold fillLine
  refine .bind .windowLine fun _ => .get_bind fun _ _ => ?_
  split
  · exact .pure
  · exact .bind (.modify fun _ h => h.drainBytes) fun _ => .bind (.withoutBuffer .physLoad) fun _ =>
      .bind (.modify fun _ h => .fillScratch h) fun _ => .pure

protected theorem State.memoriesWf.dirtyWindow {w : Window} {l : Nat} (h : s.memoriesWf) : (s.dirtyWindow w l).memoriesWf := by
  unfold State.dirtyWindow
  extract_lets s1 s2
  have h1 : s1.memoriesWf := by
    dsimp only [s1]
    split
    · exact h.setMarks
    · exact h
  have h2 : s2.memoriesWf := by
    dsimp only [s2]
    split
    · split
      · split
        · exact h1.writeCells.mapOthers fun _ hu => hu
        · exact h1.mapOthers fun _ hu => hu
      · exact h1
    · exact h1
  exact h2

protected theorem Keeps.touchScratch {off n va : Nat} {store : Bool} {val2 : Word} : Keeps (touchScratch off n va store val2) := by
  unfold touchScratch
  refine .get_bind fun _ _ => .bind .requireAct fun _ => ?_
  split
  · exact .pure
  · refine .bind .fillLine fun _ => .ite (.get_bind fun _ _ => .bind .requireAct fun _ => .modify fun _ h => ?_) .pure
    split
    · exact h.dirtyWindow
    · exact h

protected theorem State.memoriesWf.storeScratch {off : Nat} {cells : List (Byte × Byte)} (h : s.memoriesWf) :
    (s.storeScratch off cells).memoriesWf :=
  ⟨h.memory, storeScratch_wf off cells h.scratch, h.others⟩

protected theorem Keeps.loadAt {va n : Nat} {k : Acc} {val2 : Word} : Keeps (loadAt va n k val2) := by
  unfold loadAt
  refine .get_bind fun _ _ => ?_
  split
  · exact .bind .touchScratch fun _ => .get_bind fun _ _ => .bind .requireAct fun _ => .pure
  · split
    · exact .raiseAct
    · refine .ite .error (.bind .remoteTurn fun _ => .bind (.modify fun _ h => h.setMarks) fun _ => ?_)
      exact .join (.modify fun _ h => h.drainWhere) fun _ => .physLoad

protected theorem OkWf.keepMarks {α : Type} {va : Nat} {r : Except Stop (α × State)} (hr : OkWf r) : OkWf (s.keepMarks va r) := by
  unfold State.keepMarks
  split
  · exact .error
  · exact hr

protected theorem Keeps.withWords {α : Type} {sz : Nat} {k : List Byte → Act α} {n m : Nat} {l : List Byte}
    (hk : ∀ x : List Byte, Keeps (k x)) : Keeps (withWords sz k n m l) := by
  induction n generalizing m l with
  | zero => exact hk l
  | succ n ih =>
    intro s h
    unfold withWords
    split
    · exact .error
    · exact .keepMarks (ih _ (Keeps.run h .loadAt ‹_›))

protected theorem Keeps.withBlock {α : Type} {va : Word} {n : Nat} {k : List Byte → Act α} (hk : ∀ x : List Byte, Keeps (k x)) :
    Keeps (withBlock va n k) := .withWords fun _ => hk _

protected theorem Keeps.storeCellsAt {va : Nat} {cells : List (Byte × Byte)} {val2 : Word} :
    Keeps (storeCellsAt va cells val2) := by
  unfold storeCellsAt
  refine .get_bind fun _ _ => ?_
  split
  · exact .bind .touchScratch fun _ => .modify fun _ h => h.storeScratch
  · split
    · exact .raiseAct
    · refine .ite .error (.bind .requireAct fun _ => .bind (.modify fun _ h => h.setMarks) fun _ => ?_)
      exact .join (.modify fun _ h => h.drainWhere) fun _ => .ite (.modify fun _ h => h.commitCells) (.modify fun _ h => h)

protected theorem Keeps.storeAt {va : Nat} {bs : List Byte} {val2 : Word} : Keeps (storeAt va bs val2) := .storeCellsAt

protected theorem Keeps.amoAt {va n : Nat} {f : List Byte → Option (List Byte)} : Keeps (amoAt va n f) := by
  unfold amoAt
  dsimp only
  refine .get_bind fun _ _ => ?_
  split
  · refine .bind .touchScratch fun _ => .get_bind fun _ h => .bind .requireAct fun _ => ?_
    split
    · exact .pure
    · exact .bind (.set h.storeScratch) fun _ => .pure
  · split
    · exact .raiseAct
    · refine .ite .error ?_
      refine .bind .requireAct fun _ => .bind .remoteTurn fun _ => .bind (.modify fun _ h => h.setMarks) fun _ =>
        .bind (.modify fun _ h => h.drainWhere) fun _ => .bind .physLoad fun _ => ?_
      split
      · exact .pure
      · exact .bind (.modify fun _ h => h.commitBytes) fun _ => .pure

protected theorem State.memoriesWf.taskWrite {part sub asid va : Nat} {bs : List Byte} {t : State}
    (h : s.memoriesWf) (e : s.taskWrite part sub asid va bs = some t) : t.memoriesWf := by
  unfold State.taskWrite at e
  split at e
  · cases e
  · split at e <;> cases e
    exact h.setMarks.commitBytes

protected theorem State.memoriesWf.walkedTo {part sub asid va : Nat} {k : Acc} (h : s.memoriesWf) :
    (s.walkedTo part sub asid va k).memoriesWf := by
  unfold State.walkedTo
  split
  · exact h.walked
  · exact h.walked

protected theorem Keeps.fetchAt {pc : Nat} : Keeps (fetchAt pc) := by
  unfold fetchAt
  refine .get_bind fun _ _ => ?_
  dsimp only
  split
  · exact .raiseAct
  · split
    · exact .raiseAct
    · refine .bind .requireAct fun _ => .bind (.modify fun _ h => h.setMarks) fun _ => ?_
      split
      · refine .bind (fun _ h => ?_) fun _ => .pure
        split
        · rename_i r e
          exact .ok (h.aliasRead e)
        · exact .error
      · exact .bind .requireAct fun _ => .bind (.modify fun _ h => h.lookAt) fun _ => .get_bind fun _ _ => .pure

/-! ### The operand forms: immediates, memory operands, windowed names, pairs -/

protected theorem State.memoriesWf.wpair {r : Reg} {lo hi : Word} (h : s.memoriesWf) : (s.wpair r lo hi).memoriesWf :=
  h.wx.wx

/-! ### The scalar instructions -/

protected theorem State.memoriesWf.bin {f : Word → Word → Word} (h : s.memoriesWf) : Out.Wf (bin f d a b s) := .next h.put

protected theorem State.memoriesWf.binI {f : Word → Word → Word} (h : s.memoriesWf) : Out.Wf (binI f d a imm s) :=
  .next h.put

protected theorem State.memoriesWf.un {f : Word → Word} (h : s.memoriesWf) : Out.Wf (un f d a s) := .next h.put
protected theorem State.memoriesWf.execAdd (h : s.memoriesWf) : Out.Wf (execAdd d a b s) := h.bin
protected theorem State.memoriesWf.execSub (h : s.memoriesWf) : Out.Wf (execSub d a b s) := h.bin
protected theorem State.memoriesWf.execAnd (h : s.memoriesWf) : Out.Wf (execAnd d a b s) := h.bin
protected theorem State.memoriesWf.execOr (h : s.memoriesWf) : Out.Wf (execOr d a b s) := h.bin
protected theorem State.memoriesWf.execXor (h : s.memoriesWf) : Out.Wf (execXor d a b s) := h.bin
protected theorem State.memoriesWf.execSll (h : s.memoriesWf) : Out.Wf (execSll d a b s) := h.bin
protected theorem State.memoriesWf.execSrl (h : s.memoriesWf) : Out.Wf (execSrl d a b s) := h.bin
protected theorem State.memoriesWf.execSra (h : s.memoriesWf) : Out.Wf (execSra d a b s) := h.bin
protected theorem State.memoriesWf.execSlt (h : s.memoriesWf) : Out.Wf (execSlt d a b s) := h.bin
protected theorem State.memoriesWf.execSltn (h : s.memoriesWf) : Out.Wf (execSltn d a b s) := h.bin
protected theorem State.memoriesWf.execMin (h : s.memoriesWf) : Out.Wf (execMin d a b s) := h.bin
protected theorem State.memoriesWf.execMax (h : s.memoriesWf) : Out.Wf (execMax d a b s) := h.bin
protected theorem State.memoriesWf.execMinn (h : s.memoriesWf) : Out.Wf (execMinn d a b s) := h.bin
protected theorem State.memoriesWf.execMaxn (h : s.memoriesWf) : Out.Wf (execMaxn d a b s) := h.bin
protected theorem State.memoriesWf.execAndn (h : s.memoriesWf) : Out.Wf (execAndn d a b s) := h.bin
protected theorem State.memoriesWf.execOrn (h : s.memoriesWf) : Out.Wf (execOrn d a b s) := h.bin
protected theorem State.memoriesWf.execAddi (h : s.memoriesWf) : Out.Wf (execAddi d a imm s) := h.binI
protected theorem State.memoriesWf.execAndi (h : s.memoriesWf) : Out.Wf (execAndi d a imm s) := h.binI
protected theorem State.memoriesWf.execOri (h : s.memoriesWf) : Out.Wf (execOri d a imm s) := h.binI
protected theorem State.memoriesWf.execXori (h : s.memoriesWf) : Out.Wf (execXori d a imm s) := h.binI
protected theorem State.memoriesWf.execSlti (h : s.memoriesWf) : Out.Wf (execSlti d a imm s) := h.binI
protected theorem State.memoriesWf.execSltni (h : s.memoriesWf) : Out.Wf (execSltni d a imm s) := h.binI
protected theorem State.memoriesWf.execSlli {imm : BitVec 6} (h : s.memoriesWf) : Out.Wf (execSlli d a imm s) := h.un
protected theorem State.memoriesWf.execSrli {imm : BitVec 6} (h : s.memoriesWf) : Out.Wf (execSrli d a imm s) := h.un
protected theorem State.memoriesWf.execSrai {imm : BitVec 6} (h : s.memoriesWf) : Out.Wf (execSrai d a imm s) := h.un
protected theorem State.memoriesWf.execMul (h : s.memoriesWf) : Out.Wf (execMul d a b s) := h.bin
protected theorem State.memoriesWf.execMulh (h : s.memoriesWf) : Out.Wf (execMulh d a b s) := h.bin
protected theorem State.memoriesWf.execMulhn (h : s.memoriesWf) : Out.Wf (execMulhn d a b s) := h.bin
protected theorem State.memoriesWf.execDiv (h : s.memoriesWf) : Out.Wf (execDiv d a b s) := h.bin
protected theorem State.memoriesWf.execDivn (h : s.memoriesWf) : Out.Wf (execDivn d a b s) := h.bin
protected theorem State.memoriesWf.execRem (h : s.memoriesWf) : Out.Wf (execRem d a b s) := h.bin
protected theorem State.memoriesWf.execRemn (h : s.memoriesWf) : Out.Wf (execRemn d a b s) := h.bin
protected theorem State.memoriesWf.execClz (h : s.memoriesWf) : Out.Wf (execClz d a s) := h.un
protected theorem State.memoriesWf.execCtz (h : s.memoriesWf) : Out.Wf (execCtz d a s) := h.un
protected theorem State.memoriesWf.execPopc (h : s.memoriesWf) : Out.Wf (execPopc d a s) := h.un
protected theorem State.memoriesWf.execBext (h : s.memoriesWf) : Out.Wf (execBext d a b s) := h.bin
protected theorem State.memoriesWf.execBins (h : s.memoriesWf) : Out.Wf (execBins d a b s) := h.bin
protected theorem State.memoriesWf.execLhi {imm : BitVec 18} (h : s.memoriesWf) : Out.Wf (execLhi d imm s) := .next h.put
protected theorem State.memoriesWf.execLsh {imm : BitVec 18} (h : s.memoriesWf) : Out.Wf (execLsh d imm s) := .next h.put

protected theorem State.memoriesWf.load {n : Nat} {ext : List Byte → Word} {addr : Word} (h : s.memoriesWf) :
    Out.Wf (load n ext d addr s) := h.finish (.bind .requireAct fun _ => .bind .loadAt fun _ => .modify fun _ h => h.put)

protected theorem State.memoriesWf.store {n : Nat} {addr : Word} (h : s.memoriesWf) : Out.Wf (store n d addr s) :=
  h.finish (.bind .requireAct fun _ => .get_bind fun _ _ => .bind .storeAt fun _ => .modify fun _ h => h.advance)

protected theorem State.memoriesWf.execLdd (h : s.memoriesWf) : Out.Wf (execLdd d a imm s) := h.load
protected theorem State.memoriesWf.execLdw (h : s.memoriesWf) : Out.Wf (execLdw d a imm s) := h.load
protected theorem State.memoriesWf.execLdwn (h : s.memoriesWf) : Out.Wf (execLdwn d a imm s) := h.load
protected theorem State.memoriesWf.execLdbn (h : s.memoriesWf) : Out.Wf (execLdbn d a imm s) := h.load
protected theorem State.memoriesWf.execStd (h : s.memoriesWf) : Out.Wf (execStd d a imm s) := h.store
protected theorem State.memoriesWf.execStw (h : s.memoriesWf) : Out.Wf (execStw d a imm s) := h.store
protected theorem State.memoriesWf.execStb (h : s.memoriesWf) : Out.Wf (execStb d a imm s) := h.store
protected theorem State.memoriesWf.execLddX (h : s.memoriesWf) : Out.Wf (execLddX d a b s) := h.load
protected theorem State.memoriesWf.execLdwX (h : s.memoriesWf) : Out.Wf (execLdwX d a b s) := h.load
protected theorem State.memoriesWf.execLdwnX (h : s.memoriesWf) : Out.Wf (execLdwnX d a b s) := h.load
protected theorem State.memoriesWf.execLdh (h : s.memoriesWf) : Out.Wf (execLdh d a b s) := h.load
protected theorem State.memoriesWf.execLdhn (h : s.memoriesWf) : Out.Wf (execLdhn d a b s) := h.load
protected theorem State.memoriesWf.execLdb (h : s.memoriesWf) : Out.Wf (execLdb d a b s) := h.load
protected theorem State.memoriesWf.execLdbnX (h : s.memoriesWf) : Out.Wf (execLdbnX d a b s) := h.load
protected theorem State.memoriesWf.execStdX (h : s.memoriesWf) : Out.Wf (execStdX d a b s) := h.store
protected theorem State.memoriesWf.execStwX (h : s.memoriesWf) : Out.Wf (execStwX d a b s) := h.store
protected theorem State.memoriesWf.execSth (h : s.memoriesWf) : Out.Wf (execSth d a b s) := h.store
protected theorem State.memoriesWf.execStbX (h : s.memoriesWf) : Out.Wf (execStbX d a b s) := h.store

protected theorem State.memoriesWf.branch {c : Bool} (h : s.memoriesWf) : Out.Wf (branch c imm s) :=
  .next (.ite h.setPc h.advance)

protected theorem State.memoriesWf.execBeq (h : s.memoriesWf) : Out.Wf (execBeq d a imm s) := h.branch
protected theorem State.memoriesWf.execBne (h : s.memoriesWf) : Out.Wf (execBne d a imm s) := h.branch
protected theorem State.memoriesWf.execBlt (h : s.memoriesWf) : Out.Wf (execBlt d a imm s) := h.branch
protected theorem State.memoriesWf.execBge (h : s.memoriesWf) : Out.Wf (execBge d a imm s) := h.branch
protected theorem State.memoriesWf.execBltn (h : s.memoriesWf) : Out.Wf (execBltn d a imm s) := h.branch
protected theorem State.memoriesWf.execBgen (h : s.memoriesWf) : Out.Wf (execBgen d a imm s) := h.branch
protected theorem State.memoriesWf.execBsub (h : s.memoriesWf) : Out.Wf (execBsub d a imm s) := h.wx.branch

protected theorem State.memoriesWf.jumpReg {target : Word} {link : Option Reg} (h : s.memoriesWf) :
    Out.Wf (jumpReg target link s) := by
  unfold jumpReg
  refine .ite (.next ?_) (.next h.takeTrap)
  split
  · exact h.wx.setPc
  · exact h.setPc

protected theorem State.memoriesWf.execJmp {imm : BitVec 25} (h : s.memoriesWf) : Out.Wf (execJmp imm s) := .next h.setPc

protected theorem State.memoriesWf.execCall {imm : BitVec 25} (h : s.memoriesWf) : Out.Wf (execCall imm s) :=
  .next h.wx.setPc

protected theorem State.memoriesWf.execJr (h : s.memoriesWf) : Out.Wf (execJr a s) := h.jumpReg
protected theorem State.memoriesWf.execJalr (h : s.memoriesWf) : Out.Wf (execJalr d a s) := h.jumpReg
protected theorem State.memoriesWf.execRet (h : s.memoriesWf) : Out.Wf (execRet s) := h.jumpReg

/-! ### Swatches, chains and names -/

protected theorem State.memoriesWf.alloc {uid sub : Nat} {quota : Option Nat} {data : List Byte} {i : Nat} {t : State}
    (h : s.memoriesWf) (e : s.alloc uid sub quota data = .ok (i, t)) : t.memoriesWf := by
  unfold State.alloc at e
  split at e
  · cases e
  · split at e <;> cases e
    exact h

protected theorem State.memoriesWf.allocTurn {since : Option Nat} {data : List Byte} {i : Nat} {t : State}
    (h : s.memoriesWf) (e : s.allocTurn since data = .ok (i, t)) : t.memoriesWf := by
  unfold State.allocTurn at e
  split at e
  · cases e
  · split at e <;> cases e
    exact h.alloc ‹_›

protected theorem Keeps.allocAct {data : List Byte} : Keeps (allocAct data) := by
  unfold allocAct
  refine fun _ h => ?_
  dsimp only
  split
  · exact .ok (h.allocTurn ‹_›)
  · exact .error

protected theorem State.memoriesWf.settle {i : Nat} (h : s.memoriesWf) : (s.settle i).memoriesWf := .ite h h
protected theorem State.memoriesWf.release {i : Nat} (h : s.memoriesWf) : (s.release i).memoriesWf := .settle h

protected theorem State.memoriesWf.releaseAll {l : List Nat} (h : s.memoriesWf) : (s.releaseAll l).memoriesWf := by
  induction l generalizing s with
  | nil => exact h
  | cons x r ih => exact ih h.release

protected theorem State.memoriesWf.settleAll {l : List (Nat × Entry)} (h : s.memoriesWf) : (s.settleAll l).memoriesWf :=
  h.foldl fun _ _ h => h.settle

protected theorem State.memoriesWf.holdAll {l : List Nat} (h : s.memoriesWf) : (s.holdAll l).memoriesWf := by
  induction l generalizing s with
  | nil => exact h
  | cons x r ih => exact ih h

protected theorem Keeps.holdAct {i name : Nat} : Keeps (holdAct i name) := by
  unfold holdAct
  refine fun _ h => ?_
  dsimp only
  exact .ite .error (.ok h)

protected theorem Keeps.holdSegs {l : List (Seg × Nat)} : Keeps (holdSegs l) := by
  induction l with
  | nil => exact .pure
  | cons x r ih => exact .bind .holdAct fun _ => ih

protected theorem State.memoriesWf.setName {k : Nat} {e : Entry} (h : s.memoriesWf) : (s.setName k e).memoriesWf := h

protected theorem State.memoriesWf.dropVersion {k : Nat} {old : Entry} (h : s.memoriesWf) : (s.dropVersion k old).memoriesWf :=
  .ite h (.ite h.settleAll (.ite h (.ite h (.releaseAll (.ite h h)))))

protected theorem State.memoriesWf.keepVersion {id : Nat} (h : s.memoriesWf) : (s.keepVersion id).memoriesWf := h

protected theorem State.memoriesWf.dropLater {await : List Nat} {k : Nat} {old : Entry} (h : s.memoriesWf) :
    (s.dropLater await k old).memoriesWf := .ite h.dropVersion h

protected theorem State.memoriesWf.dropDue {id : Nat} (h : s.memoriesWf) : (s.dropDue id).memoriesWf :=
  .foldl h fun _ _ h => h.dropVersion

protected theorem State.memoriesWf.retireName {k : Nat} {e : Entry} (h : s.memoriesWf) : (s.retireName k e).memoriesWf :=
  .dropLater (.setName h)

protected theorem State.memoriesWf.withId {e : Entry} (h : s.memoriesWf) : (s.withId e).2.memoriesWf := h

protected theorem Keeps.buildAct {tag : ElemType} {len : Nat} {segs : List Seg} : Keeps (buildAct tag len segs) := by
  unfold buildAct
  refine .bind ?_ fun _ _ h => .ok h
  split
  · exact .bind .allocAct fun _ => .pure
  · exact .pure

protected theorem Keeps.producerRetired {k : Nat} : Keeps (producerRetired k) := .get_bind fun _ _ => .ite .waitAct .pure
protected theorem Keeps.readsRetired : Keeps readsRetired := .get_bind fun _ _ => .ite .pure .waitAct

protected theorem Keeps.retireAct {k : Nat} {e : Entry} : Keeps (retireAct k e) :=
  .bind .producerRetired fun _ => .modify fun _ h => h.retireName

protected theorem State.memoriesWf.emptyName {k : Nat} (h : s.memoriesWf) : (s.emptyName k).memoriesWf := .setName h

protected theorem State.memoriesWf.mapTables {tab : List (Nat × Entry) → List (Nat × Entry)} {f : Nat → Entry → Entry}
    (h : s.memoriesWf) : (s.mapTables tab f).memoriesWf := h

protected theorem State.memoriesWf.mapShows {f : Nat → Entry → Entry} (h : s.memoriesWf) : (s.mapShows f).memoriesWf :=
  h.mapTables

protected theorem State.memoriesWf.updateVersion {id : Nat} {f : Entry → Entry} (h : s.memoriesWf) :
    (s.updateVersion id f).memoriesWf := by
  unfold State.updateVersion
  extract_lets _ s0 s1
  have h0 : s0.memoriesWf := h.holdAll
  have h1 : s1.memoriesWf := h0.mapShows.mapHarts
  clear_value s1
  exact h1

protected theorem State.memoriesWf.showVersion {e : Entry} (h : s.memoriesWf) : (s.showVersion e).memoriesWf :=
  h.updateVersion

protected theorem State.memoriesWf.finishVersion {e : Entry} (h : s.memoriesWf) : (s.finishVersion e).memoriesWf :=
  .ite h.updateVersion h.updateVersion.releaseAll

protected theorem State.memoriesWf.retireOne {i : BitVec 3} {k : Nat} {e old : Entry} (h : s.memoriesWf) :
    (s.retireOne i k e old).memoriesWf := by
  unfold State.retireOne
  extract_lets d s1 _ s2
  have h2 : s2.memoriesWf := h
  exact h2.finishVersion.dropVersion.dropDue

protected theorem State.memoriesWf.retireReads {n : Nat} (h : s.memoriesWf) : (State.retireReads n s).memoriesWf := by
  induction n generalizing s with
  | zero => exact h
  | succ n ih =>
    unfold State.retireReads
    split
    · exact h
    · refine ih ?_
      split
      · exact .retireOne h
      · exact h

protected theorem State.memoriesWf.retireVersion {i : BitVec 3} {k : Nat} {e old : Entry} (h : s.memoriesWf) :
    (s.retireVersion i k e old).memoriesWf := h.retireOne.retireReads

protected theorem State.memoriesWf.undoVersion {k : Nat} {e old : Entry} (h : s.memoriesWf) :
    (s.undoVersion k e old).memoriesWf := by
  unfold State.undoVersion
  extract_lets d s1 s2 s3 _ s4 s5
  have h1 : s1.memoriesWf := h
  have h2 : s2.memoriesWf := h1.updateVersion
  have h3 : s3.memoriesWf := h2.mapTables
  clear_value s3
  have h4 : s4.memoriesWf := h3
  have h5 : (if s4.named old.id then s4 else s4.dropVersion k old).memoriesWf := by
    split
    · exact h4
    · exact h4.dropVersion
  exact h5.releaseAll.dropDue.retireReads

protected theorem Keeps.notSpilled {ks : List Nat} : Keeps (notSpilled ks) := by
  unfold notSpilled
  refine .get_bind fun _ _ => ?_
  split
  · exact .trapAct
  · exact .pure

protected theorem Keeps.notEmpty {ks : List Nat} : Keeps (notEmpty ks) := by
  unfold notEmpty
  refine .get_bind fun _ _ => ?_
  split
  · exact .trapAct
  · exact .pure

protected theorem Keeps.complete {ks : List Nat} : Keeps (complete ks) := .get_bind fun _ _ => .ite .waitAct .pure
protected theorem Keeps.cutCheck {b : Bool} {k : Nat} {t : ElemType} : Keeps (cutCheck b k t) := .requireAct
protected theorem Keeps.within {b : Bool} {k : Nat} {p : Word} : Keeps (within b k p) := .requireAct
protected theorem Keeps.fits {segs bytes : Nat} : Keeps (fits segs bytes) := .requireAct

protected theorem Keeps.elementAct {t : ElemType} {l : List Seg} {i : Nat} : Keeps (elementAct t l i) := by
  unfold elementAct
  refine fun _ h => ?_
  dsimp only
  split
  · exact .ok h
  · exact .error

protected theorem State.memoriesWf.vectorContext {t : State} (h : s.memoriesWf) (e : s.vectorContext = .ok t) : t.memoriesWf := by
  unfold State.vectorContext at e
  split at e
  · split at e <;> cases e
    exact h
  · split at e <;> cases e
    exact h

protected theorem State.memoriesWf.vecFinish {w : Word} {a : Act Unit} (h : s.memoriesWf) (ha : Keeps a) :
    Out.Wf (vecFinish w a s) := by
  unfold vecFinish
  refine .ite ?_ (.next h.takeTrap)
  split
  · exact (h.vectorContext ‹_›).finish ha
  · exact .next h.takeTrap

protected theorem State.memoriesWf.taskFinish {a : Act Unit} (h : s.memoriesWf) (ha : Keeps a) : Out.Wf (taskFinish a s) := by
  unfold taskFinish
  split
  · exact h.finish ha
  · exact h.finish (.bind ha fun _ => .modify fun s1 h1 => ⟨h1.memory, h.scratch, h1.others⟩)

protected theorem State.memoriesWf.regFinish {w : Word} {a : Act Unit} (h : s.memoriesWf) (ha : Keeps a) :
    Out.Wf (regFinish w a s) := .ite (h.vecFinish ha) (h.taskFinish ha)

/-! ### The chain instructions and the chain mailboxes -/

protected theorem Keeps.zeroSegs {n m : Nat} : Keeps (zeroSegs n m) := by
  induction n generalizing m with
  | zero => exact .pure
  | succ n ih =>
    unfold zeroSegs
    exact .ite .pure (.bind .allocAct fun _ => .bind ih fun _ => .pure)

protected theorem State.memoriesWf.execCnew (h : s.memoriesWf) : Out.Wf (execCnew d a s) :=
  h.vecFinish (.get_bind fun _ _ => .bind .notSpilled fun _ => .bind .requireAct fun _ => .bind .zeroSegs fun _ =>
    .bind .buildAct fun _ => .bind .retireAct fun _ => .modify fun _ h => h.advance)

protected theorem State.memoriesWf.execCdrop (h : s.memoriesWf) : Out.Wf (execCdrop d s) := by
  unfold execCdrop
  refine h.vecFinish (.get_bind fun _ _ => .bind .notSpilled fun _ => .ite (.modify fun _ h => h.advance) ?_)
  exact .bind (.modify fun _ h => h.emptyName.dropLater) fun _ => .modify fun _ h => h.advance

protected theorem Keeps.sameSegs {k : Nat} {e : Entry} {f : Entry → Entry} : Keeps (sameSegs k e f) := by
  unfold sameSegs
  refine .bind .holdSegs fun _ => ?_
  split
  · exact .bind .holdAct fun _ _ h => .ok h
  · exact fun _ h => .ok h

protected theorem State.memoriesWf.execCshare (h : s.memoriesWf) : Out.Wf (execCshare d a s) :=
  h.vecFinish (.get_bind fun _ _ => .bind .notSpilled fun _ => .bind .notEmpty fun _ => .bind .complete fun _ =>
    .bind .sameSegs fun _ => .bind .retireAct fun _ => .modify fun _ h => h.advance)

protected theorem State.memoriesWf.execCseam (h : s.memoriesWf) : Out.Wf (execCseam d a b s) :=
  h.vecFinish (.get_bind fun _ _ => .bind .notSpilled fun _ => .bind .notEmpty fun _ => .bind .complete fun _ =>
    .bind .requireAct fun _ => .bind .cutCheck fun _ => .bind .fits fun _ => .bind .holdSegs fun _ =>
    .bind .buildAct fun _ => .bind .retireAct fun _ => .modify fun _ h => h.advance)

protected theorem Keeps.cutVersion {k : Nat} {e : Entry} {b0 b1 len : Nat} : Keeps (cutVersion k e b0 b1 len) :=
  .bind .holdSegs fun _ => .buildAct

protected theorem State.memoriesWf.execChemh (h : s.memoriesWf) : Out.Wf (execChemh d a b s) :=
  h.vecFinish (.get_bind fun _ _ => .bind .notSpilled fun _ => .bind .notEmpty fun _ => .bind .complete fun _ =>
    .bind .cutCheck fun _ => .bind .within fun _ => .bind .cutVersion fun _ => .bind .retireAct fun _ =>
    .modify fun _ h => h.advance)

protected theorem State.memoriesWf.execChemt (h : s.memoriesWf) : Out.Wf (execChemt d a b s) :=
  h.vecFinish (.get_bind fun _ _ => .bind .notSpilled fun _ => .bind .notEmpty fun _ => .bind .complete fun _ =>
    .bind .within fun _ => .bind .cutVersion fun _ => .bind .retireAct fun _ => .modify fun _ h => h.advance)

protected theorem State.memoriesWf.execCsplit (h : s.memoriesWf) : Out.Wf (execCsplit d a b s) := by
  unfold execCsplit
  refine h.vecFinish (.get_bind fun _ _ => .bind .notSpilled fun _ => .bind .notEmpty fun _ => .bind .complete fun _ =>
    .bind .cutCheck fun _ => .bind .within fun _ => .bind .holdSegs fun _ => .bind .holdSegs fun _ =>
    .bind .buildAct fun _ => ?_)
  refine .ite (.bind .retireAct fun _ => .modify fun _ h => h.advance) ?_
  exact .bind .buildAct fun _ => .bind .retireAct fun _ => .bind .retireAct fun _ => .modify fun _ h => h.advance

protected theorem State.memoriesWf.execCslice (h : s.memoriesWf) : Out.Wf (execCslice d a b s) :=
  h.vecFinish (.get_bind fun _ _ => .bind .notSpilled fun _ => .bind .notEmpty fun _ => .bind .complete fun _ =>
    .bind .cutCheck fun _ => .bind .within fun _ => .bind .cutVersion fun _ => .bind .retireAct fun _ =>
    .modify fun _ h => h.advance)

protected theorem State.memoriesWf.moveVersion {k : Nat} {e : Entry} (h : s.memoriesWf) : (s.moveVersion k e).memoriesWf := by
  unfold State.moveVersion
  extract_lets s1
  have h1 : s1.memoriesWf := by
    dsimp only [s1]
    split
    · split
      · exact h.keepVersion
      · exact h.holdAll.keepVersion
    · exact h
  split
  · exact h1
  · exact h1

protected theorem State.memoriesWf.execCmovv (h : s.memoriesWf) : Out.Wf (execCmovv d a s) := by
  unfold execCmovv
  refine h.vecFinish (.get_bind fun _ _ => .bind .notSpilled fun _ => .bind .notEmpty fun _ => ?_)
  refine .ite (.modify fun _ h => h.advance) ?_
  refine .get_bind fun _ _ => .ite (.bind .waitAct fun _ => .modify fun _ h => h.advance) ?_
  exact .bind (.modify fun _ h => h.emptyName.retireName.moveVersion) fun _ => .modify fun _ h => h.advance

protected theorem State.memoriesWf.execCretype {ty : ElemType} (h : s.memoriesWf) : Out.Wf (execCretype d a ty s) := by
  unfold execCretype
  dsimp only
  refine h.vecFinish (.get_bind fun _ _ => .bind .notSpilled fun _ => .bind .notEmpty fun _ => .bind .complete fun _ => ?_)
  split
  · exact .cutCheck
  · exact .bind .sameSegs fun _ => .bind .retireAct fun _ => .modify fun _ h => h.advance

protected theorem Keeps.slotCheck {x : Word} : Keeps (slotCheck x) := .requireAct

protected theorem State.memoriesWf.mailVersion {slot : Nat} {e : Entry} (h : s.memoriesWf) : (s.mailVersion slot e).memoriesWf :=
  .ite h.holdAll (.ite h h)

protected theorem State.memoriesWf.execCpost (h : s.memoriesWf) : Out.Wf (execCpost d b s) := by
  unfold execCpost
  refine h.vecFinish (.get_bind fun _ _ => .bind .notSpilled fun _ => .bind .notEmpty fun _ => .bind .slotCheck fun _ =>
    .bind .complete fun _ => .bind .readsRetired fun _ => ?_)
  exact .ite .waitAct (.bind (.modify fun _ h => h.drain) fun _ => .modify fun _ h => h.emptyName.mailVersion.advance)

protected theorem State.memoriesWf.execCtake (h : s.memoriesWf) : Out.Wf (execCtake d a b s) := by
  unfold execCtake
  refine h.vecFinish (.get_bind fun _ _ => .bind .notSpilled fun _ => .bind .slotCheck fun _ => ?_)
  split
  · refine .ite .waitAct ?_
    exact .bind (.modify fun _ h => h) fun _ => .bind (fun _ h => .ok h) fun _ => .bind .retireAct fun _ =>
      .modify fun _ h => h.acquire.put
  · exact .waitAct

protected theorem State.memoriesWf.execCpostTimeout (h : s.memoriesWf) : Out.Wf (execCpostTimeout s) := by
  unfold execCpostTimeout
  refine .next ?_
  split
  · split
    · exact .ite h.takeTrap h
    · exact h
  · exact h

protected theorem State.memoriesWf.execCtakeTimeout (h : s.memoriesWf) : Out.Wf (execCtakeTimeout s) := by
  unfold execCtakeTimeout
  refine .next ?_
  split
  · split
    · exact .ite h.put h
    · exact h
  · exact h

protected theorem State.memoriesWf.execClen (h : s.memoriesWf) : Out.Wf (execClen d a s) :=
  h.vecFinish (.modify fun _ h => h.put)

protected theorem State.memoriesWf.execCinfo (h : s.memoriesWf) : Out.Wf (execCinfo d a s) :=
  h.vecFinish (.modify fun _ h => h.put)

protected theorem State.memoriesWf.execCpool (h : s.memoriesWf) : Out.Wf (execCpool d s) :=
  h.vecFinish (.modify fun _ h => h.put)

protected theorem State.memoriesWf.execVget (h : s.memoriesWf) : Out.Wf (execVget d a b s) := by
  unfold execVget
  refine h.vecFinish (.get_bind fun _ _ => .bind .notSpilled fun _ => .bind .notEmpty fun _ => ?_)
  refine .ite ?_ (.bind .within fun _ => .ite .waitAct (.bind .elementAct fun _ => .modify fun _ h => h.put))
  refine .bind .waitAct fun _ => .bind .within fun _ => ?_
  exact .ite .waitAct (.bind .elementAct fun _ => .modify fun _ h => h.put)

protected theorem Keeps.copyPlan {l : List (Seg × Bool)} : Keeps (copyPlan l) := by
  induction l with
  | nil => exact .pure
  | cons x r ih =>
    obtain ⟨_, _⟩ := x
    unfold copyPlan
    refine .get_bind fun _ _ => .bind ?_ fun _ => .bind ih fun _ => .pure
    exact .ite (.bind .requireAct fun _ => .bind .allocAct fun _ => .pure) .pure

protected theorem State.memoriesWf.execVput (h : s.memoriesWf) : Out.Wf (execVput d a b s) := by
  unfold execVput
  refine h.vecFinish (.get_bind fun _ _ => .bind .notSpilled fun _ => .bind .notEmpty fun _ => .bind .complete fun _ =>
    .bind .within fun _ => .bind .holdSegs fun _ => ?_)
  extract_lets _ copy
  have hcopy : ∀ r, Keeps (copy r) := fun _ => by
    refine .bind .copyPlan fun _ => .bind ?_ fun _ => .bind (.modify fun _ h => h) fun _ => .bind (fun _ h => .ok h) fun _ =>
      .bind .retireAct fun _ => .modify fun _ h => h.advance
    exact .ite (.bind .allocAct fun _ => .pure) .pure
  split
  · exact .ite (hcopy ()) (.bind .holdAct hcopy)
  · exact hcopy ()

/-! ### How a vector instruction runs -/

protected theorem State.memoriesWf.openDests {t : ElemType} {len : Nat} {l : List Nat} (h : s.memoriesWf) :
    (openDests t len l s).2.memoriesWf := by
  induction l generalizing s with
  | nil => exact h
  | cons k r ih =>
    unfold openDests
    exact ih (.setName (.withId h))

protected theorem State.memoriesWf.vSpecIssue {v : VSpec} (h : s.memoriesWf) : (VSpec.issue v s).memoriesWf := by
  have hs : (s.holdAll (v.capture s).holds).memoriesWf := h.holdAll
  unfold VSpec.issue
  dsimp only
  split
  · exact hs.openDests
  · exact hs

protected theorem Keeps.srcElem {e : Entry} {i : Nat} : Keeps (srcElem e i) := .ite .waitAct .elementAct

protected theorem Keeps.optElem {e : Option Entry} {i : Nat} : Keeps (optElem e i) := by
  unfold optElem
  split
  · exact .srcElem
  · exact .pure

protected theorem Keeps.flightActive {f : Flight} {i : Nat} : Keeps (Flight.active f i) := by
  unfold Flight.active
  split
  · exact .bind .srcElem fun _ => .pure
  · exact .pure

protected theorem Keeps.oldElem {old : Entry} {i : Nat} : Keeps (oldElem old i) := .ite .srcElem .pure

protected theorem Keeps.opElem {f : Flight} {i : Nat} : Keeps (opElem f i) := by
  unfold opElem
  dsimp only
  split
  · refine .bind .optElem fun _ => .bind ?_ fun _ => .pure
    split
    · exact .bind .srcElem fun _ => .pure
    · exact .pure
  · refine .bind .optElem fun _ => .bind ?_ fun _ => ?_
    · split
      · exact .bind .srcElem fun _ => .pure
      · exact .pure
    · exact .ite (.bind .optElem fun _ => .pure) (.get_bind fun _ _ => .pure)
  · exact .pure
  · exact .bind .optElem fun _ => .pure
  · exact .bind .optElem fun _ => .pure
  · split
    · exact .bind .srcElem fun _ => .pure
    · exact .pure
  · split
    · exact .bind .srcElem fun _ => .pure
    · exact .pure
  · exact .bind .optElem fun _ => .pure
  · refine .bind ?_ fun _ => ?_
    · split
      · exact .srcElem
      · exact .pure
    · split
      · exact .bind .optElem fun _ => .pure
      · exact .pure
  · exact .bind .optElem fun _ => .bind .optElem fun _ => .pure
  · exact .bind .optElem fun _ => .pure
  · exact .pure
  · exact .pure

protected theorem Keeps.streamAlloc {k : Nat} {since : Option Nat} : Keeps (streamAlloc k since) := by
  unfold streamAlloc
  refine fun _ h => ?_
  dsimp only
  split
  · exact .error
  · exact .error
  · exact .ok (h.allocTurn ‹_›)

protected theorem Keeps.grow {k : Nat} {since : Option Nat} {need total n : Nat} {x : Entry} :
    Keeps (grow k since need total n x) := by
  induction n generalizing x with
  | zero => exact .pure
  | succ n ih =>
    unfold grow
    refine .ite .pure (.bind ?_ fun _ => .bind .streamAlloc fun _ => ?_)
    · split
      · exact .bind .streamAlloc fun _ => .pure
      · exact .pure
    · split
      · exact .bind (.modify fun _ h => h) fun _ => ih
      · exact ih

protected theorem Keeps.writeElem {k : Nat} {since : Option Nat} {e : Entry} {total j c : Nat} :
    Keeps (writeElem k since e total j c) := .bind .grow fun _ => .bind (.modify fun _ h => h) fun _ => .pure

protected theorem State.memoriesWf.withDest {j : Nat} {e : Entry} (h : s.memoriesWf) : (s.withDest j e).memoriesWf := h
protected theorem Keeps.setDest {j : Nat} {e : Entry} : Keeps (setDest j e) := .modify fun _ h => h.withDest

protected theorem State.memoriesWf.growHeld {k : Nat} {since : Option Nat} {need total n : Nat} {x : Entry} (h : s.memoriesWf) :
    (growHeld k since need total n x s).1.2.memoriesWf := by
  induction n generalizing x s with
  | zero => exact h
  | succ n ih =>
    unfold growHeld
    split
    · exact h
    · extract_lets taken
      have ht : ∀ p, taken = some p → p.2.memoriesWf := by
        unfold taken
        split
        · split
          · rintro _ ⟨⟩
            have h1 := Keeps.run h .streamAlloc ‹_›
            exact h1
          · rintro _ ⟨⟩
        · rintro _ ⟨⟩
          exact h
      clear_value taken
      obtain _ | ⟨e1, s1⟩ := taken
      · exact h
      · have h1 : s1.memoriesWf := ht _ rfl
        dsimp only
        split
        · exact ih (Keeps.run h1 .grow ‹_›)
        · exact h1

protected theorem State.memoriesWf.holdDests {f : Flight} {n : Nat} {l : List (Nat × Entry × Entry)} (h : s.memoriesWf) :
    (holdDests f n l s).memoriesWf := by
  induction l generalizing n s with
  | nil => exact h
  | cons d r ih =>
    unfold holdDests
    extract_lets e p sp need
    have h1 : ((growHeld f.k f.boltSince need (bytesFor e.tag f.vl) 65 e s).1.2.withDest n
        (growHeld f.k f.boltSince need (bytesFor e.tag f.vl) 65 e s).1.1).memoriesWf := h.growHeld.withDest
    dsimp only
    split
    · exact ih h1
    · exact h1

protected theorem State.memoriesWf.stoppedAt {st : Stop} (h : s.memoriesWf) : (s.stoppedAt st).memoriesWf := by
  unfold State.stoppedAt
  extract_lets short
  split
  · split
    · exact h.holdDests
    · exact h
  · exact h

protected theorem Keeps.flightIndex {f : Flight} {k : Nat} : Keeps (Flight.index f k) := by
  unfold Flight.index
  split
  · exact .bind .srcElem fun _ => .pure
  · exact .pure

protected theorem Keeps.vmemAlign {t : ElemType} {a k fld : Nat} {store : Bool} : Keeps (vmemAlign t a k fld store) :=
  .requireAct

protected theorem Keeps.flightIndexActive {f : Flight} {k : Nat} : Keeps (Flight.indexActive f k) :=
  .bind (.mapM fun _ => .flightActive) fun _ => .pure

protected theorem Keeps.pinPage {store : Bool} {va n k fld : Nat} : Keeps (pinPage store va n k fld) := by
  unfold pinPage
  refine .get_bind fun _ h => ?_
  split
  · exact .requireAct
  · exact .pure
  · refine .ite .pure ?_
    split
    · exact .raiseAct
    · exact .set h.walked

protected theorem Keeps.pinFields {f : Flight} {form : VMemForm} {store : Bool} {k : Nat} {idx : Int} {n m : Nat} :
    Keeps (pinFields f form store k idx n m) := by
  induction n generalizing m with
  | zero => exact .pure
  | succ n ih =>
    unfold pinFields
    dsimp only
    split
    · refine .bind .vmemAlign fun _ => ?_
      split
      · exact .bind .pinPage fun _ => .bind .pinPage fun _ => ih
      · exact .bind .pinPage fun _ => ih
    · split
      · exact .bind .pinPage fun _ => .bind .pinPage fun _ => ih
      · exact .bind .pinPage fun _ => ih

protected theorem Keeps.chainPoison {α : Type} {k fld : Nat} {store : Bool} {a : Act α} (ha : Keeps a) :
    Keeps (chainPoison k fld store a) := by
  intro s h
  unfold chainPoison
  split
  · exact .error
  · exact ha s h

protected theorem Keeps.flightMoves {f : Flight} {store : Bool} {k : Nat} : Keeps (Flight.moves f store k) :=
  .chainPoison (.ite (.ite .pure .flightIndexActive) .flightActive)

protected theorem Keeps.flightOffset {f : Flight} {form : VMemForm} {store : Bool} {k : Nat} :
    Keeps (Flight.offset f form store k) := .ite (.chainPoison .flightIndex) .pure

protected theorem Keeps.pinElem {f : Flight} {form : VMemForm} {store : Bool} {k : Nat} : Keeps (pinElem f form store k) := by
  unfold pinElem
  exact .join .requireAct fun _ => .bind .flightMoves fun _ => .ite (.bind .flightOffset fun _ => .pinFields) .pure

protected theorem Keeps.pinFrom {f : Flight} {form : VMemForm} {store : Bool} {n m : Nat} : Keeps (pinFrom f form store n m) := by
  induction n generalizing m with
  | zero => exact .modify fun _ h => h
  | succ n ih =>
    unfold pinFrom
    refine fun _ h => ?_
    dsimp only
    refine .ite (.ok h) ?_
    split
    · exact ih _ (Keeps.run h .pinElem ‹_›)
    · exact .ok h
    · exact .error

protected theorem State.memoriesWf.pinFlight {t : State} (h : s.memoriesWf) (e : s.pinFlight = .ok t) : t.memoriesWf := by
  unfold State.pinFlight at e
  split at e
  · cases e
    exact h
  · extract_lets _ s1 go at e
    have h1 : s1.memoriesWf := h
    have hgo : ∀ form store, go form store = .ok t → t.memoriesWf := by
      intro form store e
      unfold go at e
      split at e
      · cases e
        exact h
      · split at e <;> cases e
        exact Keeps.run h1 .pinFrom ‹_›
    split at e
    · exact hgo _ _ e
    · exact hgo _ _ e
    · cases e
      exact h

protected theorem Keeps.loadBytes {a : Nat} {val2 : Word} {n : Nat} : Keeps (loadBytes a val2 n) := by
  induction n generalizing a with
  | zero => exact .pure
  | succ n ih =>
    intro s h
    unfold loadBytes
    split
    · exact .error
    · exact .keepMarks (Keeps.bind ih (fun _ => .pure) _ (Keeps.run h .loadAt ‹_›))

protected theorem Keeps.memElem {f : Flight} {form : VMemForm} {k fld : Nat} {idx : Int} : Keeps (memElem f form k fld idx) := by
  unfold memElem
  exact .join .vmemAlign fun _ => .ite (.bind .loadBytes fun _ => .ite .pure .pure) (.bind .loadAt fun _ => .pure)

protected theorem Keeps.storeEach {a : Nat} {val2 : Word} {l : List (Byte × Byte)} : Keeps (storeEach a val2 l) := by
  induction l generalizing a with
  | nil => exact .pure
  | cons x r ih => exact .bind .storeCellsAt fun _ => ih

protected theorem Keeps.storeElem {f : Flight} {form : VMemForm} {k fld : Nat} {idx : Int} {c : Nat} :
    Keeps (storeElem f form k fld idx c) := .join .vmemAlign fun _ => .ite .storeEach .storeCellsAt

protected theorem Keeps.loadFields {f : Flight} {form : VMemForm} {k : Nat} {idx : Int} {n : Nat} {l : List (Nat × Entry × Entry)} :
    Keeps (loadFields f form k idx n l) := by
  induction l generalizing n with
  | nil => exact .pure
  | cons x r ih => exact .bind .memElem fun _ => .bind .writeElem fun _ => .bind .setDest fun _ => ih

protected theorem Keeps.keepFields {f : Flight} {k n : Nat} {l : List (Nat × Entry × Entry)} : Keeps (keepFields f k n l) := by
  induction l generalizing n with
  | nil => exact .pure
  | cons x r ih => exact .bind (.chainPoison .oldElem) fun _ => .bind .writeElem fun _ => .bind .setDest fun _ => ih

protected theorem Keeps.storeFields {f : Flight} {form : VMemForm} {k : Nat} {idx : Int} {n : Nat} {l : List Entry} :
    Keeps (storeFields f form k idx n l) := by
  induction l generalizing n with
  | nil => exact .pure
  | cons x r ih => exact .bind (.chainPoison .srcElem) fun _ => .bind .storeElem fun _ => ih

protected theorem Keeps.stepElem {f : Flight} : Keeps (stepElem f) := by
  unfold stepElem
  split
  · refine .ite .pure (.bind .flightMoves fun _ => ?_)
    exact .ite (.bind .flightOffset fun _ => .bind .loadFields fun _ => .pure) (.bind .keepFields fun _ => .pure)
  · exact .bind .flightMoves fun _ => .ite (.bind .flightOffset fun _ => .bind .storeFields fun _ => .pure) .pure
  · refine .bind .optElem fun _ => ?_
    split
    · exact .ite (.bind .optElem fun _ => .bind .writeElem fun _ => .bind .setDest fun _ => .pure) .pure
    · exact .pure
  · split
    · exact .pure
    · refine .bind .flightActive fun _ => .bind ?_ fun _ => .bind .writeElem fun _ => .bind .setDest fun _ => .pure
      exact .ite .opElem (.ite (.bind .optElem fun _ => .pure) (.bind .oldElem fun _ => .pure))

protected theorem State.memoriesWf.afterElem {k : Nat} {fl : Flags} (h : s.memoriesWf) : (s.afterElem k fl).memoriesWf := h

protected theorem State.memoriesWf.runElems {n : Nat} (h : s.memoriesWf) : (runElems n s).1.memoriesWf := by
  induction n generalizing s with
  | zero => exact h
  | succ n ih =>
    unfold runElems
    split
    · exact h
    · split
      · exact h
      · split
        · exact h
        · have hp := h.pinFlight ‹_›
          extract_lets f
          split
          · rename_i fl s' e
            have h1 : s'.memoriesWf := by
              split at e
              · split at e
                · exact Keeps.run hp .raiseAct e
                · exact Keeps.run hp .stepElem e
              · exact Keeps.run hp .stepElem e
            have h2 : (s'.afterElem f.k fl).memoriesWf := h1.afterElem
            dsimp only
            split
            · exact h2
            · exact ih h2
          · exact hp.stoppedAt

protected theorem State.memoriesWf.syncDests {l : List (Nat × Entry × Entry)} {x : Bool} (h : s.memoriesWf) :
    (syncDests l x s).memoriesWf := by
  induction l generalizing s with
  | nil => exact h
  | cons x r ih => exact ih h.showVersion

protected theorem State.memoriesWf.pauseFlight (h : s.memoriesWf) : s.pauseFlight.memoriesWf := by
  unfold State.pauseFlight
  split
  · exact h
  · exact h.syncDests

protected theorem State.memoriesWf.parkFlight (h : s.memoriesWf) : s.parkFlight.memoriesWf := h.pauseFlight

protected theorem State.memoriesWf.retireDests {l : List (Nat × Entry × Entry)} (h : s.memoriesWf) :
    (retireDests l s).memoriesWf := by
  induction l generalizing s with
  | nil => exact h
  | cons x r ih => exact ih h.retireVersion

protected theorem Keeps.closeDests {f : Flight} {l : List (Nat × Entry × Entry)} : Keeps (closeDests f l) := by
  induction l with
  | nil => exact .pure
  | cons d r ih =>
    unfold closeDests
    refine .bind .grow fun _ => ?_
    dsimp only
    split
    · exact .bind (.modify fun _ h => h) fun _ => .bind ih fun _ => .pure
    · exact .bind ih fun _ => .pure

protected theorem Keeps.retireAll : Keeps retireAll := by
  unfold retireAll
  refine .get_bind fun _ _ => ?_
  split
  · exact .pure
  · exact .bind .closeDests fun _ => .modify fun _ h => .advance (.releaseAll (.retireDests h))

protected theorem State.memoriesWf.dropDests {l : List (Nat × Entry × Entry)} (h : s.memoriesWf) : (dropDests l s).memoriesWf := by
  induction l generalizing s with
  | nil => exact h
  | cons x r ih => exact ih h.undoVersion

protected theorem State.memoriesWf.squash (h : s.memoriesWf) : s.squash.memoriesWf := by
  unfold State.squash
  split
  · exact h
  · exact .releaseAll (.dropDests h)

protected theorem Out.Wf.settleRun {r : State × Option Stop} (h : r.1.memoriesWf) : Out.Wf (settleRun r) := by
  unfold settleRun
  split
  · split
    · exact .next (State.memoriesWf.pauseFlight h)
    · split
      · exact .next (State.memoriesWf.pauseFlight h).enterWait
      · split
        · exact .next (Keeps.run h .retireAll ‹_›)
        · exact .next (State.memoriesWf.parkFlight h).takeTrap
        · exact .next (State.memoriesWf.pauseFlight h).enterWait
        · exact .fault
  · split
    · exact .next (State.memoriesWf.squash h).takeTrap
    · exact .next (State.memoriesWf.parkFlight h).takeTrap
  · have h1 := State.memoriesWf.pauseFlight h
    exact .next (State.memoriesWf.enterWait h1)
  · exact .fault

protected theorem State.memoriesWf.runFlight {n : Nat} (h : s.memoriesWf) : Out.Wf (runFlight n s) := by
  unfold runFlight
  split
  · exact .settleRun h
  · rename_i s1 e
    have h1 : s1.memoriesWf := by
      split at e
      · cases e
        exact h
      · exact h.pinFlight e
    split
    · exact .settleRun h1
    · exact .settleRun h1.runElems

protected theorem State.memoriesWf.execVec {v : VSpec} (h : s.memoriesWf) : Out.Wf (execVec v s) := by
  unfold execVec
  refine .ite ?_ (.next h.takeTrap)
  split
  · exact .next h.takeTrap
  · split
    · exact .next ((h.vectorContext ‹_›).takeTrap)
    · exact .next ((h.vectorContext ‹_›).enterWait)
    · exact .fault
    · exact ((h.vectorContext ‹_›).vSpecIssue).runFlight

protected theorem State.memoriesWf.resumeFlight (h : s.memoriesWf) : Out.Wf (resumeFlight s) := State.memoriesWf.runFlight h

protected theorem State.memoriesWf.execBoltWaitTimeout (h : s.memoriesWf) : Out.Wf (execBoltWaitTimeout s) := by
  unfold execBoltWaitTimeout
  refine .next ?_
  split
  · split
    · exact .ite (.takeTrap h) h
    · exact h
  · split
    · exact .ite h.takeTrap h
    · exact h

protected theorem State.memoriesWf.execVectorPieceExecute (h : s.memoriesWf) : Out.Wf (execVectorPieceExecute s) := by
  have hrun : ∀ (n : Nat) (fl : Flight), Out.Wf (runFlight n { s with h := { s.h with flight := some fl } }) := fun _ _ =>
    State.memoriesWf.runFlight h
  unfold execVectorPieceExecute
  split
  · exact .next h
  · split
    case h_10 => exact .next h
    all_goals exact hrun _ _

/-! ### The vector arithmetic instructions, one meaning each -/

protected theorem State.memoriesWf.vec2 {op : VBin} {major : BitVec 7} {code : BitVec 2} (h : s.memoriesWf) :
    Out.Wf (vec2 op major code m sc d a b s) := h.execVec

protected theorem State.memoriesWf.vec1 {op : VUn} {sub : BitVec 7} (h : s.memoriesWf) : Out.Wf (vec1 op sub m d a s) :=
  h.execVec

protected theorem State.memoriesWf.vecP {op : VPerm} {major : BitVec 7} {code : BitVec 2} {bsel : BSel} (h : s.memoriesWf) :
    Out.Wf (vecP op major code m sc bsel d a b s) := h.execVec

protected theorem State.memoriesWf.vecM {op : VMaskOp} {code : BitVec 2} {bsel : BSel} (h : s.memoriesWf) :
    Out.Wf (vecM op code bsel d a b s) := h.execVec

protected theorem State.memoriesWf.execVadd (h : s.memoriesWf) : Out.Wf (execVadd m sc d a b s) := h.vec2
protected theorem State.memoriesWf.execVsub (h : s.memoriesWf) : Out.Wf (execVsub m sc d a b s) := h.vec2
protected theorem State.memoriesWf.execVrsub (h : s.memoriesWf) : Out.Wf (execVrsub m sc d a b s) := h.vec2
protected theorem State.memoriesWf.execVmul (h : s.memoriesWf) : Out.Wf (execVmul m sc d a b s) := h.vec2
protected theorem State.memoriesWf.execVadds (h : s.memoriesWf) : Out.Wf (execVadds m sc d a b s) := h.vec2
protected theorem State.memoriesWf.execVsubs (h : s.memoriesWf) : Out.Wf (execVsubs m sc d a b s) := h.vec2
protected theorem State.memoriesWf.execVmulh (h : s.memoriesWf) : Out.Wf (execVmulh m sc d a b s) := h.vec2
protected theorem State.memoriesWf.execVavg (h : s.memoriesWf) : Out.Wf (execVavg m sc d a b s) := h.vec2
protected theorem State.memoriesWf.execVdiv (h : s.memoriesWf) : Out.Wf (execVdiv m sc d a b s) := h.vec2
protected theorem State.memoriesWf.execVrem (h : s.memoriesWf) : Out.Wf (execVrem m sc d a b s) := h.vec2
protected theorem State.memoriesWf.execVmin (h : s.memoriesWf) : Out.Wf (execVmin m sc d a b s) := h.vec2
protected theorem State.memoriesWf.execVmax (h : s.memoriesWf) : Out.Wf (execVmax m sc d a b s) := h.vec2
protected theorem State.memoriesWf.execVand (h : s.memoriesWf) : Out.Wf (execVand m sc d a b s) := h.vec2
protected theorem State.memoriesWf.execVor (h : s.memoriesWf) : Out.Wf (execVor m sc d a b s) := h.vec2
protected theorem State.memoriesWf.execVxor (h : s.memoriesWf) : Out.Wf (execVxor m sc d a b s) := h.vec2
protected theorem State.memoriesWf.execVandn (h : s.memoriesWf) : Out.Wf (execVandn m sc d a b s) := h.vec2
protected theorem State.memoriesWf.execVsll (h : s.memoriesWf) : Out.Wf (execVsll m sc d a b s) := h.vec2
protected theorem State.memoriesWf.execVsrl (h : s.memoriesWf) : Out.Wf (execVsrl m sc d a b s) := h.vec2
protected theorem State.memoriesWf.execVsra (h : s.memoriesWf) : Out.Wf (execVsra m sc d a b s) := h.vec2
protected theorem State.memoriesWf.execVrot (h : s.memoriesWf) : Out.Wf (execVrot m sc d a b s) := h.vec2
protected theorem State.memoriesWf.execVceq (h : s.memoriesWf) : Out.Wf (execVceq m sc d a b s) := h.vec2
protected theorem State.memoriesWf.execVcne (h : s.memoriesWf) : Out.Wf (execVcne m sc d a b s) := h.vec2
protected theorem State.memoriesWf.execVclt (h : s.memoriesWf) : Out.Wf (execVclt m sc d a b s) := h.vec2
protected theorem State.memoriesWf.execVcle (h : s.memoriesWf) : Out.Wf (execVcle m sc d a b s) := h.vec2
protected theorem State.memoriesWf.execVfadd (h : s.memoriesWf) : Out.Wf (execVfadd m sc d a b s) := h.vec2
protected theorem State.memoriesWf.execVfsub (h : s.memoriesWf) : Out.Wf (execVfsub m sc d a b s) := h.vec2
protected theorem State.memoriesWf.execVfmul (h : s.memoriesWf) : Out.Wf (execVfmul m sc d a b s) := h.vec2
protected theorem State.memoriesWf.execVfdiv (h : s.memoriesWf) : Out.Wf (execVfdiv m sc d a b s) := h.vec2
protected theorem State.memoriesWf.execVfmin (h : s.memoriesWf) : Out.Wf (execVfmin m sc d a b s) := h.vec2
protected theorem State.memoriesWf.execVfmax (h : s.memoriesWf) : Out.Wf (execVfmax m sc d a b s) := h.vec2
protected theorem State.memoriesWf.execVfma (h : s.memoriesWf) : Out.Wf (execVfma m sc d a b s) := h.vec2
protected theorem State.memoriesWf.execVfms (h : s.memoriesWf) : Out.Wf (execVfms m sc d a b s) := h.vec2
protected theorem State.memoriesWf.execVfceq (h : s.memoriesWf) : Out.Wf (execVfceq m sc d a b s) := h.vec2
protected theorem State.memoriesWf.execVfclt (h : s.memoriesWf) : Out.Wf (execVfclt m sc d a b s) := h.vec2
protected theorem State.memoriesWf.execVfcle (h : s.memoriesWf) : Out.Wf (execVfcle m sc d a b s) := h.vec2
protected theorem State.memoriesWf.execVfcun (h : s.memoriesWf) : Out.Wf (execVfcun m sc d a b s) := h.vec2
protected theorem State.memoriesWf.execVscale (h : s.memoriesWf) : Out.Wf (execVscale m sc d a b s) := h.vec2
protected theorem State.memoriesWf.execVfnma (h : s.memoriesWf) : Out.Wf (execVfnma m sc d a b s) := h.vec2
protected theorem State.memoriesWf.execVfsgn (h : s.memoriesWf) : Out.Wf (execVfsgn m sc d a b s) := h.vec2
protected theorem State.memoriesWf.execVfsqrt (h : s.memoriesWf) : Out.Wf (execVfsqrt m d a s) := h.vec1
protected theorem State.memoriesWf.execVfrcp (h : s.memoriesWf) : Out.Wf (execVfrcp m d a s) := h.vec1
protected theorem State.memoriesWf.execVfrsqrt (h : s.memoriesWf) : Out.Wf (execVfrsqrt m d a s) := h.vec1
protected theorem State.memoriesWf.execVflog2 (h : s.memoriesWf) : Out.Wf (execVflog2 m d a s) := h.vec1
protected theorem State.memoriesWf.execVfexp2 (h : s.memoriesWf) : Out.Wf (execVfexp2 m d a s) := h.vec1
protected theorem State.memoriesWf.execVftanh (h : s.memoriesWf) : Out.Wf (execVftanh m d a s) := h.vec1
protected theorem State.memoriesWf.execVfabs (h : s.memoriesWf) : Out.Wf (execVfabs m d a s) := h.vec1
protected theorem State.memoriesWf.execVfneg (h : s.memoriesWf) : Out.Wf (execVfneg m d a s) := h.vec1
protected theorem State.memoriesWf.execVabs (h : s.memoriesWf) : Out.Wf (execVabs m d a s) := h.vec1
protected theorem State.memoriesWf.execVneg (h : s.memoriesWf) : Out.Wf (execVneg m d a s) := h.vec1
protected theorem State.memoriesWf.execVnot (h : s.memoriesWf) : Out.Wf (execVnot m d a s) := h.vec1
protected theorem State.memoriesWf.execVclz (h : s.memoriesWf) : Out.Wf (execVclz m d a s) := h.vec1
protected theorem State.memoriesWf.execVpopc (h : s.memoriesWf) : Out.Wf (execVpopc m d a s) := h.vec1
protected theorem State.memoriesWf.execVfcat (h : s.memoriesWf) : Out.Wf (execVfcat m d a s) := h.vec1
protected theorem State.memoriesWf.execVmov (h : s.memoriesWf) : Out.Wf (execVmov m d a s) := h.vec1
protected theorem State.memoriesWf.execVid (h : s.memoriesWf) : Out.Wf (execVid m d s) := h.vec1

protected theorem State.memoriesWf.execVcvt {m sat : Bool} {rm : Rounding} {ty : ElemType} (h : s.memoriesWf) :
    Out.Wf (execVcvt m sat rm d a ty s) := h.execVec

protected theorem State.memoriesWf.execVslup (h : s.memoriesWf) : Out.Wf (execVslup m d a b s) := h.vecP
protected theorem State.memoriesWf.execVsldn (h : s.memoriesWf) : Out.Wf (execVsldn m d a b s) := h.vecP
protected theorem State.memoriesWf.execVrgath (h : s.memoriesWf) : Out.Wf (execVrgath m sc d a b s) := h.vecP
protected theorem State.memoriesWf.execVcompr (h : s.memoriesWf) : Out.Wf (execVcompr d a b s) := h.vecP
protected theorem State.memoriesWf.execVzip (h : s.memoriesWf) : Out.Wf (execVzip m d a b s) := h.vecP
protected theorem State.memoriesWf.execVunzip (h : s.memoriesWf) : Out.Wf (execVunzip m d a b s) := h.vecP
protected theorem State.memoriesWf.execVrev (h : s.memoriesWf) : Out.Wf (execVrev m d a s) := h.vecP
protected theorem State.memoriesWf.execVmerge (h : s.memoriesWf) : Out.Wf (execVmerge sc d a b s) := h.vecP
protected theorem State.memoriesWf.execVbcast (h : s.memoriesWf) : Out.Wf (execVbcast m sc d b s) := h.execVec
protected theorem State.memoriesWf.execVmand (h : s.memoriesWf) : Out.Wf (execVmand d a b s) := h.vecM
protected theorem State.memoriesWf.execVmor (h : s.memoriesWf) : Out.Wf (execVmor d a b s) := h.vecM
protected theorem State.memoriesWf.execVmxor (h : s.memoriesWf) : Out.Wf (execVmxor d a b s) := h.vecM
protected theorem State.memoriesWf.execVmnot (h : s.memoriesWf) : Out.Wf (execVmnot d a s) := h.vecM
protected theorem State.memoriesWf.execCpack (h : s.memoriesWf) : Out.Wf (execCpack d a s) := h.execVec

/-! ### The reductions and draws -/

protected theorem Keeps.activeElems {f : Flight} {e : Option Entry} {n m : Nat} : Keeps (activeElems f e n m) := by
  induction n generalizing m with
  | zero => exact .pure
  | succ n ih =>
    unfold activeElems
    refine .bind .flightActive fun _ => .bind ?_ fun _ => .bind ih fun _ => .pure
    split
    · exact .bind .optElem fun _ => .pure
    · exact .pure

protected theorem Keeps.foldElems {f : Flight} : Keeps (foldElems f) := by
  unfold foldElems
  refine .get_bind fun _ _ => ?_
  split
  case h_5 => exact .bind .activeElems fun _ => .bind .activeElems fun _ => .pure
  case h_7 => exact .pure
  all_goals exact .bind .activeElems fun _ => .pure

protected theorem State.memoriesWf.runFold (h : s.memoriesWf) : Out.Wf (runFold s) := by
  unfold runFold
  split
  · exact .next h
  · refine .ite (.next h.enterWait) ?_
    split
    · exact .next (.advance (.releaseAll (Keeps.run h .foldElems ‹_›)))
    · exact .next h.squash.takeTrap
    · exact .next h.enterWait
    · exact .fault

protected theorem State.memoriesWf.execFold {v : VSpec} (h : s.memoriesWf) : Out.Wf (execFold v s) := by
  unfold execFold
  refine .ite ?_ (.next h.takeTrap)
  split
  · exact .next h.takeTrap
  · split
    · exact .next ((h.vectorContext ‹_›).takeTrap)
    · exact .next ((h.vectorContext ‹_›).enterWait)
    · exact .fault
    · exact ((h.vectorContext ‹_›).vSpecIssue).runFold

protected theorem State.memoriesWf.continueFlight (h : s.memoriesWf) : Out.Wf (continueFlight s) := by
  unfold continueFlight
  split
  · exact .next h
  · exact .ite h.runFold h.resumeFlight

protected theorem State.memoriesWf.execReductionBegin (h : s.memoriesWf) : Out.Wf (execReductionBegin s) := by
  unfold execReductionBegin
  split
  · exact .next h
  · exact .ite h.runFold (.next h)

protected theorem State.memoriesWf.vecRed {op : VRed} {code : BitVec 3} (h : s.memoriesWf) : Out.Wf (vecRed op code m d a s) :=
  h.execFold

protected theorem State.memoriesWf.execVredsum (h : s.memoriesWf) : Out.Wf (execVredsum m d a s) := h.vecRed
protected theorem State.memoriesWf.execVredosum (h : s.memoriesWf) : Out.Wf (execVredosum m d a s) := h.vecRed
protected theorem State.memoriesWf.execVredmax (h : s.memoriesWf) : Out.Wf (execVredmax m d a s) := h.vecRed
protected theorem State.memoriesWf.execVredmin (h : s.memoriesWf) : Out.Wf (execVredmin m d a s) := h.vecRed
protected theorem State.memoriesWf.execVredmaxi (h : s.memoriesWf) : Out.Wf (execVredmaxi m d a s) := h.vecRed
protected theorem State.memoriesWf.execVredmini (h : s.memoriesWf) : Out.Wf (execVredmini m d a s) := h.vecRed
protected theorem State.memoriesWf.execVdraw (h : s.memoriesWf) : Out.Wf (execVdraw m d a s) := h.execFold
protected theorem State.memoriesWf.execVdrawt (h : s.memoriesWf) : Out.Wf (execVdrawt m d a s) := h.execFold
protected theorem State.memoriesWf.execVdrawp (h : s.memoriesWf) : Out.Wf (execVdrawp m d a b s) := h.execFold
protected theorem State.memoriesWf.execVrand (h : s.memoriesWf) : Out.Wf (execVrand m d s) := h.execVec

protected theorem State.memoriesWf.execXdmerge (h : s.memoriesWf) : Out.Wf (execXdmerge d a b s) :=
  h.regFinish (.modify fun _ h => .advance h)

protected theorem State.memoriesWf.execVmcount (h : s.memoriesWf) : Out.Wf (execVmcount m d a s) := h.execFold
protected theorem State.memoriesWf.execVmlow (h : s.memoriesWf) : Out.Wf (execVmlow m d a s) := h.execFold

/-! ### Vector length, window, repetition and harts -/

protected theorem State.memoriesWf.execVsetl {blk : BlockLen} {ty : ElemType} (h : s.memoriesWf) :
    Out.Wf (execVsetl d a blk ty s) := .next (.put h)

protected theorem State.memoriesWf.execVsetrun (h : s.memoriesWf) : Out.Wf (execVsetrun d a b s) :=
  h.regFinish (.modify fun _ h => .advance (.wpair h))

protected theorem State.memoriesWf.execVwin (h : s.memoriesWf) : Out.Wf (execVwin d a s) := .next (.put h)
protected theorem State.memoriesWf.execNop (h : s.memoriesWf) : Out.Wf (execNop s) := .next h.advance
protected theorem State.memoriesWf.execYield (h : s.memoriesWf) : Out.Wf (execYield s) := .next h.advance

protected theorem State.memoriesWf.onView {f : State → State} (h : s.memoriesWf)
    (hf : ∀ t : State, t.memoriesWf → (f t).memoriesWf) : (s.onView f).memoriesWf := .ite (hf _ h) (hf _ h)

protected theorem State.memoriesWf.execLfork (h : s.memoriesWf) : Out.Wf (execLfork d s) :=
  .ite (.next h.put) (.ite (.next h.enterWait) (.next (.put h.drain)))

protected theorem State.memoriesWf.loseVersion {k : Nat} {win lost : Entry} (h : s.memoriesWf) :
    (s.loseVersion k win lost).memoriesWf := .ite h h.dropVersion

protected theorem State.memoriesWf.mergeView {l : List (Nat × Entry)} (h : s.memoriesWf) : (mergeView l s).memoriesWf := by
  induction l generalizing s with
  | nil => exact h
  | cons x r ih => exact ih h.setName.loseVersion

protected theorem State.memoriesWf.dropView {l : List (Nat × Entry)} (h : s.memoriesWf) : (s.dropView l).memoriesWf :=
  (h.foldl fun _ _ h => h.loseVersion).settleAll

protected theorem State.memoriesWf.dropPubs (h : s.memoriesWf) : s.dropPubs.memoriesWf := .settleAll h

protected theorem State.memoriesWf.takeBack {c : Hart} (h : s.memoriesWf) : (s.takeBack c).memoriesWf :=
  .ite (.dropPubs (.onView h fun _ h' => h'.mergeView.dropView)) (.onView h fun _ h => h.mergeView.dropView)

protected theorem State.memoriesWf.joinAll {n : Nat} (h : s.memoriesWf) : (joinAll n s).1.memoriesWf := by
  induction n generalizing s with
  | zero => exact h
  | succ n ih =>
    unfold joinAll
    split
    · exact h
    · split
      · exact ih h.takeBack
      · exact h

protected theorem State.memoriesWf.execLjoin (h : s.memoriesWf) : Out.Wf (execLjoin a s) := by
  have h1 : (joinAll 8 s).1.memoriesWf := h.joinAll
  unfold execLjoin
  dsimp only
  split
  · generalize joinAll 8 s = p at h1 ⊢
    obtain ⟨s1, done⟩ := p
    dsimp only at h1 ⊢
    refine .ite (.next h1.enterWait) (.ite (.next h1.advance) (.ite (.next h1.enterWait) (.next ?_)))
    exact h1.drain
  · split
    · exact .next h.takeTrap
    · exact .ite (.next h.takeBack.advance) (.next h.enterWait)

protected theorem State.memoriesWf.execRep {count : BitVec 6} {sd sa sb : Bool} {stride : BitVec 3} (h : s.memoriesWf) :
    Out.Wf (execRep count sd sa sb stride s) := by
  unfold execRep
  split
  · exact h.finish .error
  · exact State.memoriesWf.finish (Keeps.run h .fetchAt ‹_›) (.bind .requireAct fun _ => .modify fun _ h => .ite h h)

/-! ### The vector memory instructions -/

protected theorem State.memoriesWf.execVld {m nt : Bool} (h : s.memoriesWf) : Out.Wf (execVld m nt d a s) := h.execVec
protected theorem State.memoriesWf.execVlds {m nt : Bool} (h : s.memoriesWf) : Out.Wf (execVlds m nt d a b s) := h.execVec
protected theorem State.memoriesWf.execVldx {m nt : Bool} (h : s.memoriesWf) : Out.Wf (execVldx m nt d a b s) := h.execVec

protected theorem State.memoriesWf.execVlseg {m nt : Bool} {n : BitVec 3} (h : s.memoriesWf) : Out.Wf (execVlseg m nt d a n s) :=
  h.execVec

protected theorem State.memoriesWf.execVst {m nt : Bool} (h : s.memoriesWf) : Out.Wf (execVst m nt d a s) := h.execVec
protected theorem State.memoriesWf.execVsts {m nt : Bool} (h : s.memoriesWf) : Out.Wf (execVsts m nt d a b s) := h.execVec
protected theorem State.memoriesWf.execVstx {m nt : Bool} (h : s.memoriesWf) : Out.Wf (execVstx m nt d a b s) := h.execVec

protected theorem State.memoriesWf.execVsseg {m nt : Bool} {n : BitVec 3} (h : s.memoriesWf) : Out.Wf (execVsseg m nt d a n s) :=
  h.execVec

protected theorem State.memoriesWf.flushLine {w : Window} {l : Nat} (h : s.memoriesWf) : (s.flushLine w l).memoriesWf := by
  unfold State.flushLine
  split
  · exact h.recall
  · exact h

protected theorem State.memoriesWf.flushWindow {w : Window} (h : s.memoriesWf) : (s.flushWindow w).memoriesWf :=
  h.foldl fun _ _ h => h.flushLine

protected theorem State.memoriesWf.flushAll (h : s.memoriesWf) : s.flushAll.memoriesWf := h.foldl fun _ _ h => h.flushWindow

protected theorem Keeps.pinPages {n m : Nat} : Keeps (pinPages n m) := by
  induction n generalizing m with
  | zero => exact .pure
  | succ n ih =>
    unfold pinPages
    refine .get_bind fun _ _ => ?_
    split
    · exact .raiseAct
    · exact .afterWalk (.bind (.modify fun _ h => h.setMarks) fun _ => .bind ih fun _ => .pure)

protected theorem State.memoriesWf.execSmap (h : s.memoriesWf) : Out.Wf (execSmap d a b s) := by
  unfold execSmap
  refine h.vecFinish (.get_bind fun _ _ => .bind .requireAct fun _ => .bind .requireAct fun _ => ?_)
  split
  · exact .modify fun _ h => h.put
  · exact .bind .pinPages fun _ => .modify fun _ h => .put h

protected theorem Keeps.windowAct {x : Word} : Keeps (windowAct x) := by
  unfold windowAct
  refine .get_bind fun _ _ => ?_
  split
  · exact .pure
  · exact .trapAct

protected theorem State.memoriesWf.execSunmap (h : s.memoriesWf) : Out.Wf (execSunmap a s) :=
  h.vecFinish (.get_bind fun _ _ => .bind .windowAct fun _ => .modify fun _ h => .advance h.flushWindow)

protected theorem State.memoriesWf.execSflush (h : s.memoriesWf) : Out.Wf (execSflush a s) := by
  unfold execSflush
  refine h.vecFinish (.get_bind fun _ _ => ?_)
  exact .ite (.modify fun _ h => h.flushAll.advance) (.bind .windowAct fun _ => .modify fun _ h => h.flushWindow.advance)

protected theorem State.memoriesWf.execStashEviction {win line : Nat} (h : s.memoriesWf) :
    Out.Wf (execStashEviction win line s) := by
  unfold execStashEviction
  refine .next ?_
  split
  · exact h.flushLine
  · exact h

/-! ### The matrix engine -/

protected theorem Keeps.engineVersion {waits : Bool} {tag : ElemType} {len bytes : Nat} :
    Keeps (engineVersion waits tag len bytes) := by
  unfold engineVersion
  refine .get_bind fun _ _ => .bind .requireAct fun _ => .ite (.ite .waitAct .raiseAct) ?_
  refine .bind (.ite (.bind .streamAlloc fun _ => .pure) .pure) fun _ => .bind (.mapM fun _ => .streamAlloc) fun _ => ?_
  extract_lets segs done
  have hdone : ∀ r, Keeps (done r) := fun _ _ h => .ok h
  split
  · exact .bind (.modify fun _ h => h) hdone
  · exact hdone ()

protected theorem Keeps.flumeDest {k : Nat} {e : Entry} : Keeps (flumeDest k e) :=
  .bind .producerRetired fun _ => .modify fun _ h => h.retireName.holdAll

protected theorem Keeps.matrixDest {k : Nat} {e : Entry} : Keeps (matrixDest k e) := fun _ h => .ok h.setName
protected theorem Keeps.setShape {v : Word} : Keeps (setShape v) := .bind .requireAct fun _ => .modify fun _ h => h

protected theorem State.memoriesWf.execMattach (h : s.memoriesWf) : Out.Wf (execMattach d a s) :=
  h.regFinish (.modify fun _ h => .ite h.put (.put h))

protected theorem State.memoriesWf.execMdetach (h : s.memoriesWf) : Out.Wf (execMdetach s) :=
  h.regFinish (.get_bind fun _ _ => .ite (.modify fun _ h => .advance h) .waitAct)

protected theorem State.memoriesWf.execMshape (h : s.memoriesWf) : Out.Wf (execMshape a s) :=
  h.regFinish (.get_bind fun _ _ => .bind .setShape fun _ => .modify fun _ h => h.advance)

protected theorem Keeps.attached {w : Word} : Keeps (attached w) := .get_bind fun _ _ => .join .waitAct fun _ => .requireAct
protected theorem Keeps.enqueueOp {m : MOp} : Keeps (enqueueOp m) := .modify fun _ h => .advance h.holdAll
protected theorem Keeps.refuse {b : Bool} {val : Word} {reason : Nat} : Keeps (refuse b val reason) := .requireAct

protected theorem State.memoriesWf.execMzero {d : BitVec 2} (h : s.memoriesWf) : Out.Wf (execMzero d s) :=
  h.vecFinish (.bind .attached fun _ => .enqueueOp)

protected theorem Keeps.regionCheck {x : Word} : Keeps (regionCheck x) := .get_bind fun _ _ => .requireAct
protected theorem Keeps.regionSize {x : Word} : Keeps (regionSize x) := .requireAct

protected theorem State.memoriesWf.execMread {a : BitVec 2} (h : s.memoriesWf) : Out.Wf (execMread d a b s) :=
  h.vecFinish (.bind .attached fun _ => .get_bind fun _ _ => .bind .notSpilled fun _ => .bind .regionCheck fun _ =>
    .bind .regionSize fun _ => .bind .engineVersion fun _ => .bind .matrixDest fun _ => .enqueueOp)

protected theorem State.memoriesWf.execMwrite {d : BitVec 2} (h : s.memoriesWf) : Out.Wf (execMwrite d a b s) := by
  unfold execMwrite
  refine h.vecFinish (.bind .attached fun _ => .get_bind fun _ _ => .bind .notSpilled fun _ => .bind .notEmpty fun _ => ?_)
  exact .join .waitAct fun _ => .bind .refuse fun _ => .bind .within fun _ => .bind .regionCheck fun _ =>
    .bind .regionSize fun _ => .enqueueOp

protected theorem State.memoriesWf.execMsprog (h : s.memoriesWf) : Out.Wf (execMsprog a s) :=
  h.vecFinish (.bind .attached fun _ => .get_bind fun _ _ => .bind .requireAct fun _ => .withBlock fun _ =>
    .bind .refuse fun _ => .enqueueOp)

protected theorem State.memoriesWf.execMsmod {d : BitVec 2} (h : s.memoriesWf) : Out.Wf (execMsmod d a b s) :=
  h.vecFinish (.bind .attached fun _ => .get_bind fun _ _ => .bind .refuse fun _ => .bind .requireAct fun _ => .enqueueOp)

/-- The scratch that an operand of a matrix operation brings in: the state is canonical, with a trap or without one. -/
def FillWf : Except (Trap × State) State → Prop
  | .ok s => s.memoriesWf
  | .error p => p.2.memoriesWf

protected theorem FillWf.bind {r : Except (Trap × State) State} {f : State → Except (Trap × State) State} (hr : FillWf r)
    (hf : ∀ s : State, s.memoriesWf → FillWf (f s)) : FillWf (r.bind f) := by
  cases r with
  | error p => exact hr
  | ok s => exact hf s hr

protected theorem FillWf.foldlM {α : Type} {f : State → α → Except (Trap × State) State} {l : List α} (h : s.memoriesWf)
    (hf : ∀ (s : State) (x : α), s.memoriesWf → FillWf (f s x)) : FillWf (l.foldlM f s) := by
  induction l generalizing s with
  | nil => exact h
  | cons x r ih => exact .bind (hf s x h) fun _ ht => ih ht

protected theorem FillWf.fillByte {a : Nat} (h : s.memoriesWf) : FillWf (s.fillByte a) := by
  unfold State.fillByte
  split
  · exact h
  · split
    · exact Keeps.run h .fillLine ‹_›
    · exact h
    · exact h

protected theorem FillWf.fillOperand {src : Option MSrc} {t : ElemType} {runs len : Nat} {along : Bool} (h : s.memoriesWf) :
    FillWf (s.fillOperand src t runs len along) := by
  unfold State.fillOperand
  split
  · split
    · exact h
    · exact .foldlM h fun _ _ hs => .foldlM hs fun _ _ ht => .fillByte ht
  · exact h

protected theorem State.memoriesWf.issueMma {ordered z bScr aScr : Bool} {d : BitVec 2} (h : s.memoriesWf) :
    Out.Wf (issueMma ordered z bScr aScr d a b s) := by
  unfold issueMma
  refine h.vecFinish (.bind .attached fun _ => .get_bind fun s h => .bind .notSpilled fun _ => .bind .notEmpty fun _ => ?_)
  extract_lets _ _ _ _ short _ enqueue operands
  have hshort : ∀ u k n, Keeps (short u k n) := fun _ _ _ => .within
  have henqueue : ∀ r, Keeps (enqueue r) := fun _ => .enqueueOp
  refine .join .waitAct fun _ => ?_
  unfold operands
  split
  · exact .refuse
  · refine .bind .refuse fun _ => .bind .refuse fun _ => .bind .refuse fun _ => .bind .refuse fun _ => .bind .refuse fun _ =>
      .bind .refuse fun _ => .bind .refuse fun _ => .bind (hshort _ _ _) fun _ => .bind (hshort _ _ _) fun _ =>
      .bind (hshort _ _ _) fun _ => .bind (hshort _ _ _) fun _ => ?_
    extract_lets bad order
    have horder : ∀ r, Keeps (order r) := fun _ => by
      unfold order
      split
      · exact .bind .trapAct henqueue
      · exact henqueue ()
    split
    · exact .bind .trapAct horder
    · exact horder ()

protected theorem State.memoriesWf.execMmaf {z bScr aScr : Bool} {d : BitVec 2} (h : s.memoriesWf) :
    Out.Wf (execMmaf z bScr aScr d a b s) := h.issueMma

protected theorem State.memoriesWf.execMmao {z bScr aScr : Bool} {d : BitVec 2} (h : s.memoriesWf) :
    Out.Wf (execMmao z bScr aScr d a b s) := h.issueMma

protected theorem State.memoriesWf.mapOp {n : Nat} {f : MOp → MOp} (h : s.memoriesWf) : (s.mapOp n f).memoriesWf := h

protected theorem State.memoriesWf.holdTrap {hart : BitVec 3} {tr : Trap} (h : s.memoriesWf) : (s.holdTrap hart tr).memoriesWf :=
  h.mapHart

protected theorem State.memoriesWf.execMatrixOpExecute {n : Nat} {mm : Mismatch} (h : s.memoriesWf) :
    Out.Wf (execMatrixOpExecute n mm s) := by
  unfold execMatrixOpExecute
  refine .next ?_
  split
  · exact h
  · rename_i o _
    refine .ite h ?_
    extract_lets x bad
    have hr : FillWf ((s.fillOperand o.a x.ea (x.runs true).1 (x.runs true).2.1 true).bind fun s =>
        s.fillOperand o.b x.eb (x.runs false).1 (x.runs false).2.1 (x.runs false).2.2) :=
      .bind (.fillOperand h) fun _ hs => .fillOperand hs
    generalize (s.fillOperand o.a x.ea (x.runs true).1 (x.runs true).2.1 true).bind _ = r at hr ⊢
    split
    · exact State.memoriesWf.holdTrap hr
    · rename_i s1
      have h1 : s1.memoriesWf := hr
      split
      · exact h1.mapOp.holdTrap
      · refine .ite h1.mapOp.holdTrap ?_
        extract_lets _ s2 _ _ s3 s4
        have h2 : s2.memoriesWf := State.memoriesWf.ite h1 h1
        clear_value s2
        have h3 : s3.memoriesWf := h2
        clear_value s3
        have h4 : s4.memoriesWf := by
          unfold s4
          split
          · exact .showVersion h3
          · exact h3
        exact h4.mapOp

protected theorem State.memoriesWf.execMatrixOpComplete {n : Nat} (h : s.memoriesWf) : Out.Wf (execMatrixOpComplete n s) := by
  unfold execMatrixOpComplete
  refine .next ?_
  split
  · exact h
  · extract_lets _ s1 _ s2 s3 s4 en
    have h1 : s1.memoriesWf := .releaseAll h
    have h3 : s3.memoriesWf := by
      unfold s3
      split
      · exact .retireReads h1
      · exact h1
    exact .ite h (.ite h3.mapHart h3.mapHart.holdTrap)

/-! ### Atomics, acquire loads and release stores, the fence, barriers and waits -/

protected theorem State.memoriesWf.levelFinish {vector : Bool} {w : Word} {a : Act Unit} (h : s.memoriesWf) (ha : Keeps a) :
    Out.Wf (levelFinish vector w a s) := .ite (h.vecFinish ha) (h.finish ha)

protected theorem State.memoriesWf.atomic {ar : Bool} {n : Nat} {f : State → Nat → Option Nat} (h : s.memoriesWf) :
    Out.Wf (atomic ar n f d a s) := by
  unfold atomic
  refine State.memoriesWf.finish ?_ (.get_bind fun _ _ => .bind .requireAct fun _ => .bind .amoAt fun _ =>
    .modify fun _ h' => .put ?_)
  · exact .ite h.drain h
  · exact .ite h'.drain h'

protected theorem State.memoriesWf.atomic64 {ar : Bool} {f : Word → Word → Word} (h : s.memoriesWf) :
    Out.Wf (atomic64 ar f d a b s) := h.atomic

protected theorem State.memoriesWf.atomicCas {ar : Bool} (h : s.memoriesWf) : Out.Wf (atomicCas ar d a b s) := h.atomic
protected theorem State.memoriesWf.atomicFadd {ar : Bool} (h : s.memoriesWf) : Out.Wf (atomicFadd ar d a b s) := h.atomic
protected theorem State.memoriesWf.execAmoadd (h : s.memoriesWf) : Out.Wf (execAmoadd d a b s) := h.atomic64
protected theorem State.memoriesWf.execAmoand (h : s.memoriesWf) : Out.Wf (execAmoand d a b s) := h.atomic64
protected theorem State.memoriesWf.execAmoor (h : s.memoriesWf) : Out.Wf (execAmoor d a b s) := h.atomic64
protected theorem State.memoriesWf.execAmoxor (h : s.memoriesWf) : Out.Wf (execAmoxor d a b s) := h.atomic64
protected theorem State.memoriesWf.execAmomin (h : s.memoriesWf) : Out.Wf (execAmomin d a b s) := h.atomic64
protected theorem State.memoriesWf.execAmomax (h : s.memoriesWf) : Out.Wf (execAmomax d a b s) := h.atomic64
protected theorem State.memoriesWf.execAmominn (h : s.memoriesWf) : Out.Wf (execAmominn d a b s) := h.atomic64
protected theorem State.memoriesWf.execAmomaxn (h : s.memoriesWf) : Out.Wf (execAmomaxn d a b s) := h.atomic64
protected theorem State.memoriesWf.execAmoswp (h : s.memoriesWf) : Out.Wf (execAmoswp d a b s) := h.atomic64
protected theorem State.memoriesWf.execAmocas (h : s.memoriesWf) : Out.Wf (execAmocas d a b s) := h.atomicCas
protected theorem State.memoriesWf.execAmofadd (h : s.memoriesWf) : Out.Wf (execAmofadd d a b s) := h.atomicFadd
protected theorem State.memoriesWf.execAmoaddAr (h : s.memoriesWf) : Out.Wf (execAmoaddAr d a b s) := h.atomic64
protected theorem State.memoriesWf.execAmoandAr (h : s.memoriesWf) : Out.Wf (execAmoandAr d a b s) := h.atomic64
protected theorem State.memoriesWf.execAmoorAr (h : s.memoriesWf) : Out.Wf (execAmoorAr d a b s) := h.atomic64
protected theorem State.memoriesWf.execAmoxorAr (h : s.memoriesWf) : Out.Wf (execAmoxorAr d a b s) := h.atomic64
protected theorem State.memoriesWf.execAmominAr (h : s.memoriesWf) : Out.Wf (execAmominAr d a b s) := h.atomic64
protected theorem State.memoriesWf.execAmomaxAr (h : s.memoriesWf) : Out.Wf (execAmomaxAr d a b s) := h.atomic64
protected theorem State.memoriesWf.execAmominnAr (h : s.memoriesWf) : Out.Wf (execAmominnAr d a b s) := h.atomic64
protected theorem State.memoriesWf.execAmomaxnAr (h : s.memoriesWf) : Out.Wf (execAmomaxnAr d a b s) := h.atomic64
protected theorem State.memoriesWf.execAmoswpAr (h : s.memoriesWf) : Out.Wf (execAmoswpAr d a b s) := h.atomic64
protected theorem State.memoriesWf.execAmocasAr (h : s.memoriesWf) : Out.Wf (execAmocasAr d a b s) := h.atomicCas
protected theorem State.memoriesWf.execAmofaddAr (h : s.memoriesWf) : Out.Wf (execAmofaddAr d a b s) := h.atomicFadd

protected theorem State.memoriesWf.execLdacq (h : s.memoriesWf) : Out.Wf (execLdacq d a imm s) :=
  h.finish (.bind (.modify fun _ h => h.acquire) fun _ => .get_bind fun _ _ => .bind .requireAct fun _ =>
    .bind .loadAt fun _ => .modify fun _ h => h.put)

protected theorem State.memoriesWf.execStrel (h : s.memoriesWf) : Out.Wf (execStrel d a imm s) := by
  unfold execStrel
  exact h.finish (.get_bind fun _ _ => .bind .requireAct fun _ => .join (.modify fun _ h => h.drain) fun _ =>
    .bind .storeAt fun _ => .modify fun _ h => .ite h h)

protected theorem State.memoriesWf.execFence {scope : FenceScope} {pred succ : BitVec 4} (h : s.memoriesWf) :
    Out.Wf (execFence scope pred succ s) := by
  unfold execFence
  refine .ite (.next h.advance) ?_
  refine h.finish (.ite ?_ (.get_bind fun _ _ => .join .waitAct fun _ => .modify fun _ h => h.acquire.advance))
  refine .bind (.modify fun _ h => h.drain) fun _ => ?_
  refine .ite ?_ (.get_bind fun _ _ => .join .waitAct fun _ => .modify fun _ h => h.acquire.advance)
  refine .bind (.modify fun _ h => ?_) fun _ => .get_bind fun _ _ => ?_
  · exact .ite h.flushAll h
  · exact .join .waitAct fun _ => .modify fun _ h => h.acquire.advance

protected theorem State.memoriesWf.setBarrier {sc : Nat} {b : Barrier} (h : s.memoriesWf) : (s.setBarrier sc b).memoriesWf := by
  unfold State.setBarrier
  split
  · exact h
  · exact h
  · exact h.mapLaunch

protected theorem State.memoriesWf.joinShared {sc num : Nat} (h : s.memoriesWf) : (s.joinShared sc num).memoriesWf := h
protected theorem State.memoriesWf.dropPubsOf {num : Nat} (h : s.memoriesWf) : (s.dropPubsOf num).memoriesWf := .settleAll h

protected theorem State.memoriesWf.leaveBarrier {sc : Nat} {b : Barrier} (h : s.memoriesWf) : (s.leaveBarrier sc b).memoriesWf :=
  .ite (.dropPubsOf h) h.setBarrier

protected theorem Keeps.barrierNum {xa : Word} : Keeps (barrierNum xa) := .bind .requireAct fun _ => .pure

protected theorem Keeps.enterBarrier {xa : Word} {sc num n : Nat} {g : Word} : Keeps (enterBarrier xa sc num n g) := by
  unfold enterBarrier
  refine .get_bind fun _ _ => ?_
  split
  · exact .bind .requireAct fun _ => .modify fun _ h => h.setBarrier.joinShared
  · exact .modify fun _ h => .ite h.setBarrier h.setBarrier.joinShared

protected theorem State.memoriesWf.execBinit (h : s.memoriesWf) : Out.Wf (execBinit a b s) := by
  unfold execBinit
  refine h.taskFinish (.get_bind fun _ _ => .bind .barrierNum fun _ => .bind .requireAct fun _ => .bind .requireAct fun _ =>
    ?_)
  split
  · exact .bind .enterBarrier fun _ => .modify fun _ h => h.advance
  · refine .ite (.modify fun _ h => h.advance) (.bind .requireAct fun _ => ?_)
    refine .ite (.bind (.modify fun _ h => h.setBarrier) fun _ => .modify fun _ h => h.advance) ?_
    exact .bind (.modify fun _ h => h.leaveBarrier) fun _ => .bind .enterBarrier fun _ => .modify fun _ h => h.advance

protected theorem Keeps.barrierAct {xa : Word} : Keeps (barrierAct xa) := by
  unfold barrierAct
  refine .bind .barrierNum fun _ => .get_bind fun _ _ => ?_
  split
  · exact .pure
  · exact .raiseAct

protected theorem State.memoriesWf.publish {num : Nat} {g : Word} {table : List (Nat × Entry)} (h : s.memoriesWf) :
    (s.publish num g table).memoriesWf := .settleAll h

protected theorem State.memoriesWf.closePhase {num : Nat} {g : Word} (h : s.memoriesWf) : (s.closePhase num g).memoriesWf :=
  .settleAll (.foldl h fun _ _ h => h.publish)

protected theorem Keeps.arrive {sc : Nat} {b : Barrier} : Keeps (arrive sc b) := by
  unfold arrive
  refine fun _ h => ?_
  dsimp only
  refine .ite (.ok ?_) (.ok (.setBarrier (.ite h.drain.publish h.drain)))
  exact .ite (.closePhase (.setBarrier (.ite h.drain.publish h.drain))) (.setBarrier (.ite h.drain.publish h.drain))

protected theorem State.memoriesWf.pass {sc : Nat} {b : Barrier} (h : s.memoriesWf) : (s.pass sc b).memoriesWf :=
  .ite (h.acquire.onView fun _ h' => h'.foldl fun _ _ h' => h'.mergeView) h.acquire

protected theorem State.memoriesWf.execBarr (h : s.memoriesWf) : Out.Wf (execBarr d a s) :=
  h.taskFinish (.get_bind fun _ _ => .bind .barrierAct fun _ => .bind .arrive fun _ => .modify fun _ h => h.put)

protected theorem State.memoriesWf.execBwait (h : s.memoriesWf) : Out.Wf (execBwait a b s) :=
  h.taskFinish (.get_bind fun _ _ => .bind .barrierAct fun _ => .ite (.modify fun _ h => h.pass.advance) .waitAct)

protected theorem State.memoriesWf.execBarw (h : s.memoriesWf) : Out.Wf (execBarw d a s) := by
  unfold execBarw
  split
  · exact h.taskFinish (.bind .barrierAct fun _ => .ite (.modify fun _ h' => h'.pass.advance) .waitAct)
  · refine h.taskFinish (.get_bind fun _ _ => .bind .barrierAct fun _ => .bind .arrive fun _ =>
      .bind (.modify fun _ h => h.wx) fun _ => .get_bind fun _ _ => ?_)
    split
    · exact .ite (.modify fun _ h => h.pass.advance) (.modify fun _ h => h.enterWait)
    · exact .modify fun _ h => h.enterWait

protected theorem State.memoriesWf.deadlineEnd {num : Nat} {gen : Word} (h : s.memoriesWf) : (s.deadlineEnd d num gen).memoriesWf :=
  .ite h h.put

protected theorem State.memoriesWf.execBwaitd (h : s.memoriesWf) : Out.Wf (execBwaitd d a b s) := by
  unfold execBwaitd
  refine h.taskFinish (.get_bind fun _ _ => .bind .barrierAct fun _ => ?_)
  exact .ite (.modify fun _ h => h.pass.put) (.ite (.modify fun _ h => h.deadlineEnd) .waitAct)

protected theorem State.memoriesWf.execBgenBar (h : s.memoriesWf) : Out.Wf (execBgenBar d a s) :=
  h.taskFinish (.get_bind fun _ _ => .bind .barrierAct fun _ => .modify fun _ h => h.put)

protected theorem State.memoriesWf.execBarrierDeadline (h : s.memoriesWf) : Out.Wf (execBarrierDeadline s) := by
  unfold execBarrierDeadline
  refine .next ?_
  split
  · split
    · exact .ite h.deadlineEnd h
    · exact h
  · exact h

protected theorem State.memoriesWf.execWaddr (h : s.memoriesWf) : Out.Wf (execWaddr d a b s) := by
  unfold execWaddr
  refine h.finish (.bind (.modify fun _ h => h.acquire) fun _ => .get_bind fun _ _ => .bind .requireAct fun _ =>
    .bind .loadAt fun _ => ?_)
  exact .ite (.modify fun _ h => h.enterWait) (.modify fun _ h => h.put)

protected theorem State.memoriesWf.execTread {c : BitVec 4} (h : s.memoriesWf) : Out.Wf (execTread d c s) :=
  h.taskFinish (.modify fun _ h => h.put)

protected theorem State.memoriesWf.execTwait {c : BitVec 4} (h : s.memoriesWf) : Out.Wf (execTwait d c b s) := by
  unfold execTwait
  refine h.taskFinish (.get_bind fun _ _ => ?_)
  exact .ite (.modify fun _ h => h.put) (.bind .requireAct fun _ => .ite (.modify fun _ h => h.acquire.put) .waitAct)

protected theorem State.memoriesWf.execWaddrTimeout (h : s.memoriesWf) : Out.Wf (execWaddrTimeout s) := by
  unfold execWaddrTimeout
  refine .next ?_
  split
  · exact .ite h.put h
  · exact h

protected theorem State.memoriesWf.execTwaitTimeout (h : s.memoriesWf) : Out.Wf (execTwaitTimeout s) := by
  unfold execTwaitTimeout
  refine .next ?_
  split
  · exact .ite h.put h
  · exact h

/-! ### The Flume -/

protected theorem State.memoriesWf.mapChannel {c : Nat} {f : Channel → Channel} (h : s.memoriesWf) :
    (s.mapChannel c f).memoriesWf := h

protected theorem Keeps.releaseIssue : Keeps releaseIssue := .modify fun _ h => h.drain

protected theorem State.memoriesWf.execFsetl {c : BitVec 2} {l : BitVec 3} (h : s.memoriesWf) : Out.Wf (execFsetl c l a b s) := by
  unfold execFsetl
  refine h.taskFinish (.get_bind fun _ _ => ?_)
  split
  · exact .bind .requireAct fun _ => .bind (.modify fun _ h => h.mapChannel) fun _ => .modify fun _ h => h.advance
  · exact .bind .requireAct fun _ => .bind (.modify fun _ h => h.mapChannel) fun _ => .modify fun _ h => h.advance

protected theorem Keeps.sizeCheck {w : Word} {x : Channel} : Keeps (sizeCheck w x) := .requireAct

protected theorem Keeps.issueCopy {c : BitVec 2} {m : FCmd} : Keeps (issueCopy c m) :=
  .bind .releaseIssue fun _ => .modify fun _ h => .advance h

protected theorem State.memoriesWf.execFgo {c : BitVec 2} (h : s.memoriesWf) : Out.Wf (execFgo c a b s) :=
  h.taskFinish (.get_bind fun _ _ => .join .waitAct fun _ => .bind .sizeCheck fun _ => .issueCopy)

protected theorem State.memoriesWf.execFgov {c : BitVec 2} (h : s.memoriesWf) : Out.Wf (execFgov d c b s) := by
  unfold execFgov
  refine h.vecFinish (.get_bind fun _ _ => ?_)
  refine .join .waitAct fun _ => .bind .notSpilled fun _ => .bind .sizeCheck fun _ => .bind .requireAct fun _ => ?_
  split
  · exact .trapAct
  · exact .bind .engineVersion fun _ => .bind .flumeDest fun _ => .issueCopy

protected theorem State.memoriesWf.execFnotify {c : BitVec 2} (h : s.memoriesWf) : Out.Wf (execFnotify c a b s) :=
  h.taskFinish (.get_bind fun _ _ => .bind .requireAct fun _ => .modify fun _ h => h.mapChannel.advance)

protected theorem State.memoriesWf.execFdrain {c : BitVec 2} (h : s.memoriesWf) : Out.Wf (execFdrain c s) := by
  unfold execFdrain
  refine h.taskFinish (.get_bind fun _ _ => .bind .requireAct fun _ => ?_)
  exact .ite (.modify fun _ h => h.acquire.advance) .waitAct

protected theorem State.memoriesWf.execFdrainTimeout (h : s.memoriesWf) : Out.Wf (execFdrainTimeout s) := by
  unfold execFdrainTimeout
  refine .next ?_
  split
  · exact .ite h.takeTrap h
  · exact h

protected theorem State.memoriesWf.endVersion {e : Entry} (h : s.memoriesWf) : (s.endVersion e).memoriesWf :=
  h.updateVersion.releaseAll

protected theorem State.memoriesWf.spoilVersion {e : Entry} {written : Nat} (h : s.memoriesWf) :
    (s.spoilVersion e written).memoriesWf := .endVersion h

protected theorem State.memoriesWf.endEarly {m : FCmd} (h : s.memoriesWf) : (s.endEarly m).memoriesWf := by
  unfold State.endEarly
  split
  · exact h.spoilVersion
  · exact h

protected theorem State.memoriesWf.cancelChannel {c : Nat} (h : s.memoriesWf) : (s.cancelChannel c).memoriesWf :=
  (h.foldl fun _ _ h => h.endEarly).mapChannel

protected theorem State.memoriesWf.execFcancel {c : BitVec 2} (h : s.memoriesWf) : Out.Wf (execFcancel c s) :=
  h.taskFinish (.modify fun _ h => h.cancelChannel.advance)

protected theorem State.memoriesWf.execFresume {c : BitVec 2} (h : s.memoriesWf) : Out.Wf (execFresume c s) :=
  h.taskFinish (.get_bind fun _ _ => .bind .requireAct fun _ => .modify fun _ h => h.mapChannel.advance)

protected theorem State.memoriesWf.execFstat {c : BitVec 2} (h : s.memoriesWf) : Out.Wf (execFstat d c s) :=
  h.taskFinish (.modify fun _ h => h.put)

protected theorem Keeps.engFail {α : Type} {f : EFault} : Keeps (engFail f : Eng α) := .error

protected theorem Keeps.engOf {α : Type} {va : Nat} {dst : Bool} {a : Act α} (ha : Keeps a) : Keeps (engOf va dst a) := by
  unfold engOf
  refine fun _ h => ?_
  dsimp only
  split
  · exact .ok (Keeps.run h ha ‹_›)
  · exact .error
  · exact .error

protected theorem Keeps.engPlace {scr handler : Bool} {va n : Nat} {dst : Bool} : Keeps (engPlace scr handler va n dst) := by
  unfold engPlace
  refine fun _ h => ?_
  dsimp only
  split
  · exact .ite (.ok h) .error
  · split
    · exact .error
    · exact .ite .error (.ok h.setMarks)

protected theorem Keeps.engVia {α : Type} {p : Side} {done : Bool} {a : Eng α} (ha : Keeps a) : Keeps (engVia p done a) := by
  intro s h
  unfold engVia
  split
  · exact .error
  · exact ha s h

protected theorem Keeps.engLoad {p : Side} {va n : Nat} : Keeps (engLoad p va n) := by
  unfold engLoad
  split
  · refine .bind (.engOf .touchScratch) fun _ _ h => ?_
    split
    · exact .error
    · exact .ok h
  · intro s h
    dsimp only
    split
    · split
      · exact .ok (h.aliasRead ‹_›)
      · exact .error
    · split
      · exact .error
      · exact .ok h.recall

protected theorem Keeps.engStore {p : Side} {va : Nat} {bs : List Byte} : Keeps (engStore p va bs) := by
  unfold engStore
  split
  · exact .bind (.engOf .touchScratch) fun _ => .modify fun _ h => h.storeScratch
  · exact .modify fun _ h => h.commitCells

protected theorem Keeps.engRead {scr handler : Bool} {n m k : Nat} : Keeps (engRead scr handler n m k) := by
  induction n generalizing m k with
  | zero => exact .pure
  | succ n ih =>
    unfold engRead
    exact .ite .pure (.bind .engPlace fun _ => .engVia (.bind .engLoad fun _ => .bind ih fun _ => .pure))

protected theorem Keeps.engWrite {scr handler : Bool} {n m : Nat} {l : List Byte} : Keeps (engWrite scr handler n m l) := by
  induction n generalizing m l with
  | zero => exact .pure
  | succ n ih =>
    unfold engWrite
    exact .ite .pure (.bind .engPlace fun _ => .engVia (.bind .engStore fun _ => ih))

protected theorem State.memoriesWf.takeCounter {k : KeySlot} (h : s.memoriesWf) : (s.takeCounter k).memoriesWf := h

protected theorem State.memoriesWf.startVersion {m : FCmd} (h : s.memoriesWf) : (s.startVersion m).2.memoriesWf := by
  unfold State.startVersion
  split
  · split
    · exact h
    · exact h
  · exact h

protected theorem Keeps.takeVersion {m : FCmd} {k : KeySlot} {bad : EFault} : Keeps (takeVersion m k bad) := by
  unfold takeVersion
  refine fun _ h => ?_
  dsimp only
  split
  · exact .ok h
  · exact .ite .error (.ok h.takeCounter)

protected theorem Keeps.copyData {m : FCmd} {from_ sva dva line : Nat} {src dst : Side} {bs : List Byte} :
    Keeps (copyData m from_ sva dva line src dst bs) := by
  unfold copyData
  refine .get_bind fun _ _ => ?_
  split
  · exact .pure
  · exact .engFail
  · exact .bind .takeVersion fun _ => .pure
  · refine .bind .engRead fun _ => ?_
    split
    · exact .pure
    · exact .engFail

protected theorem Keeps.copyPiece {α : Type} {m : FCmd} {i sva dva n line : Nat} {k : Option (BitVec 32) × Writes → Eng α}
    (hk : ∀ v, Keeps (k v)) : Keeps (copyPiece m i sva dva n line k) := by
  unfold copyPiece
  exact .bind .engPlace fun _ => .engVia <| .bind .engPlace fun _ => .engVia <| .get_bind fun _ _ =>
    .ite .engFail <| .engVia <| .bind .engLoad fun _ => .bind .copyData hk

protected theorem Keeps.copyPieces {α : Type} {m : FCmd} {i : Nat} {k : Option (BitVec 32) × Writes → Eng α}
    {f sva dva n line : Nat} {ws : Writes} (hk : ∀ v, Keeps (k v)) : Keeps (copyPieces m i k f sva dva n line ws) := by
  induction f generalizing m sva dva n line ws with
  | zero => exact hk _
  | succ f ih =>
    unfold copyPieces
    exact .ite (hk _) (.copyPiece fun _ => ih)

protected theorem Keeps.performCopy {m : FCmd} : Keeps (performCopy m) := by
  unfold performCopy
  dsimp only
  split
  · exact .bind .engRead fun _ => .bind (.modify fun _ h => h) fun _ => .pure
  · exact .copyPieces fun _ => .bind (.forM fun _ => .engWrite) fun _ => .pure

protected theorem State.memoriesWf.mapHead {c : Nat} {f : FCmd → FCmd} (h : s.memoriesWf) : (s.mapHead c f).memoriesWf :=
  h.mapChannel

protected theorem State.memoriesWf.endHead {c st : Nat} (h : s.memoriesWf) : (s.endHead c st).memoriesWf := h.mapChannel

protected theorem State.memoriesWf.copyFault {c : Nat} {m : FCmd} {f : EFault} (h : s.memoriesWf) :
    (s.copyFault c m f).memoriesWf := .ite h.walked.holdTrap.endEarly.endHead h.walked.holdTrap.mapHead.mapChannel

protected theorem State.memoriesWf.execFlumeCommandRun {c : BitVec 2} (h : s.memoriesWf) : Out.Wf (execFlumeCommandRun c s) := by
  unfold execFlumeCommandRun
  refine .next ?_
  split
  · exact h
  · rename_i m _ _
    refine .ite h (.ite h.mapHead ?_)
    have h0 : (if m.state = .queued then s.startVersion m else (m.keyV, s)).2.memoriesWf := by
      split
      · exact h.startVersion
      · exact h
    generalize (if m.state = .queued then s.startVersion m else (m.keyV, s)) = p at h0 ⊢
    obtain ⟨v0, s0⟩ := p
    dsimp only at h0 ⊢
    split
    · exact h0.mapHead.copyFault
    · rename_i v s1 e
      have h1 := Keeps.run h0 .performCopy e
      split
      · exact h1.mapHead.mapChannel.updateVersion
      · exact h1.mapHead.mapChannel

protected theorem State.memoriesWf.execFlumeCommandComplete {c : BitVec 2} (h : s.memoriesWf) :
    Out.Wf (execFlumeCommandComplete c s) := by
  unfold execFlumeCommandComplete
  refine .next ?_
  split
  · exact h
  · refine .ite h ?_
    split
    · exact h.copyFault
    · rename_i s1 e
      have h1 : s1.memoriesWf := by
        split at e
        · exact Keeps.run h .engWrite e
        · cases e
          exact h
      split
      · exact h1.endHead.endVersion
      · exact h1.endHead

/-! ### Events that the device sends to the levels -/

protected theorem State.memoriesWf.toS {cluster : Nat} {r : TrapRec} (h : s.memoriesWf) : (s.toS cluster r).memoriesWf :=
  h.mapCluster

protected theorem State.memoriesWf.toP {cluster : Nat} {r : TrapRec} (h : s.memoriesWf) : (s.toP cluster r).memoriesWf :=
  h.mapCluster

protected theorem State.memoriesWf.sendEvent {dest : Holder} {home : Option Nat} {r : TrapRec} (h : s.memoriesWf) :
    (s.sendEvent dest home r).memoriesWf := by
  unfold State.sendEvent
  extract_lets late
  have hl : late.memoriesWf := h
  split
  · exact h
  · cases s.clusterOfPart _ with
    | none => exact hl
    | some c => exact h.toP
  · cases s.serviceFor _ _ with
    | none => exact hl
    | some c => exact h.toS

protected theorem State.memoriesWf.sendLate (h : s.memoriesWf) : s.sendLate.memoriesWf := .foldl h fun _ _ h => h.sendEvent

protected theorem State.memoriesWf.eventS {sub : Nat} {home : Option Nat} {code val : Nat} (h : s.memoriesWf) :
    (s.eventS sub home code val).memoriesWf := by
  unfold State.eventS
  split
  · exact .ite h.sendEvent h.sendEvent
  · exact h.sendEvent

protected theorem State.memoriesWf.eventQueue {queue code val : Nat} (h : s.memoriesWf) :
    (s.eventQueue queue code val).memoriesWf := by
  unfold State.eventQueue
  split
  · exact h.eventS
  · exact h

protected theorem State.memoriesWf.eventP {part code val : Nat} (h : s.memoriesWf) : (s.eventP part code val).memoriesWf :=
  h.sendEvent

protected theorem State.memoriesWf.eventO {code val : Nat} (h : s.memoriesWf) : (s.eventO code val).memoriesWf := h.sendEvent

/-! ### The Weirs -/

protected theorem State.memoriesWf.mapWeir {c : Nat} {f : WeirCtx → WeirCtx} (h : s.memoriesWf) : (s.mapWeir c f).memoriesWf :=
  h

protected theorem State.memoriesWf.setAmount {c : Nat} {i : Holder} {n : Nat} (h : s.memoriesWf) : (s.setAmount c i n).memoriesWf :=
  h

protected theorem State.memoriesWf.returnContexts {t : Task} (h : s.memoriesWf) : (s.returnContexts t).memoriesWf := by
  unfold State.returnContexts
  extract_lets w k s1
  have h1 : s1.memoriesWf := .ite h h.setAmount
  exact .ite h1 h1.setAmount

protected theorem State.memoriesWf.reap (h : s.memoriesWf) : s.reap.memoriesWf := by
  unfold State.reap
  split
  · exact ⟨h.returnContexts.memory, rfl, h.returnContexts.others⟩
  · exact h

protected theorem Keeps.drawWeir : Keeps drawWeir :=
  .get_bind fun _ _ => .ite .pure (.bind .requireAct fun _ => .modify fun _ h => h)

protected theorem State.memoriesWf.execNbind {c : BitVec 1} (h : s.memoriesWf) : Out.Wf (execNbind c a b s) := by
  unfold execNbind
  refine h.levelFinish (.get_bind fun _ _ => .bind .requireAct fun _ => .bind .requireAct fun _ => .withBlock fun _ =>
    .withWords fun _ => ?_)
  split
  · exact .raiseAct
  · exact .bind .drawWeir fun _ => .modify fun _ h => h.mapWeir.advance

protected theorem State.memoriesWf.execNunbind {c : BitVec 1} (h : s.memoriesWf) : Out.Wf (execNunbind c b s) :=
  h.levelFinish (.get_bind fun _ _ => .bind .requireAct fun _ => .modify fun _ h => h.mapWeir.advance)

protected theorem Keeps.pinStream {w : WStream} {l : List Nat} : Keeps (pinStream w l) := by
  induction l with
  | nil => exact .pure
  | cons p r ih =>
    unfold pinStream
    refine .get_bind fun _ _ => ?_
    dsimp only
    split
    · exact .raiseAct
    · exact .afterWalk (.bind .requireAct fun _ => .bind (.modify fun _ h => h.setMarks) fun _ => .bind ih fun _ => .pure)

protected theorem State.memoriesWf.execNcmd {c : BitVec 1} (h : s.memoriesWf) : Out.Wf (execNcmd c a s) := by
  unfold execNcmd
  dsimp only
  refine h.levelFinish (.get_bind fun _ _ => .join .waitAct fun _ => .bind .requireAct fun _ => .withBlock fun _ => ?_)
  split
  · exact .raiseAct
  · split
    · exact .raiseAct
    · split
      · exact .raiseAct
      · exact .bind (.mapM fun _ => .pinStream) fun _ => .bind .releaseIssue fun _ => .modify fun _ h => .advance h

protected theorem State.memoriesWf.execNfence {c : BitVec 1} (h : s.memoriesWf) : Out.Wf (execNfence c s) := by
  unfold execNfence
  refine h.levelFinish (.get_bind fun _ _ => ?_)
  exact .ite (.modify fun _ h => h.acquire.advance) .waitAct

protected theorem State.memoriesWf.execNfenceTimeout (h : s.memoriesWf) : Out.Wf (execNfenceTimeout s) := by
  unfold execNfenceTimeout
  refine .next ?_
  split
  · exact .ite h.takeTrap h
  · exact h

protected theorem State.memoriesWf.execNstat {c : BitVec 1} (h : s.memoriesWf) : Out.Wf (execNstat d c s) :=
  h.levelFinish (.modify fun _ h => h.put)

/-- The loads of one element leave memory canonical; a poisoned line ends them with no state. -/
def LoadsWf (r : Option (List Nat × Flags × State)) : Prop := ∀ p, r = some p → p.2.2.memoriesWf

protected theorem State.memoriesWf.weirLoads {m : WCmd} {ws : List WStream} {i : Nat} {is : List Nat} {fl : Flags} {t : State}
    (h : s.memoriesWf) (e : s.weirLoads m ws i = some (is, fl, t)) : t.memoriesWf := by
  suffices hw : LoadsWf (s.weirLoads m ws i) from hw _ e
  unfold State.weirLoads
  refine List.foldlRecOn (motive := LoadsWf) _ _ ?_ fun acc hacc j _ => ?_
  · rintro _ ⟨⟩
    exact h
  · split
    · exact fun _ e => by cases e
    · rename_i l f s
      have hs : s.memoriesWf := hacc _ rfl
      split
      · rintro _ ⟨⟩
        exact hs
      · dsimp only
        split
        · intro p e
          obtain ⟨⟨bs, s1⟩, e1, e2⟩ := Option.map_eq_some_iff.1 e
          cases e2
          exact hs.aliasRead e1
        · split
          · exact fun _ e => by cases e
          · rintro _ ⟨⟩
            exact hs.recall

protected theorem State.memoriesWf.weirStores {m : WCmd} {ws : List WStream} {res : List Nat} {i : Nat} (h : s.memoriesWf) :
    (s.weirStores m ws res i).1.memoriesWf := by
  unfold State.weirStores
  refine List.foldlRecOn (motive := fun acc : State × Flags => acc.1.memoriesWf) _ _ h fun acc hacc w _ => ?_
  exact hacc.commitCells

protected theorem State.memoriesWf.runPart {m : WCmd} {ws : List WStream} {n k : Nat} {l : List (List Nat)} {x : Flags}
    (h : s.memoriesWf) : (runPart m ws n k l x s).1.memoriesWf := by
  induction n generalizing k l x s with
  | zero => exact h
  | succ n ih =>
    unfold runPart
    split
    · exact h
    · exact ih (h.weirLoads ‹_›).weirStores

protected theorem State.memoriesWf.execWeirPartRun {c : BitVec 1} {k : Nat} (h : s.memoriesWf) :
    Out.Wf (execWeirPartRun c k s) := by
  unfold execWeirPartRun
  refine .next ?_
  split
  · exact h
  · split
    · exact h
    · exact .ite h (.ite h.runPart.mapWeir.eventS h.runPart.mapWeir)

protected theorem State.memoriesWf.weirNotifyFault {m : WCmd} {f : EFault} (h : s.memoriesWf) :
    (s.weirNotifyFault m f).memoriesWf := h.walked.holdTrap

protected theorem State.memoriesWf.finishWeir {c : Nat} {m : WCmd} (h : s.memoriesWf) : (s.finishWeir c m).memoriesWf :=
  h.mapWeir.reap

protected theorem State.memoriesWf.execWeirCommandComplete {c : BitVec 1} (h : s.memoriesWf) :
    Out.Wf (execWeirCommandComplete c s) := by
  unfold execWeirCommandComplete
  refine .next ?_
  split
  · exact h
  · refine .ite h (.finishWeir ?_)
    split
    · split
      · exact Keeps.run h .engWrite ‹_›
      · exact h.weirNotifyFault
    · exact h

/-! ### The collective instructions and the collective engine of this device -/

protected theorem State.memoriesWf.mapColl {c : Nat} {f : CollCtx → CollCtx} (h : s.memoriesWf) : (s.mapColl c f).memoriesWf :=
  h

protected theorem Keeps.drawColl {c : Nat} : Keeps (drawColl c) :=
  .get_bind fun _ _ => .ite .pure (.bind .requireAct fun _ => .modify fun _ h => h.setAmount.mapColl)

protected theorem State.memoriesWf.execKgrp {c : BitVec 1} (h : s.memoriesWf) : Out.Wf (execKgrp c a s) := by
  unfold execKgrp
  refine h.levelFinish (.get_bind fun _ _ => .bind .requireAct fun _ => .ite (.modify fun _ h => h.mapColl.advance) ?_)
  refine .bind .requireAct fun _ => .withBlock fun _ => ?_
  split
  · exact .raiseAct
  · refine .withWords fun _ => ?_
    split
    · exact .raiseAct
    · exact .bind .requireAct fun _ => .bind .drawColl fun _ => .modify fun _ h => h.mapColl.advance

protected theorem Keeps.pinRange {store : Bool} {lo : Nat} {l : List Nat} : Keeps (pinRange store lo l) := by
  induction l with
  | nil => exact .pure
  | cons p r ih =>
    unfold pinRange
    refine .get_bind fun _ _ => ?_
    dsimp only
    split
    · exact .raiseAct
    · exact .afterWalk (.bind .requireAct fun _ => .bind (.modify fun _ h => h.setMarks) fun _ => .bind ih fun _ => .pure)

protected theorem Keeps.pinUsed {store : Bool} {r : Option (Nat × Nat)} : Keeps (pinUsed store r) := by
  unfold pinUsed
  split
  · exact .pure
  · exact .pinRange

protected theorem State.memoriesWf.issueColl {k : KKind} {fn : BitVec 4} {c : BitVec 1} (h : s.memoriesWf) :
    Out.Wf (issueColl k fn c a s) := by
  unfold issueColl
  refine h.levelFinish (.get_bind fun _ _ => .join .waitAct fun _ => .bind .requireAct fun _ => ?_)
  split
  · exact .raiseAct
  · refine .withBlock fun _ => ?_
    split
    · exact .raiseAct
    · exact .bind .pinUsed fun _ => .bind .pinUsed fun _ => .bind .releaseIssue fun _ => .modify fun _ h => .advance h

protected theorem State.memoriesWf.execKred {c : BitVec 1} (h : s.memoriesWf) : Out.Wf (execKred c a s) := h.issueColl
protected theorem State.memoriesWf.execKgat {c : BitVec 1} (h : s.memoriesWf) : Out.Wf (execKgat c a s) := h.issueColl
protected theorem State.memoriesWf.execKcast {c : BitVec 1} (h : s.memoriesWf) : Out.Wf (execKcast c a s) := h.issueColl
protected theorem State.memoriesWf.execKdraw {c : BitVec 1} (h : s.memoriesWf) : Out.Wf (execKdraw c a s) := h.issueColl

protected theorem State.memoriesWf.readSrc {m : KCmd} {n k : Nat} {bs : List Byte} {t : State}
    (h : s.memoriesWf) (e : readSrc m n k s = some (bs, t)) : t.memoriesWf := by
  induction n generalizing k s bs with
  | zero =>
    cases e
    exact h
  | succ n ih =>
    unfold readSrc at e
    generalize m.place k = q at e
    obtain ⟨pa, pp⟩ := q
    obtain ⟨p, ep, e⟩ := Option.bind_eq_some_iff.1 e
    have hp : p.2.memoriesWf := by
      split at ep
      · exact h.aliasRead (bs := p.1) ep
      · split at ep <;> cases ep
        exact h.lookAt
    obtain ⟨q, eq, e⟩ := Option.map_eq_some_iff.1 e
    cases e
    exact ih hp eq

protected theorem State.memoriesWf.writeDst {m : KCmd} {n : Nat} {l : List Byte} (h : s.memoriesWf) :
    (writeDst m n l s).memoriesWf := by
  induction l generalizing n s with
  | nil => exact h
  | cons x r ih => exact ih h.commitCells

protected theorem State.memoriesWf.collRan {c n : Nat} {failed : Bool} (h : s.memoriesWf) : (s.collRan c n failed).memoriesWf :=
  h.mapColl

protected theorem State.memoriesWf.collEvent {c : Nat} (h : s.memoriesWf) : (s.collEvent c).memoriesWf := h.eventS

protected theorem State.memoriesWf.collChunk {c : Nat} {m : KCmd} {n size : Nat} {keep : Writes} (h : s.memoriesWf) :
    (s.collChunk c m n size keep).memoriesWf := h.mapColl

protected theorem State.memoriesWf.collWrite {m : KCmd} {ws : Writes} (h : s.memoriesWf) : (s.collWrite m ws).memoriesWf :=
  h.foldl fun _ _ h => h.writeDst

protected theorem State.memoriesWf.execCollectiveRun {c : BitVec 1} {peers : List PeerPart} (h : s.memoriesWf) :
    Out.Wf (execCollectiveRun c peers s) := by
  unfold execCollectiveRun
  refine .next ?_
  split
  · refine .ite h (.ite h.collRan.holdTrap.collEvent ?_)
    extract_lets s0 own
    have h0 : s0.memoriesWf := h.collWrite
    have ho : ∀ bs t, own = some (bs, t) → t.memoriesWf := by
      intro bs t e
      unfold own at e
      split at e
      · exact h0.readSrc e
      · cases e
        exact h0
    clear_value own
    split
    · exact h0.collRan.collEvent
    · have h1 := ho _ _ rfl
      exact .ite h1.collRan.collEvent (.ite h1.collChunk h1.collWrite.collChunk)
  · exact h

protected theorem State.memoriesWf.collNotifyFault {m : KCmd} {f : EFault} (h : s.memoriesWf) :
    (s.collNotifyFault m f).memoriesWf := h.walked.holdTrap

protected theorem State.memoriesWf.finishColl {c : Nat} {m : KCmd} (h : s.memoriesWf) : (s.finishColl c m).memoriesWf :=
  h.mapColl.reap

protected theorem State.memoriesWf.execCollectiveComplete {c : BitVec 1} (h : s.memoriesWf) :
    Out.Wf (execCollectiveComplete c s) := by
  unfold execCollectiveComplete
  refine .next ?_
  split
  · exact h
  · refine .ite h (.finishColl (.ite ?_ h))
    split
    · exact Keeps.run h .engWrite ‹_›
    · exact h.collNotifyFault

/-! ### The state registers -/

protected theorem Keeps.regCheck {n : Nat} : Keeps (regCheck n) := by
  unfold regCheck
  refine .get_bind fun _ _ => ?_
  split
  · exact .requireAct
  · exact .trapAct

protected theorem State.memoriesWf.execSget {reg : BitVec 11} (h : s.memoriesWf) : Out.Wf (execSget d reg s) := by
  unfold execSget
  refine h.finish (.bind .regCheck fun _ => .get_bind fun _ _ => .join .waitAct fun _ => ?_)
  split
  · exact .modify fun _ h => h.put
  · exact .trapAct

theorem Task.setTreg_scratch {t u : Task} {n : Nat} {v : Word} (e : t.setTreg n v = some u) : u.scratch = t.scratch := by
  unfold Task.setTreg at e
  split at e <;> cases e <;> rfl

protected theorem State.memoriesWf.mapSel {f : SubPart → SubPart} (h : s.memoriesWf) : (s.mapSel f).memoriesWf := by
  unfold State.mapSel
  dsimp only
  split
  · exact h
  · exact h

protected theorem State.memoriesWf.mapSvc {f : Service → Service} (h : s.memoriesWf) : (s.mapSvc f).memoriesWf := h

protected theorem State.memoriesWf.mapPart {p : Nat} {f : Partition → Partition} (h : s.memoriesWf) : (s.mapPart p f).memoriesWf :=
  .ite h h

protected theorem State.memoriesWf.writeOrange1 {v : Word} (h : s.memoriesWf) : (s.writeOrange1 v).memoriesWf :=
  .ite (.mapPart h) h

protected theorem State.memoriesWf.writeOkey3 {v : Word} (h : s.memoriesWf) : (s.writeOkey3 v).memoriesWf := h
protected theorem State.memoriesWf.writeOplim {v : Word} (h : s.memoriesWf) : (s.writeOplim v).memoriesWf := h

protected theorem State.memoriesWf.setOreg {n : Nat} {v : Word} {t : State} (h : s.memoriesWf) (e : s.setOreg n v = some t) :
    t.memoriesWf := by
  unfold State.setOreg at e
  split at e <;> cases e
  exacts [h, h, h, h, h, h.writeOrange1, h, h, h, h, h.writeOkey3, h.writeOplim]

protected theorem Keeps.setPreg {n : Nat} {v : Word} {a : Act Unit} (e : setPreg n v = some a) : Keeps a := by
  unfold setPreg at e
  extract_lets sel at e
  have hsel : ∀ f, Keeps (sel f) := fun f => .get_bind fun _ _ => .bind .requireAct fun _ => .modify fun _ h => h.mapSel
  split at e <;> cases e
  · exact .modify fun _ h => h.mapSvc
  · exact .modify fun _ h => h.mapSvc
  · exact .get_bind fun _ _ => .bind .requireAct fun _ => .modify fun _ h => h.mapSvc
  all_goals exact hsel _

protected theorem State.memoriesWf.execSput {reg : BitVec 11} (h : s.memoriesWf) : Out.Wf (execSput d reg s) := by
  unfold execSput
  refine h.finish (.bind .regCheck fun _ => .get_bind fun s h0 => ?_)
  extract_lets v bad done write
  have hdone : ∀ r, Keeps (done r) := fun _ => .modify fun _ h => h.advance
  have hbad : Keeps bad := .trapAct
  refine .join .waitAct fun _ => ?_
  unfold write
  split
  · split
    · exact .bind (.modify fun _ h => h) hdone
    · split
      · rename_i t e
        have ht : ∀ s : State, s.memoriesWf → ({ s with t := t } : State).memoriesWf :=
          fun s h => ⟨h.memory, (Task.setTreg_scratch e).symm ▸ h0.scratch, h.others⟩
        exact .join .requireAct fun _ => .join (.modify ht) hdone
      · exact .bind hbad hdone
  · exact .ite (.bind (.modify fun _ h => h.mapSvc) hdone) (.ite (.bind (.modify fun _ h => h.mapSvc) hdone) (.bind hbad hdone))
  · refine .bind ?_ hdone
    cases e : setPreg reg.toNat v with
    | none => exact hbad
    | some a => exact .setPreg e
  · split
    · exact .bind (.set (h0.setOreg ‹_›)) hdone
    · exact .bind hbad hdone
  · exact .bind hbad hdone

protected theorem State.memoriesWf.execFflagsSyncAccess {write : Bool} {reg : BitVec 11} (h : s.memoriesWf) :
    Out.Wf (execFflagsSyncAccess write d reg s) := .ite (.next h) (.ite h.execSput h.execSget)

protected theorem State.memoriesWf.execMshapeWrite (h : s.memoriesWf) : Out.Wf (execMshapeWrite d s) := h.execSput
protected theorem State.memoriesWf.execProtMmClear (h : s.memoriesWf) : Out.Wf (execProtMmClear d s) := h.execSput

protected theorem State.memoriesWf.execVstartRepcntRestore {repcnt : Bool} (h : s.memoriesWf) :
    Out.Wf (execVstartRepcntRestore repcnt d s) := h.execSput

protected theorem State.memoriesWf.execOrange1Write {v : Word} (h : s.memoriesWf) : Out.Wf (execOrange1Write v s) :=
  .next h.writeOrange1

protected theorem State.memoriesWf.execOkey3Write {v : Word} (h : s.memoriesWf) : Out.Wf (execOkey3Write v s) :=
  .next h.writeOkey3

protected theorem State.memoriesWf.execOplimWrite {v : Word} (h : s.memoriesWf) : Out.Wf (execOplimWrite v s) :=
  .next h.writeOplim

/-! ### The Headgate -/

protected theorem State.memoriesWf.execWid {k : BitVec 3} {sel : BitVec 2} (h : s.memoriesWf) : Out.Wf (execWid d k sel s) :=
  h.taskFinish (.modify fun _ h => h.put)

protected theorem State.memoriesWf.asidRead {sub asid : Nat} (h : s.memoriesWf) : (s.asidRead sub asid).2.memoriesWf := by
  unfold State.asidRead
  dsimp only
  split
  · split
    · exact h.setMarks.lookAll
    · exact h.walked
  · exact h

protected theorem State.memoriesWf.recordWords {q : Queue} {asid val : Nat} {l : List (Nat × Nat)} (h : s.memoriesWf) :
    (s.recordWords q asid val l).memoriesWf := by
  induction l generalizing s with
  | nil => exact h
  | cons x r ih =>
    obtain ⟨_, _⟩ := x
    unfold State.recordWords
    split
    · exact ih (h.taskWrite ‹_›)
    · exact h.walkedTo.eventQueue

protected theorem State.memoriesWf.writeRecord {q : Queue} {p : Packet} {state reason number lost : Nat} (h : s.memoriesWf) :
    (s.writeRecord q p state reason number lost).memoriesWf := h.recordWords

protected theorem State.memoriesWf.reportRejection {q : Queue} {p : Packet} {reason : Nat} (h : s.memoriesWf) :
    (s.reportRejection q p reason).memoriesWf := .ite h (.ite h.eventQueue h.writeRecord)

protected theorem State.memoriesWf.arrive {q : Queue} {p : Packet} (h : s.memoriesWf) : (s.arrive q p).2.memoriesWf := by
  unfold State.arrive
  extract_lets why s1
  have h1 : s1.memoriesWf := .ite h h.asidRead
  clear_value why s1
  split
  · exact h1.reportRejection
  · exact h1.mapQueue

protected theorem State.memoriesWf.execLaunchMessage {queue : BitVec 12} {conn : BitVec 16} {packet : List Byte}
    (h : s.memoriesWf) : Out.Wf (execLaunchMessage queue conn packet s) := by
  unfold execLaunchMessage
  refine .next ?_
  split
  · exact .ite h.arrive h
  · exact h

protected theorem State.memoriesWf.execLaunchWriteUalink {queue : BitVec 12} {packet : List Byte} (h : s.memoriesWf) :
    Out.Wf (execLaunchWriteUalink queue packet s) := by
  unfold execLaunchWriteUalink
  refine .next ?_
  split
  · rename_i q _
    have h1 : (if s.queueOpen q then s.arrive q packet else (.error 6, s.reportRejection q packet 6)).2.memoriesWf := by
      split
      · exact h.arrive
      · exact h.reportRejection
    exact .ite h1 h
  · exact h

protected theorem State.memoriesWf.countRun {t : Task} {cluster core : Nat} (h : s.memoriesWf) :
    (s.countRun t cluster core).memoriesWf := h.mapLaunch

/-- A task that starts has no scratch yet, and its state is canonical with every task of the list it stands in. -/
protected theorem State.memoriesWf.addNewTask {q : Queue} {l : Launch} {o cluster n : Nat} {run : TaskRun} {a : Nat}
    (h : s.memoriesWf) : ({ s with tasks := s.tasks ++ [newTask s q l o cluster run a], nextUid := n } : State).memoriesWf :=
  ⟨h.memory, h.scratch, List.forall_mem_append.2 ⟨h.others, List.forall_mem_singleton.2 rfl⟩⟩

protected theorem State.memoriesWf.startTasks {q : Queue} {l : Launch} {cluster : Nat} {p : List (Nat × Nat)} (h : s.memoriesWf) :
    (s.startTasks q l cluster p).memoriesWf := by
  induction p generalizing s with
  | nil => exact h
  | cons x r ih => exact ih (.countRun h.addNewTask)

protected theorem State.memoriesWf.startGroup {q : Queue} {l : Launch} {g cluster : Nat} (h : s.memoriesWf) :
    (s.startGroup q l g cluster).memoriesWf := h.startTasks

protected theorem State.memoriesWf.placeGang {q : Queue} {l : Launch} {n m : Nat} {t : State}
    (h : s.memoriesWf) (e : placeGang q l n m s = some t) : t.memoriesWf := by
  induction n generalizing m s with
  | zero =>
    cases e
    exact h
  | succ n ih =>
    unfold placeGang at e
    split at e
    · cases e
    · exact ih h.startGroup e

protected theorem State.memoriesWf.takeTurnsIn {round : List Queue} {q : Queue} (h : s.memoriesWf) :
    (s.takeTurnsIn round q).memoriesWf := .ite h h

protected theorem State.memoriesWf.takeTurns {q : Queue} {r : Nat} (h : s.memoriesWf) : (s.takeTurns q r).memoriesWf :=
  h.takeTurnsIn

protected theorem State.memoriesWf.passOver {q : Queue} (h : s.memoriesWf) : (s.passOver q).memoriesWf := h

protected theorem State.memoriesWf.afterDispatch {q : Queue} {k : Option (Nat × Nat × Nat)} {n : Nat} (h : s.memoriesWf) :
    (s.afterDispatch q k n).memoriesWf := h.mapClusters.mapQueue

protected theorem State.memoriesWf.inherit {old : Task} (h : s.memoriesWf) : (s.inherit old).memoriesWf :=
  h.mapOthers fun u hu => by
    split
    · exact hu
    · exact hu

protected theorem State.memoriesWf.restart {q : Queue} {l : Launch} {cluster : Nat} {uids : List Nat} (h : s.memoriesWf) :
    (s.restart q l cluster uids).memoriesWf := by
  unfold State.restart
  exact .foldl h.filterTasks.startTasks fun _ _ h => h.inherit

protected theorem State.memoriesWf.execLaunchStart {queue : BitVec 12} (h : s.memoriesWf) : Out.Wf (execLaunchStart queue s) := by
  unfold execLaunchStart
  refine .next ?_
  split
  · exact h
  · split
    · exact h
    · refine .ite h (.ite (.ite h (.ite h.mapQueue ?_)) h.mapLaunch.mapQueue)
      split
      · exact h
      · exact (((h.passOver.takeTurns.placeGang ‹_›).mapLaunch).mapLaunch).afterDispatch

protected theorem State.memoriesWf.unpreload {k : Option (Nat × Nat × Nat)} (h : s.memoriesWf) : (s.unpreload k).memoriesWf :=
  h.filterTasks

protected theorem State.memoriesWf.dispatchWith {resume : List Nat → Nat → State → Option State} {queue : BitVec 12}
    (h : s.memoriesWf) (hr : ∀ (l : List Nat) (c : Nat) (t u : State), t.memoriesWf → resume l c t = some u → u.memoriesWf) :
    (dispatchWith resume queue s).memoriesWf := by
  unfold dispatchWith
  split
  · exact h
  · split
    · exact h
    · split
      · exact h
      · refine .ite h ?_
        extract_lets k s1
        have h1 : s1.memoriesWf := h.passOver.takeTurns.unpreload
        split
        · exact h
        · exact h1.restart.afterDispatch
        · split
          · rename_i s2 e
            have h2 : s2.memoriesWf := hr _ _ _ _ h1 e
            exact h2.afterDispatch
          · exact h1.mapQueue
        · exact h1.startGroup.mapLaunch.afterDispatch

protected theorem State.memoriesWf.execPriorityAgeing {queue : BitVec 12} (h : s.memoriesWf) :
    Out.Wf (execPriorityAgeing queue s) := .next h.mapQueue

protected theorem State.memoriesWf.execGroupReservation {queue : BitVec 12} (h : s.memoriesWf) :
    Out.Wf (execGroupReservation queue s) := by
  unfold execGroupReservation
  refine .next ?_
  split
  · split
    · exact h.mapCluster
    · exact h
  · exact h

protected theorem State.memoriesWf.preloadTask {q : Queue} {l : Launch} {o cluster core : Nat} (h : s.memoriesWf) :
    (s.preloadTask q l o cluster core).memoriesWf :=
  h.addNewTask

protected theorem State.memoriesWf.execPreload {cluster core : Nat} (h : s.memoriesWf) : Out.Wf (execPreload cluster core s) := by
  unfold execPreload
  refine .next (.ite h ?_)
  split
  · exact .ite h.preloadTask h
  · split
    · exact .ite h.preloadTask h
    · exact h
  · exact h

protected theorem State.memoriesWf.dropPreload {t : Task} (h : s.memoriesWf) : (s.dropPreload t).memoriesWf := h.filterTasks

protected theorem State.memoriesWf.runPreload {t : Task} {q : Queue} {i : Item} {core : Nat} (h : s.memoriesWf)
    (ht : Memory.wf t.scratch = true) : (s.runPreload t q i core).memoriesWf := by
  unfold State.runPreload
  extract_lets k s1 t1 s2
  have h1 : s1.memoriesWf := h.passOver.takeTurnsIn.dropPreload
  have h2 : s2.memoriesWf := by
    unfold s2
    split
    · exact .foldl (h1.filterTasks.addTask ht) fun _ _ h => h.inherit
    · exact .mapLaunch (h1.addTask ht)
  exact h2.countRun.afterDispatch

protected theorem State.memoriesWf.startPreload {cluster core : Nat} (h : s.memoriesWf) :
    (s.startPreload cluster core).memoriesWf := by
  unfold State.startPreload
  split
  · exact h
  · rename_i t ht
    split
    · exact h.dropPreload
    · split
      · exact h.dropPreload
      · exact h.dropPreload
      · exact h.dropPreload
      · exact .ite (h.runPreload (h.others t (List.mem_of_find?_eq_some ht))) h.dropPreload

protected theorem State.memoriesWf.writeReport {q : Queue} {l : Launch} {r : GroupRec} (h : s.memoriesWf) :
    (s.writeReport q l r).memoriesWf := .ite h h.recordWords

protected theorem State.memoriesWf.finishLaunch {q : Queue} {l : Launch} (h : s.memoriesWf) : (s.finishLaunch q l).memoriesWf := by
  unfold State.finishLaunch
  extract_lets s0 s1 s2
  have h0 : s0.memoriesWf := .ite h h.writeRecord
  have h1 : s1.memoriesWf := h0
  exact .ite h1.mapQueue.eventQueue h1.mapQueue

protected theorem State.memoriesWf.taskEnded {queue launch group part : Nat} {lost : Bool} (h : s.memoriesWf) :
    (s.taskEnded queue launch group part lost).memoriesWf := by
  unfold State.taskEnded
  extract_lets s1
  have h1 : s1.memoriesWf := h.mapLaunch
  clear_value s1
  split
  · exact h1
  · split
    · exact h1
    · extract_lets s2
      have h2 : s2.memoriesWf := by
        unfold s2
        split
        · exact .ite h1.writeReport h1
        · exact h1
      exact .ite h2.finishLaunch h2

protected theorem State.memoriesWf.dropSaved (h : s.memoriesWf) : s.dropSaved.memoriesWf :=
  .settleAll (.foldl h fun _ _ h => h.releaseAll)

protected theorem State.memoriesWf.releaseNames (h : s.memoriesWf) : s.releaseNames.memoriesWf :=
  .dropSaved (.settleAll (.dropPubs (.foldl h fun _ _ h => h.dropVersion)))

protected theorem State.memoriesWf.moveCharges {uid : Nat} (h : s.memoriesWf) : (s.moveCharges uid).memoriesWf :=
  h.mapClusters

protected theorem State.memoriesWf.freeSlot {t : Task} (h : s.memoriesWf) : (s.freeSlot t).memoriesWf := h

protected theorem State.memoriesWf.vacate (h : s.memoriesWf) : s.vacate.memoriesWf := by
  unfold State.vacate
  extract_lets t s1 s2 s3
  have h1 : s1.memoriesWf := h.releaseNames.moveCharges
  have h2 : s2.memoriesWf := h1
  have h3 : s3.memoriesWf := h2.returnContexts.freeSlot
  exact ⟨h3.memory, rfl, h3.others⟩

protected theorem State.memoriesWf.leaveCore {lost : Bool} (h : s.memoriesWf) : (s.leaveCore lost).memoriesWf := by
  unfold State.leaveCore
  dsimp only
  split
  · exact h.vacate.taskEnded.startPreload
  · exact h.vacate.taskEnded

protected theorem Keeps.recordCell {va : Nat} : Keeps (recordCell va) := by
  unfold recordCell
  refine .get_bind fun _ _ => ?_
  split
  · exact .bind .requireAct fun _ => .pure
  · split
    · exact .raiseAct
    · exact .bind .requireAct fun _ => .bind .requireAct fun _ => .bind (.modify fun _ h => h.setMarks) fun _ => .pure

protected theorem State.memoriesWf.updateWord {pa : Option Nat} {f : Nat → Nat} (h : s.memoriesWf) :
    (s.updateWord pa f).memoriesWf := by
  unfold State.updateWord
  split
  · exact h.commitBytes
  · exact h

protected theorem Keeps.retireTask : Keeps retireTask := by
  unfold retireTask
  refine .get_bind fun _ _ => .ite (.modify fun _ h => h.leaveCore) ?_
  exact .bind .recordCell fun _ => .bind .recordCell fun _ => .modify fun _ h => h.updateWord.updateWord.leaveCore

protected theorem State.memoriesWf.execTdone (h : s.memoriesWf) : Out.Wf (execTdone s) := by
  have h1 : (joinAll 8 s).1.memoriesWf := h.joinAll
  unfold execTdone
  split
  · generalize joinAll 8 s = p at h1 ⊢
    obtain ⟨s1, joined⟩ := p
    have h2 : ({ s1.drain.flushAll with t := { s1.drain.flushAll.t with windows := [] } } : State).memoriesWf :=
      h1.drain.flushAll
    exact .ite (.next h1.enterWait) (h2.finish .retireTask)
  · exact .next h.takeTrap

protected theorem State.memoriesWf.execWqpost (h : s.memoriesWf) : Out.Wf (execWqpost d a b s) := by
  unfold execWqpost
  refine h.finish (.get_bind fun _ _ => .bind .requireAct fun _ => .bind .requireAct fun _ => .bind .requireAct fun _ =>
    .bind (.mapM fun _ => .loadAt) fun _ => .bind (.modify fun _ h => h.drain) fun _ => .ite ?_ ?_)
  · refine .get_bind fun s h => ?_
    split
    · exact .modify fun _ h => h.put
    · exact .set h.arrive.put
  · refine .get_bind fun _ _ => ?_
    split
    · exact .modify fun _ h => h.put
    · exact .modify fun _ h => h.enterWait

protected theorem State.memoriesWf.execWqpostTimeout (h : s.memoriesWf) : Out.Wf (execWqpostTimeout s) := by
  unfold execWqpostTimeout
  refine .next ?_
  split
  · exact .ite h.put h
  · exact h

protected theorem State.memoriesWf.execWqstat (h : s.memoriesWf) : Out.Wf (execWqstat d a b s) := by
  unfold execWqstat
  refine h.finish (.get_bind fun _ _ => .bind .requireAct fun _ => .bind .requireAct fun _ => .bind .requireAct fun _ => ?_)
  split
  · exact .modify fun _ h => h.put
  · exact .modify fun _ h => h.put
  · exact .modify fun _ h => h.put
  · exact .trapAct

/-! ### Save areas and the movement of context -/

protected theorem State.memoriesWf.refocus {p : State} (hp : p.memoriesWf) : (s.refocus p).memoriesWf := by
  unfold State.refocus
  split
  · exact hp.focusService
  · exact hp.packed
  · exact hp.focusHart
  · exact hp.packed

protected theorem Keeps.onHart {α : Type} {uid : Nat} {hid : BitVec 3} {a : Act α} (ha : Keeps a) : Keeps (onHart uid hid a) := by
  unfold onHart
  refine fun _ h => ?_
  dsimp only
  split
  · exact .ok (.refocus (Keeps.run h.focusHart ha ‹_›))
  · exact .error

protected theorem Keeps.onTask {α : Type} {uid : Nat} {a : Act α} (ha : Keeps a) : Keeps (onTask uid a) :=
  fun _ h => Keeps.onHart ha _ h

protected theorem Keeps.areaAt {r : Area} {a : Nat} {k : Acc} : Keeps (areaAt r a k) := by
  unfold areaAt
  refine fun _ h => ?_
  dsimp only
  split
  · exact .error
  · exact .ite .error (.ite .error (.ok h.setMarks))

protected theorem Keeps.areaPutGo {r : Area} {n m : Nat} {l : List Byte} : Keeps (areaPutGo r n m l) := by
  induction n generalizing m l with
  | zero => exact .pure
  | succ n ih =>
    unfold areaPutGo
    exact .ite .pure (.bind .areaAt fun _ => .bind (.modify fun _ h => h.commitCells) fun _ => ih)

protected theorem Keeps.areaPut {r : Area} {a : Nat} {bs : List Byte} : Keeps (areaPut r a bs) := .areaPutGo

protected theorem Keeps.areaGetGo {r : Area} {n m k : Nat} : Keeps (areaGetGo r n m k) := by
  induction n generalizing m k with
  | zero => exact .pure
  | succ n ih =>
    unfold areaGetGo
    exact .ite .pure (.bind .areaAt fun _ => .bind .physLoad fun _ => .bind ih fun _ => .pure)

protected theorem Keeps.areaGet {r : Area} {a n : Nat} : Keeps (areaGet r a n) := .areaGetGo
protected theorem Keeps.headWord {r : Area} {off : Nat} : Keeps (headWord r off) := .bind .areaGet fun _ => .pure
protected theorem State.memoriesWf.undoFold (h : s.memoriesWf) : s.undoFold.memoriesWf := .ite h.squash h

protected theorem Keeps.putHead {r : Area} {add : Nat} {loaded disc : Option Bool} : Keeps (putHead r add loaded disc) :=
  .bind .headWord fun _ => .areaPut

protected theorem Keeps.freshHead {t : Task} {r : Area} : Keeps (freshHead t r) := .bind .headWord fun _ => .areaPut

protected theorem Keeps.ownHead {t : Task} {r : Area} : Keeps (ownHead t r) :=
  .bind .headWord fun _ => .bind .headWord fun _ => .ite .pure .freshHead

protected theorem Keeps.saveScalar {uid : Nat} {r : Area} : Keeps (saveScalar uid r) := by
  unfold saveScalar
  refine .get_bind fun _ _ => ?_
  split
  · exact .pure
  · refine .bind .ownHead fun _ => .bind .putHead fun _ => .bind (.onTask fun _ h => .ok h) fun _ => .bind .areaPut fun _ =>
      .bind .areaPut fun _ => .forM fun _ => .bind (.onHart fun _ h => .ok h) fun _ => .bind .areaPut fun _ => ?_
    exact .onHart (.modify fun _ h => h)

protected theorem State.memoriesWf.yieldTo {b : Option (List Byte)} (h : s.memoriesWf) : (State.yieldTo b s).memoriesWf := by
  unfold State.yieldTo
  extract_lets lost below s1 _ s2 _ s3 old _ _ s4
  have h1 : s1.memoriesWf := .ite h.squash h
  have h2 : s2.memoriesWf := by
    unfold s2
    exact .squash h1
  have h3 : s3.memoriesWf := .ite h2 h1
  clear_value s3
  have h4 : s4.memoriesWf := h3
  exact .ite h3 (.settleAll (.foldl h4 fun _ _ h => .ite h h.dropVersion))

protected theorem Keeps.yieldHarts {uid : Nat} {recs : List (BitVec 3 × List Byte)} : Keeps (yieldHarts uid recs) := by
  unfold yieldHarts
  refine .get_bind fun _ _ => ?_
  split
  · exact .forM fun _ => .onHart (.modify fun _ h => h.yieldTo)
  · exact .pure

protected theorem Keeps.loadScalar {uid : Nat} {r : Area} : Keeps (loadScalar uid r) := by
  unfold loadScalar
  refine .bind .areaGet fun _ => .bind (.mapM fun _ => .bind .areaGet fun _ => .pure) fun recs => ?_
  refine .join .yieldHarts fun _ => .modify fun _ h => ?_
  exact .withCluster (.mapWholeTask (.withCluster h) fun _ hu => hu)

protected theorem State.memoriesWf.partOut {bit : Nat} {r : Area} (h : s.memoriesWf) : (s.partOut bit r).memoriesWf := h
protected theorem State.memoriesWf.partBack {bit : Nat} (h : s.memoriesWf) : (s.partBack bit).memoriesWf := h

protected theorem Keeps.gatherNames : Keeps gatherNames :=
  fun _ h => .ok (((((h.foldl fun _ _ h => h.mergeView).foldl fun _ _ h => h.dropView).mapHarts).dropPubs).settleAll)

protected theorem State.memoriesWf.showNames {table : List (Nat × Entry)} (h : s.memoriesWf) : (s.showNames table).memoriesWf :=
  h.mapHarts

protected theorem Keeps.markPoison {r : Area} {a n : Nat} : Keeps (markPoison r a n) :=
  .bind (.mapM fun _ => .areaAt) fun _ => .modify fun _ h => h

protected theorem Keeps.spillName {r : Area} {base k : Nat} {e : Entry} : Keeps (spillName r base k e) := by
  unfold spillName
  refine .get_bind fun _ _ => ?_
  split
  · refine .ite ?_ (.join (.modify fun _ h => h.releaseAll) fun _ => .pure)
    exact .bind .areaPut fun _ => .join .markPoison fun _ => .join (.modify fun _ h => h.releaseAll) fun _ => .pure
  · exact .pure

protected theorem State.memoriesWf.keepName {p : Nat × Entry} (h : s.memoriesWf) : (s.keepName p).memoriesWf := h

protected theorem State.memoriesWf.spillIn {l : List (Nat × Entry)} (h : s.memoriesWf) : (s.spillIn l).memoriesWf :=
  h.mapShows

protected theorem Keeps.spillTables {r : Area} {base : Nat} : Keeps (spillTables r base) := by
  unfold spillTables
  refine .get_bind fun _ _ => .bind (.modify fun _ h => h.foldl fun _ _ h => h.keepName) fun _ => .bind (.mapM fun _ =>
    .spillName) fun _ => .bind (.modify fun _ h => h.foldl fun _ _ h => ?_) fun _ =>
    .bind (.modify fun _ h' => h'.spillIn) fun _ => .get_bind fun _ _ => .bind .areaPut fun _ =>
    .modify fun _ h' => h'.settleAll
  exact .ite h h.releaseAll

protected theorem Keeps.saveNames {r : Area} {base : Option Nat} {listed : List Nat} : Keeps (saveNames r base listed) := by
  unfold saveNames
  dsimp only
  refine .get_bind fun _ _ => .ite .waitAct (.bind (.modify fun _ h => .mapHarts h) fun _ => ?_)
  split
  · exact .bind .spillTables fun _ => .bind .putHead fun _ => .modify fun _ h => .partOut h
  · exact .bind .areaPut fun _ => .bind .putHead fun _ => .modify fun _ h => .partOut h

protected theorem Keeps.saveNoNames {r : Area} {spill : Bool} : Keeps (saveNoNames r spill) := by
  unfold saveNoNames
  exact .bind .areaPut fun _ => .putHead

protected theorem Keeps.spillSaved {spare : Nat} : Keeps (spillSaved spare) := by
  unfold spillSaved
  refine .get_bind fun _ _ => ?_
  split
  · exact .pure
  · exact .bind .headWord fun _ => .join .areaPut fun _ => .bind .spillTables fun _ => .putHead

protected theorem Keeps.loadName {saved : List (Nat × Entry)} {k : Nat} {b : List Byte} : Keeps (s.loadName saved k b) :=
  .ite .pure (.ite .pure fun _ h => .ok h)

protected theorem Keeps.loadNames {r : Area} {src : Option Task} : Keeps (loadNames r src) :=
  .bind .areaGet fun _ => .get_bind fun _ _ => .bind (.mapM fun _ => .bind .loadName fun _ => .pure) fun _ =>
    .bind .putHead fun _ => .modify fun _ h => .mapHarts h

protected theorem Keeps.dropContext {core : Nat} : Keeps (dropContext core) := by
  unfold dropContext
  refine .get_bind fun _ _ => ?_
  split
  · exact .pure
  · exact .join (.onTask (.bind .gatherNames fun _ =>
      .modify fun _ h => (h.foldl fun _ _ h => h.dropVersion).settleAll)) fun _ => .modify fun _ h => h

protected theorem Keeps.freshSegs {bs : List Byte} {n : Nat} : Keeps (freshSegs bs n) := by
  induction n generalizing bs with
  | zero => exact .pure
  | succ n ih =>
    unfold freshSegs
    refine .ite .pure (.get_bind fun _ h => ?_)
    dsimp only
    split
    · exact .waitAct
    · exact .bind (.set (h.alloc ‹_›)) fun _ => .bind ih fun _ => .pure

protected theorem Keeps.restoreVersion {r : Area} {base k : Nat} {old : Entry} : Keeps (restoreVersion r base k old) := by
  unfold restoreVersion
  refine .get_bind fun _ _ => .bind ?_ fun _ => .bind .freshSegs fun _ => .bind (.ite (.get_bind fun _ h => ?_) .pure) fun _ =>
    .modify fun _ h => ?_
  · split
    · exact .pure
    · exact .areaGet
  · split
    · exact .waitAct
    · exact .bind (.set (h.alloc ‹_›)) fun _ => .pure
  · exact .ite h h

protected theorem Keeps.restoreOne {r : Area} {base k : Nat} : Keeps (restoreOne r base k) :=
  .get_bind fun _ _ => .forM fun _ => .restoreVersion

protected theorem Keeps.saveTiles {r : Area} : Keeps (saveTiles r) := by
  unfold saveTiles
  refine .get_bind fun _ _ => .ite .waitAct ?_
  exact .bind .areaPut fun _ => .bind (.forM fun _ => .forM fun _ => .areaPut) fun _ => .bind .putHead fun _ =>
    .modify fun _ h => .partOut h

protected theorem Keeps.loadTiles {r : Area} : Keeps (loadTiles r) := by
  unfold loadTiles
  refine .get_bind fun _ _ => .ite .waitAct ?_
  exact .bind .areaGet fun _ => .bind (.mapM fun _ => .mapM fun _ => .bind .areaGet fun _ => .pure) fun _ =>
    .modify fun _ h => .partBack h

protected theorem State.memoriesWf.emptyWindows (h : s.memoriesWf) : s.emptyWindows.memoriesWf := h.flushAll

/-- Scratch that is saved away is empty. -/
protected theorem State.memoriesWf.emptyScratch {p : List Mark} {n : Nat} (h : s.memoriesWf) :
    ({ s with t := { s.t with scratch := [], scrPoison := p, scrb := n } } : State).memoriesWf :=
  ⟨h.memory, rfl, h.others⟩

protected theorem Keeps.saveScratch {r : Area} {base : Nat} : Keeps (saveScratch r base) := by
  unfold saveScratch
  refine .bind (.modify fun _ h => h.emptyWindows) fun _ => .get_bind fun _ _ => .bind (.forM fun _ => ?_) fun _ =>
    .bind .putHead fun _ => .modify fun _ h => .partOut h.emptyScratch
  exact .ite (.bind .areaPut fun _ => .ite .markPoison .pure) .pure

/-- Scratch that is loaded holds the bytes of the area. -/
protected theorem State.memoriesWf.setScratch {bs : List Byte} {p : List Mark} {n : Nat} (h : s.memoriesWf) :
    ({ s with t := { s.t with scratch := cellsSet [] 0 bs, scrPoison := p, scrb := n } } : State).memoriesWf :=
  ⟨h.memory, cellsWf_cellsSet bs [] 0 rfl, h.others⟩

protected theorem Keeps.loadScratch {r : Area} {base : Nat} : Keeps (loadScratch r base) := by
  unfold loadScratch
  exact .get_bind fun _ _ => .ite .waitAct (.bind (.mapM fun _ => .ite .pure .areaGet) fun _ =>
    .modify fun _ h => .partBack h.setScratch)

protected theorem Keeps.saveEngines {r : Area} : Keeps (saveEngines r) := by
  unfold saveEngines
  refine .get_bind fun _ _ => .ite .waitAct ?_
  exact .bind (.modify fun _ h => h.emptyWindows) fun _ => .get_bind fun _ _ => .bind .areaPut fun _ =>
    .bind .putHead fun _ => .modify fun _ h => .partOut h

protected theorem Keeps.engineSame {r : Area} {time off n : Nat} : Keeps (engineSame r time off n) :=
  .bind .areaGet fun _ => .pure

protected theorem Keeps.loadEngines {r : Area} {src : Task} : Keeps (loadEngines r src) :=
  .bind (.mapM fun _ => .areaGet) fun _ => .bind .areaGet fun _ => .bind (.mapM fun _ => .engineSame) fun _ =>
    .bind .engineSame fun _ => .bind .engineSame fun _ => .modify fun _ h => .partBack (h.foldl fun _ _ h => h.endEarly)

protected theorem Keeps.areaTask {r : Area} : Keeps (areaTask r) := .bind .headWord fun _ => .get_bind fun _ _ => .pure
protected theorem Keeps.areaOwner {r : Area} {bit : Nat} : Keeps (areaOwner r bit) := .bind .areaTask fun _ => .pure

protected theorem Keeps.atRecord {a : Act Unit} (ha : Keeps a) : Keeps (atRecord a) := by
  unfold atRecord
  refine fun _ h => ?_
  dsimp only
  split
  · split
    · exact .ok (.withCluster (Keeps.run h.withCluster ha ‹_›))
    · exact .error
  · exact ha _ h

protected theorem Keeps.onSome {u : Option Nat} {a : Act Unit} (ha : Keeps a) : Keeps (onSome u a) := by
  unfold onSome
  split
  · exact .onTask ha
  · exact .pure

protected theorem State.memoriesWf.execCtxsave (h : s.memoriesWf) : Out.Wf (execCtxsave a b s) := by
  unfold execCtxsave
  refine h.finish (.atRecord (.bind .requireLevel fun _ => .get_bind fun s h => ?_))
  extract_lets xa v p r task owner _ _
  clear_value owner
  refine .bind .requireAct fun _ => .bind .requireAct fun _ => .bind (.ite .headWord .pure) fun _ =>
    .bind (.ite .headWord .pure) fun _ => .bind .requireAct fun _ => ?_
  extract_lets _ tiles names
  have htiles : ∀ r, Keeps (tiles r) := fun _ => .join (.onSome .saveTiles) fun _ => .join (.onSome .saveScratch) fun _ =>
    .join (.onSome .saveEngines) fun _ => .modify fun _ h => h.advance
  refine .join (.onSome fun _ h => Keeps.saveScalar _ h) fun _ => .ite ?_ (htiles ())
  split
  · exact .bind (.onTask .saveNames) htiles
  · exact .bind .saveNoNames htiles

protected theorem Keeps.ctxloadNames {xa : Word} {r : Area} {task : Option Nat} {core : Nat} :
    Keeps (ctxloadNames xa r task core) := by
  unfold ctxloadNames
  refine .ite .dropContext ?_
  refine .bind .headWord fun _ => .bind .requireAct fun _ => .bind .areaOwner fun _ =>
    .get_bind fun _ _ => .bind .requireAct fun _ => ?_
  split
  · exact .pure
  · refine .bind .dropContext fun _ => .bind (.onTask .loadNames) fun _ => .bind (.modify fun _ h => h) fun _ => ?_
    split
    · exact .modify fun _ h => h.mapTask fun _ h => h
    · exact .pure

protected theorem State.memoriesWf.execCtxload (h : s.memoriesWf) : Out.Wf (execCtxload a b s) := by
  unfold execCtxload
  refine h.finish (.atRecord (.bind .requireLevel fun _ => .get_bind fun s h => ?_))
  extract_lets xa v p owner r task core done k names engines scratch tiles table
  clear_value task
  have hdone : ∀ r, Keeps (done r) := fun _ => .modify fun _ h => h.advance
  have hnames : ∀ r, Keeps (names r) := fun _ => .ite (.get_bind fun _ _ => .bind .headWord fun _ =>
    .bind (.onSome (.get_bind fun _ _ => .bind .requireAct fun _ => .restoreOne)) hdone) (hdone ())
  have hengines : ∀ r, Keeps (engines r) := by
    refine fun _ => .ite (.bind .areaOwner fun t => .bind (.onSome fun _ h => Keeps.loadEngines _ h) fun _ => ?_) (hnames ())
    split
    · exact .ite (hnames ()) (.bind (.modify fun _ h => h.mapWholeTask fun _ hu => hu) hnames)
    · exact hnames ()
  have htable : ∀ r, Keeps (table r) := fun _ => .join .ctxloadNames fun _ => .join (.onSome .loadTiles) fun _ =>
    .ite (.bind .headWord fun _ => .bind .requireAct fun _ => .bind (.onSome .loadScratch) hengines) (hengines ())
  refine .bind .requireAct fun _ => .bind .requireAct fun _ => .ite ?_ (htable ())
  split
  · exact .bind .loadScalar htable
  · exact htable ()

/-! ### Traps and their answers -/

protected theorem State.memoriesWf.execTrap {code : BitVec 7} (h : s.memoriesWf) : Out.Wf (execTrap code s) :=
  .next h.takeTrap

protected theorem State.memoriesWf.execTret (h : s.memoriesWf) : Out.Wf (execTret s) := .ite (.next h) (.next h.takeTrap)

protected theorem State.memoriesWf.execTdecl (h : s.memoriesWf) : Out.Wf (execTdecl s) := by
  unfold execTdecl
  dsimp only
  refine .ite (.next ?_) (.next h.takeTrap)
  split
  · rename_i s1 e
    have h1 : s1.memoriesWf := h.enqueue e
    exact h1
  · exact h

/-- A queue that has room takes the record, and one that has none leaves the state as it is. -/
protected theorem State.memoriesWf.enqueueGetD {s t : State} {lvl : Level} {r : TrapRec} (h : s.memoriesWf) (ht : t.memoriesWf) :
    ((s.enqueue lvl r).getD t).memoriesWf := by
  cases e : s.enqueue lvl r with
  | none => exact ht
  | some u => exact h.enqueue e

protected theorem State.memoriesWf.letQueue {lvl : Level} (h : s.memoriesWf) : (s.letQueue lvl).memoriesWf := by
  unfold State.letQueue
  extract_lets v put
  have hput : ∀ v, (put s v).memoriesWf := fun _ => h
  split
  · exact (hput _).enqueueGetD h
  · exact (hput _).enqueueGetD h
  · split
    · exact h
    · split
      · exact h
      · rename_i e
        obtain ⟨r, -, e⟩ := Option.bind_eq_some_iff.1 e
        exact (h.enqueue e).mapOthers fun u hu => by
          split
          · exact hu
          · exact hu

protected theorem State.memoriesWf.execServiceCoreTakeP {cluster : Nat} (h : s.memoriesWf) :
    Out.Wf (execServiceCoreTakeP cluster s) := by
  unfold execServiceCoreTakeP
  dsimp only
  refine .next ?_
  split
  · exact h
  · exact .ite h (.refocus (.letQueue h.packed.withCluster))

protected theorem State.memoriesWf.execServiceCoreTakeS {cluster : Nat} (h : s.memoriesWf) :
    Out.Wf (execServiceCoreTakeS cluster s) := by
  unfold execServiceCoreTakeS
  dsimp only
  refine .next ?_
  split
  · exact h
  · exact .ite h (.refocus (.letQueue h.packed.withCluster))

protected theorem State.memoriesWf.execLydarTakeO (h : s.memoriesWf) : Out.Wf (execLydarTakeO s) := by
  unfold execLydarTakeO
  refine .next ?_
  split
  · exact h
  · exact h

protected theorem State.memoriesWf.stopHart (h : s.memoriesWf) : s.stopHart.memoriesWf := h.drain.undoFold

protected theorem Keeps.eachHart {uid : Nat} {f : State → State} (hf : ∀ t : State, t.memoriesWf → (f t).memoriesWf) :
    Keeps (eachHart uid f) := by
  unfold eachHart
  refine .get_bind fun _ _ => ?_
  split
  · exact .forM fun _ => .onHart (.modify fun _ h => hf _ h)
  · exact .pure

protected theorem State.memoriesWf.toParked {t : Task} {save : Level × Word} (h : s.memoriesWf) :
    (s.toParked t save).memoriesWf := by
  unfold State.toParked
  extract_lets s1 mark s2 s3
  have h1 : s1.memoriesWf := h.mapTask fun _ hu => hu
  have h2 : s2.memoriesWf := h1.mapCluster
  have h3 : s3.memoriesWf := h2
  clear_value s3
  split
  · exact h3.startPreload
  · exact h3

protected theorem Keeps.parkTask {uid : Nat} {hart : BitVec 3} {r : Area} : Keeps (parkTask uid hart r) := by
  unfold parkTask
  refine .get_bind fun _ _ => ?_
  split
  · exact .pure
  · exact .bind (.eachHart fun _ h => h.stopHart) fun _ => .bind .saveScalar fun _ =>
      .bind (.modify fun _ h => h.mapWholeTask fun _ h => h) fun _ => .modify fun _ h => h.toParked

protected theorem State.memoriesWf.dropFlights (h : s.memoriesWf) : s.dropFlights.memoriesWf := .squash h.drain.squash

protected theorem State.memoriesWf.dropEngines (h : s.memoriesWf) : s.dropEngines.memoriesWf := by
  unfold State.dropEngines
  extract_lets ops fgovs _ s1 undo
  have h1 : s1.memoriesWf := h
  have hundo : ∀ (o : MOp) (s : State), s.memoriesWf → (undo o s).memoriesWf := by
    intro o s h
    unfold undo
    extract_lets _ _ s1
    have h1 : s1.memoriesWf := h
    clear_value s1
    split
    · exact h1.undoVersion
    · exact h1
  exact .foldl (List.foldrRecOn ops undo h1.releaseAll fun t ht o _ => hundo o t ht) fun _ _ h => h.endVersion

protected theorem Keeps.dropWork : Keeps dropWork := by
  unfold dropWork
  refine .get_bind fun _ _ => .bind (.eachHart fun _ h => h.dropFlights) fun _ => .bind (.modify fun _ h => h.dropEngines) fun _ =>
    .bind (.modify fun _ h => h.flushAll) fun _ => .bind .gatherNames fun table => .modify fun s h => ?_
  have h1 : (s.showNames table).memoriesWf := h.showNames
  exact h1

protected theorem Keeps.abandonHere : Keeps abandonHere := by
  unfold abandonHere
  refine .bind .dropWork fun _ => .modify fun s h => ?_
  extract_lets g coll s1 s2
  have h1 : s1.memoriesWf := h
  have h2 : s2.memoriesWf := h1.leaveCore
  exact .ite (.addTask h2 rfl) h.leaveCore

protected theorem State.memoriesWf.freeReserved (h : s.memoriesWf) : s.freeReserved.memoriesWf := h.mapClusters

protected theorem State.memoriesWf.abandon {uid : Nat} (h : s.memoriesWf) : (s.abandon uid).memoriesWf := by
  unfold State.abandon
  split
  · exact h
  · refine .ite h ?_
    split
    · exact h.dropPreload
    · split
      · exact .freeReserved (.refocus (Keeps.run h.focusHart .abandonHere ‹_›))
      · exact h

protected theorem State.memoriesWf.resumeRec {r : TrapRec} (h : s.memoriesWf) : (s.resumeRec r).memoriesWf := by
  unfold State.resumeRec
  split
  · exact .ite h (h.mapWholeTask fun _ h' => h')
  · exact .ite h (.ite h.mapSvc (.ite h.mapSvc h))

protected theorem State.memoriesWf.answered (h : s.memoriesWf) : s.answered.memoriesWf := by
  unfold State.answered
  dsimp only
  split
  · exact .advance h
  · split
    · exact .ite h h
    · exact h
  · exact h

protected theorem State.memoriesWf.execSret (h : s.memoriesWf) : Out.Wf (execSret a b s) := by
  unfold execSret
  refine h.finish (.atRecord (.bind .requireLevel fun _ => .get_bind fun _ _ => ?_))
  extract_lets xb lvl answer
  have hanswer : ∀ r, Keeps (answer r) := fun _ => .modify fun _ h => .ite h.answered h.answered.letQueue
  split
  · exact .modify fun _ h => h.advance
  · rename_i r _
    have hresume : Keeps (modify fun s => s.resumeRec r : Act Unit) := .modify fun _ h => h.resumeRec
    split
    · exact .bind hresume hanswer
    · refine .bind .requireAct fun _ => ?_
      split
      · exact .bind .parkTask hanswer
      · exact .bind hresume hanswer
    · split
      · exact .bind (.modify fun _ h => h.abandon) hanswer
      · exact .bind hresume hanswer
    · exact .bind .trapAct hanswer

protected theorem State.memoriesWf.markDelivered {tr : Trap} (h : s.memoriesWf) : (s.markDelivered tr).memoriesWf := by
  unfold State.markDelivered
  split
  · exact h.mapChannel
  · exact h

protected theorem State.memoriesWf.takeDue (h : s.memoriesWf) : s.takeDue.memoriesWf := by
  unfold State.takeDue
  split
  · exact h
  · exact .takeTrap (.markDelivered (.ite h.squash h))

protected theorem State.memoriesWf.execAsyncTrapDelivery (h : s.memoriesWf) : Out.Wf (execAsyncTrapDelivery s) :=
  .next (.ite h.takeDue h)

protected theorem State.memoriesWf.takeSlot {t : Task} {i : Nat} (h : s.memoriesWf) : (s.takeSlot t i).memoriesWf := by
  have h1 : (s.mapTask t.uid fun t => { t with slot := some i }).memoriesWf := h.mapTask fun _ hu => hu
  exact h1

protected theorem Out.Wf.state {o : Out} (ho : Out.Wf o) (h : s.memoriesWf) : (o.state s).memoriesWf := by
  cases o with
  | next t => exact ho t rfl
  | fault => exact h
  | refused => exact h

protected theorem State.memoriesWf.finishMatrix {n : Nat} (h : s.memoriesWf) : (State.finishMatrix n s).memoriesWf := by
  induction n generalizing s with
  | zero => exact h
  | succ n ih =>
    unfold State.finishMatrix
    split
    · exact h
    · extract_lets s1 s2
      have h1 : s1.memoriesWf := h.execMatrixOpExecute.state h
      have h2 : s2.memoriesWf := .ite h1 h1.mapOp
      exact ih (h2.execMatrixOpComplete.state h2)

protected theorem State.memoriesWf.finishFgov {c : BitVec 2} {n : Nat} (h : s.memoriesWf) :
    (State.finishFgov c n s).memoriesWf := by
  induction n generalizing s with
  | zero => exact h
  | succ n ih =>
    have h1 := h.execFlumeCommandRun (c := c) |>.state h
    unfold State.finishFgov
    split
    · exact .ite (ih (h1.execFlumeCommandComplete.state h1)) h
    · exact h

protected theorem State.memoriesWf.settleEngines (h : s.memoriesWf) : s.settleEngines.memoriesWf :=
  h.finishMatrix.foldl fun _ _ h => h.finishFgov

protected theorem Keeps.preemptTask {uid slot : Nat} : Keeps (preemptTask uid slot) := by
  unfold preemptTask
  refine .get_bind fun s h => ?_
  split
  · exact .pure
  · rename_i t _
    refine .bind (.modify fun _ h => h.takeSlot) fun _ => .bind (.eachHart fun _ h => h.stopHart) fun _ =>
      .bind (.onTask (.modify fun _ h => h.settleEngines)) fun _ => .bind .freshHead fun _ => .bind .areaPut fun _ =>
      .bind .saveScalar fun _ => .get_bind fun s h => ?_
    extract_lets _ _ tiles
    have htiles : ∀ r, Keeps (tiles r) := fun _ => .join (.onTask .saveTiles) fun _ => .join (.onTask .saveScratch) fun _ =>
      .bind (.onTask .saveEngines) fun _ => .modify fun _ h => h.toParked
    exact .ite (.bind (.onTask (.get_bind fun _ _ => .saveNames)) htiles)
      (.ite (.bind .saveNoNames fun _ => .bind (.onTask (.modify fun _ h => h.partOut)) htiles) (htiles ()))

protected theorem Keeps.spillParked {uid : Nat} : Keeps (spillParked uid) := by
  unfold spillParked
  refine .get_bind fun s h => ?_
  extract_lets owns ended
  have hended : ∀ r, Keeps (ended r) := fun _ => .pure
  split
  · exact .pure
  · split
    · exact .pure
    · refine .bind .headWord fun _ => ?_
      split
      · exact .pure
      · extract_lets spare names spilled
        have hnames : ∀ r, Keeps (names r) := fun _ => .bind (.onTask (.get_bind fun _ _ => .saveNames)) hended
        exact .join (.modify fun _ h => h.takeSlot) fun _ => .ite (.join .areaPut hnames) (.bind (.onTask .spillSaved) hended)

protected theorem Keeps.spillAll {l : List Nat} : Keeps (spillAll l) := by
  induction l with
  | nil => exact .pure
  | cons x r ih =>
    unfold spillAll
    exact .bind .spillParked fun _ => .ite .pure ih

protected theorem Keeps.preemptAll {l : List Task} : Keeps (preemptAll l) := by
  induction l with
  | nil => exact .pure
  | cons x r ih =>
    unfold preemptAll
    refine .get_bind fun _ _ => ?_
    split
    · exact .pure
    · exact .bind .preemptTask fun _ => ih

protected theorem State.memoriesWf.settleFocus (h : s.memoriesWf) : s.settleFocus.memoriesWf := by
  unfold State.settleFocus
  refine .ite ?_ h
  split
  · exact h
  · exact h.packed

protected theorem State.memoriesWf.preemptCluster {n : Nat} {t : State} (h : s.memoriesWf) (e : s.preemptCluster n = .inl t) :
    t.memoriesWf := by
  unfold State.preemptCluster at e
  extract_lets p here owners at e
  have hp : p.memoriesWf := h.packed.withCluster
  split at e <;> simp only [Sum.inl.injEq, reduceCtorEq] at e <;> subst e
  · rename_i e
    refine Keeps.run hp ?_ e
    exact .bind .preemptAll fun _ => .ite .pure (.bind .spillAll fun _ => .get_bind fun _ _ => .ite .pure .spillAll)
  · exact hp

protected theorem State.memoriesWf.lackSlot {sub : Nat} (h : s.memoriesWf) : (s.lackSlot sub).memoriesWf := .ite h h.eventP

protected theorem State.memoriesWf.dropPreloads {n : Nat} {incoming : Option Nat} (h : s.memoriesWf) :
    (s.dropPreloads n incoming).memoriesWf := by
  unfold State.dropPreloads
  refine h.foldl fun _ _ h => ?_
  split
  · exact .ite h h.dropPreload
  · exact h

protected theorem State.memoriesWf.execTimeSliceEnd {cluster : Nat} (h : s.memoriesWf) : Out.Wf (execTimeSliceEnd cluster s) := by
  unfold execTimeSliceEnd
  refine .next ?_
  split
  · exact .settleFocus (.refocus (h.dropPreloads.preemptCluster ‹_›))
  · exact h.eventP

protected theorem State.memoriesWf.budgetSaved {t : Task} {u : State} (h : s.memoriesWf) (e : s.budgetSaved t = some u) :
    u.memoriesWf := by
  unfold State.budgetSaved at e
  obtain ⟨i, -, e⟩ := Option.bind_eq_some_iff.1 e
  split at e <;> cases e
  exact Keeps.run h.packed .preemptTask ‹_›

protected theorem State.memoriesWf.execBudgetExpiry (h : s.memoriesWf) : Out.Wf (execBudgetExpiry s) := by
  unfold execBudgetExpiry
  refine .next (.ite h ?_)
  split
  · exact h.lackSlot
  · split
    · exact h
    · exact (h.budgetSaved ‹_›).toS

protected theorem Keeps.loadParts {uid : Nat} {t : Task} : Keeps (loadParts uid t) := by
  have hengines : ∀ r : Area, Keeps (onTask uid fun s => loadEngines r s.t s) := fun _ => .onTask fun _ h => Keeps.loadEngines _ h
  unfold loadParts
  extract_lets parts
  have hparts : ∀ r, Keeps (parts r) := fun _ => .forM fun _ => .join (.onTask .loadTiles) fun _ =>
    .ite (.bind .headWord fun _ => .bind (.onTask .loadScratch) fun _ => .ite (hengines _) .pure) (.ite (hengines _) .pure)
  split
  · exact .bind .loadScalar hparts
  · exact hparts ()

protected theorem State.memoriesWf.resumeTask {uid cluster : Nat} {t : State}
    (h : s.memoriesWf) (e : State.resumeTask uid cluster s = some t) : t.memoriesWf := by
  unfold State.resumeTask at e
  split at e
  · extract_lets s1 at e
    have h1 : s1.memoriesWf := h.mapTask fun _ hu => hu
    split at e <;> cases e
    rename_i e
    exact .countRun (.mapWholeTask (Keeps.run h1 .loadParts e) fun _ hu => hu)
  · cases e

protected theorem State.memoriesWf.resumeAll {l : List Nat} {n : Nat} {t : State}
    (h : s.memoriesWf) (e : resumeAll l n s = some t) : t.memoriesWf := by
  induction l generalizing s with
  | nil =>
    cases e
    exact h
  | cons uid r ih =>
    obtain ⟨s1, e1, e⟩ := Option.bind_eq_some_iff.1 e
    exact ih (h.resumeTask e1) e

protected theorem State.memoriesWf.execGroupDispatch {queue : BitVec 12} (h : s.memoriesWf) : Out.Wf (execGroupDispatch queue s) :=
  .next (h.dispatchWith fun _ _ _ _ h e => h.resumeAll e)

protected theorem State.memoriesWf.execInstructionRetire {mm : Mismatch} (h : s.memoriesWf) :
    Out.Wf (execInstructionRetire mm s) := by
  unfold execInstructionRetire
  dsimp only
  split
  · exact .ite (State.memoriesWf.runFlight (.ite h h)) (.next (.ite h h))
  · exact .next (.ite h h)

protected theorem State.memoriesWf.unpin {p : WindowPin → Bool} (h : s.memoriesWf) : (s.unpin p).memoriesWf :=
  h.foldl fun _ _ h => h.foldl fun _ _ h => .ite h.flushLine h

protected theorem State.memoriesWf.execTlbinv (h : s.memoriesWf) : Out.Wf (execTlbinv a b s) := by
  unfold execTlbinv
  refine h.finish (.bind .requireLevel fun _ => .get_bind fun _ _ => ?_)
  refine .join .requireLevel fun _ => .bind .requireAct fun _ => .bind .requireAct fun _ =>
    .bind (.modify fun _ h => h.drain) fun _ => ?_
  refine .join .waitAct fun _ => .bind (.modify fun _ h => h.tlbDrop) fun _ => .bind (.forM fun _ => ?_) fun _ =>
    .modify fun _ h => h.advance
  exact .ite .pure (.onTask (.modify fun _ h => h.unpin))

/-! ### Resources and rights -/

protected theorem State.memoriesWf.clearCluster {n : Nat} (h : s.memoriesWf) : (s.clearCluster n).memoriesWf := by
  unfold State.clearCluster
  extract_lets v waits s1
  have h1 : s1.memoriesWf := h.mapOthers fun _ hu => hu
  exact h1.mapCluster

protected theorem State.memoriesWf.loseCluster {n : Nat} {incoming : Option Nat} (h : s.memoriesWf) :
    (s.loseCluster n incoming).1.memoriesWf := by
  have h1 : (s.dropPreloads n incoming).memoriesWf := h.dropPreloads
  unfold State.loseCluster
  dsimp only
  split
  · exact h1.lackSlot
  · rename_i q e
    have hq : q.memoriesWf := h1.preemptCluster e
    split
    · exact .refocus hq
    · exact .settleFocus (.refocus hq.clearCluster)

protected theorem State.memoriesWf.unpinGranule {sub g : Nat} (h : s.memoriesWf) : (s.unpinGranule sub g).memoriesWf :=
  h.foldl fun _ _ h => .refocus h.focusHart.unpin

protected theorem State.memoriesWf.loseQueue {n : Nat} (h : s.memoriesWf) : (s.loseQueue n).memoriesWf := by
  unfold State.loseQueue
  split
  · exact h
  · exact .mapClusters (.foldl (h.foldl fun _ _ h => .mapLaunch (.ite h h.writeRecord)) fun _ _ h' => h'.abandon)

protected theorem State.memoriesWf.loseAsid {sub asid : Nat} (h : s.memoriesWf) : (s.loseAsid sub asid).memoriesWf :=
  (h.foldl fun _ _ h => h.abandon).tlbDrop

protected theorem State.memoriesWf.tlbLose {sub : Nat} {p : Nat → Bool} (h : s.memoriesWf) : (s.tlbLose sub p).memoriesWf :=
  h.tlbDrop

protected theorem State.memoriesWf.loseItem {gs : List Grant} {c i : Nat} (h : s.memoriesWf) :
    (s.loseItem gs c i).1.memoriesWf := by
  unfold State.loseItem
  extract_lets l now here
  split
  · split
    · exact h.loseCluster
    · exact h
  · split
    · exact h
    · exact .foldl h fun _ _ h => h.unpinGranule.tlbLose
  · exact .ite h.loseQueue h
  · exact .foldl h fun _ _ h => h.loseAsid
  · split
    · exact h
    · exact .ite h h
  · exact h

protected theorem State.memoriesWf.loseItems {gs : List Grant} {c : Nat} {l : List Nat} (h : s.memoriesWf) :
    (State.loseItems gs c l s).1.memoriesWf := by
  induction l generalizing s with
  | nil => exact h
  | cons i r ih =>
    have h1 : (s.loseItem gs c i).1.memoriesWf := h.loseItem
    unfold State.loseItems
    split
    rename_i s1 done e
    rw [e] at h1
    split
    · exact ih h1
    · exact h1

protected theorem State.memoriesWf.placeClusters {r : Items} (h : s.memoriesWf) : (s.placeClusters r).memoriesWf :=
  .ite h.mapClusters.sendLate h

protected theorem State.memoriesWf.changeGrants {gs : List Grant} {r : Items} {after : State → State} (h : s.memoriesWf)
    (hafter : ∀ t : State, t.memoriesWf → (after t).memoriesWf) : (s.changeGrants gs r after).Wf := by
  have h1 : (State.loseItems gs r.cls r.listed s).1.memoriesWf := h.loseItems
  unfold State.changeGrants
  split
  · rename_i s1 e
    rw [e] at h1
    have h2 : ({ s1 with grants := gs } : State).memoriesWf := h1
    exact .status (hafter _ h2.placeClusters)
  · rename_i s1 e
    rw [e] at h1
    exact .wait h1

protected theorem State.memoriesWf.undraw {c : Nat} {t : Task} (h : s.memoriesWf) : (s.undraw c t).memoriesWf := by
  unfold State.undraw
  refine h.setAmount.mapTask fun _ h => ?_
  split
  · exact h
  · exact h

protected theorem State.memoriesWf.takeFrom {c : Nat} {l : List Holder} {n : Nat} (h : s.memoriesWf) :
    (State.takeFrom c l n s).2.memoriesWf := by
  induction l generalizing n s with
  | nil => exact h
  | cons x r ih => exact ih h.setAmount

protected theorem State.memoriesWf.dropAmountGrant {c : Nat} {i : Holder} {tree : List Holder} (h : s.memoriesWf) :
    (s.dropAmountGrant c i tree).memoriesWf := .ite h h

protected theorem State.memoriesWf.revokeAmount {i : Holder} {c n : Nat} (h : s.memoriesWf) : (s.revokeAmount i c n).Wf := by
  unfold State.revokeAmount
  refine .ite (.status h.takeFrom.setAmount.dropAmountGrant) ?_
  refine .ite (.status h) (.ite ?_ (.wait (h.foldl fun _ _ h => h.undraw)))
  exact .status ((((h.foldl fun _ _ h' => h'.undraw).takeFrom).setAmount).dropAmountGrant)

protected theorem State.memoriesWf.changeDone {k : Nat} (h : s.memoriesWf) : (s.changeDone k).memoriesWf := h

protected theorem State.memoriesWf.rightsFinish {fn : BitVec 4} {act : Items → Nat → State → Did} (h : s.memoriesWf)
    (hact : ∀ (r : Items) (n : Nat) (t : State), t.memoriesWf → (act r n t).Wf) : Out.Wf (rightsFinish fn d a b act s) := by
  unfold rightsFinish
  extract_lets line
  have hline : line.memoriesWf := .ite h h
  refine .ite (.next h.takeTrap) (.ite (.next h.takeTrap) (.ite (.next hline.enterWait) ?_))
  have h1 := hact (itemsOf (s.rx a)) (bitsOf (s.rx b).toNat 5 0) line hline
  split
  · rename_i s1 e
    rw [e] at h1
    have h2 : s1.memoriesWf := h1
    have h3 : (s1.changeDone s.changer).memoriesWf := h2.changeDone
    exact .next (.put (.ite h2 h3))
  · rename_i s1 e
    rw [e] at h1
    have h2 : s1.memoriesWf := h1
    exact .next h2.enterWait

protected theorem State.memoriesWf.zeroGranule {g : Nat} (h : s.memoriesWf) : (s.zeroGranule g).memoriesWf := h.zeroRange

protected theorem State.memoriesWf.afterGrant {i : Holder} {r : Items} {zero : Bool} {fresh : List Nat} (h : s.memoriesWf) :
    (State.afterGrant i r zero fresh s).memoriesWf := by
  unfold State.afterGrant
  split
  · exact h.foldl fun _ _ h' => .ite h'.zeroGranule h'
  · exact .ite (h.foldl fun _ _ h' => h'.zeroGranule) h
  · exact h.foldl fun _ _ h' => h'
  · exact h

protected theorem State.memoriesWf.grantAmount {rights : BitVec 3} {r : Items} {n : Nat} (h : s.memoriesWf) :
    (s.grantAmount rights r n).Wf := by
  unfold State.grantAmount
  refine .ite (.status h) (.ite (.status h) ?_)
  split
  · exact .status h
  · exact .status h

protected theorem State.memoriesWf.grantItems {rights : BitVec 3} {zero : Bool} {r : Items} {n : Nat} (h : s.memoriesWf) :
    (grantItems rights zero r n s).Wf := by
  unfold grantItems
  refine .ite h.grantAmount (.ite (.status h) (.ite (.status h) ?_))
  split
  · exact .status h
  · exact .ite (.status h) (h.changeGrants fun _ h => h.afterGrant)

protected theorem State.memoriesWf.execPgrant (h : s.memoriesWf) : Out.Wf (execPgrant d a b s) :=
  h.rightsFinish fun _ _ _ h => h.grantItems

protected theorem State.memoriesWf.revokeItems {r : Items} {n : Nat} (h : s.memoriesWf) : (revokeItems r n s).Wf := by
  unfold revokeItems
  dsimp only
  split
  · exact .status h
  · exact .ite (.ite (.status h) h.revokeAmount) (h.changeGrants fun _ h => h)

protected theorem State.memoriesWf.execPrevoke (h : s.memoriesWf) : Out.Wf (execPrevoke d a b s) :=
  h.rightsFinish fun _ _ _ h => h.revokeItems

protected theorem State.memoriesWf.delegateItems {rights : BitVec 3} {r : Items} {n : Nat} (h : s.memoriesWf) :
    (delegateItems rights r n s).Wf := by
  unfold delegateItems
  extract_lets me rights amount
  refine .ite (.status h) (.ite (.status h) ?_)
  split
  · exact .status h
  · exact .ite (.status h) (.status h)

protected theorem State.memoriesWf.execPdeleg (h : s.memoriesWf) : Out.Wf (execPdeleg d a b s) :=
  h.rightsFinish fun _ _ _ h => h.delegateItems

protected theorem State.memoriesWf.execPquery (h : s.memoriesWf) : Out.Wf (execPquery d a b s) :=
  h.rightsFinish fun _ _ _ h => .status h

/-! ### What acts on the device as a whole -/

protected theorem State.memoriesWf.setWindow {part num : Nat} {d : List Byte} (h : s.memoriesWf) :
    (s.setWindow part num d).memoriesWf := h

protected theorem State.memoriesWf.execFwset (h : s.memoriesWf) : Out.Wf (execFwset a b s) := by
  unfold execFwset
  refine h.finish (.bind .requireLevel fun _ => .get_bind fun _ _ => .bind .requireAct fun _ => .bind .requireAct fun _ =>
    .withBlock fun _ => .get_bind fun _ _ => ?_)
  refine .ite ?_ (.modify fun _ h => h.setWindow.advance)
  split
  · exact .bind .raiseAct fun _ => .modify fun _ h => h.setWindow.advance
  · exact .modify fun _ h => h.setWindow.advance

protected theorem State.memoriesWf.movePage {src dst len : Nat} (h : s.memoriesWf) : (s.movePage src dst len).memoriesWf := by
  have hmem : ∀ (l : List Host.Cell) (m : List Host.Cell), Memory.wf m = true →
      Memory.wf (l.foldl (fun m c => cellSet m (c.1 - src + dst) c.2) m) = true := fun l m hm =>
    List.foldlRecOn (motive := fun m => Memory.wf m = true) l _ hm fun m hm c _ => cellsWf_cellSet c.2 hm (Nat.zero_le _)
  exact ⟨hmem _ _ (cellsWf_cellsClear dst (dst + len) h.memory), h.scratch, List.forall_mem_map.2 fun u hu => h.others u hu⟩

protected theorem State.memoriesWf.execPageMigration {src dst : Nat} {large : Bool} (h : s.memoriesWf) :
    Out.Wf (execPageMigration src dst large s) := by
  unfold execPageMigration
  refine .next ?_
  extract_lets read s0 len here pinned leaves mine ok other stuck led s1
  have h0 : s0.memoriesWf := .ite h h.lookAll
  have h1 : s1.memoriesWf := h0.tlbDrop.movePage
  refine .ite h0 (.foldl h1 fun s l h => ?_)
  split
  · exact h.commitBytes
  · exact h

protected theorem State.memoriesWf.recallRange {pa n : Nat} (h : s.memoriesWf) : (s.recallRange pa n).memoriesWf :=
  h.foldl fun _ _ h => h.recall

protected theorem State.memoriesWf.performRemote {pa : Nat} {x : RemoteOp} (h : s.memoriesWf) :
    (s.performRemote pa x).2.memoriesWf := by
  cases x with
  | load a n =>
    unfold State.performRemote
    dsimp only
    split
    · exact h
    · exact h.recallRange
  | store a bs =>
    unfold State.performRemote
    dsimp only
    split
    · exact h
    · exact h.commitBytes
  | atomic a op wide x cmp =>
    unfold State.performRemote
    dsimp -zeta only
    extract_lets n bad s1 old
    have h1 : s1.memoriesWf := h.recallRange
    split
    · exact h
    · split
      · exact h1.commitBytes
      · exact h1

protected theorem State.memoriesWf.execRemoteRequest {op : RemoteOp} (h : s.memoriesWf) : Out.Wf (execRemoteRequest op s) := by
  unfold execRemoteRequest
  split
  rename_i a n _
  extract_lets base
  split
  · split
    · split
      · exact h.execLaunchWriteUalink
      · exact .next h
    · exact .next h
  · refine .ite (.next h) ?_
    have h1 : (s.performRemote (s.o.onode.toNat * 2 ^ 40 + a) op).2.memoriesWf := h.performRemote
    exact .next h1

protected theorem State.memoriesWf.execUeWindowAccess {partition : Nat} {op : RemoteOp} (h : s.memoriesWf) :
    Out.Wf (execUeWindowAccess partition op s) := by
  unfold execUeWindowAccess
  split
  rename_i a n _
  refine .next ?_
  split
  · rename_i pa pe _ _
    refine .ite h ?_
    split
    · split
      · refine .ite h ?_
        split
        · rename_i s1 e
          have h1 : s1.memoriesWf := h.aliasRead e
          exact h1
        · exact h
      · exact h
    · have h1 : (s.performRemote pa op).2.memoriesWf := h.performRemote
      exact h1
  · exact h

protected theorem State.memoriesWf.storeFails {e : SbEntry} (h : s.memoriesWf) : (s.storeFails e).memoriesWf :=
  .ite h.drainWhere h

protected theorem State.memoriesWf.engineFails (h : s.memoriesWf) : s.engineFails.memoriesWf := by
  unfold State.engineFails
  extract_lets late flume weir coll
  have hflume : ∀ t, flume = some t → t.memoriesWf := by
    intro t e
    obtain ⟨c, -, e⟩ := List.exists_of_findSome?_eq_some e
    obtain ⟨x, -, rfl⟩ := Option.map_eq_some_iff.1 e
    exact h.copyFault
  have hweir : ∀ t, weir = some t → t.memoriesWf := by
    intro t e
    obtain ⟨c, -, e⟩ := List.exists_of_findSome?_eq_some e
    obtain ⟨m, -, e⟩ := Option.bind_eq_some_iff.1 e
    split at e
    · cases e
    · obtain ⟨f, -, rfl⟩ := Option.map_eq_some_iff.1 e
      exact h.weirNotifyFault.finishWeir
  have hcoll : ∀ t, coll = some t → t.memoriesWf := by
    intro t e
    obtain ⟨c, -, e⟩ := List.exists_of_findSome?_eq_some e
    obtain ⟨m, -, e⟩ := Option.bind_eq_some_iff.1 e
    split at e
    · obtain ⟨f, -, rfl⟩ := Option.map_eq_some_iff.1 e
      exact h.collNotifyFault.finishColl
    · cases e
  clear_value flume weir coll
  cases flume with
  | some t => exact hflume t rfl
  | none =>
    cases weir with
    | some t => exact hweir t rfl
    | none =>
      cases coll with
      | some t => exact hcoll t rfl
      | none => exact h

protected theorem State.memoriesWf.remoteFails {least : Nat} (h : s.memoriesWf) : (s.remoteFails least).memoriesWf := by
  unfold State.remoteFails
  split
  · exact .ite h.takeTrap h
  · exact .ite h.takeTrap h
  · split
    · exact h.storeFails
    · exact .ite h.engineFails h

protected theorem State.memoriesWf.execRemoteErrorResponse (h : s.memoriesWf) : Out.Wf (execRemoteErrorResponse s) :=
  .next h.remoteFails

protected theorem State.memoriesWf.execRemoteAccessTimeout (h : s.memoriesWf) : Out.Wf (execRemoteAccessTimeout s) :=
  .next h.remoteFails

protected theorem State.memoriesWf.loseNode {node : Nat} (h : s.memoriesWf) : (s.loseNode node).memoriesWf := by
  unfold State.loseNode
  extract_lets hit s1
  have h1 : s1.memoriesWf := h.mapTasks fun _ hu => hu
  exact .foldl h1 fun _ _ h => h.eventS

protected theorem State.memoriesWf.execLinkFailure {port : Nat} {lostNode : Option Nat} (h : s.memoriesWf) :
    Out.Wf (execLinkFailure port lostNode s) := by
  unfold execLinkFailure
  refine .next ?_
  extract_lets parts s1 s2
  have h1 : s1.memoriesWf := .foldl h.eventO fun _ _ h => h.eventP
  have h2 : s2.memoriesWf := h1.mapTasks fun _ hu => hu
  clear_value s2
  split
  · exact h2.loseNode
  · exact h2

protected theorem State.memoriesWf.poisonLine {line : Nat} (h : s.memoriesWf) : (s.poisonLine line).memoriesWf := h

protected theorem State.memoriesWf.poisonDirty {t : Task} (h : s.memoriesWf) : (s.poisonDirty t).memoriesWf := by
  unfold State.poisonDirty
  refine h.foldl fun _ _ h => h.foldl fun _ _ h => ?_
  split
  · exact .ite h.poisonLine h
  · exact h

protected theorem State.memoriesWf.runAgain (h : s.memoriesWf) : s.runAgain.memoriesWf := by
  unfold State.runAgain
  extract_lets t v
  have hv : v.memoriesWf := .vacate h
  have h1 := hv.addTask (t := t.again v.nextUid) rfl
  exact .mapLaunch h1

protected theorem State.memoriesWf.loseHere (h : s.memoriesWf) : s.loseHere.memoriesWf := by
  unfold State.loseHere
  extract_lets t kept v
  have hv : v.memoriesWf := by
    refine .vacate ⟨h.memory, ?_, h.others⟩
    dsimp only
    split
    · exact h.scratch
    · exact h.scratch
  have hkept : ∀ u ∈ kept, Memory.wf u.scratch = true := by
    unfold kept
    split
    · exact List.forall_mem_singleton.2 rfl
    · exact List.forall_mem_nil _
  exact .taskEnded (hv.withTasks (List.forall_mem_append.2 ⟨hv.others, hkept⟩))

protected theorem State.memoriesWf.loseTask {t : Task} (h : s.memoriesWf) : (s.loseTask t).memoriesWf :=
  .ite (.runAgain h.poisonDirty.focusHart) (.loseHere h.poisonDirty.focusHart)

protected theorem State.memoriesWf.loseElsewhere {t : Task} (h : s.memoriesWf) : (s.loseElsewhere t).memoriesWf := by
  unfold State.loseElsewhere
  refine .ite ?_ h.abandon
  split
  · split
    · exact .startPreload (.runAgain (Keeps.run h.focusHart .dropWork ‹_›))
    · exact .runAgain (Keeps.run h.focusHart .dropWork ‹_›)
  · exact h

protected theorem State.memoriesWf.fence {chiplet : Nat} (h : s.memoriesWf) : (s.fence chiplet).memoriesWf := by
  unfold State.fence
  refine .ite h ?_
  split
  · exact .eventO (.foldl (.eventO (((h.packed.foldl fun _ _ h' => h'.dropPreload).foldl fun _ _ h' => h'.loseTask).foldl fun
      _ _ h' => h'.loseElsewhere)) fun _ _ h' => h'.eventP)
  · exact .refocus (.eventO (.foldl (.eventO (((h.packed.foldl fun _ _ h => h.dropPreload).foldl fun _ _ h =>
      h.loseTask).foldl fun _ _ h => h.loseElsewhere)) fun _ _ h => h.eventP))

protected theorem State.memoriesWf.execTheigLinkFailure {chiplet : Nat} (h : s.memoriesWf) :
    Out.Wf (execTheigLinkFailure chiplet s) := .next h.fence

protected theorem State.memoriesWf.execWatchdogExpiry {chiplet : Nat} (h : s.memoriesWf) : Out.Wf (execWatchdogExpiry chiplet s) :=
  .next h.fence

protected theorem State.memoriesWf.execServiceCoreSoftError {cluster : Nat} (h : s.memoriesWf) :
    Out.Wf (execServiceCoreSoftError cluster s) := .next h.fence

protected theorem State.memoriesWf.execFenceCommand {chiplet : Nat} (h : s.memoriesWf) : Out.Wf (execFenceCommand chiplet s) :=
  .next h.fence

protected theorem State.memoriesWf.execChipletReset {chiplet : Nat} (h : s.memoriesWf) : Out.Wf (execChipletReset chiplet s) :=
  .next (.ite h.mapClusters h)

protected theorem State.memoriesWf.execPowerThrottle {watts : Nat} (h : s.memoriesWf) : Out.Wf (execPowerThrottle watts s) :=
  .next h

protected theorem Out.Wf.execPowerOn {node : BitVec 10} {failed : List Nat} :
    Out.Wf (execPowerOn node failed s) := .next (.foldl reset_memoriesWf fun _ _ h => h.fence)

protected theorem State.memoriesWf.execSramSoftError {site : SramSite} (h : s.memoriesWf) : Out.Wf (execSramSoftError site s) := by
  unfold execSramSoftError
  refine .next ?_
  split
  · exact h.mapCluster
  · exact h.poisonLine
  · exact .ite h h
  · exact h
  · exact h.fence
  · exact h

protected theorem State.memoriesWf.execStoreCommit {n : Nat} (h : s.memoriesWf) : Out.Wf (execStoreCommit n s) := by
  unfold execStoreCommit
  refine .next ?_
  split
  · exact h
  · exact .ite h.commitEntry h

/-! ### What a step does -/

protected theorem State.memoriesWf.illegalWord {w : IWord} (h : s.memoriesWf) : Out.Wf (illegalWord w s) := .next h.takeTrap

/-- Every instruction and every event keeps the memories canonical. -/
protected theorem State.memoriesWf.exec {i : Instr} (h : s.memoriesWf) : Out.Wf (exec i s) :=
  match i with
  | .add .. => h.execAdd
  | .sub .. => h.execSub
  | .and .. => h.execAnd
  | .or .. => h.execOr
  | .xor .. => h.execXor
  | .sll .. => h.execSll
  | .srl .. => h.execSrl
  | .sra .. => h.execSra
  | .slt .. => h.execSlt
  | .sltn .. => h.execSltn
  | .min .. => h.execMin
  | .max .. => h.execMax
  | .minn .. => h.execMinn
  | .maxn .. => h.execMaxn
  | .andn .. => h.execAndn
  | .orn .. => h.execOrn
  | .mul .. => h.execMul
  | .mulh .. => h.execMulh
  | .mulhn .. => h.execMulhn
  | .div .. => h.execDiv
  | .divn .. => h.execDivn
  | .rem .. => h.execRem
  | .remn .. => h.execRemn
  | .clz .. => h.execClz
  | .ctz .. => h.execCtz
  | .popc .. => h.execPopc
  | .bext .. => h.execBext
  | .bins .. => h.execBins
  | .addi .. => h.execAddi
  | .andi .. => h.execAndi
  | .ori .. => h.execOri
  | .xori .. => h.execXori
  | .slli .. => h.execSlli
  | .srli .. => h.execSrli
  | .srai .. => h.execSrai
  | .slti .. => h.execSlti
  | .sltni .. => h.execSltni
  | .lhi .. => h.execLhi
  | .lsh .. => h.execLsh
  | .ldd .. => h.execLdd
  | .ldw .. => h.execLdw
  | .ldwn .. => h.execLdwn
  | .ldbn .. => h.execLdbn
  | .std .. => h.execStd
  | .stw .. => h.execStw
  | .stb .. => h.execStb
  | .lddX .. => h.execLddX
  | .ldwX .. => h.execLdwX
  | .ldwnX .. => h.execLdwnX
  | .ldh .. => h.execLdh
  | .ldhn .. => h.execLdhn
  | .ldb .. => h.execLdb
  | .ldbnX .. => h.execLdbnX
  | .stdX .. => h.execStdX
  | .stwX .. => h.execStwX
  | .sth .. => h.execSth
  | .stbX .. => h.execStbX
  | .beq .. => h.execBeq
  | .bne .. => h.execBne
  | .blt .. => h.execBlt
  | .bge .. => h.execBge
  | .bltn .. => h.execBltn
  | .bgen .. => h.execBgen
  | .bsub .. => h.execBsub
  | .jmp .. => h.execJmp
  | .call .. => h.execCall
  | .jr .. => h.execJr
  | .jalr .. => h.execJalr
  | .ret => h.execRet
  | .sget .. => h.execSget
  | .sput .. => h.execSput
  | .fflagsSyncAccess .. => h.execFflagsSyncAccess
  | .mshapeWrite .. => h.execMshapeWrite
  | .protMmClear .. => h.execProtMmClear
  | .vstartRepcntRestore .. => h.execVstartRepcntRestore
  | .vwin .. => h.execVwin
  | .lfork .. => h.execLfork
  | .ljoin .. => h.execLjoin
  | .wid .. => h.execWid
  | .nop => h.execNop
  | .yield => h.execYield
  | .tdone => h.execTdone
  | .vsetl .. => h.execVsetl
  | .rep .. => h.execRep
  | .cnew .. => h.execCnew
  | .cdrop .. => h.execCdrop
  | .cshare .. => h.execCshare
  | .cseam .. => h.execCseam
  | .chemh .. => h.execChemh
  | .chemt .. => h.execChemt
  | .csplit .. => h.execCsplit
  | .cslice .. => h.execCslice
  | .cpack .. => h.execCpack
  | .cmovv .. => h.execCmovv
  | .cretype .. => h.execCretype
  | .cpost .. => h.execCpost
  | .ctake .. => h.execCtake
  | .cpostTimeout => h.execCpostTimeout
  | .ctakeTimeout => h.execCtakeTimeout
  | .clen .. => h.execClen
  | .cinfo .. => h.execCinfo
  | .cpool .. => h.execCpool
  | .vget .. => h.execVget
  | .vput .. => h.execVput
  | .vadd .. => h.execVadd
  | .vsub .. => h.execVsub
  | .vrsub .. => h.execVrsub
  | .vmul .. => h.execVmul
  | .vadds .. => h.execVadds
  | .vsubs .. => h.execVsubs
  | .vmulh .. => h.execVmulh
  | .vavg .. => h.execVavg
  | .vdiv .. => h.execVdiv
  | .vrem .. => h.execVrem
  | .vmin .. => h.execVmin
  | .vmax .. => h.execVmax
  | .vand .. => h.execVand
  | .vor .. => h.execVor
  | .vxor .. => h.execVxor
  | .vandn .. => h.execVandn
  | .vsll .. => h.execVsll
  | .vsrl .. => h.execVsrl
  | .vsra .. => h.execVsra
  | .vrot .. => h.execVrot
  | .vceq .. => h.execVceq
  | .vcne .. => h.execVcne
  | .vclt .. => h.execVclt
  | .vcle .. => h.execVcle
  | .vfadd .. => h.execVfadd
  | .vfsub .. => h.execVfsub
  | .vfmul .. => h.execVfmul
  | .vfdiv .. => h.execVfdiv
  | .vfmin .. => h.execVfmin
  | .vfmax .. => h.execVfmax
  | .vfma .. => h.execVfma
  | .vfms .. => h.execVfms
  | .vfceq .. => h.execVfceq
  | .vfclt .. => h.execVfclt
  | .vfcle .. => h.execVfcle
  | .vfcun .. => h.execVfcun
  | .vscale .. => h.execVscale
  | .vfnma .. => h.execVfnma
  | .vfsgn .. => h.execVfsgn
  | .vfsqrt .. => h.execVfsqrt
  | .vfrcp .. => h.execVfrcp
  | .vfrsqrt .. => h.execVfrsqrt
  | .vflog2 .. => h.execVflog2
  | .vfexp2 .. => h.execVfexp2
  | .vftanh .. => h.execVftanh
  | .vfabs .. => h.execVfabs
  | .vfneg .. => h.execVfneg
  | .vabs .. => h.execVabs
  | .vneg .. => h.execVneg
  | .vnot .. => h.execVnot
  | .vclz .. => h.execVclz
  | .vpopc .. => h.execVpopc
  | .vfcat .. => h.execVfcat
  | .vmov .. => h.execVmov
  | .vid .. => h.execVid
  | .vcvt .. => h.execVcvt
  | .vslup .. => h.execVslup
  | .vsldn .. => h.execVsldn
  | .vrgath .. => h.execVrgath
  | .vcompr .. => h.execVcompr
  | .vzip .. => h.execVzip
  | .vunzip .. => h.execVunzip
  | .vrev .. => h.execVrev
  | .vmerge .. => h.execVmerge
  | .vbcast .. => h.execVbcast
  | .vmand .. => h.execVmand
  | .vmor .. => h.execVmor
  | .vmxor .. => h.execVmxor
  | .vmnot .. => h.execVmnot
  | .vmcount .. => h.execVmcount
  | .vmlow .. => h.execVmlow
  | .vectorPieceExecute => h.execVectorPieceExecute
  | .boltWaitTimeout => h.execBoltWaitTimeout
  | .instructionRetire .. => h.execInstructionRetire
  | .vredsum .. => h.execVredsum
  | .vredosum .. => h.execVredosum
  | .vredmax .. => h.execVredmax
  | .vredmin .. => h.execVredmin
  | .vredmaxi .. => h.execVredmaxi
  | .vredmini .. => h.execVredmini
  | .vdraw .. => h.execVdraw
  | .vdrawt .. => h.execVdrawt
  | .vdrawp .. => h.execVdrawp
  | .xdmerge .. => h.execXdmerge
  | .vrand .. => h.execVrand
  | .reductionBegin => h.execReductionBegin
  | .vld .. => h.execVld
  | .vlds .. => h.execVlds
  | .vldx .. => h.execVldx
  | .vlseg .. => h.execVlseg
  | .vst .. => h.execVst
  | .vsts .. => h.execVsts
  | .vstx .. => h.execVstx
  | .vsseg .. => h.execVsseg
  | .stashEviction .. => h.execStashEviction
  | .vsetrun .. => h.execVsetrun
  | .smap .. => h.execSmap
  | .sunmap .. => h.execSunmap
  | .sflush .. => h.execSflush
  | .mattach .. => h.execMattach
  | .mdetach => h.execMdetach
  | .mshape .. => h.execMshape
  | .mzero .. => h.execMzero
  | .mread .. => h.execMread
  | .mwrite .. => h.execMwrite
  | .msprog .. => h.execMsprog
  | .msmod .. => h.execMsmod
  | .mmaf .. => h.execMmaf
  | .mmao .. => h.execMmao
  | .matrixOpExecute .. => h.execMatrixOpExecute
  | .matrixOpComplete .. => h.execMatrixOpComplete
  | .fsetl .. => h.execFsetl
  | .fgo .. => h.execFgo
  | .fgov .. => h.execFgov
  | .fnotify .. => h.execFnotify
  | .fdrain .. => h.execFdrain
  | .fcancel .. => h.execFcancel
  | .fresume .. => h.execFresume
  | .fstat .. => h.execFstat
  | .fdrainTimeout => h.execFdrainTimeout
  | .flumeCommandRun .. => h.execFlumeCommandRun
  | .flumeCommandComplete .. => h.execFlumeCommandComplete
  | .amoadd .. => h.execAmoadd
  | .amoand .. => h.execAmoand
  | .amoor .. => h.execAmoor
  | .amoxor .. => h.execAmoxor
  | .amomin .. => h.execAmomin
  | .amomax .. => h.execAmomax
  | .amominn .. => h.execAmominn
  | .amomaxn .. => h.execAmomaxn
  | .amoswp .. => h.execAmoswp
  | .amocas .. => h.execAmocas
  | .amofadd .. => h.execAmofadd
  | .amoaddAr .. => h.execAmoaddAr
  | .amoandAr .. => h.execAmoandAr
  | .amoorAr .. => h.execAmoorAr
  | .amoxorAr .. => h.execAmoxorAr
  | .amominAr .. => h.execAmominAr
  | .amomaxAr .. => h.execAmomaxAr
  | .amominnAr .. => h.execAmominnAr
  | .amomaxnAr .. => h.execAmomaxnAr
  | .amoswpAr .. => h.execAmoswpAr
  | .amocasAr .. => h.execAmocasAr
  | .amofaddAr .. => h.execAmofaddAr
  | .ldacq .. => h.execLdacq
  | .strel .. => h.execStrel
  | .fence .. => h.execFence
  | .binit .. => h.execBinit
  | .barr .. => h.execBarr
  | .bwait .. => h.execBwait
  | .barw .. => h.execBarw
  | .bwaitd .. => h.execBwaitd
  | .bgenBar .. => h.execBgenBar
  | .barrierDeadline => h.execBarrierDeadline
  | .waddr .. => h.execWaddr
  | .tread .. => h.execTread
  | .twait .. => h.execTwait
  | .waddrTimeout => h.execWaddrTimeout
  | .twaitTimeout => h.execTwaitTimeout
  | .nbind .. => h.execNbind
  | .nunbind .. => h.execNunbind
  | .ncmd .. => h.execNcmd
  | .nfence .. => h.execNfence
  | .nstat .. => h.execNstat
  | .nfenceTimeout => h.execNfenceTimeout
  | .weirPartRun .. => h.execWeirPartRun
  | .weirCommandComplete .. => h.execWeirCommandComplete
  | .kgrp .. => h.execKgrp
  | .kred .. => h.execKred
  | .kgat .. => h.execKgat
  | .kcast .. => h.execKcast
  | .kdraw .. => h.execKdraw
  | .collectiveRun .. => h.execCollectiveRun
  | .collectiveComplete .. => h.execCollectiveComplete
  | .trap .. => h.execTrap
  | .tret => h.execTret
  | .tdecl => h.execTdecl
  | .sret .. => h.execSret
  | .ctxsave .. => h.execCtxsave
  | .ctxload .. => h.execCtxload
  | .tlbinv .. => h.execTlbinv
  | .wqpost .. => h.execWqpost
  | .wqstat .. => h.execWqstat
  | .fwset .. => h.execFwset
  | .wqpostTimeout => h.execWqpostTimeout
  | .pgrant .. => h.execPgrant
  | .prevoke .. => h.execPrevoke
  | .pdeleg .. => h.execPdeleg
  | .pquery .. => h.execPquery
  | .asyncTrapDelivery => h.execAsyncTrapDelivery
  | .serviceCoreTakeP .. => h.execServiceCoreTakeP
  | .serviceCoreTakeS .. => h.execServiceCoreTakeS
  | .lydarTakeO => h.execLydarTakeO
  | .launchMessage .. => h.execLaunchMessage
  | .launchWriteUalink .. => h.execLaunchWriteUalink
  | .launchStart .. => h.execLaunchStart
  | .groupDispatch .. => h.execGroupDispatch
  | .priorityAgeing .. => h.execPriorityAgeing
  | .groupReservation .. => h.execGroupReservation
  | .preload .. => h.execPreload
  | .budgetExpiry => h.execBudgetExpiry
  | .timeSliceEnd .. => h.execTimeSliceEnd
  | .pageMigration .. => h.execPageMigration
  | .remoteRequest .. => h.execRemoteRequest
  | .ueWindowAccess .. => h.execUeWindowAccess
  | .remoteErrorResponse => h.execRemoteErrorResponse
  | .remoteAccessTimeout => h.execRemoteAccessTimeout
  | .linkFailure .. => h.execLinkFailure
  | .theigLinkFailure .. => h.execTheigLinkFailure
  | .watchdogExpiry .. => h.execWatchdogExpiry
  | .serviceCoreSoftError .. => h.execServiceCoreSoftError
  | .fenceCommand .. => h.execFenceCommand
  | .chipletReset .. => h.execChipletReset
  | .powerThrottle .. => h.execPowerThrottle
  | .powerOn .. => .execPowerOn
  | .orange1Write .. => h.execOrange1Write
  | .okey3Write .. => h.execOkey3Write
  | .oplimWrite .. => h.execOplimWrite
  | .sramSoftError .. => h.execSramSoftError
  | .storeCommit .. => h.execStoreCommit

protected theorem State.memoriesWf.execWord {w : IWord} (h : s.memoriesWf) : Out.Wf (execWord w s) := by
  unfold execWord
  split
  · exact h.exec
  · exact h.illegalWord

protected theorem State.memoriesWf.fetchThen {pc : Word} {k : IWord → State → Out} (h : s.memoriesWf)
    (hk : ∀ (x : IWord) (t : State), t.memoriesWf → Out.Wf (k x t)) : Out.Wf (fetchThen pc k s) := by
  unfold fetchThen
  split
  · exact hk _ _ (Keeps.run h .fetchAt ‹_›)
  · exact .next h.takeTrap
  · exact .next h.enterWait
  · exact .fault

protected theorem Out.Wf.map {f : State → State} {o : Out} (ho : Out.Wf o) (hf : ∀ t : State, t.memoriesWf → (f t).memoriesWf) :
    Out.Wf (Out.map f o) := by
  cases o with
  | next t => exact .next (hf t (ho t rfl))
  | fault => exact .fault
  | refused => exact .refused

protected theorem State.memoriesWf.continueHere (h : s.memoriesWf) : Out.Wf (continueHere s) := by
  unfold continueHere
  refine .ite ?_ h.continueFlight
  split
  · exact (h.vectorContext ‹_›).continueFlight
  · exact .next h.undoFold.takeTrap

protected theorem State.memoriesWf.repeatStep {run : IWord → State → Out} {r : Rep} (h : s.memoriesWf)
    (hrun : ∀ (x : IWord) (t : State), t.memoriesWf → Out.Wf (run x t)) : Out.Wf (repeatStep run r s) :=
  .map (.ite h.continueHere (h.fetchThen fun _ _ h => hrun _ _ h)) fun _ h' => h'

protected theorem State.memoriesWf.issue {run : IWord → State → Out} (h : s.memoriesWf)
    (hrun : ∀ (x : IWord) (t : State), t.memoriesWf → Out.Wf (run x t)) : Out.Wf (issue run s) := by
  unfold issue
  split
  · exact h.repeatStep fun _ _ h' => hrun _ _ h'
  · refine .ite h.continueHere ?_
    exact .ite (h.fetchThen fun _ _ h' => .ite (hrun _ _ h') h'.continueHere) (h.fetchThen fun _ _ h => hrun _ _ h)

protected theorem State.memoriesWf.mirrored {run : IWord → State → Out} (h : s.memoriesWf)
    (hrun : ∀ (x : IWord) (t : State), t.memoriesWf → Out.Wf (run x t)) : Out.Wf (mirrored run s) := by
  unfold mirrored
  split
  · exact h.issue fun _ _ h' => hrun _ _ h'
  · exact State.memoriesWf.issue (.squash h) fun _ _ h' => hrun _ _ h'
  · exact .next (.takeTrap (.squash h))

protected theorem Out.Wf.limit {s t : State} {f : State → Out} (h : t.memoriesWf) (e : s.limit = some f) : Out.Wf (f t) := by
  unfold State.limit at e
  dsimp only at e
  repeat' split at e
  all_goals cases e
  exacts [h.execCpostTimeout, h.execCtakeTimeout, h.execFdrainTimeout, h.execWaddrTimeout, h.execTwaitTimeout, h.execNfenceTimeout,
    h.execWqpostTimeout, h.execBoltWaitTimeout, h.execBarrierDeadline]

protected theorem Out.Wf.unlessDone {f : State → Out} {w : Option Wait} {o : Out} (ho : Out.Wf o)
    (hf : ∀ t : State, t.memoriesWf → Out.Wf (f t)) : Out.Wf (unlessDone f w o) := by
  unfold unlessDone
  cases o with
  | next t => exact .ite (hf t (ho t rfl)) ho
  | fault => exact .fault
  | refused => exact .refused

protected theorem State.memoriesWf.turn {run : IWord → State → Out} (h : s.memoriesWf)
    (hrun : ∀ (x : IWord) (t : State), t.memoriesWf → Out.Wf (run x t)) : Out.Wf (turn run s) := by
  unfold turn
  refine .ite (.next h) (.ite h.execAsyncTrapDelivery (.ite h.execBudgetExpiry ?_))
  split
  · rename_i f e
    exact .unlessDone (h.mirrored hrun) fun _ h => .limit h e
  · exact h.mirrored hrun

protected theorem State.memoriesWf.newRound {n : Nat} (h : s.memoriesWf) : (s.newRound n).memoriesWf := by
  unfold State.newRound
  refine h.mapTasks fun _ h => ?_
  split
  · exact h
  · exact h

protected theorem State.memoriesWf.engineMoveRun {m : EngineMove} (h : s.memoriesWf) : Out.Wf (EngineMove.run m s) := by
  unfold EngineMove.run
  split
  · exact h.execMatrixOpExecute
  · exact h.execMatrixOpComplete
  · exact h.execFlumeCommandRun
  · exact h.execFlumeCommandComplete
  · exact h.execWeirPartRun
  · exact h.execWeirCommandComplete
  · exact h.execCollectiveRun
  · exact h.execCollectiveComplete

protected theorem State.memoriesWf.focus {x : Agent} (h : s.memoriesWf) : (s.focus x).memoriesWf := by
  unfold State.focus
  split
  · exact h.focusHart
  · exact h.focusService

protected theorem State.memoriesWf.moveRun {m : Move} (h : s.memoriesWf) : Out.Wf (Move.run m s) := by
  unfold Move.run
  split
  · exact h.execLydarTakeO
  · exact h.execServiceCoreTakeP
  · exact h.execServiceCoreTakeS
  · exact .map h.focusHart.engineMoveRun fun _ h' => h'.refocus
  · exact .next h.newRound
  · exact .map h.focus.execStoreCommit fun _ h' => h'.refocus
  · exact .map h.focusHart.execBudgetExpiry fun _ h' => h'.refocus.settleFocus
  · exact h.execPriorityAgeing
  · exact h.execGroupReservation
  · exact h.execLaunchStart
  · exact h.execGroupDispatch

protected theorem State.memoriesWf.afterTurn (h : s.memoriesWf) : s.afterTurn.memoriesWf := h
protected theorem State.memoriesWf.afterMove (h : s.memoriesWf) : s.afterMove.memoriesWf := h

protected theorem State.memoriesWf.schedule {run : IWord → State → Out} (h : s.memoriesWf)
    (hrun : ∀ (x : IWord) (t : State), t.memoriesWf → Out.Wf (run x t)) : Out.Wf (schedule run s) := by
  unfold schedule
  dsimp only
  split
  · exact .map (State.memoriesWf.turn h fun _ _ h' => hrun _ _ h') fun _ h' => h'.afterTurn
  · split
    · exact .map (State.memoriesWf.moveRun h) fun _ h' => h'.afterMove
    · exact .next (.afterMove h)
  · split
    · exact .next (.focus h)
    · exact .next h

protected theorem State.memoriesWf.ownerState {xa xb : Word} (h : s.memoriesWf) : (ownerState xa xb s).memoriesWf := h.packed

protected theorem State.memoriesWf.ownerStep {run : IWord → State → Out} {i : Instr} {xa xb : Word} {rest : List Agenda}
    (h : s.memoriesWf) (hrun : ∀ (x : IWord) (t : State), t.memoriesWf → Out.Wf (run x t)) :
    Out.Wf (ownerStep run i xa xb s rest) := by
  have h1 : (ownerState xa xb s).memoriesWf := h.ownerState
  have h2 : Out.Wf (exec i (ownerState xa xb s)) := h1.exec
  unfold ownerStep
  split
  · rename_i p e
    have h3 : (s.refocus p).memoriesWf := .refocus (h2 p e)
    split
    · exact .next h3
    · exact h3.schedule hrun
  · exact .fault
  · exact .refused

protected theorem State.memoriesWf.stepWith {run : IWord → State → Out} (h : s.memoriesWf)
    (hrun : ∀ (x : IWord) (t : State), t.memoriesWf → Out.Wf (run x t)) : Out.Wf (stepWith run s) := by
  have h1 : ∀ rest, ({ s with agenda := rest } : State).memoriesWf := fun _ => h
  unfold stepWith
  split
  · exact h.schedule hrun
  · exact (h1 _).exec
  · exact .next h
  · exact .next (h1 _).tlbDrop
  · exact .next (h1 _).focus
  · exact h.ownerStep hrun
  · exact .next (.ite (h1 _) (h1 _).commitBytes)

end Operations

/-- Settles O59: by one lemma for each operation of the model, from the memory up to the step. -/
theorem stepKeepsTheMemories : Obligations.StepKeepsTheMemories := fun _ t h e => h.stepWith (fun _ _ h => h.execWord) t e

end Sys2Proof.Machine
end

section
/-! The proof of `DecodeAndEncodeAgree`: the decoder's results are read back by the encoder. Each row of a decoder's table
checks the fields that its instruction does not use and answers with an instruction; one rule for each check turns
the row into an equation between the word's fields and the fields that the encoder writes. -/

namespace Sys2Proof.Laws

/-! ### Rules for the checks -/

/-- Whatever instruction the decoder's result `r` holds is well formed and has the fields `f`. -/
def ReadsBack (f : Fields) (r : Except DecodeErr Instr) : Prop :=
  ∀ i, r = .ok i → i.wellFormed = true ∧ fieldsOf i = some f

namespace ReadsBack
variable {f : Fields} {k : Except DecodeErr Instr}

@[simp] theorem ok_iff {i : Instr} : ReadsBack f (.ok i) ↔ i.wellFormed = true ∧ fieldsOf i = some f := by
  simp [ReadsBack]

@[simp] theorem error (e : DecodeErr) : ReadsBack f (.error e) := nofun

@[simp] theorem ite_iff {c : Prop} [Decidable c] {k' : Except DecodeErr Instr} :
    ReadsBack f (if c then k else k') ↔ (c → ReadsBack f k) ∧ (¬c → ReadsBack f k') := by
  split <;> simp [*]

@[simp] theorem zeroThen_iff {n : Nat} {z : BitVec n} : ReadsBack f (zeroThen z k) ↔ (z = 0#n → ReadsBack f k) := by
  simp [zeroThen]

@[simp] theorem smallField_iff {n limit : Nat} {g : Reg} {k : BitVec n → Except DecodeErr Instr} :
    ReadsBack f (smallField limit g k) ↔ (g.toNat < limit → ReadsBack f (k (g.setWidth n))) := by
  simp [smallField]

@[simp] theorem pairThen_iff {g : Reg} : ReadsBack f (pairThen g k) ↔ (pairField g = true → ReadsBack f k) := by
  simp [pairThen]

@[simp] theorem scratchThen_iff {scr : Bool} {g : Reg} :
    ReadsBack f (scratchThen scr g k) ↔ ((!scr || scratchField g) = true → ReadsBack f k) := by
  cases scr <;> simp [scratchThen]

end ReadsBack

/-! ### The encoder's formats and their fields -/

/-- Format B of a word's own fields is the word again. -/
theorem fmtB_self (f : Fields) : fmtB f.op f.d f.a f.imm11 = f := by
  simp only [fmtB, Fields.imm11, BitVec.extractLsb'_append_eq_left, BitVec.extractLsb'_append_eq_right]

/-- Format C of a word's own fields is the word again. -/
theorem fmtC_self (f : Fields) : fmtC f.op f.d f.imm18 = f := by
  simp (disch := omega) only [fmtC, Fields.imm18, BitVec.extractLsb'_append_eq_of_le, BitVec.extractLsb'_append_eq_of_add_le,
    Nat.reduceSub, BitVec.extractLsb'_eq_self]

/-- Format J of a word's own fields is the word again. -/
theorem fmtJ_self (f : Fields) : fmtJ f.op f.imm25 = f := by
  simp (disch := omega) only [fmtJ, Fields.imm25, BitVec.extractLsb'_append_eq_of_le, BitVec.extractLsb'_append_eq_of_add_le,
    Nat.reduceSub, BitVec.extractLsb'_eq_self]

/-- An instruction whose word has format A has the fields `f` where each of its fields is that of `f`. -/
theorem eq_some_fmtA {f : Fields} {o : Option Fields} {op : BitVec 7} {d a b : Reg} {fn : BitVec 4}
    (ho : o = some (fmtA op d a b fn)) (h : f.op = op ∧ f.d = d ∧ f.a = a ∧ f.b = b ∧ f.fn = fn) : o = some f := by
  obtain ⟨rfl, rfl, rfl, rfl, rfl⟩ := h
  exact ho

theorem eq_some_fmtB {f : Fields} {o : Option Fields} {op : BitVec 7} {d a : Reg} {imm : BitVec 11}
    (ho : o = some (fmtB op d a imm)) (h : f.op = op ∧ f.d = d ∧ f.a = a ∧ f.imm11 = imm) : o = some f := by
  obtain ⟨rfl, rfl, rfl, rfl⟩ := h
  rw [ho, fmtB_self]

theorem eq_some_fmtC {f : Fields} {o : Option Fields} {op : BitVec 7} {d : Reg} {imm : BitVec 18}
    (ho : o = some (fmtC op d imm)) (h : f.op = op ∧ f.d = d ∧ f.imm18 = imm) : o = some f := by
  obtain ⟨rfl, rfl, rfl⟩ := h
  rw [ho, fmtC_self]

theorem eq_some_fmtJ {f : Fields} {o : Option Fields} {op : BitVec 7} {imm : BitVec 25}
    (ho : o = some (fmtJ op imm)) (h : f.op = op ∧ f.imm25 = imm) : o = some f := by
  obtain ⟨rfl, rfl⟩ := h
  rw [ho, fmtJ_self]

@[simp] theorem eq_flags_iff {fn : BitVec 4} {z y x : Bool} {k : BitVec 1} :
    fn = BitVec.ofBool z ++ BitVec.ofBool y ++ BitVec.ofBool x ++ k ↔
      fn.getLsbD 3 = z ∧ fn.getLsbD 2 = y ∧ fn.getLsbD 1 = x ∧ BitVec.ofBool (fn.getLsbD 0) = k := by
  revert fn z y x k
  decide

/-- A field is the join of three neighbouring ranges of it. -/
theorem join_three_ranges {l m n : Nat} (v : BitVec (l + m + n)) :
    v.extractLsb' (m + n) l ++ v.extractLsb' n m ++ v.extractLsb' 0 n = v := by
  rw [BitVec.extractLsb'_append_extractLsb'_eq_extractLsb' (Nat.add_comm m n), BitVec.extractLsb'_append_extractLsb']

/-- The field of `fsetl` (R64) is the join of its channel and its level. -/
theorem fsetlField_eq {g : Reg} (h : g.extractLsb' 5 2 = 0#2) : g = 0#2 ++ g.extractLsb' 2 3 ++ g.extractLsb' 0 2 := by
  rw [← h]
  exact (join_three_ranges (l := 2) (m := 3) (n := 2) g).symm

/-- The immediate of an immediate shift (R64) is the join of its code and its amount. -/
theorem shiftField_eq {v : BitVec 11} {k : BitVec 2} (hk : (v.extractLsb' 9 2).toNat = k.toNat)
    (h : v.extractLsb' 6 3 = 0#3) : v = k ++ 0#3 ++ v.extractLsb' 0 6 := by
  rw [← BitVec.eq_of_toNat_eq hk, ← h]
  exact (join_three_ranges (l := 2) (m := 3) (n := 6) v).symm

/-- The immediate of `rep` (R65) is the join of its fields. -/
theorem repField_eq {v : BitVec 25} (h : v.extractLsb' 0 13 = 0#13) :
    v = v.extractLsb' 19 6 ++ BitVec.ofBool (v.getLsbD 18) ++ BitVec.ofBool (v.getLsbD 17) ++ BitVec.ofBool (v.getLsbD 16) ++
      v.extractLsb' 13 3 ++ 0#13 := by
  rw [← h]
  ext i hi
  grind

theorem elemType_code_of_ofCode {c : BitVec 5} {ty : ElemType} (h : ElemType.ofCode c = some ty) : ty.code = c := by
  revert c
  cases ty <;> decide

theorem blockLen_code_of_ofCode {c : BitVec 2} {blk : BlockLen} (h : BlockLen.ofCode c = some blk) : blk.code = c := by
  revert c
  cases blk <;> decide

theorem fenceScope_code_of_ofCode {c : BitVec 3} {sc : FenceScope} (h : FenceScope.ofCode c = some sc) : sc.code = c := by
  revert c
  cases sc <;> decide

@[simp] theorem rounding_code_ofCode (c : BitVec 2) : (Rounding.ofCode c).code = c := by
  revert c
  decide

/-- A field that names a type (R29) is the code of that type. -/
theorem typeField_eq {g : Reg} {ty : ElemType} (hty : ElemType.ofCode (g.extractLsb' 0 5) = some ty)
    (h : g.extractLsb' 5 2 = 0#2) : g = 0#2 ++ ty.code := by
  rw [elemType_code_of_ofCode hty, ← h]
  exact (BitVec.extractLsb'_append_extractLsb' (w := 2) (len := 5)).symm

@[simp] theorem vecFn_eq_iff {fn : BitVec 4} {m s : Bool} {k : BitVec 2} :
    fn = vecFn m s k ↔ fn.getLsbD 3 = m ∧ fn.getLsbD 2 = s ∧ fn.extractLsb' 0 2 = k := by
  revert fn m s k
  decide

@[simp] theorem eq_ofBool_append_iff {fn : BitVec 4} {m : Bool} {k : BitVec 3} :
    fn = BitVec.ofBool m ++ k ↔ fn.getLsbD 3 = m ∧ fn.extractLsb' 0 3 = k := by
  revert fn m k
  decide

theorem unaryFn_eq {fn : BitVec 4} (h : fn.extractLsb' 0 3 = 0#3) : fn = vecFn (fn.getLsbD 3) false 0 := by
  revert fn
  decide

theorem code2_eq_three {c : BitVec 2} (h0 : c.toNat = 0 → False) (h1 : c.toNat = 1 → False) (h2 : c.toNat = 2 → False) :
    c = 3#2 := by
  simp only [imp_false] at *
  bv_omega

/-! ### The tables of the majors -/

section Majors
variable {f : Fields}

theorem decodeMajor01_reads (hop : f.op.toNat = 0x01) : ReadsBack f (decodeMajor01 f) := by
  unfold decodeMajor01
  split
  case h_16 => simp only [imp_false] at *; exact ReadsBack.ok_iff.mpr ⟨rfl, eq_some_fmtA rfl (by simp; bv_omega)⟩
  all_goals exact ReadsBack.ok_iff.mpr ⟨rfl, eq_some_fmtA rfl (by simp; bv_omega)⟩

theorem decodeMajor02_reads (hop : f.op.toNat = 0x02) : ReadsBack f (decodeMajor02 f) := by
  unfold decodeMajor02
  split <;> simp <;> intros
  all_goals exact ⟨rfl, eq_some_fmtA rfl (by simp; bv_omega)⟩

theorem decodeShifti_reads (hop : f.op.toNat = 0x07) : ReadsBack f (decodeShifti f) := by
  rw [decodeShifti, ReadsBack.zeroThen_iff]
  intro hz
  split
  case h_4 => exact .error _
  all_goals
    rename_i hk
    exact ReadsBack.ok_iff.mpr ⟨rfl, eq_some_fmtB rfl ⟨by bv_omega, rfl, rfl, shiftField_eq hk hz⟩⟩

theorem decodeMajor13_reads (hop : f.op.toNat = 0x13) : ReadsBack f (decodeMajor13 f) := by
  unfold decodeMajor13
  split <;> simp
  all_goals exact ⟨rfl, eq_some_fmtA rfl (by simp; bv_omega)⟩

theorem decodeMajor1D_reads (hop : f.op.toNat = 0x1D) : ReadsBack f (decodeMajor1D f) := by
  unfold decodeMajor1D
  split <;> simp <;> intros
  all_goals exact ⟨rfl, eq_some_fmtA rfl (by simp; bv_omega)⟩

theorem decodeMajor20_reads (hop : f.op.toNat = 0x20) : ReadsBack f (decodeMajor20 f) := by
  unfold decodeMajor20
  split
  case h_4 =>
    simp
    intro ha hb hwf
    exact ⟨hwf, eq_some_fmtA rfl (by simp; bv_omega)⟩
  all_goals simp
  all_goals intros
  all_goals exact ⟨rfl, eq_some_fmtA rfl (by simp; bv_omega)⟩

theorem decodeVsetl_reads (hop : f.op.toNat = 0x21) : ReadsBack f (decodeVsetl f) := by
  rw [decodeVsetl, ReadsBack.zeroThen_iff]
  intro hz
  split
  case h_2 => exact .error _
  rename_i blk ty hblk hty
  have e : f.imm11 = 0#4 ++ blk.code ++ ty.code := by
    rw [blockLen_code_of_ofCode hblk, elemType_code_of_ofCode hty, ← hz]
    exact (join_three_ranges (l := 4) (m := 2) (n := 5) f.imm11).symm
  refine ReadsBack.ite_iff.mpr ⟨fun hwf => ReadsBack.ok_iff.mpr ⟨hwf, eq_some_fmtB rfl ⟨?_, rfl, rfl, e⟩⟩, fun _ => .error _⟩
  bv_omega

theorem decodeRep_reads (hop : f.op.toNat = 0x22) : ReadsBack f (decodeRep f) := by
  rw [decodeRep, ReadsBack.zeroThen_iff]
  intro hz
  exact ReadsBack.ok_iff.mpr ⟨rfl, eq_some_fmtJ rfl ⟨by bv_omega, repField_eq hz⟩⟩

theorem decodeMajor28_reads (hop : f.op.toNat = 0x28) : ReadsBack f (decodeMajor28 f) := by
  unfold decodeMajor28
  split
  case h_11 hk =>
    rw [ReadsBack.zeroThen_iff]
    intro hz
    split
    · rename_i hty
      exact ReadsBack.ok_iff.mpr ⟨rfl, eq_some_fmtA rfl ⟨by bv_omega, rfl, rfl, typeField_eq hty hz, by bv_omega⟩⟩
    · exact .error _
  all_goals simp
  all_goals intros
  all_goals exact ⟨rfl, eq_some_fmtA rfl (by simp; bv_omega)⟩

theorem decodeMajor29_reads (hop : f.op.toNat = 0x29) : ReadsBack f (decodeMajor29 f) := by
  unfold decodeMajor29
  split <;> simp <;> intros
  all_goals exact ⟨rfl, eq_some_fmtA rfl (by simp; bv_omega)⟩

theorem decodeMajor2A_reads (hop : f.op.toNat = 0x2A) : ReadsBack f (decodeMajor2A f) := by
  unfold decodeMajor2A
  split <;> simp
  all_goals exact ⟨rfl, eq_some_fmtA rfl (by simp [code2_eq_three, *]; bv_omega)⟩

theorem decodeMajor2B_reads (hop : f.op.toNat = 0x2B) : ReadsBack f (decodeMajor2B f) := by
  unfold decodeMajor2B
  split <;> simp
  all_goals exact ⟨rfl, eq_some_fmtA rfl (by simp [code2_eq_three, *]; bv_omega)⟩

theorem decodeMajor2C_reads (hop : f.op.toNat = 0x2C) : ReadsBack f (decodeMajor2C f) := by
  unfold decodeMajor2C
  split <;> simp
  all_goals exact ⟨rfl, eq_some_fmtA rfl (by simp [code2_eq_three, *]; bv_omega)⟩

theorem decodeMajor2D_reads (hop : f.op.toNat = 0x2D) : ReadsBack f (decodeMajor2D f) := by
  unfold decodeMajor2D
  split <;> simp
  all_goals exact ⟨rfl, eq_some_fmtA rfl (by simp [code2_eq_three, *]; bv_omega)⟩

theorem decodeMajor2E_reads (hop : f.op.toNat = 0x2E) : ReadsBack f (decodeMajor2E f) := by
  unfold decodeMajor2E
  split <;> simp
  all_goals exact ⟨rfl, eq_some_fmtA rfl (by simp [code2_eq_three, *]; bv_omega)⟩

theorem decodeMajor2F_reads (hop : f.op.toNat = 0x2F) : ReadsBack f (decodeMajor2F f) := by
  unfold decodeMajor2F
  split <;> simp
  all_goals exact ⟨rfl, eq_some_fmtA rfl (by simp [code2_eq_three, *]; bv_omega)⟩

theorem decodeMajor30_reads (hop : f.op.toNat = 0x30) : ReadsBack f (decodeMajor30 f) := by
  unfold decodeMajor30
  split <;> simp
  all_goals exact ⟨rfl, eq_some_fmtA rfl (by simp [code2_eq_three, *]; bv_omega)⟩

theorem decodeMajor31_reads (hop : f.op.toNat = 0x31) : ReadsBack f (decodeMajor31 f) := by
  unfold decodeMajor31
  split <;> simp
  all_goals exact ⟨rfl, eq_some_fmtA rfl (by simp [code2_eq_three, *]; bv_omega)⟩

theorem decodeMajor32_reads (hop : f.op.toNat = 0x32) : ReadsBack f (decodeMajor32 f) := by
  unfold decodeMajor32
  split <;> simp
  all_goals exact ⟨rfl, eq_some_fmtA rfl (by simp [code2_eq_three, *]; bv_omega)⟩

theorem decodeMajor33_reads (hop : f.op.toNat = 0x33) : ReadsBack f (decodeMajor33 f) := by
  unfold decodeMajor33
  split <;> simp
  all_goals exact ⟨rfl, eq_some_fmtA rfl (by simp; bv_omega)⟩

theorem decodeVunary_reads (hop : f.op.toNat = 0x34) : ReadsBack f (decodeVunary f) := by
  rw [decodeVunary, ReadsBack.zeroThen_iff]
  intro hz
  have hfn := unaryFn_eq hz
  split
  case h_16 =>
    exact ReadsBack.zeroThen_iff.mpr fun ha =>
      ReadsBack.ok_iff.mpr ⟨rfl, eq_some_fmtA rfl ⟨by bv_omega, rfl, ha, by bv_omega, hfn⟩⟩
  case h_17 => exact .error _
  all_goals exact ReadsBack.ok_iff.mpr ⟨rfl, eq_some_fmtA rfl ⟨by bv_omega, rfl, rfl, by bv_omega, hfn⟩⟩

theorem decodeVcvt_reads (hop : f.op.toNat = 0x35) : ReadsBack f (decodeVcvt f) := by
  rw [decodeVcvt, ReadsBack.zeroThen_iff]
  intro hz
  split
  · rename_i hty
    exact ReadsBack.ok_iff.mpr ⟨rfl, eq_some_fmtA rfl ⟨by bv_omega, rfl, rfl, typeField_eq hty hz, by simp⟩⟩
  · exact .error _

theorem decodeMajor36_reads (hop : f.op.toNat = 0x36) : ReadsBack f (decodeMajor36 f) := by
  unfold decodeMajor36
  split <;> simp <;> intros
  all_goals exact ⟨rfl, eq_some_fmtA rfl (by simp [code2_eq_three, *]; bv_omega)⟩

theorem decodeMajor37_reads (hop : f.op.toNat = 0x37) : ReadsBack f (decodeMajor37 f) := by
  unfold decodeMajor37
  split <;> simp <;> intros
  all_goals exact ⟨rfl, eq_some_fmtA rfl (by simp [code2_eq_three, *]; bv_omega)⟩

theorem decodeMajor38_reads (hop : f.op.toNat = 0x38) : ReadsBack f (decodeMajor38 f) := by
  unfold decodeMajor38
  split
  · simp
    intro ha
    exact ⟨rfl, eq_some_fmtA rfl (by simp; bv_omega)⟩
  · exact .error _

theorem decodeMajor39_reads (hop : f.op.toNat = 0x39) : ReadsBack f (decodeMajor39 f) := by
  unfold decodeMajor39
  split <;> simp <;> intros
  all_goals exact ⟨rfl, eq_some_fmtA rfl (by simp [code2_eq_three, *]; bv_omega)⟩

theorem decodeMajor3A_reads (hop : f.op.toNat = 0x3A) : ReadsBack f (decodeMajor3A f) := by
  unfold decodeMajor3A
  split <;> simp <;> intros
  all_goals exact ⟨rfl, eq_some_fmtA rfl (by simp [*]; bv_omega)⟩

theorem decodeMajor40_reads (hop : f.op.toNat = 0x40) : ReadsBack f (decodeMajor40 f) := by
  unfold decodeMajor40
  split
  case h_5 | h_6 =>
    simp
    intro _ hp
    exact ⟨hp, eq_some_fmtA rfl (by simp; bv_omega)⟩
  all_goals simp
  all_goals intros
  all_goals exact ⟨rfl, eq_some_fmtA rfl (by simp; bv_omega)⟩

theorem decodeMajor41_reads (hop : f.op.toNat = 0x41) : ReadsBack f (decodeMajor41 f) := by
  unfold decodeMajor41
  split
  case h_4 =>
    simp
    intro hm hb ha hd
    refine ⟨Bool.and_eq_true_iff.mpr ⟨Bool.and_eq_true_iff.mpr ⟨hd, ha⟩, hb⟩, eq_some_fmtA rfl ⟨by bv_omega, rfl, rfl, rfl, ?_⟩⟩
    rw [eq_ofBool_append_iff]
    exact ⟨hm, by bv_omega⟩
  case h_5 =>
    simp
    intros
    exact ⟨rfl, eq_some_fmtA rfl (by simp; bv_omega)⟩
  case h_6 => exact .error _
  all_goals
    simp
    intros
    exact ⟨‹_›, eq_some_fmtA rfl (by simp; bv_omega)⟩

theorem decodeMajor46_reads (hop : f.op.toNat = 0x46) : ReadsBack f (decodeMajor46 f) := by
  unfold decodeMajor46
  split
  case h_4 h0 h1 h2 =>
    simp
    intro hb h8
    exact ⟨bne_iff_ne.mpr (by bv_omega), eq_some_fmtA rfl (by simp [code2_eq_three h0 h1 h2]; bv_omega)⟩
  all_goals simp
  all_goals intros
  all_goals exact ⟨rfl, eq_some_fmtA rfl (by simp; bv_omega)⟩

theorem decodeMajor47_reads (hop : f.op.toNat = 0x47) : ReadsBack f (decodeMajor47 f) := by
  unfold decodeMajor47
  split
  case h_4 h0 h1 h2 =>
    simp
    intro hb h8
    exact ⟨bne_iff_ne.mpr (by bv_omega), eq_some_fmtA rfl (by simp [code2_eq_three h0 h1 h2]; bv_omega)⟩
  all_goals simp
  all_goals intros
  all_goals exact ⟨rfl, eq_some_fmtA rfl (by simp; bv_omega)⟩

theorem decodeMajor48_reads (hop : f.op.toNat = 0x48) : ReadsBack f (decodeMajor48 f) := by
  unfold decodeMajor48
  split
  case h_1 =>
    simp
    intro hp
    exact ⟨hp, eq_some_fmtA rfl (by simp; bv_omega)⟩
  all_goals simp
  all_goals intros
  all_goals exact ⟨rfl, eq_some_fmtA rfl (by simp; bv_omega)⟩

theorem decodeMajor50_reads (hop : f.op.toNat = 0x50) : ReadsBack f (decodeMajor50 f) := by
  unfold decodeMajor50
  split <;> simp <;> intros
  all_goals exact ⟨rfl, eq_some_fmtA rfl (by simp; bv_omega)⟩

theorem decodeMma_reads (hop : f.op.toNat = 0x51) : ReadsBack f (decodeMma f) := by
  unfold decodeMma
  simp only [ReadsBack.smallField_iff, ReadsBack.scratchThen_iff]
  intro hd ha hb
  split
  all_goals
    exact ReadsBack.ok_iff.mpr ⟨Bool.and_eq_true_iff.mpr ⟨ha, hb⟩,
      eq_some_fmtA rfl ⟨by bv_omega, by bv_omega, rfl, rfl, eq_flags_iff.mpr ⟨rfl, rfl, rfl, by simp_all⟩⟩⟩

theorem decodeMajor58_reads (hop : f.op.toNat = 0x58) : ReadsBack f (decodeMajor58 f) := by
  unfold decodeMajor58
  split
  case h_1 =>
    simp
    intro hl hz
    exact ⟨bne_iff_ne.mpr hl, eq_some_fmtA rfl ⟨by bv_omega, fsetlField_eq hz, rfl, rfl, by bv_omega⟩⟩
  all_goals simp
  all_goals intros
  all_goals exact ⟨rfl, eq_some_fmtA rfl (by simp; bv_omega)⟩

theorem decodeMajor5C_reads (hop : f.op.toNat = 0x5C) : ReadsBack f (decodeMajor5C f) := by
  unfold decodeMajor5C
  split <;> simp
  all_goals exact ⟨rfl, eq_some_fmtA rfl (by simp; bv_omega)⟩

theorem decodeMajor5D_reads (hop : f.op.toNat = 0x5D) : ReadsBack f (decodeMajor5D f) := by
  unfold decodeMajor5D
  split <;> simp
  all_goals exact ⟨rfl, eq_some_fmtA rfl (by simp; bv_omega)⟩

theorem decodeFence_reads (hop : f.op.toNat = 0x60) : ReadsBack f (decodeFence f) := by
  rw [decodeFence, ReadsBack.zeroThen_iff, ReadsBack.zeroThen_iff]
  intro hd ha
  split
  · rename_i sc hsc
    refine ReadsBack.ok_iff.mpr ⟨rfl, eq_some_fmtB rfl ⟨by bv_omega, hd, ha, ?_⟩⟩
    rw [fenceScope_code_of_ofCode hsc]
    exact (join_three_ranges (l := 4) (m := 4) (n := 3) f.imm11).symm
  · exact .error _

theorem decodeMajor61_reads (hop : f.op.toNat = 0x61) : ReadsBack f (decodeMajor61 f) := by
  unfold decodeMajor61
  split <;> simp <;> intros
  all_goals exact ⟨rfl, eq_some_fmtA rfl (by simp; bv_omega)⟩

theorem decodeMajor62_reads (hop : f.op.toNat = 0x62) : ReadsBack f (decodeMajor62 f) := by
  unfold decodeMajor62
  split
  case h_2 | h_3 =>
    simp
    intros
    exact ⟨decide_eq_true (by bv_omega), eq_some_fmtA rfl (by simp; bv_omega)⟩
  all_goals simp
  all_goals exact ⟨rfl, eq_some_fmtA rfl (by simp; bv_omega)⟩

theorem decodeMajor64_reads (hop : f.op.toNat = 0x64) : ReadsBack f (decodeMajor64 f) := by
  unfold decodeMajor64
  split <;> simp <;> intros
  all_goals exact ⟨rfl, eq_some_fmtA rfl (by simp; bv_omega)⟩

theorem decodeMajor68_reads (hop : f.op.toNat = 0x68) : ReadsBack f (decodeMajor68 f) := by
  unfold decodeMajor68
  split <;> simp <;> intros
  all_goals exact ⟨rfl, eq_some_fmtA rfl (by simp; bv_omega)⟩

theorem decodeMajor6C_reads (hop : f.op.toNat = 0x6C) : ReadsBack f (decodeMajor6C f) := by
  unfold decodeMajor6C
  split <;> simp <;> intros
  all_goals exact ⟨rfl, eq_some_fmtA rfl (by simp; bv_omega)⟩

theorem decodeMajor6D_reads (hop : f.op.toNat = 0x6D) : ReadsBack f (decodeMajor6D f) := by
  unfold decodeMajor6D
  split <;> simp
  all_goals exact ⟨rfl, eq_some_fmtA rfl (by simp; bv_omega)⟩

theorem decodeLow_reads : ReadsBack f (decodeLow f) := by
  unfold decodeLow
  split
  all_goals rename_i hop
  case h_1 | h_2 | h_72 => exact .error _
  case h_5 | h_6 | h_7 | h_8 | h_10 | h_11 | h_14 | h_15 | h_16 | h_17 | h_18 | h_19 | h_20 | h_22 | h_23 | h_24 |
    h_25 | h_26 | h_27 | h_28 | h_66 | h_67 =>
    exact ReadsBack.ok_iff.mpr ⟨rfl, eq_some_fmtB rfl ⟨by bv_omega, rfl, rfl, rfl⟩⟩
  case h_12 | h_13 => exact ReadsBack.ok_iff.mpr ⟨rfl, eq_some_fmtC rfl ⟨by bv_omega, rfl, rfl⟩⟩
  case h_29 | h_30 => exact ReadsBack.ok_iff.mpr ⟨rfl, eq_some_fmtJ rfl ⟨by bv_omega, rfl⟩⟩
  case h_32 | h_33 =>
    exact ReadsBack.zeroThen_iff.mpr fun ha => ReadsBack.ok_iff.mpr ⟨rfl, eq_some_fmtB rfl ⟨by bv_omega, rfl, ha, rfl⟩⟩
  case h_3 => exact decodeMajor01_reads hop
  case h_4 => exact decodeMajor02_reads hop
  case h_9 => exact decodeShifti_reads hop
  case h_21 => exact decodeMajor13_reads hop
  case h_31 => exact decodeMajor1D_reads hop
  case h_34 => exact decodeMajor20_reads hop
  case h_35 => exact decodeVsetl_reads hop
  case h_36 => exact decodeRep_reads hop
  case h_37 => exact decodeMajor28_reads hop
  case h_38 => exact decodeMajor29_reads hop
  case h_39 => exact decodeMajor2A_reads hop
  case h_40 => exact decodeMajor2B_reads hop
  case h_41 => exact decodeMajor2C_reads hop
  case h_42 => exact decodeMajor2D_reads hop
  case h_43 => exact decodeMajor2E_reads hop
  case h_44 => exact decodeMajor2F_reads hop
  case h_45 => exact decodeMajor30_reads hop
  case h_46 => exact decodeMajor31_reads hop
  case h_47 => exact decodeMajor32_reads hop
  case h_48 => exact decodeMajor33_reads hop
  case h_49 => exact decodeVunary_reads hop
  case h_50 => exact decodeVcvt_reads hop
  case h_51 => exact decodeMajor36_reads hop
  case h_52 => exact decodeMajor37_reads hop
  case h_53 => exact decodeMajor38_reads hop
  case h_54 => exact decodeMajor39_reads hop
  case h_55 => exact decodeMajor3A_reads hop
  case h_56 => exact decodeMajor40_reads hop
  case h_57 => exact decodeMajor41_reads hop
  case h_58 => exact decodeMajor46_reads hop
  case h_59 => exact decodeMajor47_reads hop
  case h_60 => exact decodeMajor48_reads hop
  case h_61 => exact decodeMajor50_reads hop
  case h_62 => exact decodeMma_reads hop
  case h_63 => exact decodeMajor58_reads hop
  case h_64 => exact decodeMajor5C_reads hop
  case h_65 => exact decodeMajor5D_reads hop
  case h_68 => exact decodeFence_reads hop
  case h_69 => exact decodeMajor61_reads hop
  case h_70 => exact decodeMajor62_reads hop
  case h_71 => exact decodeMajor64_reads hop

/-- What the decoder reads from a word is well formed and has the fields of the word. -/
theorem decodeFields_reads : ReadsBack f (decodeFields f) := by
  unfold decodeFields
  split
  case h_1 hop => exact decodeMajor68_reads hop
  case h_2 hop => exact decodeMajor6C_reads hop
  case h_3 hop => exact decodeMajor6D_reads hop
  case h_4 => exact decodeLow_reads

end Majors

/-! ### Words and instructions -/

/-- The fields of a well-formed instruction decode to that instruction. -/
theorem decodeFields_fieldsOf (i : Instr) : Encoding.Statement i :=
  match i with
  | .add .. => Encoding.add _ _ _ | .sub .. => Encoding.sub _ _ _ | .and .. => Encoding.and _ _ _
  | .or .. => Encoding.or _ _ _ | .xor .. => Encoding.xor _ _ _ | .sll .. => Encoding.sll _ _ _
  | .srl .. => Encoding.srl _ _ _ | .sra .. => Encoding.sra _ _ _ | .slt .. => Encoding.slt _ _ _
  | .sltn .. => Encoding.sltn _ _ _ | .min .. => Encoding.min _ _ _ | .max .. => Encoding.max _ _ _
  | .minn .. => Encoding.minn _ _ _ | .maxn .. => Encoding.maxn _ _ _ | .andn .. => Encoding.andn _ _ _
  | .orn .. => Encoding.orn _ _ _ | .mul .. => Encoding.mul _ _ _ | .mulh .. => Encoding.mulh _ _ _
  | .mulhn .. => Encoding.mulhn _ _ _ | .div .. => Encoding.div _ _ _ | .divn .. => Encoding.divn _ _ _
  | .rem .. => Encoding.rem _ _ _ | .remn .. => Encoding.remn _ _ _ | .clz .. => Encoding.clz _ _
  | .ctz .. => Encoding.ctz _ _ | .popc .. => Encoding.popc _ _ | .bext .. => Encoding.bext _ _ _
  | .bins .. => Encoding.bins _ _ _ | .addi .. => Encoding.addi _ _ _ | .andi .. => Encoding.andi _ _ _
  | .ori .. => Encoding.ori _ _ _ | .xori .. => Encoding.xori _ _ _ | .slli .. => Encoding.slli _ _ _
  | .srli .. => Encoding.srli _ _ _ | .srai .. => Encoding.srai _ _ _ | .slti .. => Encoding.slti _ _ _
  | .sltni .. => Encoding.sltni _ _ _ | .lhi .. => Encoding.lhi _ _ | .lsh .. => Encoding.lsh _ _
  | .ldd .. => Encoding.ldd _ _ _ | .ldw .. => Encoding.ldw _ _ _ | .ldwn .. => Encoding.ldwn _ _ _
  | .ldbn .. => Encoding.ldbn _ _ _ | .std .. => Encoding.std _ _ _ | .stw .. => Encoding.stw _ _ _
  | .stb .. => Encoding.stb _ _ _ | .lddX .. => Encoding.lddX _ _ _ | .ldwX .. => Encoding.ldwX _ _ _
  | .ldwnX .. => Encoding.ldwnX _ _ _ | .ldh .. => Encoding.ldh _ _ _ | .ldhn .. => Encoding.ldhn _ _ _
  | .ldb .. => Encoding.ldb _ _ _ | .ldbnX .. => Encoding.ldbnX _ _ _ | .stdX .. => Encoding.stdX _ _ _
  | .stwX .. => Encoding.stwX _ _ _ | .sth .. => Encoding.sth _ _ _ | .stbX .. => Encoding.stbX _ _ _
  | .beq .. => Encoding.beq _ _ _ | .bne .. => Encoding.bne _ _ _ | .blt .. => Encoding.blt _ _ _
  | .bge .. => Encoding.bge _ _ _ | .bltn .. => Encoding.bltn _ _ _ | .bgen .. => Encoding.bgen _ _ _
  | .bsub .. => Encoding.bsub _ _ _ | .jmp .. => Encoding.jmp _ | .call .. => Encoding.call _ | .jr .. => Encoding.jr _
  | .jalr .. => Encoding.jalr _ _ | .sget .. => Encoding.sget _ _ | .sput .. => Encoding.sput _ _
  | .vwin .. => Encoding.vwin _ _ | .lfork .. => Encoding.lfork _ | .ljoin .. => Encoding.ljoin _
  | .wid .. => Encoding.wid _ _ _ | .vsetl .. => Encoding.vsetl _ _ _ _ | .rep .. => Encoding.rep _ _ _ _ _
  | .cnew .. => Encoding.cnew _ _ | .cdrop .. => Encoding.cdrop _ | .cshare .. => Encoding.cshare _ _
  | .cseam .. => Encoding.cseam _ _ _ | .chemh .. => Encoding.chemh _ _ _ | .chemt .. => Encoding.chemt _ _ _
  | .csplit .. => Encoding.csplit _ _ _ | .cslice .. => Encoding.cslice _ _ _ | .cpack .. => Encoding.cpack _ _
  | .cmovv .. => Encoding.cmovv _ _ | .cretype .. => Encoding.cretype _ _ _ | .cpost .. => Encoding.cpost _ _
  | .ctake .. => Encoding.ctake _ _ _ | .clen .. => Encoding.clen _ _ | .cinfo .. => Encoding.cinfo _ _
  | .cpool .. => Encoding.cpool _ | .vget .. => Encoding.vget _ _ _ | .vput .. => Encoding.vput _ _ _
  | .vadd .. => Encoding.vadd _ _ _ _ _ | .vsub .. => Encoding.vsub _ _ _ _ _ | .vrsub .. => Encoding.vrsub _ _ _ _ _
  | .vmul .. => Encoding.vmul _ _ _ _ _ | .vadds .. => Encoding.vadds _ _ _ _ _ | .vsubs .. => Encoding.vsubs _ _ _ _ _
  | .vmulh .. => Encoding.vmulh _ _ _ _ _ | .vavg .. => Encoding.vavg _ _ _ _ _ | .vdiv .. => Encoding.vdiv _ _ _ _ _
  | .vrem .. => Encoding.vrem _ _ _ _ _ | .vmin .. => Encoding.vmin _ _ _ _ _ | .vmax .. => Encoding.vmax _ _ _ _ _
  | .vand .. => Encoding.vand _ _ _ _ _ | .vor .. => Encoding.vor _ _ _ _ _ | .vxor .. => Encoding.vxor _ _ _ _ _
  | .vandn .. => Encoding.vandn _ _ _ _ _ | .vsll .. => Encoding.vsll _ _ _ _ _ | .vsrl .. => Encoding.vsrl _ _ _ _ _
  | .vsra .. => Encoding.vsra _ _ _ _ _ | .vrot .. => Encoding.vrot _ _ _ _ _ | .vceq .. => Encoding.vceq _ _ _ _ _
  | .vcne .. => Encoding.vcne _ _ _ _ _ | .vclt .. => Encoding.vclt _ _ _ _ _ | .vcle .. => Encoding.vcle _ _ _ _ _
  | .vfadd .. => Encoding.vfadd _ _ _ _ _ | .vfsub .. => Encoding.vfsub _ _ _ _ _
  | .vfmul .. => Encoding.vfmul _ _ _ _ _ | .vfdiv .. => Encoding.vfdiv _ _ _ _ _
  | .vfmin .. => Encoding.vfmin _ _ _ _ _ | .vfmax .. => Encoding.vfmax _ _ _ _ _ | .vfma .. => Encoding.vfma _ _ _ _ _
  | .vfms .. => Encoding.vfms _ _ _ _ _ | .vfceq .. => Encoding.vfceq _ _ _ _ _ | .vfclt .. => Encoding.vfclt _ _ _ _ _
  | .vfcle .. => Encoding.vfcle _ _ _ _ _ | .vfcun .. => Encoding.vfcun _ _ _ _ _
  | .vscale .. => Encoding.vscale _ _ _ _ _ | .vfnma .. => Encoding.vfnma _ _ _ _ _
  | .vfsgn .. => Encoding.vfsgn _ _ _ _ _ | .vfsqrt .. => Encoding.vfsqrt _ _ _ | .vfrcp .. => Encoding.vfrcp _ _ _
  | .vfrsqrt .. => Encoding.vfrsqrt _ _ _ | .vflog2 .. => Encoding.vflog2 _ _ _ | .vfexp2 .. => Encoding.vfexp2 _ _ _
  | .vftanh .. => Encoding.vftanh _ _ _ | .vfabs .. => Encoding.vfabs _ _ _ | .vfneg .. => Encoding.vfneg _ _ _
  | .vabs .. => Encoding.vabs _ _ _ | .vneg .. => Encoding.vneg _ _ _ | .vnot .. => Encoding.vnot _ _ _
  | .vclz .. => Encoding.vclz _ _ _ | .vpopc .. => Encoding.vpopc _ _ _ | .vfcat .. => Encoding.vfcat _ _ _
  | .vmov .. => Encoding.vmov _ _ _ | .vid .. => Encoding.vid _ _ | .vcvt .. => Encoding.vcvt _ _ _ _ _ _
  | .vslup .. => Encoding.vslup _ _ _ _ | .vsldn .. => Encoding.vsldn _ _ _ _ | .vrgath .. => Encoding.vrgath _ _ _ _ _
  | .vcompr .. => Encoding.vcompr _ _ _ | .vzip .. => Encoding.vzip _ _ _ _ | .vunzip .. => Encoding.vunzip _ _ _ _
  | .vrev .. => Encoding.vrev _ _ _ | .vmerge .. => Encoding.vmerge _ _ _ _ | .vbcast .. => Encoding.vbcast _ _ _ _
  | .vmand .. => Encoding.vmand _ _ _ | .vmor .. => Encoding.vmor _ _ _ | .vmxor .. => Encoding.vmxor _ _ _
  | .vmnot .. => Encoding.vmnot _ _ | .vmcount .. => Encoding.vmcount _ _ _ | .vmlow .. => Encoding.vmlow _ _ _
  | .vredsum .. => Encoding.vredsum _ _ _ | .vredosum .. => Encoding.vredosum _ _ _
  | .vredmax .. => Encoding.vredmax _ _ _ | .vredmin .. => Encoding.vredmin _ _ _
  | .vredmaxi .. => Encoding.vredmaxi _ _ _ | .vredmini .. => Encoding.vredmini _ _ _
  | .vdraw .. => Encoding.vdraw _ _ _ | .vdrawt .. => Encoding.vdrawt _ _ _ | .vdrawp .. => Encoding.vdrawp _ _ _ _
  | .xdmerge .. => Encoding.xdmerge _ _ _ | .vrand .. => Encoding.vrand _ _ | .vld .. => Encoding.vld _ _ _ _
  | .vlds .. => Encoding.vlds _ _ _ _ _ | .vldx .. => Encoding.vldx _ _ _ _ _ | .vlseg .. => Encoding.vlseg _ _ _ _ _
  | .vst .. => Encoding.vst _ _ _ _ | .vsts .. => Encoding.vsts _ _ _ _ _ | .vstx .. => Encoding.vstx _ _ _ _ _
  | .vsseg .. => Encoding.vsseg _ _ _ _ _ | .vsetrun .. => Encoding.vsetrun _ _ _ | .smap .. => Encoding.smap _ _ _
  | .sunmap .. => Encoding.sunmap _ | .sflush .. => Encoding.sflush _ | .mattach .. => Encoding.mattach _ _
  | .mshape .. => Encoding.mshape _ | .mzero .. => Encoding.mzero _ | .mread .. => Encoding.mread _ _ _
  | .mwrite .. => Encoding.mwrite _ _ _ | .msprog .. => Encoding.msprog _ | .msmod .. => Encoding.msmod _ _ _
  | .mmaf .. => Encoding.mmaf _ _ _ _ _ _ | .mmao .. => Encoding.mmao _ _ _ _ _ _ | .fsetl .. => Encoding.fsetl _ _ _ _
  | .fgo .. => Encoding.fgo _ _ _ | .fgov .. => Encoding.fgov _ _ _ | .fnotify .. => Encoding.fnotify _ _ _
  | .fdrain .. => Encoding.fdrain _ | .fcancel .. => Encoding.fcancel _ | .fresume .. => Encoding.fresume _
  | .fstat .. => Encoding.fstat _ _ | .amoadd .. => Encoding.amoadd _ _ _ | .amoand .. => Encoding.amoand _ _ _
  | .amoor .. => Encoding.amoor _ _ _ | .amoxor .. => Encoding.amoxor _ _ _ | .amomin .. => Encoding.amomin _ _ _
  | .amomax .. => Encoding.amomax _ _ _ | .amominn .. => Encoding.amominn _ _ _ | .amomaxn .. => Encoding.amomaxn _ _ _
  | .amoswp .. => Encoding.amoswp _ _ _ | .amocas .. => Encoding.amocas _ _ _ | .amofadd .. => Encoding.amofadd _ _ _
  | .amoaddAr .. => Encoding.amoaddAr _ _ _ | .amoandAr .. => Encoding.amoandAr _ _ _
  | .amoorAr .. => Encoding.amoorAr _ _ _ | .amoxorAr .. => Encoding.amoxorAr _ _ _
  | .amominAr .. => Encoding.amominAr _ _ _ | .amomaxAr .. => Encoding.amomaxAr _ _ _
  | .amominnAr .. => Encoding.amominnAr _ _ _ | .amomaxnAr .. => Encoding.amomaxnAr _ _ _
  | .amoswpAr .. => Encoding.amoswpAr _ _ _ | .amocasAr .. => Encoding.amocasAr _ _ _
  | .amofaddAr .. => Encoding.amofaddAr _ _ _ | .ldacq .. => Encoding.ldacq _ _ _ | .strel .. => Encoding.strel _ _ _
  | .fence .. => Encoding.fence _ _ _ | .binit .. => Encoding.binit _ _ | .barr .. => Encoding.barr _ _
  | .bwait .. => Encoding.bwait _ _ | .barw .. => Encoding.barw _ _ | .bwaitd .. => Encoding.bwaitd _ _ _
  | .bgenBar .. => Encoding.bgenBar _ _ | .waddr .. => Encoding.waddr _ _ _ | .tread .. => Encoding.tread _ _
  | .twait .. => Encoding.twait _ _ _ | .nbind .. => Encoding.nbind _ _ _ | .nunbind .. => Encoding.nunbind _ _
  | .ncmd .. => Encoding.ncmd _ _ | .nfence .. => Encoding.nfence _ | .nstat .. => Encoding.nstat _ _
  | .kgrp .. => Encoding.kgrp _ _ | .kred .. => Encoding.kred _ _ | .kgat .. => Encoding.kgat _ _
  | .kcast .. => Encoding.kcast _ _ | .kdraw .. => Encoding.kdraw _ _ | .trap .. => Encoding.trap _
  | .sret .. => Encoding.sret _ _ | .ctxsave .. => Encoding.ctxsave _ _ | .ctxload .. => Encoding.ctxload _ _
  | .tlbinv .. => Encoding.tlbinv _ _ | .wqpost .. => Encoding.wqpost _ _ _ | .wqstat .. => Encoding.wqstat _ _ _
  | .fwset .. => Encoding.fwset _ _ | .pgrant .. => Encoding.pgrant _ _ _ | .prevoke .. => Encoding.prevoke _ _ _
  | .pdeleg .. => Encoding.pdeleg _ _ _ | .pquery .. => Encoding.pquery _ _ _ | .ret .. => Encoding.ret
  | .nop .. => Encoding.nop | .yield .. => Encoding.yield | .tdone .. => Encoding.tdone
  | .mdetach .. => Encoding.mdetach | .tret .. => Encoding.tret | .tdecl .. => Encoding.tdecl
  | .fflagsSyncAccess .. => Encoding.fflagsSyncAccess _ _ _ | .mshapeWrite .. => Encoding.mshapeWrite _
  | .protMmClear .. => Encoding.protMmClear _ | .vstartRepcntRestore .. => Encoding.vstartRepcntRestore _ _
  | .cpostTimeout .. => Encoding.cpostTimeout | .ctakeTimeout .. => Encoding.ctakeTimeout
  | .vectorPieceExecute .. => Encoding.vectorPieceExecute | .boltWaitTimeout .. => Encoding.boltWaitTimeout
  | .instructionRetire .. => Encoding.instructionRetire _ | .reductionBegin .. => Encoding.reductionBegin
  | .stashEviction .. => Encoding.stashEviction _ _ | .matrixOpExecute .. => Encoding.matrixOpExecute _ _
  | .matrixOpComplete .. => Encoding.matrixOpComplete _ | .fdrainTimeout .. => Encoding.fdrainTimeout
  | .flumeCommandRun .. => Encoding.flumeCommandRun _ | .flumeCommandComplete .. => Encoding.flumeCommandComplete _
  | .barrierDeadline .. => Encoding.barrierDeadline | .waddrTimeout .. => Encoding.waddrTimeout
  | .twaitTimeout .. => Encoding.twaitTimeout | .nfenceTimeout .. => Encoding.nfenceTimeout
  | .weirPartRun .. => Encoding.weirPartRun _ _ | .weirCommandComplete .. => Encoding.weirCommandComplete _
  | .collectiveRun .. => Encoding.collectiveRun _ _ | .collectiveComplete .. => Encoding.collectiveComplete _
  | .wqpostTimeout .. => Encoding.wqpostTimeout | .asyncTrapDelivery .. => Encoding.asyncTrapDelivery
  | .serviceCoreTakeP .. => Encoding.serviceCoreTakeP _ | .serviceCoreTakeS .. => Encoding.serviceCoreTakeS _
  | .lydarTakeO .. => Encoding.lydarTakeO | .launchMessage .. => Encoding.launchMessage _ _ _
  | .launchWriteUalink .. => Encoding.launchWriteUalink _ _ | .launchStart .. => Encoding.launchStart _
  | .groupDispatch .. => Encoding.groupDispatch _ | .priorityAgeing .. => Encoding.priorityAgeing _
  | .groupReservation .. => Encoding.groupReservation _ | .preload .. => Encoding.preload _ _
  | .budgetExpiry .. => Encoding.budgetExpiry | .timeSliceEnd .. => Encoding.timeSliceEnd _
  | .pageMigration .. => Encoding.pageMigration _ _ _ | .remoteRequest .. => Encoding.remoteRequest _
  | .ueWindowAccess .. => Encoding.ueWindowAccess _ _ | .remoteErrorResponse .. => Encoding.remoteErrorResponse
  | .remoteAccessTimeout .. => Encoding.remoteAccessTimeout | .linkFailure .. => Encoding.linkFailure _ _
  | .theigLinkFailure .. => Encoding.theigLinkFailure _ | .watchdogExpiry .. => Encoding.watchdogExpiry _
  | .serviceCoreSoftError .. => Encoding.serviceCoreSoftError _ | .fenceCommand .. => Encoding.fenceCommand _
  | .chipletReset .. => Encoding.chipletReset _ | .powerThrottle .. => Encoding.powerThrottle _
  | .powerOn .. => Encoding.powerOn _ _ | .orange1Write .. => Encoding.orange1Write _
  | .okey3Write .. => Encoding.okey3Write _ | .oplimWrite .. => Encoding.oplimWrite _
  | .sramSoftError .. => Encoding.sramSoftError _ | .storeCommit .. => Encoding.storeCommit _

/-- Exactly the events have no word. -/
theorem fieldsOf_isSome (i : Instr) : (fieldsOf i).isSome = !i.isEvent := by
  cases i <;> rfl

/-- Every well-formed instruction that is no event is what the decoder reads from its word. -/
theorem decode_encode {i : Instr} (he : i.isEvent = false) (hwf : i.wellFormed = true) : ∃ w, encode i = some w ∧ decode w = .ok i := by
  obtain ⟨f, hf⟩ : ∃ f, fieldsOf i = some f := Option.isSome_iff_exists.mp (by rw [fieldsOf_isSome, he]; rfl)
  refine ⟨joinWord f, by rw [encode, hf]; rfl, ?_⟩
  rw [decode, splitWord_joinWord]
  exact decodeFields_fieldsOf i f hf hwf

/-- Every word that decodes is the word of the well-formed instruction that it decodes to. -/
theorem encode_decode {w : IWord} {i : Instr} (h : decode w = .ok i) :
    i.isEvent = false ∧ i.wellFormed = true ∧ encode i = some w := by
  obtain ⟨hwf, hf⟩ := decodeFields_reads i h
  have he : (!i.isEvent) = true := by rw [← fieldsOf_isSome, hf]; rfl
  refine ⟨by simpa using he, hwf, ?_⟩
  rw [encode, hf, Option.map_some, joinWord_splitWord]

end Sys2Proof.Laws

namespace Sys2Proof.Machine

/-- Settles O58: by reading back each row of the decoder's tables, and the law of each instruction's encoding. -/
theorem decodeAndEncodeAgree : Obligations.DecodeAndEncodeAgree :=
  ⟨fun _ he hwf => Laws.decode_encode he hwf, fun _ _ h => Laws.encode_decode h⟩

end Sys2Proof.Machine
end

section
/-! The control registers (03_words R70 to R74): the check of the level, the write as a partial action
(`State.regWrite`), and what sget and sput then do; with them O13 and O14 are settled. -/

namespace Sys2Proof.Machine

section

variable {s : State} {n : Nat} {l : Level}

theorem regCheck_allowed (hl : regLevel n = some l) (h : l.rank ≤ s.level.rank) :
    regCheck n s = .ok ((), s) := by
  simp [regCheck, Act.bind_run, hl, h]

theorem regLevel_eq_none (hlo : 0x200 ≤ n) (hhi : n < 0x400) : regLevel n = none := by
  rw [regLevel, if_neg (by omega), if_pos hhi]

theorem regCheck_above {r : BitVec 11} (hl : regLevel r.toNat = some l) (h : s.level.rank < l.rank) :
    regCheck r.toNat s = .error (.trap { cause := .privilege, val := r.setWidth 64 }) := by
  simp [regCheck, Act.bind_run, hl, Nat.not_le.mpr h]

theorem regCheck_noLevel {r : BitVec 11} (hl : regLevel r.toNat = none) :
    regCheck r.toNat s = .error (.trap { cause := .illegal, val := r.setWidth 64 }) := by
  simp only [regCheck, Act.bind_run, Act.get_run, hl, BitVec.ofNat_toNat]
  rfl

/-- The write that turns the task with the turn into `t`; a service core has none (log 14). -/
def State.taskRegWrite (s : State) (n : Nat) (v : Word) (t : Task) : Act Unit := do
  if n = 0x015 then requireAct (shapeOf v).isSome (shapeTrap v)
  if s.who = .user then modify fun s => { s with t := t }

theorem taskRegWrite_run {v : Word} {t : Task} (h15 : n = 0x015 → (shapeOf v).isSome = true) :
    s.taskRegWrite n v t s = .ok ((), if s.who = .user then { s with t := t } else s) := by
  unfold State.taskRegWrite
  by_cases hu : s.who = .user <;> by_cases h : n = 0x015 <;> simp [hu, h, h15, Act.bind_run]

/-- What sput does with register `n` and the value `v` after its checks; none where `n` has no writable field. -/
def State.regWrite (s : State) (n : Nat) (v : Word) : Option (Act Unit) :=
  match regLevel n with
  | some .u =>
    match s.h.setUreg n v with
    | some h => some (modify fun s => { s with h := h })
    | none => (s.t.setTreg n v).map (s.taskRegWrite n v)
  | some .s =>
    if n = 0x407 then some (modify fun s => s.mapSvc fun x => { x with shandler := (v >>> 2).setWidth 62 })
    else if n = 0x408 then some (modify fun s => s.mapSvc fun x => { x with sscratch := v })
    else none
  | some .p => setPreg n v
  | some .o => (s.setOreg n v).map fun t => set t
  | none => none

theorem regWrite_hart {v : Word} {h : Hart} (hl : regLevel n = some .u) (hh : s.h.setUreg n v = some h) :
    s.regWrite n v = some (modify fun s => { s with h := h }) := by
  simp only [State.regWrite, hl, hh]

theorem regWrite_task {v : Word} {t : Task} (hl : regLevel n = some .u) (hh : s.h.setUreg n v = none)
    (ht : s.t.setTreg n v = some t) : s.regWrite n v = some (s.taskRegWrite n v t) := by
  simp only [State.regWrite, hl, hh, ht, Option.map_some]

theorem regWrite_owner {v : Word} {t : State} (hl : regLevel n = some .o) (ht : s.setOreg n v = some t) :
    s.regWrite n v = some (set t) := by
  simp only [State.regWrite, hl, ht, Option.map_some]

theorem regWrite_shandler (v : Word) :
    s.regWrite 0x407 v =
      some (modify fun s => s.mapSvc fun x => { x with shandler := (v >>> 2).setWidth 62 }) := rfl

theorem regWrite_sscratch (v : Word) :
    s.regWrite 0x408 v = some (modify fun s => s.mapSvc fun x => { x with sscratch := v }) := rfl

variable {d : Reg} {r : BitVec 11}

theorem execSput_run (hc : regCheck r.toNat s = .ok ((), s)) (hb : r.toNat = 6 → s.regBusy r.toNat = false) :
    execSput d r s = finish (do
      (s.regWrite r.toNat (s.rx d)).getD (trapAct .illegal (r.setWidth 64))
      modify fun s => s.advance) s := by
  have hb : (decide (r.toNat = 6) && s.regBusy r.toNat) = false := by simpa using hb
  unfold execSput finish State.regWrite
  simp only [Act.bind_run, hc, Act.get_run, hb, Bool.false_eq_true, if_false]
  cases regLevel r.toNat with
  | none => rfl
  | some l =>
    cases l with
    | u =>
      cases s.h.setUreg r.toNat (s.rx d) with
      | some h => rfl
      | none =>
        cases s.t.setTreg r.toNat (s.rx d) with
        | none => rfl
        | some t =>
          dsimp only [Option.map_some, Option.getD_some, State.taskRegWrite]
          by_cases hu : s.who = .user <;> by_cases h15 : r.toNat = 0x015 <;>
            cases (shapeOf (s.rx d)).isSome <;> simp [h15, hu, Act.bind_run]
    | s => by_cases h7 : r.toNat = 0x407 <;> by_cases h8 : r.toNat = 0x408 <;> simp [h7, h8, Act.bind_run]
    | p => simp only [Act.bind_run]
    | o => cases s.setOreg r.toNat (s.rx d) <;> rfl

theorem execSput_write {a : Act Unit} {t : State} (hc : regCheck r.toNat s = .ok ((), s))
    (hb : r.toNat = 6 → s.regBusy r.toNat = false)
    (hw : s.regWrite r.toNat (s.rx d) = some a) (ha : a s = .ok ((), t)) :
    execSput d r s = .next t.advance := by
  rw [execSput_run hc hb, hw]
  exact finish_ok (u := ()) (by simp [Act.bind_run, ha])

theorem execSput_hart {h : Hart} (hl : regLevel r.toNat = some .u) (hb : r.toNat = 6 → s.regBusy r.toNat = false)
    (hh : s.h.setUreg r.toNat (s.rx d) = some h) : execSput d r s = .next (State.advance { s with h := h }) :=
  execSput_write (regCheck_allowed hl (Nat.zero_le _)) hb (regWrite_hart hl hh) rfl

theorem execSput_task {t : Task} (hl : regLevel r.toNat = some .u) (hb : r.toNat = 6 → s.regBusy r.toNat = false)
    (hh : s.h.setUreg r.toNat (s.rx d) = none) (ht : s.t.setTreg r.toNat (s.rx d) = some t)
    (h15 : r.toNat = 0x015 → (shapeOf (s.rx d)).isSome = true) :
    execSput d r s = .next (if s.who = .user then State.advance { s with t := t } else s.advance) := by
  have hc := regCheck_allowed hl (Nat.zero_le s.level.rank)
  refine (execSput_write hc hb (regWrite_task hl hh ht) (taskRegWrite_run h15)).trans ?_
  split <;> rfl

theorem execSput_noWrite (hc : regCheck r.toNat s = .ok ((), s)) (hb : r.toNat = 6 → s.regBusy r.toNat = false)
    (hw : s.regWrite r.toNat (s.rx d) = none) :
    execSput d r s = .next (takeTrap { cause := .illegal, val := r.setWidth 64 } false s) := by
  rw [execSput_run hc hb, hw]
  rfl

theorem execSget_read {v : Nat} (hc : regCheck r.toNat s = .ok ((), s)) (hb : s.regBusy r.toNat = false)
    (hr : s.readReg r.toNat = some v) : execSget d r s = .next (s.put d (BitVec.ofNat 64 v)) := by
  refine finish_ok (u := ⟨⟩) ?_
  simp [Act.bind_run, hc, hb, hr]

theorem execSget_unassigned (hc : regCheck r.toNat s = .ok ((), s)) (hb : s.regBusy r.toNat = false)
    (hr : s.readReg r.toNat = none) :
    execSget d r s = .next (takeTrap { cause := .illegal, val := r.setWidth 64 } false s) := by
  refine finish_trap ?_
  simp only [Act.bind_run, hc, Act.get_run, hb, hr]
  rfl

theorem execSget_refused {tr : Trap} (hc : regCheck r.toNat s = .error (.trap tr)) :
    execSget d r s = .next (takeTrap tr false s) :=
  finish_trap (by rw [Act.bind_run, hc])

theorem execSput_refused {tr : Trap} (hc : regCheck r.toNat s = .error (.trap tr)) :
    execSput d r s = .next (takeTrap tr false s) :=
  finish_trap (by simp only [Act.bind_run, hc])

theorem regBusy_of_unassigned (hr : s.readReg n = none) : s.regBusy n = false := by
  by_contra hb
  have hn : (6 ≤ n ∧ n ≤ 0xF) ∨ n = 0x18 := by
    simp [State.regBusy, syncReg] at hb
    omega
  rcases hn with ⟨h6, hF⟩ | rfl
  · interval_cases n <;> cases hr
  · cases hr

theorem setUreg_assigned {h h' : Hart} {v : Word} (hw : h.setUreg n v = some h') : (h.ureg n).isSome = true := by
  unfold Hart.setUreg at hw
  split at hw
  pick_goal -1
  · cases hw
  all_goals rfl

theorem setTreg_assigned {t' : Task} {v : Word} (hw : s.t.setTreg n v = some t') : (s.treg n).isSome = true := by
  unfold Task.setTreg at hw
  split at hw
  pick_goal -1
  · cases hw
  all_goals rfl

theorem setPreg_assigned {v : Word} {a : Act Unit} (hw : setPreg n v = some a) : (s.preg n).isSome = true := by
  unfold setPreg at hw
  split at hw
  pick_goal -1
  · cases hw
  all_goals rfl

theorem setOreg_assigned {v : Word} {t : State} (hw : s.setOreg n v = some t) : (s.o.oreg n).isSome = true := by
  unfold State.setOreg at hw
  split at hw
  pick_goal -1
  · cases hw
  all_goals rfl

theorem regWrite_of_readOnly (v : Word) (hn : n ∈ readOnlyRegs) : s.regWrite n v = none := by
  unfold readOnlyRegs at hn
  fin_cases hn <;> rfl

/-- A register that can be written is assigned. -/
theorem readReg_isSome_of_regWrite {v : Word} {a : Act Unit} (hw : s.regWrite n v = some a) :
    (s.readReg n).isSome = true := by
  unfold State.regWrite at hw
  unfold State.readReg
  cases hl : regLevel n with
  | none => simp [hl] at hw
  | some l =>
    cases l with
    | u =>
      simp only [hl] at hw ⊢
      cases hu : s.h.ureg n with
      | some u => rfl
      | none =>
        cases hx : s.h.setUreg n v with
        | some h => exact absurd (setUreg_assigned hx) (by simp [hu])
        | none =>
          simp only [hx, Option.map_eq_some_iff] at hw
          obtain ⟨t, ht, -⟩ := hw
          exact setTreg_assigned ht
    | s =>
      simp only [hl] at hw ⊢
      split_ifs at hw with h7 h8
      · rw [h7]; rfl
      · rw [h8]; rfl
    | p => exact setPreg_assigned (by simpa only [hl] using hw)
    | o =>
      simp only [hl, Option.map_eq_some_iff] at hw
      obtain ⟨t, ht, -⟩ := hw
      exact setOreg_assigned ht

theorem regWrite_of_unassigned (v : Word) (hr : s.readReg n = none) : s.regWrite n v = none := by
  by_contra hw
  obtain ⟨a, hw⟩ := Option.ne_none_iff_exists'.mp hw
  simpa [hr] using readReg_isSome_of_regWrite hw

theorem ne_six_of_regLevel (hl : regLevel n = some l) (hu : l ≠ .u) : n = 6 → s.regBusy n = false := by
  rintro rfl
  cases hl
  exact absurd rfl hu

theorem ne_six_of_readOnly (hn : n ∈ readOnlyRegs) : n = 6 → s.regBusy n = false := by
  rintro rfl
  exact absurd hn (by decide)

end

/-- Settles O13: the check decides the refusals, and `State.regWrite` gives what an allowed sput writes. -/
theorem registerAccessLevels : Obligations.RegisterAccessLevels := by
  intro s d n privileged illegal
  refine ⟨fun l hl h => ?_, fun hlo hhi => ?_, fun l hl h => ⟨fun hr => ?_, fun v hr hb => ?_⟩,
    fun hl hb => ⟨fun x hx => ?_, fun x hx ht h15 => ?_, fun hx ht => ?_⟩, fun l hl h hn => ?_, fun h hn => ?_,
    fun h w t hw hrun hl => ?_, fun h hl t ht => ?_⟩
  · have hc := regCheck_above hl h
    exact ⟨execSget_refused hc, execSput_refused hc⟩
  · have hc : regCheck n.toNat s = _ := regCheck_noLevel (regLevel_eq_none hlo hhi)
    exact ⟨execSget_refused hc, execSput_refused hc⟩
  · have hc := regCheck_allowed hl h
    have hb := regBusy_of_unassigned hr
    exact ⟨execSget_unassigned hc hb hr, execSput_noWrite hc (fun _ => hb) (regWrite_of_unassigned _ hr)⟩
  · exact execSget_read (regCheck_allowed hl h) hb hr
  · exact execSput_hart hl (fun _ => hb) hx
  · exact execSput_task hl (fun _ => hb) hx ht fun h => h15 (BitVec.eq_of_toNat_eq h)
  · exact execSput_noWrite (regCheck_allowed hl (Nat.zero_le _)) (fun _ => hb) (by simp [State.regWrite, hl, hx, ht])
  · exact execSput_noWrite (regCheck_allowed hl h) (ne_six_of_readOnly hn) (regWrite_of_readOnly _ hn)
  · have hl : regLevel n.toNat = some .s := by rcases hn with h7 | h8 <;> simp [*, regLevel]
    have hb := ne_six_of_regLevel (s := s) hl nofun
    rcases hn with h7 | h8
    · exact (execSput_write (regCheck_allowed hl h) hb (h7 ▸ regWrite_shandler _) rfl).trans (by simp [h7])
    · exact (execSput_write (regCheck_allowed hl h) hb (h8 ▸ regWrite_sscratch _) rfl).trans (by simp [h8])
  · have hp : s.regWrite n.toNat (s.rx d) = some w := by simpa only [State.regWrite, hl]
    exact execSput_write (regCheck_allowed hl h) (ne_six_of_regLevel hl nofun) hp hrun
  · exact execSput_write (regCheck_allowed hl h) (ne_six_of_regLevel hl nofun) (regWrite_owner hl ht) rfl

section
variable {s : State} {d : Reg} {r : BitVec 11}

theorem rangeCheck_lt_four (s : State) (p k : Nat) (w0 w1 : Word) : s.rangeCheck p k w0 w1 < 4 := by
  unfold State.rangeCheck
  dsimp only
  split_ifs <;> decide

theorem partition_mapPart (s : State) (p : Nat) {f : Partition → Partition} (hf : ∀ x, (f x).num = x.num) :
    (s.mapPart p f).partition p = f (s.partition p) := by
  have hnum : ∀ x : Partition, decide ((if x.num = p then f x else x).num = p) = decide (x.num = p) := by
    intro x
    by_cases h : x.num = p <;> simp [h, hf]
  unfold State.mapPart State.partition
  cases hx : s.parts.find? fun x => decide (x.num = p) with
  | none =>
    have hany : (s.parts.any fun x => decide (x.num = p)) = false := by simpa using hx
    simp [hany, hx, hf, List.find?_append]
  | some x =>
    have hp : x.num = p := by simpa using List.find?_some hx
    have hany : (s.parts.any fun x => decide (x.num = p)) = true :=
      List.any_eq_true.mpr ⟨x, List.mem_of_find?_eq_some hx, by simpa using hp⟩
    simp [hany, hx, hnum, hp]

theorem writeOrange1_ostat (s : State) (v : Word) : (s.writeOrange1 v).o.ostat =
    BitVec.ofNat 8 (s.rangeCheck (bitsOf s.o.orsel.toNat 3 0) (bitsOf s.o.orsel.toNat 9 4) s.o.orange0 v) ∧
      (s.writeOrange1 v).o.orange1 = v := by
  unfold State.writeOrange1 State.mapPart
  dsimp only
  split_ifs <;> exact ⟨rfl, rfl⟩

theorem mem_stage3_writeOrange1 {s : State} {v : Word}
    (h : s.rangeCheck (bitsOf s.o.orsel.toNat 3 0) (bitsOf s.o.orsel.toNat 9 4) s.o.orange0 v = 0) :
    (bitsOf s.o.orsel.toNat 9 4, s.o.orange0, v) ∈
      ((s.writeOrange1 v).partition (bitsOf s.o.orsel.toNat 3 0)).stage3 := by
  unfold State.writeOrange1
  dsimp only
  rw [if_pos h, partition_mapPart]
  · simp
  · intro x; rfl

theorem ostat_writeOrange1_eq_zero_iff {s : State} {v : Word} : (s.writeOrange1 v).o.ostat = 0#8 ↔
    s.rangeCheck (bitsOf s.o.orsel.toNat 3 0) (bitsOf s.o.orsel.toNat 9 4) s.o.orange0 v = 0 := by
  rw [(writeOrange1_ostat s v).1]
  have h := rangeCheck_lt_four s (bitsOf s.o.orsel.toNat 3 0) (bitsOf s.o.orsel.toNat 9 4) s.o.orange0 v
  generalize s.rangeCheck _ _ _ _ = c at *
  interval_cases c <;> decide

/-- An access of a register that waits for vector instructions is, with none under way, the access itself (R74). -/
theorem execFflagsSyncAccess_idle (w : Bool) (hf : s.h.flight = none) (hs : syncReg r.toNat = true) :
    execFflagsSyncAccess w d r s = if w then execSput d r s else execSget d r s := by
  simp [execFflagsSyncAccess, hf, hs]

end

/-- Settles O14: each event is an access by sget or sput, or the state that its owner register's write gives. -/
theorem registerEventsAct : Obligations.RegisterEventsAct := by
  intro s d n v
  refine ⟨fun w hf => ?_, fun w hf hs => ?_, fun hf hb => ⟨?_, ?_⟩, fun hu hv => ?_, fun hu => ?_, ?_, ?_,
    ⟨_, rfl, (writeOrange1_ostat s v).2, ostat_writeOrange1_eq_zero_iff,
      fun h => mem_stage3_writeOrange1 (ostat_writeOrange1_eq_zero_iff.mp h)⟩,
    ⟨s.writeOkey3 v, rfl, rfl, _, List.mem_append_right _ (List.mem_singleton_self _), rfl, rfl, rfl⟩, rfl⟩
  · show execFflagsSyncAccess w d n s = _
    simp [execFflagsSyncAccess, hf]
  · cases w <;> exact execFflagsSyncAccess_idle _ hf hs
  · have hr := execSget_read (d := d) (r := 0x006#11) (regCheck_allowed rfl (Nat.zero_le _)) hb rfl
    rw [BitVec.ofNat_toNat] at hr
    exact (execFflagsSyncAccess_idle false hf rfl).trans hr
  · exact (execFflagsSyncAccess_idle true hf rfl).trans (execSput_hart rfl (fun _ => hb) rfl)
  · exact (execSput_task (r := 0x015#11) rfl (by simp) rfl rfl fun _ => hv).trans
      (congrArg Host.Outcome.next (if_pos hu))
  · exact (execSput_task (r := 0x021#11) rfl (by simp) rfl rfl (by simp)).trans
      (congrArg Host.Outcome.next (if_pos hu))
  · exact execSput_hart (r := 0x005#11) rfl (by simp) rfl
  · exact execSput_hart (r := 0x01E#11) rfl (by simp) rfl
end Sys2Proof.Machine

end

section
/-! A step of a service core with an asynchronous trap due (17_traps R403, 15_collectives R318): O56 is refuted. -/

namespace Sys2Proof.Machine

/-- Partition firmware at a `nop`, with an asynchronous trap held that is due. -/
def dueAtService : State :=
  { State.reset.placed.putWord 0x100000 0x40000004#32 with
    who := .service
    h := { pc := 0x100000#64, held := [{ cause := .access, val := 0#64 }] }
    cl := { State.reset.placed.cl with svc := { running := some .p } } }

/-- The state in which the turn of `dueAtService` looks at it: TIME one higher. -/
def dueAtServiceTurn : State := { dueAtService with time := dueAtService.time + 1 }

/-- All that O56 asks of the state, its word included; the trap is still held after the fetch. -/
theorem dueAtService_issues :
    dueAtService.agenda = [] ∧ dueAtService.slot = .hart ∧ dueAtServiceTurn.canIssue = true ∧
    dueAtServiceTurn.budgetDue = false ∧ dueAtServiceTurn.limit.isNone = true ∧
    (match fetchAt dueAtService.h.pc.toNat dueAtServiceTurn with
      | .ok (w, u) => decide (w = 0x40000004#32 ∧ u.h.held = dueAtService.h.held)
      | .error _ => false) = true := by decide +kernel

/-- The step takes the trap: it no longer stands held. -/
theorem step_dueAtService_delivers :
    (match step dueAtService with | .next t => decide (t.h.held = []) | _ => false) = true := by decide +kernel

/-- Refutes O56: it excludes a due asynchronous trap only for a hart of a task, but a service core that runs a handler
takes one too, before it fetches (R318). At `dueAtService` the statement has the `nop` run, which leaves the trap held;
the step delivers it. -/
theorem not_stepRunsTheDecodedInstruction : ¬ Obligations.StepRunsTheDecodedInstruction := by
  intro h
  obtain ⟨hagenda, hslot, hissue, hbudget, hlimit, hfetch⟩ := dueAtService_issues
  cases hu : fetchAt dueAtService.h.pc.toNat dueAtServiceTurn with
  | error e => simp [hu] at hfetch
  | ok r =>
    obtain ⟨w, u⟩ := r
    obtain ⟨rfl, hheld⟩ : w = 0x40000004#32 ∧ u.h.held = dueAtService.h.held := by simpa [hu] using hfetch
    have hstep : step dueAtService = .next u.advance.afterTurn :=
      (h _ _ _ hagenda hslot hissue (.inl nofun) hbudget hlimit rfl rfl rfl hu).1 .nop rfl
    have hnone := step_dueAtService_delivers
    rw [hstep] at hnone
    have hnone : u.h.held = [] := of_decide_eq_true hnone
    cases hnone.symm.trans hheld
end Sys2Proof.Machine

end

section
/-! rep (03_words R65 to R67): what it does where the next word can be fetched, and the word that each repeat issues;
O18 is settled. -/

namespace Sys2Proof.Machine

section
variable {s u : State} {count : BitVec 6} {sd sa sb : Bool} {stride : BitVec 3} {w : IWord}

/-- The state of a rep that completes: both words passed where REPCNT has the count, else the repeat in force (R67). -/
def State.engageRep (s : State) (count : BitVec 6) (sd sa sb : Bool) (stride : BitVec 3) : State :=
  if count.toNat < s.h.repcnt.toNat then { s with h := { s.h with repcnt := 0#6, pc := s.h.pc + 8#64 } }
  else { s with h := { s.h with rep := some { count := count.toNat + 1, sd, sa, sb, stride := stride.toNat + 1 } } }

theorem execRep_allowed (hf : fetchAt ((s.h.pc + 4#64).toNat) s = .ok (w, u))
    (ha : repAllowed w (count.toNat + 1) sd sa sb (stride.toNat + 1) = true) :
    execRep count sd sa sb stride s = .next (u.engageRep count sd sa sb stride) := by
  simp only [execRep, hf, ha]
  exact finish_ok rfl

theorem execRep_refused (hf : fetchAt ((s.h.pc + 4#64).toNat) s = .ok (w, u))
    (ha : repAllowed w (count.toNat + 1) sd sa sb (stride.toNat + 1) = false) :
    execRep count sd sa sb stride s =
      .next (takeTrap { cause := .illegal, val := repWord count sd sa sb stride } false u) := by
  simp only [execRep, hf, ha]
  exact finish_trap rfl

/-- A field that takes `k` steps of `n` holds `(x + k × n) mod 128` (R65). -/
theorem toNat_stepped (on : Bool) (x : Reg) (n : Nat) :
    (if on then x + BitVec.ofNat 7 n else x).toNat = if on then (x.toNat + n) % 128 else x.toNat := by
  cases on
  · rfl
  · simp [BitVec.toNat_add]

theorem splitWord_word (r : Rep) (i : Nat) (w : IWord) :
    splitWord (r.word i w) =
      { splitWord w with
        d := if r.sd then (splitWord w).d + BitVec.ofNat 7 (i * r.stride) else (splitWord w).d
        a := if r.sa then (splitWord w).a + BitVec.ofNat 7 (i * r.stride) else (splitWord w).a
        b := if r.sb then (splitWord w).b + BitVec.ofNat 7 (i * r.stride) else (splitWord w).b } :=
  Laws.splitWord_joinWord _

end

/-- Settles O18: the check of the next word decides between the two ends of the rep, and a repeat's word splits into
the stepped fields. -/
theorem repeatPrefixEngages : Obligations.RepeatPrefixEngages := by
  intro s u count sd sa sb stride w hf
  refine ⟨fun ha => ⟨execRep_allowed hf ha, fun i => ?_⟩, execRep_refused hf⟩
  simp only [splitWord_word, toNat_stepped, and_self]
end Sys2Proof.Machine

end

section
/-! Words of the tables of the manual (03_words R61 to R64): each is the word of its instruction, which the decoder
therefore reads back; O57 is settled. -/

namespace Sys2Proof.Machine

/-- The decoder reads a well-formed instruction from its word. -/
theorem decode_of_encode {i : Instr} {w : IWord} (hw : encode i = some w) (he : i.isEvent = false)
    (hwf : i.wellFormed = true) : decode w = .ok i := by
  obtain ⟨w', hw', hd⟩ := Laws.decode_encode he hwf
  cases hw.symm.trans hw'
  exact hd

/-- Settles O57: each word is what its instruction is encoded as, and majors 0x00 and 0x7F hold no instruction. -/
theorem someWordsDecode : Obligations.SomeWordsDecode := by
  unfold Obligations.SomeWordsDecode
  and_intros
  any_goals exact decode_of_encode rfl rfl rfl
  all_goals exact ⟨_, rfl⟩

end Sys2Proof.Machine

end

section
/-! Scalar arithmetic (05_control R95 to R97): the value of each member in terms of integers, and what one register
written leaves unchanged; O1 to O4 are settled. -/

namespace Sys2Proof.Machine

section Values
variable (x y : Word) (n : Nat)

theorem sub_eq_ofInt : x - y = BitVec.ofInt 64 ((x.toNat : Int) - y.toNat) := by
  rw [sub_eq_add_neg, sub_eq_add_neg, BitVec.ofInt_add, BitVec.ofInt_neg, BitVec.ofInt_natCast, BitVec.ofInt_natCast,
    BitVec.ofNat_toNat, BitVec.ofNat_toNat, BitVec.setWidth_eq, BitVec.setWidth_eq]

theorem shiftLeft_eq_ofNat : x <<< n = BitVec.ofNat 64 (x.toNat * 2 ^ n) := by
  apply BitVec.eq_of_toNat_eq
  simp [Nat.shiftLeft_eq]

theorem ushiftRight_eq_ofNat : x >>> n = BitVec.ofNat 64 (x.toNat / 2 ^ n) := by
  apply BitVec.eq_of_toNat_eq
  rw [BitVec.toNat_ushiftRight, Nat.shiftRight_eq_div_pow, BitVec.toNat_ofNat,
    Nat.mod_eq_of_lt ((Nat.div_le_self _ _).trans_lt x.isLt)]

theorem sshiftRight_eq_ofInt : x.sshiftRight n = BitVec.ofInt 64 (x.toInt / 2 ^ n) := by
  rw [BitVec.sshiftRight_eq, Int.shiftRight_eq_div_pow]
  norm_cast

theorem boolWord_slt : boolWord (x.slt y) = if x.toInt < y.toInt then 1#64 else 0#64 := by
  simp [boolWord, BitVec.slt_iff_toInt_lt]

theorem boolWord_ult : boolWord (x.ult y) = if x.toNat < y.toNat then 1#64 else 0#64 := by
  simp [boolWord, BitVec.ult_iff_toNat_lt]

/-- A test for less decides like a test for at most where the two choices agree on a tie. -/
theorem ite_lt_eq_ite_le {α β : Type} [LinearOrder α] {m n : α} {p q : β} (tie : m = n → p = q) :
    (if m < n then p else q) = if m ≤ n then p else q := by
  rcases lt_trichotomy m n with h | h | h
  · rw [if_pos h, if_pos h.le]
  · rw [if_neg h.not_lt, if_pos h.le, tie h]
  · rw [if_neg h.not_gt, if_neg h.not_ge]

theorem sminW_eq : sminW x y = if x.toInt ≤ y.toInt then x else y := by
  simp only [sminW, BitVec.slt_iff_toInt_lt, ite_lt_eq_ite_le BitVec.toInt_inj.mp]

theorem smaxW_eq : smaxW x y = if x.toInt ≤ y.toInt then y else x := by
  simp only [smaxW, BitVec.slt_iff_toInt_lt, ite_lt_eq_ite_le fun h => (BitVec.toInt_inj.mp h).symm]

theorem uminW_eq : uminW x y = if x.toNat ≤ y.toNat then x else y := by
  simp only [uminW, BitVec.ult_iff_toNat_lt, ite_lt_eq_ite_le BitVec.toNat_inj.mp]

theorem umaxW_eq : umaxW x y = if x.toNat ≤ y.toNat then y else x := by
  simp only [umaxW, BitVec.ult_iff_toNat_lt, ite_lt_eq_ite_le fun h => (BitVec.toNat_inj.mp h).symm]

end Values

/-- Equal words end an instruction alike. -/
theorem next_put_congr {s : State} {d : Reg} {v w : Word} (h : v = w) :
    (Host.Outcome.next (s.put d v) : Out) = .next (s.put d w) := by rw [h]

/-- Settles O1: each member writes its word operation, which is the operation on integers. -/
theorem aluMembersCompute : Obligations.AluMembersCompute := by
  intro s d a b imm sh x y z n
  have hz : z.toInt = imm.toInt := BitVec.toInt_signExtend_of_le (by decide)
  exact ⟨next_put_congr (BitVec.add_def x y), next_put_congr (sub_eq_ofInt x y), rfl, rfl, rfl,
    next_put_congr (shiftLeft_eq_ofNat x n), next_put_congr (ushiftRight_eq_ofNat x n),
    next_put_congr (sshiftRight_eq_ofInt x n), next_put_congr (boolWord_slt x y), next_put_congr (boolWord_ult x y),
    next_put_congr (sminW_eq x y), next_put_congr (smaxW_eq x y), next_put_congr (uminW_eq x y),
    next_put_congr (umaxW_eq x y), rfl, rfl,
    next_put_congr (BitVec.add_def x z), rfl, rfl, rfl, next_put_congr (hz ▸ boolWord_slt x z),
    next_put_congr (boolWord_ult x z), next_put_congr (shiftLeft_eq_ofNat x sh.toNat),
    next_put_congr (ushiftRight_eq_ofNat x sh.toNat), next_put_congr (sshiftRight_eq_ofInt x sh.toNat)⟩

section Quotients
variable (x y : Word)

theorem sdivW_eq : sdivW x y = if y = 0#64 then BitVec.allOnes 64 else BitVec.ofInt 64 (Int.tdiv x.toInt y.toInt) := by
  unfold sdivW
  congr 1
  apply BitVec.eq_of_toInt_eq
  rw [BitVec.toInt_sdiv, BitVec.toInt_ofInt]

theorem udivW_eq : udivW x y = if y = 0#64 then BitVec.allOnes 64 else BitVec.ofNat 64 (x.toNat / y.toNat) := by
  unfold udivW
  rw [BitVec.udiv_def]

/-- The remainder is what the quotient times the divisor leaves of the dividend. -/
theorem sremW_eq : sremW x y = if y = 0#64 then x else BitVec.ofInt 64 (Int.tmod x.toInt y.toInt) := by
  unfold sremW
  rw [sdivW_eq]
  split
  · simp [*]
  · rw [Int.tmod_def, sub_eq_add_neg, sub_eq_add_neg, BitVec.ofInt_add, BitVec.ofInt_neg, BitVec.ofInt_mul, BitVec.ofInt_toInt,
      BitVec.ofInt_toInt, mul_comm]

theorem uremW_eq : uremW x y = if y = 0#64 then x else BitVec.ofNat 64 (x.toNat % y.toNat) := by
  unfold uremW
  rw [udivW_eq]
  split
  · simp [*]
  · have hy : BitVec.ofNat 64 (x.toNat / y.toNat) * y = BitVec.ofNat 64 (x.toNat / y.toNat * y.toNat) := by
      rw [BitVec.ofNat_mul, BitVec.ofNat_toNat, BitVec.setWidth_eq]
    rw [hy, sub_eq_iff_eq_add, ← BitVec.ofNat_add, Nat.mod_add_div', BitVec.ofNat_toNat, BitVec.setWidth_eq]

end Quotients

section Counts

theorem bitLen_le_iff {v n : Nat} : bitLen v ≤ n ↔ v < 2 ^ n := by
  unfold bitLen
  split
  · simp [*]
  · exact Nat.succ_le_iff.trans (Nat.log2_lt ‹_›)

/-- The lowest one bit of `n` bits stands above the trailing zeros. -/
theorem trailing_spec (n v : Nat) : trailing n v ≤ n ∧ (∀ i, i < trailing n v → v.testBit i = false) ∧
    (trailing n v < n → v.testBit (trailing n v) = true) := by
  induction n generalizing v with
  | zero => simp [trailing]
  | succ n ih =>
    obtain ⟨hle, hlow, hbit⟩ := ih (v / 2)
    unfold trailing
    split
    · simp [*]
    · refine ⟨Nat.succ_le_succ hle, fun i hi => ?_, fun h => ?_⟩
      · cases i with
        | zero => simp [Nat.testBit_zero, *]
        | succ i => rw [Nat.testBit_succ]; exact hlow i (Nat.lt_of_succ_lt_succ hi)
      · rw [Nat.testBit_succ]
        exact hbit (Nat.lt_of_succ_lt_succ h)

theorem ones_eq_countP (n v : Nat) : ones n v = (List.range n).countP fun i => v.testBit i := by
  induction n generalizing v with
  | zero => rfl
  | succ n ih =>
    rw [ones, ih, List.range_succ_eq_map, List.countP_cons, List.countP_map, Nat.add_comm]
    congr 1
    · congr 1
      funext i
      exact (Nat.testBit_succ v i).symm
    · rcases Nat.mod_two_eq_zero_or_one v with h | h <;> simp [h]

end Counts

section Fields
variable (x y z : Word) {i : Nat}

/-- Width of the bit field that xb describes (R96). -/
def fieldWidth (y : Word) : Nat := min (y.toNat / 64 % 128) 64

theorem getLsbD_fieldMask : (fieldMask y).getLsbD i = (decide (i < 64) && decide (i < fieldWidth y)) := by
  have h : fieldMask y = BitVec.ofNat 64 (2 ^ fieldWidth y - 1) := rfl
  rw [h, BitVec.getLsbD_ofNat, Nat.testBit_two_pow_sub_one]

theorem getLsbD_extracted (hi : i < 64) : ((x >>> fieldPos y) &&& fieldMask y).getLsbD i =
    (decide (i < fieldWidth y) && decide (fieldPos y + i ≤ 63) && x.getLsbD (fieldPos y + i)) := by
  rw [BitVec.getLsbD_and, BitVec.getLsbD_ushiftRight, getLsbD_fieldMask, decide_eq_true hi, Bool.true_and, Bool.and_comm,
    Bool.and_assoc]
  congr 1
  by_cases h : fieldPos y + i ≤ 63
  · simp [h]
  · rw [BitVec.getLsbD_of_ge _ _ (by omega), Bool.and_false]

theorem getLsbD_inserted (hi : i < 64) :
    ((z &&& ~~~(fieldMask y <<< fieldPos y)) ||| ((x &&& fieldMask y) <<< fieldPos y)).getLsbD i =
      if fieldPos y ≤ i ∧ i < fieldPos y + fieldWidth y then x.getLsbD (i - fieldPos y) else z.getLsbD i := by
  have hw : i - fieldPos y < 64 := by omega
  have hlt : ¬i < fieldPos y → (i - fieldPos y < fieldWidth y ↔ i < fieldPos y + fieldWidth y) := by omega
  simp only [BitVec.getLsbD_or, BitVec.getLsbD_and, BitVec.getLsbD_not, BitVec.getLsbD_shiftLeft, getLsbD_fieldMask, hi, hw]
  by_cases hp : i < fieldPos y
  · simp [hp, Nat.not_le.mpr hp]
  · by_cases hq : i < fieldPos y + fieldWidth y <;> simp [hp, hlt hp, hq, Nat.le_of_not_lt hp]

end Fields

/-- Settles O2: quotients and remainders by their sign rules, counts by their recursion on the bits, fields bit by bit. -/
theorem mulDivMembersCompute : Obligations.MulDivMembersCompute := by
  intro s d a b x y pos w
  have hlen : bitLen x.toNat ≤ 64 := bitLen_le_iff.mpr x.isLt
  obtain ⟨hle, hlow, hbit⟩ := trailing_spec 64 x.toNat
  refine ⟨next_put_congr (BitVec.mul_def (x := x) (y := y)), rfl, rfl, next_put_congr (sdivW_eq x y),
    next_put_congr (udivW_eq x y),
    next_put_congr (sremW_eq x y), next_put_congr (uremW_eq x y),
    ⟨64 - bitLen x.toNat, rfl, Nat.sub_le _ _, ?_, fun hc => ?_⟩, ⟨trailing 64 x.toNat, rfl, hle, hlow, hbit⟩,
    next_put_congr (congrArg _ (ones_eq_countP 64 x.toNat)), ⟨_, rfl, fun i hi => getLsbD_extracted x y hi⟩,
    ⟨_, rfl, fun i hi => getLsbD_inserted x y _ hi⟩⟩
  · rw [← bitLen_le_iff]
    omega
  · rw [← Nat.not_lt, ← bitLen_le_iff]
    omega

section Constants

theorem shiftLeft_or_setWidth_eq_ofNat (x : Word) (imm : BitVec 18) :
    (x <<< 18 ||| imm.setWidth 64) = BitVec.ofNat 64 (x.toNat * 2 ^ 18 + imm.toNat) := by
  have hdisj : x <<< 18 &&& imm.setWidth 64 = 0#64 := by
    apply BitVec.eq_of_getLsbD_eq
    intro i hi
    by_cases h : i < 18
    · simp [h]
    · rw [BitVec.getLsbD_and, BitVec.getLsbD_setWidth, BitVec.getLsbD_of_ge imm i (Nat.le_of_not_lt h)]
      simp
  rw [← BitVec.add_eq_or_of_and_eq_zero _ _ hdisj, shiftLeft_eq_ofNat, BitVec.ofNat_add,
    BitVec.ofNat_toNat]

/-- One lsh more reaches 18 bits further: a sign-extended word is that of the bits above its lowest 18, with those below. -/
theorem signExtend_setWidth_add (v : Word) {n : Nat} (hn : 0 < n) : (v.setWidth (n + 18)).signExtend 64 =
    (((v >>> 18).setWidth n).signExtend 64 <<< 18 ||| (v.setWidth 18).setWidth 64) := by
  apply BitVec.eq_of_getLsbD_eq
  intro i hi
  have htop : n + 18 - 1 = 18 + (n - 1) := by omega
  simp only [BitVec.getLsbD_or, BitVec.getLsbD_shiftLeft, BitVec.getLsbD_signExtend, BitVec.getLsbD_setWidth, BitVec.msb_setWidth,
    BitVec.getLsbD_ushiftRight, hi, htop]
  by_cases h : i < 18
  · simp [h, Nat.lt_add_left n h]
  · by_cases hw : i - 18 < n
    · simp [h, hw, show i < n + 18 by omega, show 18 + (i - 18) = i by omega, show i - 18 < 64 by omega]
    · simp [h, hw, hn, show ¬i < n + 18 by omega, show i - 18 < 64 by omega]

end Constants

/-- Settles O3: lsh by disjoint bits; each range by one lsh more than the range before. -/
theorem constantsReachTheirRanges : Obligations.ConstantsReachTheirRanges := by
  intro s d imm
  refine ⟨rfl, next_put_congr (shiftLeft_or_setWidth_eq_ofNat _ imm),
    fun v => ⟨fun h => ⟨_, h⟩, fun h => ?_, fun h => ?_⟩⟩
  · exact ⟨_, _, (signExtend_setWidth_add v (n := 18) (by decide)).symm.trans h⟩
  · rw [← h, signExtend_setWidth_add v (n := 36) (by decide), signExtend_setWidth_add (v >>> 18) (n := 18) (by decide)]
    exact ⟨_, _, _, rfl⟩

section Frame

theorem rx_zero (h : Hart) : h.rx 0#7 = 0#64 := rfl

theorem wx_zero (h : Hart) (v : Word) : h.wx 0#7 v = h := rfl

theorem rx_wx_same (h : Hart) {d : Reg} (hd : d ≠ 0#7) (v : Word) : (h.wx d v).rx d = v := by
  rw [Hart.wx, if_neg hd, Hart.rx, if_neg hd]
  exact Vector.getElem_set_self d.isLt

theorem rx_wx (h : Hart) (d r : Reg) (v : Word) : (h.wx d v).rx r = if r = d ∧ d ≠ 0#7 then v else h.rx r := by
  by_cases hr : r = d
  · subst hr
    by_cases hd : r = 0#7
    · subst hd; rfl
    · rw [if_pos ⟨rfl, hd⟩, rx_wx_same h hd]
  · rw [if_neg fun hc => hr hc.1, Hart.rx_wx_ne h r d v hr]

theorem put_onlyRegs (s : State) (d : Reg) (v : Word) : s.onlyRegs [d] (s.put d v) := by
  refine ⟨fun r hr => Hart.rx_wx_ne s.h r d v (by simpa using hr), ?_, fun _ => rfl, fun _ => rfl⟩
  unfold State.put State.advance State.wx Hart.wx
  split <;> rfl

/-- An instruction that reads registers and writes one ends with that write. -/
theorem exec_registerOnly {i : Instr} {d : Reg} (s : State) (hi : registerOnly i = some d) :
    ∃ v, exec i s = .next (s.put d v) := by
  unfold registerOnly at hi
  split at hi
  case h_40 => cases hi
  all_goals
    cases hi
    exact ⟨_, rfl⟩

end Frame

/-- Settles O4: each of these instructions ends with one write, which is all that differs. -/
theorem scalarArithmeticFrame : Obligations.ScalarArithmeticFrame := by
  refine ⟨fun i d s t hi ht => ?_, fun h d r v => ⟨rx_zero h, wx_zero h v, rx_wx h d r v⟩⟩
  obtain ⟨v, hv⟩ := exec_registerOnly s hi
  cases hv.symm.trans ht
  exact ⟨put_onlyRegs s d v, by simp, rfl⟩

end Sys2Proof.Machine

end

section
/-! Branches, jumps, and the grant of vsetl (05_control R100 to R105): where the program counter goes, and how long a
strip is; O9 to O11 are settled. -/

namespace Sys2Proof.Machine

section Targets
variable {s : State}

/-- A target is the instruction's own address and 4 times the immediate (R55). -/
theorem pc_add_imm_mul_four (pc : Word) {n : Nat} (imm : BitVec n) :
    pc + imm.signExtend 64 * 4#64 = BitVec.ofInt 64 (pc.toNat + 4 * imm.toInt) := by
  rw [BitVec.ofInt_add, BitVec.ofInt_natCast, BitVec.ofNat_toNat, BitVec.setWidth_eq, BitVec.ofInt_mul, mul_comm]
  rfl

theorem branch_iff {c : Bool} {p : Prop} [Decidable p] (imm : BitVec 11) (h : c = true ↔ p) :
    branch c imm s = .next (if p then s.setPc (BitVec.ofInt 64 (s.h.pc.toNat + 4 * imm.toInt)) else s.advance) := by
  simp only [branch, State.branchTo, immWord, pc_add_imm_mul_four, h]

theorem aligned_four_iff (x : Word) : aligned x 4 = true ↔ x.getLsbD 0 = false ∧ x.getLsbD 1 = false := by
  simp only [aligned, decide_eq_true_eq, BitVec.getLsbD, Nat.testBit_succ, Nat.testBit_zero, decide_eq_false_iff_not]
  omega

/-- A jump through a register goes to a word's address, and traps at any other with no register written (R53). -/
theorem jumpReg_iff (x : Word) (link : Option Reg) :
    jumpReg x link s = if x.getLsbD 0 = false ∧ x.getLsbD 1 = false
      then .next ((link.elim s fun d => s.wx d (s.h.pc + 4#64)).setPc x)
      else .next (takeTrap { cause := .misaligned, val := x } false s) := by
  simp only [jumpReg, aligned_four_iff]
  cases link <;> rfl

theorem not_slt_iff (x y : Word) : (!x.slt y) = true ↔ x.toInt ≥ y.toInt := by
  rw [Bool.not_eq_true', ← Bool.not_eq_true, BitVec.slt_iff_toInt_lt, not_lt]

theorem not_ult_iff (x y : Word) : (!x.ult y) = true ↔ x.toNat ≥ y.toNat := by
  rw [Bool.not_eq_true', ← Bool.not_eq_true, BitVec.ult_iff_toNat_lt, not_lt]

end Targets

/-- Settles O9: each branch tests the condition that the rule states. -/
theorem branchesGoWhereTheyShould : Obligations.BranchesGoWhereTheyShould := by
  intro s d a imm x y go
  exact ⟨branch_iff imm beq_iff_eq, branch_iff imm bne_iff_ne, branch_iff imm BitVec.slt_iff_toInt_lt,
    branch_iff imm (not_slt_iff x y), branch_iff imm BitVec.ult_iff_toNat_lt, branch_iff imm (not_ult_iff x y)⟩

/-- The register that bsub tests is the one it has written, which for x0 stays zero (log 17). -/
theorem zero_slt_rx_wx (s : State) (d : Reg) (v : Word) :
    (0#64).slt ((s.wx d v).rx d) = true ↔ 0 < v.toInt ∧ d ≠ 0#7 := by
  rw [State.rx, State.wx_h, rx_wx, BitVec.slt_iff_toInt_lt]
  by_cases hd : d = 0#7
  · subst hd
    simp [rx_zero]
  · simp [hd]

/-- Settles O10: bsub is a branch after its write, the others are jumps to a target or through a register. -/
theorem countDownAndJumps : Obligations.CountDownAndJumps := by
  intro s d a imm far v target go
  have hfar : s.jumpTo far = target := pc_add_imm_mul_four s.h.pc far
  refine ⟨?_, congrArg (fun p => Host.Outcome.next (s.setPc p)) hfar,
    congrArg (fun p => Host.Outcome.next ((s.wx 1#7 (s.h.pc + 4#64)).setPc p)) hfar, jumpReg_iff _ none,
    jumpReg_iff _ (some d), jumpReg_iff _ none⟩
  have h := branch_iff (s := s.wx d v) imm (zero_slt_rx_wx s d v)
  rwa [State.wx_h, Hart.wx_pc] at h

section Grant
variable {gvl n : Nat} {t : ElemType}

/-- The whole elements of a type in GVL bytes, of 6-bit types a multiple of 4 (R103). -/
def wholeElems (gvl : Nat) (t : ElemType) : Nat :=
  if isSix t then gvl * 8 / elemBits t - gvl * 8 / elemBits t % 4 else gvl * 8 / elemBits t

theorem wholeElems_le : wholeElems gvl t ≤ gvl * 8 := by
  have h : gvl * 8 / elemBits t ≤ gvl * 8 := Nat.div_le_self _ _
  unfold wholeElems
  split <;> omega

theorem grant_le_wholeElems : grant gvl t n ≤ wholeElems gvl t := by
  show (if wholeElems gvl t ≤ n then wholeElems gvl t else _) ≤ _
  have : n - n % (if isSix t then 4 else if t = .cb8x2 then 8 else 1) ≤ n := Nat.sub_le _ _
  split_ifs <;> omega

theorem elemBits_eq_six (h : isSix t = true) : elemBits t = 6 := by
  cases t <;> cases h <;> rfl

theorem bytesFor_six (h : isSix t = true) : bytesFor t n = 3 * ((n + 3) / 4) := by
  cases t <;> cases h <;> rfl

theorem bytesFor_plain (h : isSix t = false) (hc : t ≠ .cb8x2) : bytesFor t n = (n * elemBits t + 7) / 8 := by
  unfold bytesFor
  split
  · contradiction
  · rw [h, if_neg Bool.false_ne_true]

theorem bytesFor_le (he : gvl % 2 = 0) (hn : n ≤ wholeElems gvl t) : bytesFor t n ≤ gvl := by
  unfold wholeElems at hn
  by_cases hc : t = .cb8x2
  · subst hc
    simp only [isSix, elemBits, Bool.false_eq_true, if_false] at hn
    show 2 * ((n + 7) / 8) ≤ gvl
    omega
  · cases h : isSix t with
    | true =>
      simp only [h, if_true, elemBits_eq_six h] at hn
      rw [bytesFor_six h]
      omega
    | false =>
      simp only [h, Bool.false_eq_true, if_false] at hn
      rw [bytesFor_plain h hc]
      have : n * elemBits t ≤ gvl * 8 := (Nat.mul_le_mul_right _ hn).trans (Nat.div_mul_le_self _ _)
      omega

end Grant

theorem add_setWidth_eq_ofInt (b : BitVec 9) (x : Word) : b + x.setWidth 9 = BitVec.ofInt 9 (b.toNat + x.toInt) := by
  have hx : BitVec.ofInt 9 x.toInt = x.setWidth 9 := by
    apply BitVec.eq_of_toInt_eq
    rw [BitVec.toInt_ofInt, BitVec.toInt_setWidth, BitVec.toInt_eq_toNat_bmod, Int.bmod_bmod_of_dvd (by decide)]
  rw [BitVec.ofInt_add, BitVec.ofInt_natCast, BitVec.ofNat_toNat, BitVec.setWidth_eq, hx]

/-- Settles O11: the grant is at most the whole elements of GVL bytes, and the window moves modulo 512. -/
theorem vsetlGrantsTheStrip : Obligations.VsetlGrantsTheStrip := by
  intro s d a blk ty gvl n whole most q vl
  have hvl : vl ≤ wholeElems gvl ty := grant_le_wholeElems
  refine ⟨rfl, fun he => bytesFor_le he hvl, fun hg => (hvl.trans wholeElems_le).trans (by omega), ?_⟩
  rw [← add_setWidth_eq_ofInt]
  rfl

end Sys2Proof.Machine

end

section
/-! What recalls, commits, table walks and write-backs leave as it was: the agent with the turn and, but for its stash
windows, its task. -/

namespace Sys2Proof.Machine

/-- From `s` to `t` the agent with the turn, its cluster, the format windows, and its task but for the stash windows stay as
they are. -/
structure State.MemoryOnly (s t : State) : Prop where
  who : t.who = s.who
  hart : t.h = s.h
  cluster : t.cl = s.cl
  formats : t.windows = s.windows
  task : t.t = { s.t with windows := t.t.windows }

namespace State.MemoryOnly
variable {s t u : State}

theorem refl (s : State) : s.MemoryOnly s := ⟨rfl, rfl, rfl, rfl, rfl⟩

theorem trans (h : s.MemoryOnly t) (k : t.MemoryOnly u) : s.MemoryOnly u where
  who := k.who.trans h.who
  hart := k.hart.trans h.hart
  cluster := k.cluster.trans h.cluster
  formats := k.formats.trans h.formats
  task := by rw [k.task, h.task]

theorem foldl {α : Type} {f : State → α → State} (hf : ∀ (s : State) (a : α), s.MemoryOnly (f s a))
    (l : List α) (s : State) :
    s.MemoryOnly (l.foldl f s) :=
  List.foldlRecOn l f (refl s) fun _ h a _ => h.trans (hf _ a)

theorem packet (h : s.MemoryOnly t) : t.t.packet = s.t.packet := by rw [h.task]

theorem writeCells (cs : List (Byte × Byte)) (s : State) (pa : Nat) : s.MemoryOnly (s.writeCells pa cs) := by
  induction cs generalizing s pa with
  | nil => exact refl s
  | cons c r ih => exact trans (t := s.writeByte pa c.1 c.2) ⟨rfl, rfl, rfl, rfl, rfl⟩ (ih _ _)

theorem settleLine (s : State) (line : Nat) (drop : Bool) : s.MemoryOnly (s.mapTasks fun t => t.settleLine line drop) := by
  refine ⟨rfl, rfl, rfl, rfl, ?_⟩
  unfold State.mapTasks
  dsimp only
  split <;> rfl

theorem recallLine (s : State) (line : Nat) (drop : Bool) : s.MemoryOnly (s.recall line drop) := by
  unfold State.recall
  refine trans ?_ (settleLine _ line drop)
  split
  · exact writeCells _ _ _
  · exact refl s

theorem commitCells (s : State) (pa : Nat) (cs : List (Byte × Byte)) : s.MemoryOnly (s.commitCells pa cs) :=
  (recallLine s _ _).trans (writeCells _ _ _)

theorem lookAll (l : List Nat) (s : State) : s.MemoryOnly (s.lookAll l) := by
  induction l generalizing s with
  | nil => exact refl s
  | cons pa r ih =>
    refine trans (t := s.lookAt (pa / 256)) ?_ (ih _)
    unfold State.lookAt
    split
    · exact refl s
    · exact recallLine _ _ _

theorem markEntries (bits : Byte) (l : List Nat) (s : State) : s.MemoryOnly (s.markEntries bits l) := by
  induction l generalizing s with
  | nil => exact refl s
  | cons pa r ih =>
    unfold State.markEntries
    refine trans ?_ (ih _)
    split
    · exact refl s
    · exact commitCells _ _ _

theorem tlbFill (s : State) (x : Xlat) : s.MemoryOnly (s.tlbFill x) := by
  unfold State.tlbFill
  split
  · exact refl s
  · split
    · exact refl s
    · exact ⟨rfl, rfl, rfl, rfl, rfl⟩

theorem setMarks (w : Bool) (s : State) (x : Xlat) : s.MemoryOnly (s.setMarks w x) :=
  (((lookAll _ _).trans (markEntries _ _ _)).trans (markEntries _ _ _)).trans (tlbFill _ _)

theorem commitAll (l : List SbEntry) (s : State) : s.MemoryOnly (s.commitAll l) := by
  induction l generalizing s with
  | nil => exact refl s
  | cons e r ih => exact (commitCells s e.pa e.cells).trans (ih _)

theorem flushAll (s : State) : s.MemoryOnly s.flushAll := by
  refine foldl (fun s w => foldl (fun s l => ?_) _ s) _ s
  unfold State.flushLine
  split
  · exact recallLine _ _ _
  · exact refl s

end State.MemoryOnly

section Drains
variable (s : State) (p : SbEntry → Bool)

theorem drain_h : s.drain.h = { s.h with sb := [] } := by
  show { (s.commitAll s.h.sb).h with sb := [] } = _
  rw [(State.MemoryOnly.commitAll s.h.sb s).hart]

theorem drain_t : s.drain.t = { s.t with windows := s.drain.t.windows } := (State.MemoryOnly.commitAll s.h.sb s).task

theorem drainWhere_windows : (s.drainWhere p).windows = s.windows := (State.MemoryOnly.commitAll _ s).formats

end Drains

end Sys2Proof.Machine

end

section
/-! Scalar loads and stores (05_control R98, R99): what each form does when its access answers, when it traps, and in
granted scratch; O5, O7 and O8 are settled, and O6 is refuted. -/

namespace Sys2Proof.Machine

/-! ### Values of loaded bytes -/

/-- The model's extension of `n` loaded bytes. -/
def extend (n : Nat) (sign : Bool) : List Byte → Word := if sign then signed n else unsigned

theorem ofBytes_lt (bs : List Byte) : ofBytes bs < 2 ^ (8 * bs.length) := by
  induction bs with
  | nil => decide
  | cons b r ih =>
    rw [ofBytes, List.length_cons, Nat.mul_succ, Nat.pow_add]
    have := b.isLt
    omega

theorem intOf_true_eq_toInt {k v : Nat} (hk : 0 < k) (hv : v < 2 ^ k) : intOf true k v = (BitVec.ofNat k v).toInt := by
  obtain ⟨m, rfl⟩ := Nat.exists_eq_add_one.mpr hk
  rw [BitVec.toInt_eq_toNat_cond, BitVec.toNat_ofNat, Nat.mod_eq_of_lt hv, intOf, Nat.add_sub_cancel, Nat.pow_succ']
  by_cases h : 2 ^ m ≤ v
  · rw [if_neg (show ¬2 * v < 2 * 2 ^ m by omega)]
    simp [h, pow_succ']
  · rw [if_pos (show 2 * v < 2 * 2 ^ m by omega)]
    simp [h]

theorem extend_eq_loadedValue {n : Nat} (sign : Bool) {bs : List Byte} (hn : 0 < n) (hb : bs.length = n) :
    extend n sign bs = loadedValue n sign bs := by
  have hlt : ofBytes bs < 2 ^ (8 * n) := hb ▸ ofBytes_lt bs
  cases sign with
  | false =>
    apply BitVec.eq_of_toNat_eq
    simp [extend, unsigned, loadedValue, Nat.mod_eq_of_lt hlt]
  | true => exact congrArg (BitVec.ofInt 64) (intOf_true_eq_toInt (by omega) hlt)

/-! ### How a load or a store ends -/

section Ends
variable {s t : State} {i : Instr} {n : Nat} {sign : Bool} {d : Reg} {addr : Word} {bs : List Byte} {tr : Trap}
  {ext : List Byte → Word}

theorem memImm_one (s : State) (a : Reg) (imm : BitVec 11) : s.memImm a imm 1 = s.rx a + imm.signExtend 64 := by
  simp [State.memImm, immWord]

theorem exec_scalarLoad (hi : scalarLoad s i = some (n, sign, d, addr)) : exec i s = load n (extend n sign) d addr s ∧ 0 < n := by
  unfold scalarLoad at hi
  split at hi
  case h_12 => cases hi
  case h_4 a imm =>
    rw [← memImm_one] at hi
    cases hi
    exact ⟨rfl, by decide⟩
  all_goals
    cases hi
    exact ⟨rfl, by decide⟩

theorem exec_scalarStore (hi : scalarStore s i = some (n, d, addr)) : exec i s = store n d addr s := by
  unfold scalarStore at hi
  split at hi
  case h_8 => cases hi
  case h_3 a imm =>
    rw [← memImm_one] at hi
    cases hi
    rfl
  all_goals
    cases hi
    rfl

theorem aligned_iff : aligned addr n = true ↔ addr.toNat % n = 0 := decide_eq_true_iff

theorem load_misaligned (ha : addr.toNat % n ≠ 0) :
    load n ext d addr s = .next (takeTrap { cause := .misaligned, val := addr } false s) := by
  have ha : aligned addr n = false := decide_eq_false ha
  exact finish_trap (by rw [Act.bind_run, ha]; rfl)

theorem store_misaligned (ha : addr.toNat % n ≠ 0) :
    store n d addr s = .next (takeTrap { cause := .misaligned, val := addr, val2 := 1#64 } false s) := by
  have ha : aligned addr n = false := decide_eq_false ha
  exact finish_trap (by rw [Act.bind_run, ha]; rfl)

theorem load_ok (ha : addr.toNat % n = 0) (h : loadAt addr.toNat n .load 0#64 s = .ok (bs, t)) :
    load n ext d addr s = .next (t.put d (ext bs)) :=
  finish_ok (u := ⟨⟩) (by simp [Act.bind_run, aligned_iff.mpr ha, h])

theorem load_trap (ha : addr.toNat % n = 0) (h : loadAt addr.toNat n .load 0#64 s = .error (.trap tr)) :
    load n ext d addr s = .next (takeTrap tr false s) :=
  finish_trap (by simp [Act.bind_run, aligned_iff.mpr ha, h])

theorem store_ok (ha : addr.toNat % n = 0) (h : storeAt addr.toNat (bytesOf n (s.rx d).toNat) 1#64 s = .ok ((), t)) :
    store n d addr s = .next t.advance :=
  finish_ok (u := ⟨⟩) (by simp [Act.bind_run, aligned_iff.mpr ha, h])

theorem store_trap (ha : addr.toNat % n = 0) (h : storeAt addr.toNat (bytesOf n (s.rx d).toNat) 1#64 s = .error (.trap tr)) :
    store n d addr s = .next (takeTrap tr false s) :=
  finish_trap (by simp [Act.bind_run, aligned_iff.mpr ha, h])

end Ends

/-! ### Accesses through a translation -/

section Translated
variable {s : State} {va n : Nat} {k : Acc} {val2 : Word} {e : TErr} {x : Xlat}

theorem loadAt_translate_error (ho : s.scratchOff va = none) (ht : s.translate va k = .error e) :
    loadAt va n k val2 s = .error (.trap (e.trap (BitVec.ofNat 64 va) val2)) := by
  simp [loadAt, Act.bind_run, ho, ht]

theorem storeCellsAt_translate_error {cells : List (Byte × Byte)} (ho : s.scratchOff va = none)
    (ht : s.translate va .store = .error e) :
    storeCellsAt va cells val2 s = .error (.trap (e.trap (BitVec.ofNat 64 va) val2)) := by
  simp [storeCellsAt, Act.bind_run, ho, ht]

/-- The state in which an access through `x` reads memory: its tables are marked, and on a strongly ordered page the
hart's strong stores have committed (R282, R291). -/
def State.reached (s : State) (writes : Bool) (x : Xlat) : State :=
  if x.ord = .strong then (s.setMarks writes x).drainWhere fun e => e.ord = .strong else s.setMarks writes x

theorem reached_windows (s : State) (w : Bool) (x : Xlat) : (s.reached w x).windows = s.windows := by
  have h := (State.MemoryOnly.setMarks w s x).formats
  unfold State.reached
  split
  · exact (drainWhere_windows _ _).trans h
  · exact h

theorem loadAt_memory (ho : s.scratchOff va = none) (ht : s.translate va k = .ok x) (hm : s.noMemory x.pa = false)
    (hl : s.isLocal x.pa = true) : loadAt va n k val2 s = physLoad s.ownPart x va n val2 (s.reached k.writes x) := by
  unfold State.reached
  by_cases hx : x.ord = .strong <;> simp [loadAt, Act.bind_run, ho, ht, hm, remoteTurn_local va val2 hl, hx]

theorem aliasFor_eq_none {part pp : Nat} (h : s.aliasOf part pp = none) : s.aliasFor part pp = none := by
  unfold State.aliasFor
  split
  · rfl
  · exact h

theorem physLoad_poisoned {part : Nat} (ha : s.aliasOf part x.pp = none) (hp : ∃ i, i < n ∧ s.consumes (x.pa + i) = true) :
    physLoad part x va n val2 s = .error (.trap ((poisonTrap va val2).via x)) := by
  have hany : ((List.range n).any fun i => s.consumes (x.pa + i)) = true := by simpa using hp
  simp only [physLoad, aliasFor_eq_none ha, hany, if_true]

theorem aliasOf_reached {w : Bool} {part pp : Nat} (h : s.aliasOf part pp = none) : (s.reached w x).aliasOf part pp = none := by
  unfold State.aliasOf at h ⊢
  rwa [reached_windows]

end Translated

/-! ### Accesses to granted scratch -/

section Scratch
variable {s : State} {va n off : Nat}

theorem scratchOff_eq (h : s.scratchOff va = some off) : off = va - s.t.aperture := by
  unfold State.scratchOff at h
  split at h <;> cases h
  rfl

theorem scratchFree_iff : s.scratchFree va n = true ↔
    s.scratchOff va = some (va - s.t.aperture) ∧ va - s.t.aperture + n ≤ s.t.scrb ∧ s.t.windowAt (va - s.t.aperture) = none ∧
      (s.t.scrPoison.any fun m => decide (m.idx = (va - s.t.aperture) / 256)) = false := by
  unfold State.scratchFree
  cases h : s.scratchOff va with
  | none => simp
  | some off =>
    cases scratchOff_eq h
    simp [and_assoc]

theorem length_cellsGet (m : List Host.Cell) (a n : Nat) : (cellsGet m a n).length = n := by
  induction n generalizing a with
  | zero => rfl
  | succ n ih => rw [cellsGet, List.length_cons, ih]

theorem exec_scalarLoad_scratch {i : Instr} {sign : Bool} {d : Reg} {addr : Word}
    (hi : scalarLoad s i = some (n, sign, d, addr)) (ha : addr.toNat % n = 0) (hf : s.scratchFree addr.toNat n = true) :
    exec i s = .next (s.put d (loadedValue n sign (s.scratchBytes addr.toNat n))) := by
  obtain ⟨hexec, hn⟩ := exec_scalarLoad hi
  obtain ⟨ho, hb, hw, hp⟩ := scratchFree_iff.mp hf
  rw [hexec, load_ok ha (loadAt_scratch .load 0#64 ho hb hw hp), extend_eq_loadedValue sign hn (length_cellsGet _ _ _)]
  rfl

theorem loadAt_scratch_poisoned {val2 : Word} {k : Acc} (ho : s.scratchOff va = some off) (hb : off + n ≤ s.t.scrb)
    (hw : s.t.windowAt off = none) (hp : ∃ m ∈ s.t.scrPoison, m.idx = off / 256) :
    loadAt va n k val2 s = .error (.trap (poisonTrap va val2)) := by
  have hany : (s.t.scrPoison.any fun m => decide (m.idx = off / 256)) = true := by simpa using hp
  simp only [loadAt, Act.bind_run, Act.get_run, ho, touchScratch_free va k.writes val2 hb hw, hany, Bool.not_true, Act.require_false]

end Scratch

/-- Settles O5: the bytes of free scratch, extended. -/
theorem scalarLoadsFromScratch : Obligations.ScalarLoadsFromScratch :=
  fun _ _ _ _ _ _ hi ha hf => exec_scalarLoad_scratch hi ha hf

theorem trap_of_translation (e : TErr) (val val2 : Word) : e.trap val val2 =
    { cause := e.cause, val := if e.cause = .poison then val &&& ~~~0xFF#64 else val,
      val2 := val2 ||| (if e.bit8 then 0x100#64 else 0#64), addr := BitVec.ofNat 64 e.addr, reads := e.reads, seen := e.seen } := by
  cases h : e.bit8 <;> simp [TErr.trap, h]

/-- Settles O7: one rule for each way that the access of a load or a store fails. -/
theorem scalarAccessesTrap : Obligations.ScalarAccessesTrap := by
  intro i s n addr store hform
  refine ⟨fun ha => ?_, fun e ha ho ht => ?_, fun sign d hi ha => ⟨fun off ho hb hw hp => ?_, fun x ho ht hm hl hx hp => ?_⟩⟩
  · rcases hform with ⟨sign, d, hi, rfl⟩ | ⟨d, hi, rfl⟩
    · rw [(exec_scalarLoad hi).1, load_misaligned ha]
      rfl
    · rw [exec_scalarStore hi, store_misaligned ha]
      rfl
  · rw [← trap_of_translation e addr (if store then 1#64 else 0#64)]
    have haddr : BitVec.ofNat 64 addr.toNat = addr := BitVec.ofNat_toNat 64 addr
    rcases hform with ⟨sign, d, hi, rfl⟩ | ⟨d, hi, rfl⟩
    · rw [(exec_scalarLoad hi).1, load_trap ha (loadAt_translate_error ho ht), haddr]
      rfl
    · rw [exec_scalarStore hi, store_trap ha (storeCellsAt_translate_error ho ht), haddr]
      rfl
  · rw [(exec_scalarLoad hi).1, load_trap ha (loadAt_scratch_poisoned ho hb hw hp)]
    rfl
  · have h := (loadAt_memory (n := n) (val2 := 0#64) ho ht hm hl).trans (physLoad_poisoned (aliasOf_reached hx) hp)
    rw [(exec_scalarLoad hi).1, load_trap ha h]
    simp [Trap.via, poisonTrap, lineOf]

/-! ### Stores into free scratch -/

section ScratchStore
variable {s : State} {va n off : Nat}

theorem length_bytesOf (n v : Nat) : (bytesOf n v).length = n := by
  induction n generalizing v with
  | zero => rfl
  | succ n ih => rw [bytesOf, List.length_cons, ih]

theorem getD_bytesOf {n k : Nat} (v : Nat) (hk : k < n) : (bytesOf n v).getD k 0#8 = BitVec.ofNat 8 (v / 256 ^ k) := by
  induction n generalizing v k with
  | zero => omega
  | succ n ih =>
    cases k with
    | zero => simp [bytesOf]
    | succ k =>
      rw [bytesOf, List.getD_cons_succ, ih _ (by omega), Nat.div_div_eq_div_mul, Nat.pow_succ']

/-- Whole bytes overwrite what stood there. -/
theorem scratchCells_whole (bs : List Byte) (m : List Host.Cell) (off : Nat) :
    scratchCells m off (whole bs) = cellsSet m off bs := by
  induction bs generalizing m off with
  | nil => rfl
  | cons b r ih =>
    have hb : (cellGet m off &&& ~~~0xFF#8) ||| (b &&& 0xFF#8) = b := by
      have h0 : ~~~0xFF#8 = 0#8 := by decide
      have h1 : 0xFF#8 = BitVec.allOnes 8 := by decide
      rw [h0, h1, BitVec.and_zero, BitVec.and_allOnes, BitVec.zero_or]
    show scratchCells (cellSet m off _) (off + 1) (whole r) = _
    rw [hb, ih, cellsSet]

theorem cellsGet_eq_map (m : List Host.Cell) (a n : Nat) : cellsGet m a n = (List.range n).map fun i => cellGet m (a + i) := by
  induction n generalizing a with
  | zero => rfl
  | succ n ih =>
    rw [cellsGet, ih, List.range_succ_eq_map, List.map_cons, List.map_map, Nat.add_zero]
    congr 2
    funext i
    simp [Nat.add_assoc, Nat.add_comm 1]

theorem cellsGet_cellsSet {m : List Host.Cell} (a : Nat) (bs : List Byte) (hm : Memory.wf m = true) :
    cellsGet (cellsSet m a bs) a bs.length = bs := by
  rw [cellsGet_eq_map]
  refine List.ext_getElem (by simp) fun i hi _ => ?_
  have hi : i < bs.length := by simpa using hi
  simp [cellGet_cellsSet bs m a i hm hi, hi]

/-- A write marks no line that was not marked before. -/
theorem markWrite_idx {size idx o j : Nat} {mask : Byte} {l : List Mark} (h : (l.any fun m => decide (m.idx = j)) = false) :
    ((markWrite size idx o mask l).any fun m => decide (m.idx = j)) = false := by
  induction l with
  | nil => rfl
  | cons m r ih =>
    rw [List.any_cons, Bool.or_eq_false_iff] at h
    obtain ⟨hm, hr⟩ := h
    have hm : m.idx ≠ j := of_decide_eq_false hm
    unfold markWrite
    dsimp only
    split_ifs
    · exact hr
    · simp [hm, hr]
    · simp [hm, ih hr]

theorem storeScratch_unmarked {j : Nat} (cells : List (Byte × Byte))
    (h : (s.t.scrPoison.any fun m => decide (m.idx = j)) = false) :
    ((s.storeScratch off cells).t.scrPoison.any fun m => decide (m.idx = j)) = false :=
  List.foldlRecOn (motive := fun l : List Mark => (l.any fun m => decide (m.idx = j)) = false) _ _ h fun _ h _ _ => markWrite_idx h

/-- The state that a store of `bs` at scratch offset `off` leaves. -/
def State.storedAt (s : State) (off : Nat) (bs : List Byte) : State := (s.storeScratch off (whole bs)).advance

theorem storedAt_scratch (s : State) (off : Nat) (bs : List Byte) : (s.storedAt off bs).t.scratch = cellsSet s.t.scratch off bs :=
  scratchCells_whole bs _ _

theorem exec_scalarStore_scratch {i : Instr} {d : Reg} {addr : Word} (hi : scalarStore s i = some (n, d, addr))
    (ha : addr.toNat % n = 0) (hf : s.scratchFree addr.toNat n = true) :
    exec i s = .next (s.storedAt (addr.toNat - s.t.aperture) (bytesOf n (s.rx d).toNat)) := by
  obtain ⟨ho, hb, hw, -⟩ := scratchFree_iff.mp hf
  rw [exec_scalarStore hi]
  refine store_ok ha (storeCellsAt_scratch _ _ ho ?_ hw)
  simpa [whole, length_bytesOf] using hb

/-- The bytes stay free after a store. -/
theorem scratchFree_storedAt {bs : List Byte} (hf : s.scratchFree va n = true) : (s.storedAt off bs).scratchFree va n = true := by
  obtain ⟨ho, hb, hw, hp⟩ := scratchFree_iff.mp hf
  exact scratchFree_iff.mpr ⟨ho, hb, hw, storeScratch_unmarked _ hp⟩

end ScratchStore

/-- Settles O8: the bytes written are the bytes read, and no other byte moves. -/
theorem scalarStoresIntoScratch : Obligations.ScalarStoresIntoScratch := by
  intro i s n d addr hi ha hf hwf
  have hlen := length_bytesOf n (s.rx d).toNat
  refine ⟨_, exec_scalarStore_scratch hi ha hf, fun k hk => ?_, fun off hoff => ?_, rfl, fun j sign e hj => ?_⟩
  · rw [storedAt_scratch, cellGet_cellsSet _ _ _ _ hwf (by omega), getD_bytesOf _ hk]
  · rw [storedAt_scratch]
    exact cellGet_cellsSet_ne _ _ _ _ hwf (by omega)
  · rw [exec_scalarLoad_scratch hj ha (scratchFree_storedAt hf)]
    have hread := cellsGet_cellsSet (addr.toNat - s.t.aperture) (bytesOf n (s.rx d).toNat) hwf
    rw [hlen] at hread
    rw [State.scratchBytes, storedAt_scratch]
    exact congrArg (fun bs => Host.Outcome.next (State.put _ e (loadedValue n sign bs))) hread

/-! ### A scalar store beside a unit-stride vector store -/

/-- The pinned page of a vector store: page 0, in memory of this node. -/
def pinnedPage : Xlat := { pa := 0, pp := 0, ord := .rc }

/-- A unit-stride vector store under way, with its page pinned. -/
def unitStore : Flight :=
  { word := 0#32, op := .store .unit, masked := false, bsel := .none, d := 0#7, a := 0#7, b := 0#7, nf := 1, xa := 0#64, xb := 0#64,
    vl := 1, ty := .i8, blk := .none, vwb := 0#9, vmsel := 0#9, frm := .rne, dkey := 0#64, dstream := 0#32, dctr := 0#64,
    dtemp := 0#32, va := none, vb := none, mask := none, vd := none, datas := [], dests := [], k := 0, flags := 0#9,
    boltSince := none, pins := [(0, pinnedPage)] }

/-- A hart of a task with that store under way; its scratch aperture lies elsewhere. -/
def besideUnitStore : State := { who := .user, h := { flight := some unitStore }, t := { aperture := 2 ^ 54 } }

/-- For each store that an outcome leaves buffered, whether it is of a unit-stride vector store. -/
def unitsBuffered : Out → List Bool
  | .next t => t.h.sb.map (·.unit)
  | _ => []

/-- Refutes O6: the entry that it puts at the end of the store buffer has `unit` false, but the model marks there the store
of a hart with a unit-stride vector store under way. At `besideUnitStore` the statement has `std` buffer an entry that is
not marked; the model's is. (A step issues no scalar store there, since a hart performs its instructions one after another,
log 84; the statement does not ask for that.) -/
theorem not_scalarAccessesToMemory : ¬ Obligations.ScalarAccessesToMemory := by
  intro h
  have hstd := (h (.std 0#7 0#7 0#11) besideUnitStore 8 false 0#7 0#64 pinnedPage rfl rfl rfl rfl).2.1 rfl rfl
  exact absurd (congrArg unitsBuffered hstd) (by decide)

end Sys2Proof.Machine

end

section
/-! Writing a control register and reading it back (05_control R111): which bits each register keeps; O12 is settled. -/

namespace Sys2Proof.Machine

/-! ### The bits of a value that a register keeps -/

section Bits
variable (v : Word)

theorem ofNat_toNat_allOnes : BitVec.ofNat 64 v.toNat = v &&& BitVec.allOnes 64 := by
  rw [BitVec.ofNat_toNat, BitVec.setWidth_eq, BitVec.and_allOnes]

theorem ofNat_toNat_and (m : Word) : BitVec.ofNat 64 (v &&& m).toNat = v &&& m := by
  rw [BitVec.ofNat_toNat, BitVec.setWidth_eq]

/-- A field of `k` bits keeps the low `k` bits. -/
theorem ofNat_toNat_setWidth (k : Nat) : BitVec.ofNat 64 (v.setWidth k).toNat = v &&& BitVec.ofNat 64 (2 ^ k - 1) := by
  apply BitVec.eq_of_getLsbD_eq
  intro i hi
  rw [BitVec.ofNat_toNat, BitVec.getLsbD_setWidth, BitVec.getLsbD_setWidth, BitVec.getLsbD_and, BitVec.getLsbD_ofNat,
    Nat.testBit_two_pow_sub_one, ← Bool.and_assoc, Bool.and_comm]

/-- A handler's address keeps all but the two low bits. -/
theorem ofNat_handler : BitVec.ofNat 64 (((v >>> 2).setWidth 62).toNat * 4) = v &&& 0xFFFFFFFFFFFFFFFC#64 := by
  have hlt : (v >>> 2).toNat < 2 ^ 62 := by
    rw [BitVec.toNat_ushiftRight, Nat.shiftRight_eq_div_pow]
    exact Nat.div_lt_of_lt_mul v.isLt
  rw [BitVec.toNat_setWidth, Nat.mod_eq_of_lt hlt, show 4 = 2 ^ 2 from rfl, ← shiftLeft_eq_ofNat, BitVec.shiftLeft_ushiftRight]
  rfl

theorem frmCode_frmOf (n : Nat) : frmCode (frmOf n) = n % 4 := by
  have h : n % 4 < 4 := Nat.mod_lt n (by decide)
  unfold frmOf
  generalize n % 4 = k at *
  interval_cases k <;> rfl

theorem ofNat_frmCode : BitVec.ofNat 64 (frmCode (frmOf v.toNat)) = v &&& 0x3#64 := by
  have h := ofNat_toNat_setWidth v 2
  rwa [BitVec.toNat_setWidth, ← frmCode_frmOf] at h

/-- ZM, bit 8 of FTRAPEN, has no enable (03_words R72). -/
theorem ofNat_ftrapen : BitVec.ofNat 64 (v.setWidth 9 &&& 0x0FF#9).toNat = v &&& 0xFF#64 := by
  rw [BitVec.ofNat_toNat, BitVec.setWidth_and, ← BitVec.ofNat_toNat, ofNat_toNat_setWidth, BitVec.and_assoc]
  rfl

end Bits

/-- The agent with the turn is the same in `t` as in `s`, and waits for a register no more and no less. -/
structure State.SameAgent (s t : State) : Prop where
  who : t.who = s.who
  x : t.h.x = s.h.x
  pc : t.h.pc = s.h.pc
  flight : t.h.flight = s.h.flight
  id : t.h.id = s.h.id
  reads : t.t.reads = s.t.reads
  running : t.cl.svc.running = s.cl.svc.running

section
variable {s t : State} {l : Level} {n : Nat} {v m : Word} {r : Nat}

theorem State.SameAgent.level (h : s.SameAgent t) : t.level = s.level := by
  simp only [State.level, h.who, h.running]

theorem State.SameAgent.regBusy (h : s.SameAgent t) : t.regBusy n = s.regBusy n := by
  simp only [State.regBusy, State.readsOf, h.who, h.flight, h.id, h.reads]

/-- A write of `v` to register `n` of level `l` completes, and the register then reads as the bits `m` of `v`. -/
structure KeepsBits (s : State) (l : Level) (n : Nat) (v m : Word) (a : Act Unit) (t : State) (r : Nat) : Prop where
  level : regLevel n = some l
  write : s.regWrite n v = some a
  run : a s = .ok ((), t)
  agent : s.SameAgent t
  read : t.readReg n = some r
  bits : BitVec.ofNat 64 r = v &&& m

theorem setUreg_agent {h h' : Hart} (hs : h.setUreg n v = some h') :
    h'.x = h.x ∧ h'.pc = h.pc ∧ h'.flight = h.flight ∧ h'.id = h.id := by
  unfold Hart.setUreg at hs
  split at hs
  pick_goal -1
  · cases hs
  all_goals
    cases hs
    exact ⟨rfl, rfl, rfl, rfl⟩

theorem setTreg_reads {t t' : Task} (hs : t.setTreg n v = some t') : t'.reads = t.reads := by
  unfold Task.setTreg at hs
  split at hs
  pick_goal -1
  · cases hs
  all_goals
    cases hs
    rfl

/-- A register of the hart. -/
theorem readsBack_hart {h : Hart} (hl : regLevel n = some .u) (hs : s.h.setUreg n v = some h) (hr : h.ureg n = some r)
    (hv : BitVec.ofNat 64 r = v &&& m) : ∃ a t r, KeepsBits s .u n v m a t r := by
  obtain ⟨hx, hpc, hf, hid⟩ := setUreg_agent hs
  refine ⟨_, { s with h := h }, r, hl, regWrite_hart hl hs, rfl, ⟨rfl, hx, hpc, hf, hid, rfl, rfl⟩, ?_, hv⟩
  simp only [State.readReg, hl, hr]

/-- A register of the task, which has the turn. -/
theorem readsBack_task {t : Task} (hl : regLevel n = some .u) (hu : s.who = .user) (hs : s.h.setUreg n v = none)
    (ht : s.t.setTreg n v = some t) (h15 : n = 0x015 → (shapeOf v).isSome = true) (hn : s.h.ureg n = none)
    (hr : ({ s with t := t } : State).treg n = some r) (hv : BitVec.ofNat 64 r = v &&& m) :
    ∃ a t r, KeepsBits s .u n v m a t r := by
  refine ⟨_, { s with t := t }, r, hl, regWrite_task hl hs ht, (taskRegWrite_run h15).trans (by rw [if_pos hu]),
    ⟨rfl, rfl, rfl, rfl, rfl, setTreg_reads ht, rfl⟩, ?_, hv⟩
  simp only [State.readReg, hl, hn, hr]

/-- A register of the service core. -/
theorem readsBack_svc {f : Service → Service} {a : Act Unit} (hl : regLevel n = some l) (hw : s.regWrite n v = some a)
    (ha : a s = .ok ((), s.mapSvc f)) (hf : (f s.cl.svc).running = s.cl.svc.running) (hr : (s.mapSvc f).readReg n = some r)
    (hv : BitVec.ofNat 64 r = v &&& m) : ∃ a t r, KeepsBits s l n v m a t r :=
  ⟨a, s.mapSvc f, r, hl, hw, ha, ⟨rfl, rfl, rfl, rfl, rfl, rfl, hf⟩, hr, hv⟩

/-- The subpartition that PSEL names is there once it has been written, as the write leaves it. -/
theorem sub?_mapSel {f : SubPart → SubPart} (hf : ∀ p, (f p).num = p.num) :
    ∃ p, (s.mapSel f).sub? s.cl.svc.psel.toNat = some (f p) := by
  unfold State.mapSel State.sub?
  dsimp only
  cases hp : s.subs.find? fun p => decide (p.num = s.cl.svc.psel.toNat) with
  | none => exact ⟨{ num := s.cl.svc.psel.toNat }, by simp [hp, hf, List.find?_append]⟩
  | some p =>
    have hnum : p.num = s.cl.svc.psel.toNat := by simpa using List.find?_some hp
    have hsame : ∀ x : SubPart, decide ((if x.num = s.cl.svc.psel.toNat then f p else x).num = s.cl.svc.psel.toNat) =
        decide (x.num = s.cl.svc.psel.toNat) := by
      intro x
      by_cases hx : x.num = s.cl.svc.psel.toNat <;> simp [hx, hf, hnum]
    exact ⟨p, by simp [List.find?_map, hsame, hp, hnum]⟩

/-- The write of a register of the subpartition that PSEL names (18_partitions R376). -/
def selWrite (f : SubPart → SubPart) : Act Unit := do
  let s ← get
  requireAct (s.managesSub s.cl.svc.psel.toNat) (regTrap s)
  modify fun s => s.mapSel f

theorem selWrite_run {f : SubPart → SubPart} (hm : s.managesSub s.cl.svc.psel.toNat = true) :
    selWrite f s = .ok ((), s.mapSel f) := by
  simp [selWrite, Act.bind_run, hm]

theorem mapSel_cl (f : SubPart → SubPart) : (s.mapSel f).cl = s.cl := by
  unfold State.mapSel
  dsimp only
  split <;> rfl

theorem sameAgent_mapSel (f : SubPart → SubPart) : s.SameAgent (s.mapSel f) := by
  unfold State.mapSel
  dsimp only
  split <;> exact ⟨rfl, rfl, rfl, rfl, rfl, rfl, rfl⟩

/-- A register of the subpartition that PSEL names, which `g` reads. -/
theorem readsBack_sel {f : SubPart → SubPart} (g : SubPart → Nat) (hl : regLevel n = some .p)
    (hw : s.regWrite n v = some (selWrite f)) (hm : s.managesSub s.cl.svc.psel.toNat = true) (hf : ∀ p, (f p).num = p.num)
    (hr : ∀ t : State, t.readReg n = some (g ((t.sub? t.cl.svc.psel.toNat).getD { num := 0 }))) (hg : ∀ p, g (f p) = r)
    (hv : BitVec.ofNat 64 r = v &&& m) : ∃ a t r, KeepsBits s .p n v m a t r := by
  refine ⟨_, _, r, hl, hw, selWrite_run hm, sameAgent_mapSel f, ?_, hv⟩
  obtain ⟨p, hp⟩ := sub?_mapSel (s := s) hf
  rw [hr, mapSel_cl, hp, Option.getD_some, hg]

/-- A register of the owner. -/
theorem readsBack_owner {o : OwnerRegs} (hl : regLevel n = some .o) (hs : s.setOreg n v = some { s with o := o })
    (hr : o.oreg n = some r) (hv : BitVec.ofNat 64 r = v &&& m) : ∃ a t r, KeepsBits s .o n v m a t r := by
  refine ⟨_, { s with o := o }, r, hl, regWrite_owner hl hs, rfl, ⟨rfl, rfl, rfl, rfl, rfl, rfl, rfl⟩, ?_, hv⟩
  simp only [State.readReg, hl, hr]

end

/-- Every register of the list keeps its bits, where what its write asks for holds. -/
theorem keepsBits_of_mem {s : State} {v : Word} : ∀ x ∈ writableRegs, (x.2.1 ∈ [0x015, 0x104, 0x105] → s.who = .user) →
    (x.2.1 = 0x015 → (shapeOf v).isSome = true) → (x.2.1 = 0x609 → s.partOfSub (v.toNat % 64) = some s.ownPart) →
    (x.2.1 ∈ [0x60A, 0x60B, 0x60C, 0x60D] → s.managesSub s.cl.svc.psel.toNat = true) →
    ∃ a t r, KeepsBits s x.1 x.2.1 v x.2.2 a t r := by
  intro x hx hu h15 h609 hsel
  unfold writableRegs at hx
  fin_cases hx
  · exact readsBack_hart rfl rfl rfl (ofNat_toNat_setWidth v 9)
  · exact readsBack_hart rfl rfl rfl (ofNat_toNat_setWidth v 9)
  · exact readsBack_hart rfl rfl rfl (ofNat_toNat_setWidth v 18)
  · exact readsBack_hart rfl rfl rfl (ofNat_toNat_setWidth v 9)
  · exact readsBack_hart rfl rfl rfl (ofNat_frmCode v)
  · exact readsBack_hart rfl rfl rfl (ofNat_toNat_allOnes v)
  · exact readsBack_hart rfl rfl rfl (ofNat_toNat_setWidth v 32)
  · exact readsBack_hart rfl rfl rfl (ofNat_toNat_allOnes v)
  · exact readsBack_hart rfl rfl rfl (ofNat_toNat_setWidth v 32)
  · exact readsBack_hart rfl rfl rfl (ofNat_toNat_setWidth v 32)
  · exact readsBack_hart rfl rfl rfl (ofNat_toNat_setWidth v 6)
  · exact readsBack_hart rfl rfl rfl (ofNat_toNat_allOnes v)
  · exact readsBack_hart rfl rfl rfl (ofNat_toNat_allOnes v)
  · exact readsBack_task rfl (hu (by decide)) rfl rfl h15 rfl rfl (ofNat_toNat_allOnes v)
  · exact readsBack_hart rfl rfl rfl (ofNat_ftrapen v)
  · exact readsBack_task rfl (hu (by decide)) rfl rfl h15 rfl rfl (ofNat_handler v)
  · exact readsBack_task rfl (hu (by decide)) rfl rfl h15 rfl rfl (ofNat_toNat_and v _)
  · exact readsBack_svc rfl (regWrite_shandler v) rfl rfl rfl (ofNat_handler v)
  · exact readsBack_svc rfl (regWrite_sscratch v) rfl rfl rfl (ofNat_toNat_allOnes v)
  · exact readsBack_svc rfl rfl rfl rfl rfl (ofNat_handler v)
  · exact readsBack_svc rfl rfl rfl rfl rfl (ofNat_toNat_allOnes v)
  · exact readsBack_svc (f := fun x => { x with psel := v.setWidth 6 }) rfl rfl (by simp [Act.bind_run, h609]) rfl rfl
      (ofNat_toNat_setWidth v 6)
  · exact readsBack_sel (·.ps2root.toNat) rfl rfl (hsel (by decide)) (fun _ => rfl) (fun _ => rfl) (fun _ => rfl)
      (ofNat_toNat_and v _)
  · exact readsBack_sel (·.ps1tab.toNat) rfl rfl (hsel (by decide)) (fun _ => rfl) (fun _ => rfl) (fun _ => rfl)
      (ofNat_toNat_and v _)
  · exact readsBack_sel (·.pctxbase.toNat) rfl rfl (hsel (by decide)) (fun _ => rfl) (fun _ => rfl) (fun _ => rfl)
      (ofNat_toNat_and v _)
  · exact readsBack_sel (·.pshost.toNat) rfl rfl (hsel (by decide)) (fun _ => rfl) (fun _ => rfl) (fun _ => rfl)
      (ofNat_toNat_and v _)
  · exact readsBack_owner rfl rfl rfl (ofNat_handler v)
  · exact readsBack_owner rfl rfl rfl (ofNat_toNat_allOnes v)
  · exact readsBack_owner rfl rfl rfl (ofNat_toNat_setWidth v 10)
  · exact readsBack_owner rfl rfl rfl (ofNat_toNat_setWidth v 10)
  · exact readsBack_owner rfl rfl rfl (ofNat_toNat_allOnes v)
  · exact readsBack_owner rfl rfl rfl (ofNat_toNat_setWidth v 6)

theorem rx_put_same (s : State) {d : Reg} (hd : d ≠ 0#7) (v : Word) : (s.put d v).rx d = v := rx_wx_same s.h hd v

theorem writableRegs_lt : ∀ x ∈ writableRegs, x.2.1 < 2 ^ 11 := by decide

/-- Settles O12: the write leaves the agent as it was, so that the read is allowed, and gives the bits kept. -/
theorem registerWritesReadBack : Obligations.RegisterWritesReadBack := by
  intro s d e l n m hmem hl he hb hu h15 h609 hsel
  obtain ⟨a, t, r, hk⟩ := keepsBits_of_mem (s := s) (v := s.rx d) (l, n, m) hmem hu h15 h609 hsel
  obtain ⟨k, rfl⟩ : ∃ k : BitVec 11, k.toNat = n := ⟨BitVec.ofNat 11 n, Nat.mod_eq_of_lt (writableRegs_lt _ hmem)⟩
  rw [BitVec.ofNat_toNat, BitVec.setWidth_eq]
  have hput := execSput_write (regCheck_allowed hk.level hl) (fun _ => hb) hk.write hk.run
  have hcheck : regCheck k.toNat t.advance = .ok ((), t.advance) := regCheck_allowed hk.level (hk.agent.level ▸ hl)
  have hget := execSget_read (d := e) hcheck (hk.agent.regBusy.trans hb) hk.read
  refine ⟨_, _, hput, hk.agent.x, congrArg (· + 4#64) hk.agent.pc, hget, ?_⟩
  exact (rx_put_same t.advance he _).trans hk.bits

end Sys2Proof.Machine

end

section
/-! Forks, joins and the end of a task (05_control R106, R107, R112): how a lane mask splits, what the names of a joined
child move, and how a task with nothing outstanding leaves its core; O15 to O17 are settled. -/

namespace Sys2Proof.Machine

/-! ### Lane masks as lists of groups -/

section Lanes
variable {m : BitVec 8} {l keep give : List Nat} {g k : Nat}

theorem mem_laneGroups : g ∈ laneGroups m ↔ m.getLsbD g = true := by
  rw [laneGroups, List.mem_filter, List.mem_range]
  exact ⟨And.right, fun h => ⟨BitVec.lt_of_getLsbD h, h⟩⟩

theorem laneGroups_sorted (m : BitVec 8) : (laneGroups m).SortedLT := (List.pairwise_lt_range.filter _).sortedLT

/-- The mask of rising groups has just their bits. -/
theorem getLsbD_maskOf (hs : l.SortedLT) : (maskOf l).getLsbD g = (decide (g < 8) && decide (g ∈ l)) := by
  have h : (l.map fun g => 2 ^ g).sum.testBit g = decide (g ∈ l) := by
    rw [Bool.eq_iff_iff, ← Nat.mem_bitIndices, Nat.bitIndices_sum_map_two_pow hs, decide_eq_true_eq]
  rw [maskOf, BitVec.getLsbD_ofNat, h]

theorem laneGroups_maskOf (hs : l.SortedLT) (hl : ∀ g ∈ l, g < 8) : laneGroups (maskOf l) = l := by
  refine (laneGroups_sorted _).eq_of_mem_iff hs fun g => ?_
  rw [mem_laneGroups, getLsbD_maskOf hs, Bool.and_eq_true, decide_eq_true_eq, decide_eq_true_eq]
  exact ⟨And.right, fun h => ⟨hl g h, h⟩⟩

/-- The groups of mask `m` fall into `keep` and, above them, `give`. -/
structure LaneSplit (m : BitVec 8) (keep give : List Nat) : Prop where
  groups : keep ++ give = laneGroups m
  nonempty : give ≠ []

namespace LaneSplit
variable (h : LaneSplit m keep give)
include h

theorem pairwise : keep.Pairwise (· < ·) ∧ give.Pairwise (· < ·) ∧ ∀ a ∈ keep, ∀ b ∈ give, a < b :=
  List.pairwise_append.mp (h.groups ▸ (laneGroups_sorted m).pairwise)

theorem keep_sorted : keep.SortedLT := h.pairwise.1.sortedLT
theorem give_sorted : give.SortedLT := h.pairwise.2.1.sortedLT
theorem keep_lt_give : ∀ a ∈ keep, ∀ b ∈ give, a < b := h.pairwise.2.2

theorem mem_or_iff : g ∈ keep ∨ g ∈ give ↔ m.getLsbD g = true := by
  rw [← List.mem_append, h.groups, mem_laneGroups]

theorem lt_eight : (∀ g ∈ keep, g < 8) ∧ ∀ g ∈ give, g < 8 :=
  ⟨fun _ hg => BitVec.lt_of_getLsbD (h.mem_or_iff.mp (.inl hg)), fun _ hg => BitVec.lt_of_getLsbD (h.mem_or_iff.mp (.inr hg))⟩

theorem mem_keep_iff : (maskOf keep).getLsbD g = true ↔ g ∈ keep := by
  rw [← mem_laneGroups, laneGroups_maskOf h.keep_sorted h.lt_eight.1]

theorem mem_give_iff : (maskOf give).getLsbD g = true ↔ g ∈ give := by
  rw [← mem_laneGroups, laneGroups_maskOf h.give_sorted h.lt_eight.2]

theorem or_eq : maskOf keep ||| maskOf give = m := by
  refine BitVec.eq_of_getLsbD_eq fun g _ => Bool.eq_iff_iff.mpr ?_
  rw [BitVec.getLsbD_or, Bool.or_eq_true, h.mem_keep_iff, h.mem_give_iff, h.mem_or_iff]

theorem and_eq : maskOf keep &&& maskOf give = 0#8 := by
  refine BitVec.eq_of_getLsbD_eq fun g _ => ?_
  rw [BitVec.getLsbD_zero, Bool.eq_false_iff, BitVec.getLsbD_and, Ne, Bool.and_eq_true, h.mem_keep_iff, h.mem_give_iff]
  exact fun ⟨hk, hg⟩ => (h.keep_lt_give g hk g hg).false

theorem countP_keep : ((List.range 8).countP fun g => (maskOf keep).getLsbD g) = keep.length := by
  rw [List.countP_eq_length_filter]
  exact congrArg List.length (laneGroups_maskOf h.keep_sorted h.lt_eight.1)

/-- The first of the groups given away is the lowest of them. -/
theorem head_lowest : (maskOf give).getLsbD (BitVec.ofNat 3 (give.headD 0)).toNat = true ∧
    ∀ g, g < (BitVec.ofNat 3 (give.headD 0)).toNat → (maskOf give).getLsbD g = false := by
  have hgive := h.mem_give_iff (g := give.headD 0)
  cases hg : give with
  | nil => exact absurd hg h.nonempty
  | cons a r =>
    subst hg
    have ha : (BitVec.ofNat 3 a).toNat = a := Nat.mod_eq_of_lt (h.lt_eight.2 a List.mem_cons_self)
    have hr : ∀ b ∈ r, a < b := (List.pairwise_cons.mp h.pairwise.2.1).1
    rw [List.headD_cons, ha]
    refine ⟨h.mem_give_iff.mpr List.mem_cons_self, fun g hlt => Bool.eq_false_iff.mpr fun hg => ?_⟩
    rcases List.mem_cons.mp (h.mem_give_iff.mp hg) with rfl | hb
    · exact hlt.false
    · exact absurd (hr g hb) (by omega)

/-- The first of the groups given away is not 0 where a lower one is kept. -/
theorem head_ne_zero (hk : keep ≠ []) : BitVec.ofNat 3 (give.headD 0) ≠ 0#3 := by
  intro h0
  obtain ⟨a, ha⟩ := List.exists_mem_of_ne_nil _ hk
  have hlow := h.mem_give_iff.mp h.head_lowest.1
  rw [h0] at hlow
  exact absurd (h.keep_lt_give a ha _ hlow) (by simp)

end LaneSplit

theorem laneSplit_half (h : 2 ≤ (laneGroups m).length) :
    LaneSplit m ((laneGroups m).take ((laneGroups m).length / 2)) ((laneGroups m).drop ((laneGroups m).length / 2)) :=
  ⟨List.take_append_drop _ _, fun he => by have := List.drop_eq_nil_iff.mp he; omega⟩

end Lanes

/-! ### lfork -/

section Fork
variable {s : State} {d : Reg}

theorem execLfork_refused (h : s.who ≠ .user ∨ (laneGroups s.h.lgmask).length < 2) :
    execLfork d s = .next (s.put d (BitVec.allOnes 64)) := by
  unfold execLfork
  rw [if_pos (by simpa using h)]

theorem execLfork_waits (hu : s.who = .user) (hg : 2 ≤ (laneGroups s.h.lgmask).length) (hst : s.h.stopped.isSome = true) :
    execLfork d s = .next (s.enterWait .other) := by
  unfold execLfork
  rw [if_neg (by simpa [hu] using Nat.lt_of_succ_le hg), if_pos hst]

/-- The state of a fork in which the parent keeps the groups `keep` and its child has the groups `give`. -/
def State.forked (s : State) (d : Reg) (keep give : List Nat) : State :=
  let c := s.drain.h.child give d
  ({ s.drain with
    h := { s.drain.h with lgmask := maskOf keep }
    t := { s.drain.t with
      harts := s.drain.t.harts ++ [c]
      savedViews := s.drain.t.savedViews ++
        (s.drain.t.savedView s.drain.h.id).map fun (v : BitVec 3 × List (Nat × Entry)) => (c.id, v.2) } } : State).put d
    (c.id.setWidth 64)

theorem execLfork_forks (hu : s.who = .user) (hg : 2 ≤ (laneGroups s.h.lgmask).length) (hst : s.h.stopped = none) :
    execLfork d s = .next (s.forked d ((laneGroups s.h.lgmask).take ((laneGroups s.h.lgmask).length / 2))
      ((laneGroups s.h.lgmask).drop ((laneGroups s.h.lgmask).length / 2))) := by
  unfold execLfork
  rw [if_neg (by simpa [hu] using Nat.lt_of_succ_le hg), if_neg (by simp [hst])]
  rfl

theorem rx_child (h : Hart) (gs : List Nat) (d r : Reg) : (h.child gs d).rx r = if r = d then 0#64 else h.rx r := by
  show (h.wx d 0#64).rx r = _
  by_cases hr : r = d
  · subst hr
    by_cases h0 : r = 0#7
    · subst h0
      rfl
    · rw [rx_wx_same h h0, if_pos rfl]
  · rw [Hart.rx_wx_ne h r d _ hr, if_neg hr]

theorem child_parent (h : Hart) (gs : List Nat) (d : Reg) : (h.child gs d).parent = some h.id := rfl
theorem child_pc (h : Hart) (gs : List Nat) (d : Reg) : (h.child gs d).pc = h.pc + 4#64 := rfl
theorem child_names (h : Hart) (gs : List Nat) (d : Reg) : (h.child gs d).names = h.names := Hart.wx_names h d 0#64

theorem forked_harts (s : State) (d : Reg) (keep give : List Nat) :
    (s.forked d keep give).t.harts = s.t.harts ++ [s.drain.h.child give d] := by
  show s.drain.t.harts ++ _ = _
  rw [drain_t]

theorem forked_lgmask (s : State) (d : Reg) (keep give : List Nat) : (s.forked d keep give).h.lgmask = maskOf keep :=
  Hart.wx_lgmask _ _ _

theorem forked_pc (s : State) (d : Reg) (keep give : List Nat) : (s.forked d keep give).h.pc = s.h.pc + 4#64 := by
  rw [State.forked, State.put_h_pc, Hart.wx_pc, drain_h]

theorem forked_sb (s : State) (d : Reg) (keep give : List Nat) : (s.forked d keep give).h.sb = [] :=
  (Hart.wx_sb _ _ _).trans (by rw [drain_h])

theorem rx_forked_same (hd : d ≠ 0#7) (keep give : List Nat) :
    (s.forked d keep give).rx d = (s.drain.h.child give d).id.setWidth 64 := rx_put_same _ hd _

theorem rx_forked_ne {r : Reg} (hr : r ≠ d) (keep give : List Nat) : (s.forked d keep give).rx r = s.rx r := by
  refine (Hart.rx_wx_ne _ r d _ hr).trans ?_
  show s.drain.h.rx r = _
  rw [drain_h]
  rfl

end Fork

/-- Settles O15: the lower half of the groups stays, the upper half goes to the child, and the stores are drained. -/
theorem forkSplitsTheLanes : Obligations.ForkSplitsTheLanes := by
  intro s d gs
  refine ⟨execLfork_refused, execLfork_waits, fun hu hg hst => ?_⟩
  have hsplit : LaneSplit s.h.lgmask (gs.take (gs.length / 2)) (gs.drop (gs.length / 2)) := laneSplit_half hg
  have hlen : (gs.take (gs.length / 2)).length = gs.length / 2 := by
    rw [List.length_take]
    omega
  have hkeep : gs.take (gs.length / 2) ≠ [] := by
    rw [← List.length_pos_iff_ne_nil]
    omega
  obtain ⟨hid, hlow⟩ := hsplit.head_lowest
  refine ⟨_, s.drain.h.child (gs.drop (gs.length / 2)) d, execLfork_forks hu hg hst, forked_harts s d _ _, ?_, ?_, ?_, ?_, hid, hlow,
    hsplit.head_ne_zero hkeep, ?_, ?_, ?_, fun r hr => ?_, rfl, rfl, ?_, rfl, rfl, forked_pc s d _ _, fun hd => rx_forked_same hd _ _,
    fun r hr => rx_forked_ne hr _ _, forked_sb s d _ _, rfl⟩
  · rw [forked_lgmask]
    exact hsplit.or_eq
  · rw [forked_lgmask]
    exact hsplit.and_eq
  · rw [forked_lgmask]
    exact hsplit.countP_keep.trans hlen
  · intro g k _ _ hgk hk
    rw [forked_lgmask] at hgk
    exact hsplit.keep_lt_give g (hsplit.mem_keep_iff.mp hgk) k (hsplit.mem_give_iff.mp hk)
  · rw [child_parent, drain_h]
  · rw [child_pc, drain_h]
  · rw [rx_child, if_pos rfl]
  · rw [rx_child, if_neg hr, drain_h]
    rfl
  · rw [child_names, drain_h]

/-! ### What a join does to the names -/

/-- From `s` to `t` of the hart with the turn only the names may have changed, and the other harts of its task have not. -/
structure State.NamesOnly (s t : State) : Prop where
  hart : t.h = { s.h with names := t.h.names }
  harts : t.t.harts = s.t.harts

namespace State.NamesOnly
variable {s t u : State}

theorem refl (s : State) : s.NamesOnly s := ⟨rfl, rfl⟩

theorem trans (h : s.NamesOnly t) (k : t.NamesOnly u) : s.NamesOnly u :=
  ⟨by rw [k.hart, h.hart], k.harts.trans h.harts⟩

theorem foldl {α : Type} {f : State → α → State} (hf : ∀ (s : State) (a : α), s.NamesOnly (f s a))
    (l : List α) (s : State) :
    s.NamesOnly (l.foldl f s) :=
  List.foldlRecOn l f (refl s) fun _ h a _ => h.trans (hf _ a)

theorem settle (s : State) (i : Nat) : s.NamesOnly (s.settle i) := by
  unfold State.settle
  split
  · exact ⟨rfl, rfl⟩
  · exact refl s

theorem settleAll (s : State) (l : List (Nat × Entry)) : s.NamesOnly (s.settleAll l) := foldl settle _ s

theorem releaseAll (l : List Nat) (s : State) : s.NamesOnly (s.releaseAll l) := by
  induction l generalizing s with
  | nil => exact refl s
  | cons i r ih =>
    have h : s.NamesOnly (s.release i) :=
      trans (t := { s with cl := s.cl.mapSwatch i fun w => { w with refs := w.refs - 1 } }) ⟨rfl, rfl⟩ (settle _ i)
    exact h.trans (ih _)

theorem dropVersion (s : State) (k : Nat) (old : Entry) : s.NamesOnly (s.dropVersion k old) := by
  unfold State.dropVersion
  dsimp only
  split_ifs
  · exact refl s
  · exact settleAll _ _
  · exact ⟨rfl, rfl⟩
  · exact refl s
  · exact trans (t := { s with t := { s.t with gone := old.id :: s.t.gone } }) ⟨rfl, rfl⟩ (releaseAll _ _)
  · exact releaseAll _ _

theorem loseVersion (s : State) (k : Nat) (win lost : Entry) : s.NamesOnly (s.loseVersion k win lost) := by
  unfold State.loseVersion
  split
  · exact refl s
  · exact dropVersion _ _ _

theorem merged (l : List (Nat × Entry)) (s : State) : s.NamesOnly (mergeView l s) := by
  induction l generalizing s with
  | nil => exact refl s
  | cons p r ih =>
    refine trans ?_ (ih _)
    exact trans (t := s.setName p.1 _) ⟨rfl, rfl⟩ (loseVersion _ _ _ _)

theorem dropView (s : State) (l : List (Nat × Entry)) : s.NamesOnly (s.dropView l) :=
  (foldl (fun s _ => loseVersion s _ _ _) l s).trans (settleAll _ l)

theorem dropPubs (s : State) : s.NamesOnly s.dropPubs := by
  have h : s.NamesOnly (({ s with t := { s.t with pubs := [] } } : State).settleAll (s.t.pubs.flatMap (·.2.2))) :=
    trans (t := { s with t := { s.t with pubs := [] } }) ⟨rfl, rfl⟩ (settleAll _ _)
  exact h.trans ⟨rfl, rfl⟩

theorem onView {f : State → State} (hf : ∀ s : State, s.NamesOnly (f s)) (s : State) : s.NamesOnly (s.onView f) := by
  unfold State.onView
  split
  · refine trans (trans (t := { s with
      h := { s.h with names := s.view }
      t := { s.t with savedViews := s.t.savedViews.filter fun v => v.1 != s.h.id } })
      ⟨rfl, rfl⟩ (hf _)) ⟨rfl, rfl⟩
  · exact hf s

theorem lgmask (h : s.NamesOnly t) : t.h.lgmask = s.h.lgmask := by rw [h.hart]
theorem fflags (h : s.NamesOnly t) : t.h.fflags = s.h.fflags := by rw [h.hart]
theorem fex (h : s.NamesOnly t) : t.h.fex = s.h.fex := by rw [h.hart]
theorem x (h : s.NamesOnly t) : t.h.x = s.h.x := by rw [h.hart]
theorem pc (h : s.NamesOnly t) : t.h.pc = s.h.pc := by rw [h.hart]

end State.NamesOnly

/-- The parent with the groups and flags of a child that is gone, before it takes over names (R107). -/
def State.absorbed (s : State) (c : Hart) : State :=
  { s with
    t := { s.t with
      harts := s.t.harts.filter fun h => h.id != c.id
      savedViews := s.t.savedViews.filter fun v => v.1 != c.id }
    h := { s.h with lgmask := s.h.lgmask ||| c.lgmask, fflags := s.h.fflags ||| c.fflags } }

/-- The later of each two versions remains, and the others are superseded (R108). -/
def State.takeNames (l : List (Nat × Entry)) (s : State) : State := (mergeView l s).dropView l

theorem takeBack_eq (s : State) (c : Hart) : s.takeBack c =
    let t := (s.absorbed c).onView (State.takeNames (c.names ++ (s.t.savedView c.id).flatMap (·.2)))
    if t.t.harts.isEmpty then t.dropPubs else t := rfl

theorem takeBack_namesOnly (s : State) (c : Hart) : (s.absorbed c).NamesOnly (s.takeBack c) := by
  have hview := State.NamesOnly.onView
    (f := State.takeNames (c.names ++ (s.t.savedView c.id).flatMap (·.2)))
    (fun u => (State.NamesOnly.merged _ u).trans (State.NamesOnly.dropView _ _)) (s.absorbed c)
  rw [takeBack_eq]
  dsimp only
  split
  · exact hview.trans (State.NamesOnly.dropPubs _)
  · exact hview

/-! ### ljoin -/

section Join
variable {s : State} {a : Reg}

theorem firstChild_eq_none (h : ∀ c ∈ s.t.harts, c.parent ≠ some s.h.id) : s.firstChild = none := by
  have hf : (s.t.harts.filter fun c => decide (c.parent = some s.h.id)) = [] := by simpa [List.filter_eq_nil_iff] using h
  rw [State.firstChild, hf]
  rfl

/-- A hart with no children has none to wait for. -/
theorem joinAll_childless (h : ∀ c ∈ s.t.harts, c.parent ≠ some s.h.id) : joinAll 8 s = (s, true) := by
  simp only [joinAll, firstChild_eq_none h]

/-- The state in which a child has ended, its stores committed. -/
def State.joined (s : State) : State := { s.drain with h := { s.drain.h with run := .ended, wait := none } }

theorem execLjoin_root (ha : s.rx a = 0#64) (hc : ∀ c ∈ s.t.harts, c.parent ≠ some s.h.id) (hp : s.h.parent = none) :
    execLjoin a s = .next s.advance := by
  simp [execLjoin, ha, joinAll_childless hc, hp]

theorem execLjoin_ends (ha : s.rx a = 0#64) (hc : ∀ c ∈ s.t.harts, c.parent ≠ some s.h.id) (hp : s.h.parent.isSome = true)
    (hidle : s.t.idle (fun h => h = s.h.id) = true) (hheld : s.h.held = []) (hst : s.h.stopped = none) :
    execLjoin a s = .next s.joined := by
  have hp : s.h.parent ≠ none := Option.isSome_iff_ne_none.mp hp
  simp [execLjoin, ha, joinAll_childless hc, hp, hidle, hheld, hst, State.joined]

/-- The only hart so numbered is the child that the parent finds. -/
theorem find_child {c : Hart} {v : Word} (hv : v = c.id.setWidth 64) (hp : c.parent = some s.h.id)
    (hone : s.t.harts.filter (fun h => h.id = c.id) = [c]) :
    (s.t.harts.find? fun h => h.parent = some s.h.id && h.id.setWidth 64 = v) = some c := by
  have hmem : c ∈ s.t.harts.filter fun h => h.id = c.id := hone ▸ List.mem_singleton_self c
  have hfound : (s.t.harts.find? fun h => h.parent = some s.h.id && h.id.setWidth 64 = v).isSome = true :=
    List.find?_isSome.mpr ⟨c, List.mem_of_mem_filter hmem, by simp [hp, hv]⟩
  obtain ⟨x, hx⟩ := Option.isSome_iff_exists.mp hfound
  have hid : x.id.setWidth 64 = c.id.setWidth 64 := by
    have := List.find?_some hx
    simp only [Bool.and_eq_true, decide_eq_true_eq] at this
    exact this.2.trans hv
  have hid : x.id = c.id := by simpa using congrArg (BitVec.setWidth 3) hid
  have hxc : x ∈ [c] := hone ▸ List.mem_filter.mpr ⟨List.mem_of_find?_eq_some hx, by simpa using hid⟩
  rw [hx, List.mem_singleton.mp hxc]

theorem execLjoin_takes {c : Hart} (ha : s.rx a = c.id.setWidth 64) (h0 : c.id ≠ 0#3) (hp : c.parent = some s.h.id)
    (hrun : c.run = .ended) (hone : s.t.harts.filter (fun h => h.id = c.id) = [c]) :
    execLjoin a s = .next (s.takeBack c).advance := by
  have hne : s.rx a ≠ 0#64 := fun h => h0 (by simpa using congrArg (BitVec.setWidth 3) (ha.symm.trans h))
  simp only [execLjoin, if_neg hne, find_child ha hp hone, hrun, if_true]

theorem execLjoin_refused (hne : s.rx a ≠ 0#64)
    (hc : ∀ c ∈ s.t.harts, ¬(c.parent = some s.h.id ∧ c.id.setWidth 64 = s.rx a)) :
    ∃ w, execLjoin a s = .next (takeTrap { cause := .illegal, val := w, val2 := s.rx a } false s) := by
  have hnone : (s.t.harts.find? fun h => h.parent = some s.h.id && h.id.setWidth 64 = s.rx a) = none :=
    List.find?_eq_none.mpr fun c hm => by simpa using hc c hm
  simp only [execLjoin, if_neg hne, hnone]
  exact ⟨_, rfl⟩

end Join

/-- Settles O16: a childless hart has nothing to join, and taking a child back moves only names besides its groups and flags. -/
theorem joinTakesLanesBack : Obligations.JoinTakesLanesBack := by
  intro s a
  refine ⟨fun ha hc => ⟨execLjoin_root ha hc, fun hp hidle hheld hst =>
    ⟨_, execLjoin_ends ha hc hp hidle hheld hst, rfl, ?_, rfl⟩⟩, fun c ha h0 hp hrun hone => ?_, execLjoin_refused⟩
  · exact congrArg Hart.sb (drain_h s)
  · have h := takeBack_namesOnly s c
    exact ⟨_, execLjoin_takes ha h0 hp hrun hone, h.lgmask, h.fflags, h.fex, h.harts, h.x, congrArg (· + 4#64) h.pc⟩

/-! ### tdone -/

/-- The task with the turn, its stores committed and its stash windows written back and unmapped (R112). -/
def State.settled (s : State) : State := { s.drain.flushAll with t := { s.drain.flushAll.t with windows := [] } }

theorem settled_packet (s : State) : s.settled.t.packet = s.t.packet :=
  (State.MemoryOnly.flushAll s.drain).packet.trans (by rw [drain_t])

theorem retireTask_unrecorded {s : State} (h : pkCompl s.t.packet = 0) : retireTask s = .ok ((), s.leaveCore false) := by
  simp [retireTask, Act.bind_run, h]

/-- Settles O17: with no other hart nothing is joined, and with no completion record the task just leaves. -/
theorem taskEndsAtTdone : Obligations.TaskEndsAtTdone := by
  intro s
  refine ⟨fun hu hid hharts hidle hheld hst hcompl => ?_, fun hu hid => ?_⟩
  · have hjoin : joinAll 8 s = (s, true) := joinAll_childless (by simp [hharts])
    have hend : finish retireTask s.settled = .next (s.settled.leaveCore false) :=
      finish_ok (retireTask_unrecorded ((congrArg pkCompl (settled_packet s)).trans hcompl))
    show execTdone s = _
    simp only [execTdone, hu, hid, hjoin, hidle, hheld, hst]
    exact hend
  · show execTdone s = _
    simp only [execTdone, hu, hid]
    rfl

end Sys2Proof.Machine

end

section
/-! Hints and the values of a task (05_control R109, R110): what passes, and what an instruction on a task's own values
writes where the task has the turn; O19 is settled. -/

namespace Sys2Proof.Machine

section
variable {s t : State} {a : Act Unit} {d : Reg}

theorem taskFinish_ok (hu : s.who = .user) (h : a s = .ok ((), t)) : taskFinish a s = .next t := by
  rw [taskFinish, if_pos hu]
  exact finish_ok h

/-- An instruction that makes no use of the vector context just ends. -/
theorem levelFinish_ok (w : Word) (h : a s = .ok ((), t)) : levelFinish false w a s = .next t := by
  rw [levelFinish, Bool.false_and, if_neg Bool.false_ne_true]
  exact finish_ok h

theorem execNstat_last (s : State) (d : Reg) (c : BitVec 1) : execNstat d c s = .next (s.put d (s.weirCtx c.toNat).last) :=
  levelFinish_ok _ rfl

theorem barrierNum_run {x : Word} (hx : x.toNat < 256) : barrierNum x s = .ok (x.toNat, s) := by
  simp only [barrierNum, Act.bind_run, decide_eq_true hx, Act.require_true, Act.pure_run]

theorem barrierAct_run {x : Word} {sc : Nat} {b : Barrier} (hx : x.toNat < 256) (hb : s.barrier? x.toNat = some (sc, b)) :
    barrierAct x s = .ok ((sc, b), s) := by
  simp only [barrierAct, Act.bind_run, barrierNum_run hx, Act.get_run, hb, Act.pure_run]

theorem execBgenBar_generation {a : Reg} {sc : Nat} {b : Barrier} (hu : s.who = .user) (hx : (s.rx a).toNat < 256)
    (hb : s.barrier? (s.rx a).toNat = some (sc, b)) : execBgenBar d a s = .next (s.put d b.g) :=
  taskFinish_ok hu (by simp [Act.bind_run, barrierAct_run hx hb])

end

/-- Settles O19: the hints only pass, and each read ends with one write in the state as it was. -/
theorem hintsPassAndTaskValuesAreRead : Obligations.HintsPassAndTaskValuesAreRead := by
  intro s d a k c ch wc
  refine ⟨⟨rfl, rfl, rfl, rfl⟩, fun hu => ⟨taskFinish_ok hu rfl, taskFinish_ok hu rfl, taskFinish_ok hu rfl, taskFinish_ok hu rfl,
    taskFinish_ok hu rfl, taskFinish_ok hu rfl, execNstat_last s d wc, fun sc b hx hb => execBgenBar_generation hu hx hb⟩⟩

end Sys2Proof.Machine

end

section
/-! Chains as lists of segments (06_chains R120, R121, R130): where each byte lies, and what Coalesce and Cut do to that; O24
is settled. -/

namespace Sys2Proof.Machine

section Places
variable {c : Cluster} {l r : List Seg} {g g' : Seg} {off b0 b1 pos : Nat}

/-- The swatch, and the byte of it, in which byte `off` of a chain lies. -/
def place (l : List Seg) (off : Nat) : Option (Nat × Nat) := (locate l off).map fun p => (p.1.swatch, p.1.first + p.2)

/-- The bytes of an allocated swatch, and whether it holds poison. -/
def Cluster.content (c : Cluster) (i : Nat) : Option (List Byte × Bool) := (c.swatch? i).map fun w => (w.data, w.poison)

/-- Byte `p.2` of swatch `p.1`, with the swatch and its poison. -/
def Cluster.cell (c : Cluster) (p : Nat × Nat) : Option (Nat × Byte × Bool) :=
  (c.content p.1).map fun x => (p.1, x.1.getD p.2 0#8, x.2)

theorem chainByte_eq_cell (c : Cluster) (l : List Seg) (off : Nat) : c.chainByte l off = (place l off).bind c.cell := by
  unfold Cluster.chainByte place
  cases locate l off with
  | none => rfl
  | some p => simp [Cluster.cell, Cluster.content, Function.comp_def]

@[simp] theorem place_nil (off : Nat) : place [] off = none := rfl

theorem place_cons_of_lt (h : off < g.count) : place (g :: r) off = some (g.swatch, g.first + off) := by
  simp [place, locate, h]

theorem place_cons_of_le (h : g.count ≤ off) : place (g :: r) off = place r (off - g.count) := by
  simp [place, locate, h.not_gt]

/-- The byte lies in the swatch of a segment of the chain. -/
theorem place_mem {p : Nat × Nat} : ∀ {l : List Seg} {off : Nat}, place l off = some p → ∃ g ∈ l, g.swatch = p.1
  | g :: r, off, h => by
    rcases lt_or_ge off g.count with hlt | hle
    · rw [place_cons_of_lt hlt, Option.some_inj] at h
      exact ⟨g, List.mem_cons_self, congrArg (·.1) h⟩
    · rw [place_cons_of_le hle] at h
      obtain ⟨g', hg, hs⟩ := place_mem h
      exact ⟨g', List.mem_cons_of_mem _ hg, hs⟩

/-- What a chain reads as depends on the content of its swatches. -/
theorem chainByte_congr {c c' : Cluster} (h : ∀ g ∈ l, c'.content g.swatch = c.content g.swatch) (off : Nat) :
    c'.chainByte l off = c.chainByte l off := by
  rw [chainByte_eq_cell, chainByte_eq_cell]
  cases hp : place l off with
  | none => rfl
  | some p =>
    obtain ⟨g, hg, hs⟩ := place_mem hp
    simp only [Option.bind_some, Cluster.cell, ← hs, h g hg]

theorem chainLen_cons (g : Seg) (r : List Seg) : chainLen (g :: r) = g.count + chainLen r := List.sum_cons

/-- What follows the first segment may be put otherwise, byte for byte. -/
theorem place_cons_congr (h : ∀ off, place l off = place r off) (off : Nat) : place (g :: l) off = place (g :: r) off := by
  rcases lt_or_ge off g.count with hlt | hle
  · rw [place_cons_of_lt hlt, place_cons_of_lt hlt]
  · rw [place_cons_of_le hle, place_cons_of_le hle, h]

/-- A segment that goes on where another ends makes one segment with it (R130). -/
theorem place_joined (hs : g'.swatch = g.swatch) (hf : g'.first = g.first + g.count) (off : Nat) :
    place ({ g with count := g.count + g'.count } :: r) off = place (g :: g' :: r) off := by
  rcases lt_or_ge off g.count with hlt | hle
  · rw [place_cons_of_lt hlt, place_cons_of_lt (Nat.lt_add_right _ hlt)]
  · rw [place_cons_of_le hle]
    rcases lt_or_ge (off - g.count) g'.count with hlt' | hle'
    · rw [place_cons_of_lt hlt', place_cons_of_lt (show off < g.count + g'.count by omega), hs, hf, Nat.add_assoc,
        Nat.add_sub_cancel' hle]
    · rw [place_cons_of_le hle', place_cons_of_le (show g.count + g'.count ≤ off by omega), Nat.sub_sub]

/-- Coalesce puts a segment before the rest, or makes it one with the first of the rest. -/
theorem coalesce_cons (g : Seg) (k : Nat) (r : List (Seg × Nat)) :
    coalesce ((g, k) :: r) = (g, k) :: coalesce r ∨
    ∃ g' k' r', coalesce r = (g', k') :: r' ∧ g'.swatch = g.swatch ∧ g'.first = g.first + g.count ∧
      coalesce ((g, k) :: r) = ({ g with count := g.count + g'.count }, k) :: r' := by
  rw [coalesce]
  split
  · next g' k' r' hr =>
    split
    · next h => exact .inr ⟨g', k', r', hr, h.1, h.2, rfl⟩
    · exact .inl (by rw [hr])
  · next hr => exact .inl (by rw [hr])

theorem place_coalesce : ∀ (m : List (Seg × Nat)) (off : Nat), place ((coalesce m).map (·.1)) off = place (m.map (·.1)) off
  | [], _ => rfl
  | (g, k) :: r, off => by
    have ih := place_cons_congr (g := g) (place_coalesce r) off
    rcases coalesce_cons g k r with h | ⟨g', k', r', hr, hs, hf, h⟩
    · rw [h]
      exact ih
    · rw [hr] at ih
      rw [h]
      exact (place_joined hs hf off).trans ih

theorem chainLen_coalesce : ∀ m : List (Seg × Nat), chainLen ((coalesce m).map (·.1)) = chainLen (m.map (·.1))
  | [] => rfl
  | (g, k) :: r => by
    rw [List.map_cons, chainLen_cons, ← chainLen_coalesce r]
    rcases coalesce_cons g k r with h | ⟨g', k', r', hr, -, -, h⟩
    · rw [h, List.map_cons, chainLen_cons]
    · rw [h, hr, List.map_cons, List.map_cons, chainLen_cons, chainLen_cons, Nat.add_assoc]

/-- A segment with bytes in the range is cut to them. -/
theorem cutGo_cons_of_lt (h : max b0 pos < min b1 (pos + g.count)) :
    cutGo b0 b1 (g :: r) pos = { g with first := g.first + max b0 pos - pos, count := min b1 (pos + g.count) - max b0 pos } ::
      cutGo b0 b1 r (pos + g.count) := if_pos h

/-- A segment with no byte in the range goes. -/
theorem cutGo_cons_of_le (h : min b1 (pos + g.count) ≤ max b0 pos) : cutGo b0 b1 (g :: r) pos = cutGo b0 b1 r (pos + g.count) :=
  if_neg h.not_gt

theorem chainLen_cutGo : ∀ (l : List Seg) (pos : Nat), chainLen (cutGo b0 b1 l pos) = min b1 (pos + chainLen l) - max b0 pos
  | [], pos => by
    show 0 = min b1 (pos + 0) - max b0 pos
    omega
  | g :: r, pos => by
    have ih := chainLen_cutGo r (pos + g.count)
    rw [chainLen_cons]
    rcases lt_or_ge (max b0 pos) (min b1 (pos + g.count)) with h | h
    · rw [cutGo_cons_of_lt h, chainLen_cons, ih]
      dsimp only
      omega
    · rw [cutGo_cons_of_le h, ih]
      omega

/-- Byte `off` of the cut of a chain that begins at position `pos` is byte `max b0 pos - pos + off` of that chain. -/
theorem place_cutGo : ∀ (l : List Seg) (pos off : Nat), max b0 pos + off < min b1 (pos + chainLen l) →
    place (cutGo b0 b1 l pos) off = place l (max b0 pos - pos + off)
  | [], pos, off, h => by
    change max b0 pos + off < min b1 (pos + 0) at h
    omega
  | g :: r, pos, off, h => by
    rw [chainLen_cons] at h
    have ih := place_cutGo r (pos + g.count)
    rcases lt_or_ge (max b0 pos) (min b1 (pos + g.count)) with hin | hout
    · rw [cutGo_cons_of_lt hin]
      rcases lt_or_ge off (min b1 (pos + g.count) - max b0 pos) with hlt | hle
      · rw [place_cons_of_lt hlt, place_cons_of_lt (by omega)]
        congr 2
        dsimp only
        omega
      · rw [place_cons_of_le hle, place_cons_of_le (by omega), ih _ (by dsimp only; omega)]
        congr 1
        dsimp only
        omega
    · rw [cutGo_cons_of_le hout, ih _ (by omega), place_cons_of_le (by omega)]
      congr 1
      omega

theorem chainLen_cut (k : Nat) (l : List Seg) (h : b1 ≤ chainLen l) : chainLen ((cut k l b0 b1).map (·.1)) = b1 - b0 := by
  rw [cut, chainLen_coalesce, List.map_map, Function.comp_def, List.map_id'', chainLen_cutGo]
  · omega
  · exact fun _ => rfl

theorem place_cut (k : Nat) (l : List Seg) (h : b1 ≤ chainLen l) (hoff : off < b1 - b0) :
    place ((cut k l b0 b1).map (·.1)) off = place l (b0 + off) := by
  rw [cut, place_coalesce, List.map_map, Function.comp_def, List.map_id'', place_cutGo]
  · congr 1
    omega
  · omega
  · exact fun _ => rfl

end Places

/-- Settles O24: neither Coalesce nor Cut moves a byte to another place, and what a byte reads as depends on its place. -/
theorem cutAndCoalesceKeepTheBytes : Obligations.CutAndCoalesceKeepTheBytes := by
  intro c k l m b0 b1 _
  refine ⟨fun off => ?_, fun _ h1 => ⟨chainLen_cut k l h1, fun off hoff => ?_⟩⟩
  · rw [chainByte_eq_cell, chainByte_eq_cell, place_coalesce]
  · rw [chainByte_eq_cell, chainByte_eq_cell, place_cut k l h1 hoff]

end Sys2Proof.Machine
end

section
/-! What the chain instructions share (06_chains R115 to R126): the checks that pass, what the retirement of a version leaves
as it was, holding references, and taking swatches where there is room. -/

namespace Sys2Proof.Machine

/-! ### Checks that pass -/

section Checks
variable {s t : State} {a : Act Unit} {k : Nat} {ks : List Nat} {b : Bool} {e : Entry}

/-- An instruction on vector state completes where its task holds the context (R359). -/
theorem vecFinish_ok (w : Word) (hc : s.holdsContext = true) (h : a s = .ok ((), t)) : vecFinish w a s = .next t := by
  obtain ⟨hw, ho⟩ : s.who = .user ∧ s.myCore.owner = some s.t.uid := by simpa [State.holdsContext] using hc
  simp [vecFinish, hw, State.vectorContext, ho, finish_ok h]

theorem notSpilled_run (h : ∀ k ∈ ks, (s.entry k).state ≠ .spilled) : notSpilled ks s = .ok ((), s) := by
  have hf : (ks.find? fun k => (s.entry k).state = .spilled) = none := List.find?_eq_none.mpr (by simpa using h)
  simp only [notSpilled, Act.bind_run, Act.get_run, hf, Act.pure_run]

theorem notEmpty_run (h : ∀ k ∈ ks, (s.entry k).state ≠ .empty) : notEmpty ks s = .ok ((), s) := by
  have hf : (ks.find? fun k => (s.entry k).state = .empty) = none := List.find?_eq_none.mpr (by simpa using h)
  simp only [notEmpty, Act.bind_run, Act.get_run, hf, Act.pure_run]

theorem complete_run (h : ∀ k ∈ ks, (s.entry k).state ≠ .pending) : complete ks s = .ok ((), s) := by
  have hf : (ks.any fun k => (s.entry k).state = .pending) = false := List.any_eq_false.mpr (by simpa using h)
  simp only [complete, Act.bind_run, Act.get_run, hf, Bool.false_eq_true, if_false, Act.pure_run]

theorem notSpilled_live (h : ∀ k ∈ ks, (s.entry k).state = .live) : notSpilled ks s = .ok ((), s) :=
  notSpilled_run fun k hk e => by cases (h k hk).symm.trans e

theorem notEmpty_live (h : ∀ k ∈ ks, (s.entry k).state = .live) : notEmpty ks s = .ok ((), s) :=
  notEmpty_run fun k hk e => by cases (h k hk).symm.trans e

theorem complete_live (h : ∀ k ∈ ks, (s.entry k).state = .live) : complete ks s = .ok ((), s) :=
  complete_run fun k hk e => by cases (h k hk).symm.trans e

theorem require_run (tr : Trap) (h : b = true) : requireAct b tr s = .ok ((), s) := by rw [h, Act.require_true]

theorem cutCheck_run (ty : ElemType) (h : b = true) : cutCheck b k ty s = .ok ((), s) := require_run _ h

theorem within_run (p : Word) (h : b = true) : within b k p s = .ok ((), s) := require_run _ h

theorem retireAct_run (h : s.unretired k = false) : retireAct k e s = .ok ((), s.retireName k e) := by
  simp [retireAct, producerRetired, Act.bind_run, h]

end Checks

/-! ### What a retirement leaves as it was -/

section Releases
variable {s t u : State} {i j k : Nat} {e : Entry}

theorem swatch?_mapSwatch (c : Cluster) (i j : Nat) {f : Swatch → Swatch} (hf : ∀ w, (f w).idx = w.idx) :
    (c.mapSwatch i f).swatch? j = (c.swatch? j).map fun w => if j = i then f w else w := by
  have hp : ((fun w : Swatch => decide (w.idx = j)) ∘ fun w => if w.idx = i then f w else w) = fun w => decide (w.idx = j) := by
    funext w
    by_cases h : w.idx = i <;> simp [h, hf]
  unfold Cluster.swatch? Cluster.mapSwatch
  rw [List.find?_map, hp]
  refine Option.map_congr fun w hw => ?_
  rw [show w.idx = j by simpa using List.find?_some hw]

/-- A change of references leaves the bytes. -/
theorem content_mapSwatch_refs (c : Cluster) (i j : Nat) (f : Nat → Nat) :
    (c.mapSwatch i fun w => { w with refs := f w.refs }).content j = c.content j := by
  unfold Cluster.content
  rw [swatch?_mapSwatch, Option.map_map]
  · refine Option.map_congr fun w _ => ?_
    by_cases h : j = i <;> simp [h]
  · exact fun _ => rfl

/-- From `s` to `t` references have been given up: the hart, its mreads and the mailboxes are as they were, and what a task
shows is still shown and keeps its bytes. -/
structure State.Releases (s t : State) : Prop where
  hart : t.h = s.h
  matrix : t.t.matrix = s.t.matrix
  mail : t.cl.mail = s.cl.mail
  shown : ∀ i, s.shown i = true → t.shown i = true
  content : ∀ i, s.shown i = true → t.cl.content i = s.cl.content i

namespace State.Releases

theorem refl (s : State) : s.Releases s := ⟨rfl, rfl, rfl, fun _ h => h, fun _ _ => rfl⟩

theorem trans (h : s.Releases t) (g : t.Releases u) : s.Releases u where
  hart := g.hart.trans h.hart
  matrix := g.matrix.trans h.matrix
  mail := g.mail.trans h.mail
  shown i hi := g.shown i (h.shown i hi)
  content i hi := (g.content i (h.shown i hi)).trans (h.content i hi)

theorem settle (s : State) (i : Nat) : s.Releases (s.settle i) := by
  unfold State.settle
  split
  · next h =>
    refine ⟨rfl, rfl, rfl, fun _ hj => hj, fun j hj => ?_⟩
    have hne : j ≠ i := by
      rintro rfl
      simp [hj] at h
    unfold Cluster.content Cluster.swatch?
    rw [List.find?_filter]
    congr 2
    funext w
    by_cases hw : w.idx = j <;> simp [hw, hne]
  · exact refl s

theorem settleAll (s : State) (l : List (Nat × Entry)) : s.Releases (s.settleAll l) :=
  List.foldlRecOn _ State.settle (refl s) fun _ h i _ => h.trans (settle _ i)

theorem releaseAll (l : List Nat) (s : State) : s.Releases (s.releaseAll l) := by
  induction l generalizing s with
  | nil => exact refl s
  | cons i r ih =>
    have h : s.Releases { s with cl := s.cl.mapSwatch i fun w => { w with refs := w.refs - 1 } } :=
      ⟨rfl, rfl, rfl, fun _ hj => hj, fun j _ => content_mapSwatch_refs s.cl i j (· - 1)⟩
    exact (h.trans (settle _ i)).trans (ih _)

theorem gone (s : State) (l : List Nat) : s.Releases { s with t := { s.t with gone := l } } :=
  ⟨rfl, rfl, rfl, fun _ h => h, fun _ _ => rfl⟩

theorem dropVersion (s : State) (k : Nat) (old : Entry) : s.Releases (s.dropVersion k old) := by
  unfold State.dropVersion
  dsimp only
  split_ifs
  · exact refl s
  · exact settleAll _ _
  · exact gone s _
  · exact refl s
  · exact (gone s _).trans (releaseAll _ _)
  · exact releaseAll _ _

theorem dropLater (s : State) (await : List Nat) (k : Nat) (old : Entry) : s.Releases (s.dropLater await k old) := by
  unfold State.dropLater
  split
  · exact dropVersion _ _ _
  · refine ⟨rfl, rfl, rfl, fun i h => ?_, fun _ _ => rfl⟩
    simp only [State.shown, State.shows, Task.shows, List.map_append, List.any_append, Bool.or_eq_true] at h ⊢
    tauto

theorem rx (h : s.Releases t) (r : Reg) : t.rx r = s.rx r := by rw [State.rx, h.hart, State.rx]

theorem entry (h : s.Releases t) (k : Nat) : t.entry k = s.entry k := by rw [State.entry, h.hart, State.entry]

/-- What is read from a chain that is shown does not change. -/
theorem chainByte (h : s.Releases t) {l : List Seg} (hl : ∀ g ∈ l, s.shown g.swatch = true) (off : Nat) :
    t.cl.chainByte l off = s.cl.chainByte l off := chainByte_congr (fun g hg => h.content _ (hl g hg)) off

end State.Releases

/-- The entry that `e` becomes as it retires as name `k` (R124). -/
def State.retiring (s : State) (k : Nat) (e : Entry) : Entry :=
  { e with counts := addCount s.h.id.toNat (s.entry k).counts, dirty := true, behind := s.ahead e, stamp := s.t.nextStamp }

theorem retireName_releases (s : State) (k : Nat) (e : Entry) :
    (s.fresh.2.setName k (s.retiring k e)).Releases (s.retireName k e) := .dropLater _ _ _ _

theorem retireName_h (s : State) (k : Nat) (e : Entry) :
    (s.retireName k e).h = { s.h with names := setEntry s.h.names k (s.retiring k e) } := (retireName_releases s k e).hart

theorem retireName_entry (s : State) (k : Nat) (e : Entry) : (s.retireName k e).entry k = s.retiring k e :=
  ((retireName_releases s k e).entry k).trans (setName_entry _ _ _)

theorem retireName_entry_ne (s : State) (e : Entry) (h : j ≠ k) : (s.retireName k e).entry j = s.entry j :=
  ((retireName_releases s k e).entry j).trans (setName_entry_ne _ _ h)

/-- The swatches of what a name shows are shown. -/
theorem shown_of_entry (h : i ∈ (s.entry k).swatches) : s.shown i = true := by
  unfold State.entry entryIn at h
  cases hf : s.h.names.find? fun p => p.1 = k with
  | none => simp [hf, Entry.swatches] at h
  | some p =>
    rw [hf] at h
    have hm : p ∈ s.shows ++ (s.tasks.filter fun t => t.home = s.cl.num).flatMap Task.shows := by
      simp [State.shows, Hart.shows, List.mem_of_find?_eq_some hf]
    exact List.any_eq_true.mpr ⟨p, hm, by simpa using h⟩

end Releases

/-! ### Holding references (R123) -/

section Holds
variable {s t u : State} {i j n : Nat} {l r : List Nat}

/-- From `s` to `t` only swatches and numbers of versions have been given out. -/
def State.BoltOnly (s t : State) : Prop :=
  ∃ bolt free n, t = { s with cl := { s.cl with bolt := bolt, free := free }, t := { s.t with nextStamp := n } }

theorem State.BoltOnly.refl (s : State) : s.BoltOnly s := ⟨_, _, _, rfl⟩

theorem State.BoltOnly.trans (h : s.BoltOnly t) (g : t.BoltOnly u) : s.BoltOnly u := by
  obtain ⟨_, _, _, rfl⟩ := h
  obtain ⟨_, _, _, rfl⟩ := g
  exact ⟨_, _, _, rfl⟩

theorem State.BoltOnly.hart (h : s.BoltOnly t) : t.h = s.h := by
  obtain ⟨_, _, _, rfl⟩ := h
  rfl

theorem State.BoltOnly.mem (h : s.BoltOnly t) : t.mem = s.mem := by
  obtain ⟨_, _, _, rfl⟩ := h
  rfl

theorem State.BoltOnly.unretired (h : s.BoltOnly t) (k : Nat) : t.unretired k = s.unretired k := by
  obtain ⟨_, _, _, rfl⟩ := h
  rfl

theorem holdAll_boltOnly (l : List Nat) (s : State) : s.BoltOnly (s.holdAll l) := by
  induction l generalizing s with
  | nil => exact .refl s
  | cons i r ih => exact State.BoltOnly.trans ⟨_, _, _, rfl⟩ (ih _)

theorem fresh_boltOnly (s : State) : s.BoltOnly s.fresh.2 := ⟨_, _, _, rfl⟩

theorem holdAll_append (l r : List Nat) (s : State) : s.holdAll (l ++ r) = (s.holdAll l).holdAll r := by
  induction l generalizing s with
  | nil => rfl
  | cons i l ih => exact ih _

theorem refs_hold (h : 1 ≤ s.refs j) : (s.holdAll [i]).refs j = s.refs j + [i].count j := by
  unfold State.refs at h ⊢
  show (((s.cl.mapSwatch i _).swatch? j).map _).getD 0 = _
  rw [swatch?_mapSwatch]
  · cases hw : s.cl.swatch? j with
    | none => simp [hw] at h
    | some w => by_cases hj : j = i <;> simp [hj, Ne.symm]
  · exact fun _ => rfl

/-- A held swatch has one reference more for each time that it is held. -/
theorem refs_holdAll (h : 1 ≤ s.refs j) : (s.holdAll l).refs j = s.refs j + l.count j := by
  induction l generalizing s with
  | nil => rfl
  | cons i r ih =>
    have hone := refs_hold (i := i) h
    show ((s.holdAll [i]).holdAll r).refs j = _
    rw [ih (by omega), hone, Nat.add_assoc, ← List.count_append, List.singleton_append]

theorem content_holdAll (l : List Nat) (s : State) (j : Nat) : (s.holdAll l).cl.content j = s.cl.content j := by
  induction l generalizing s with
  | nil => rfl
  | cons i r ih => exact (ih _).trans (content_mapSwatch_refs s.cl i j (· + 1))

/-- What can be held as a part of more can be held first, and the rest after it. -/
theorem canHold_append (h : s.canHold (l ++ r)) : s.canHold l ∧ (s.holdAll l).canHold r := by
  refine ⟨fun i hi => ?_, fun i hi => ?_⟩
  · have := h i (List.mem_append_left _ hi)
    rw [List.count_append] at this
    omega
  · have := h i (List.mem_append_right _ hi)
    rw [List.count_append] at this
    rw [refs_holdAll this.1]
    omega

theorem holdAct_run {k : Nat} (h : s.canHold [i]) : holdAct i k s = .ok ((), s.holdAll [i]) := by
  have hi := h i (List.mem_singleton_self i)
  rw [List.count_singleton_self] at hi
  exact if_neg (by omega)

theorem holdSegs_run {m : List (Seg × Nat)} (h : s.canHold ((m.map (·.1)).map Seg.swatch)) :
    holdSegs m s = .ok ((), s.holdAll ((m.map (·.1)).map Seg.swatch)) := by
  induction m generalizing s with
  | nil => rfl
  | cons p m ih =>
    have hs := canHold_append (l := [p.1.swatch]) h
    rw [holdSegs, Act.bind_run, holdAct_run hs.1]
    exact ih hs.2

end Holds

/-! ### Taking swatches where there is room (R115, R117) -/

section Room
variable {s t u : State} {i j n m : Nat} {l r : List (Nat × Nat)} {data : List Byte}

/-- Whether two ranges of swatches have none in common. -/
def Apart (a b : Nat × Nat) : Prop := a.1 + a.2 ≤ b.1 ∨ b.1 + b.2 ≤ a.1

/-- What it means that the task with the turn can be given `n` more swatches, and that nobody has asked before it. -/
structure State.Room (s : State) (n : Nat) : Prop where
  quota : s.poolUse s.t.uid + n ≤ s.t.poolq.toNat
  free : n ≤ s.cl.freeCount
  nodup : (s.cl.bolt.map Swatch.idx).Nodup
  ranges : s.cl.free.Pairwise Apart
  apart : ∀ w ∈ s.cl.bolt, ∀ x ∈ s.cl.free, w.idx < x.1 ∨ x.1 + x.2 ≤ w.idx
  turn : s.boltBefore none = false

theorem room_of_swatchRoom (h : s.swatchRoom n = true) (hb : s.boltBefore none = false) : s.Room n := by
  simp only [State.swatchRoom, Bool.and_eq_true, decide_eq_true_eq, List.all_eq_true, Bool.or_eq_true] at h
  obtain ⟨⟨⟨⟨hq, hf⟩, hn⟩, hr⟩, ha⟩ := h
  exact ⟨hq, hf, hn, hr, ha, hb⟩

theorem State.Room.mono (h : s.Room n) (hm : m ≤ n) : s.Room m :=
  { h with quota := by have := h.quota; omega, free := hm.trans h.free }

/-- The head of a free list that is not empty, and the list without it. -/
theorem popFree_spec : ∀ l : List (Nat × Nat), 0 < (l.map (·.2)).sum → ∃ i r, popFree l = some (i, r) ∧
    (r.map (·.2)).sum + 1 = (l.map (·.2)).sum ∧ (∃ x ∈ l, x.1 ≤ i ∧ i < x.1 + x.2) ∧
    (∀ x ∈ r, ∃ y ∈ l, y.1 ≤ x.1 ∧ x.1 + x.2 ≤ y.1 + y.2) ∧
    (l.Pairwise Apart → r.Pairwise Apart ∧ ∀ x ∈ r, i < x.1 ∨ x.1 + x.2 ≤ i)
  | (j, 0) :: r, h => by
    obtain ⟨i, r', hp, hs, ⟨x, hx, hi⟩, hsub, hpw⟩ := popFree_spec r (by simpa using h)
    refine ⟨i, r', hp, by simpa using hs, ⟨x, List.mem_cons_of_mem _ hx, hi⟩, fun y hy => ?_, fun hl => hpw (List.pairwise_cons.mp hl).2⟩
    obtain ⟨z, hz, hle⟩ := hsub y hy
    exact ⟨z, List.mem_cons_of_mem _ hz, hle⟩
  | (i, n + 1) :: r, _ => by
    refine ⟨i, _, rfl, ?_, ⟨_, List.mem_cons_self, by dsimp only; omega⟩, ?_, fun hl => ?_⟩
    · split <;> simp <;> omega
    · split
      · exact fun x hx => ⟨x, List.mem_cons_of_mem _ hx, le_rfl, le_rfl⟩
      · refine List.forall_mem_cons.mpr ⟨⟨_, List.mem_cons_self, by dsimp only; omega⟩, fun x hx => ⟨x, List.mem_cons_of_mem _ hx, le_rfl, le_rfl⟩⟩
    · obtain ⟨hhead, htail⟩ := List.pairwise_cons.mp hl
      have hout : ∀ x ∈ r, i < x.1 ∨ x.1 + x.2 ≤ i := fun x hx => (hhead x hx).imp (fun h => by dsimp only at h; omega) id
      split
      · exact ⟨htail, hout⟩
      · refine ⟨List.pairwise_cons.mpr ⟨fun x hx => (hhead x hx).imp (fun h => ?_) (fun h => ?_), htail⟩,
          List.forall_mem_cons.mpr ⟨.inl (Nat.lt_succ_self i), hout⟩⟩ <;> (dsimp only at h ⊢; omega)

/-- The swatch `i` as the task with the turn is given it. -/
def State.freshSwatch (s : State) (i : Nat) (data : List Byte) : Swatch :=
  { idx := i, data := data, refs := 1, poison := false, owner := BitVec.ofNat 6 s.t.sub, charge := some s.t.uid }

/-- The state in which the task has been given swatch `i`, and `r` is still free. -/
def State.withFresh (s : State) (i : Nat) (r : List (Nat × Nat)) (data : List Byte) : State :=
  { s with cl := { s.cl with free := r, bolt := s.cl.bolt ++ [s.freshSwatch i data] } }

theorem allocAct_run (h : s.Room (n + 1)) (hp : popFree s.cl.free = some (i, r)) : allocAct data s = .ok (i, s.withFresh i r data) := by
  have hq : ¬s.t.poolq.toNat ≤ s.poolUse s.t.uid := by have := h.quota; omega
  have ha : s.boltAhead none = 0 := by simpa [State.boltBefore] using h.turn
  have hf : s.cl.freeCount ≠ 0 := by have := h.free; omega
  simp [allocAct, State.allocTurn, State.alloc, hq, hp, ha, hf, State.withFresh, State.freshSwatch]

theorem poolUse_withFresh (s : State) (i : Nat) (r : List (Nat × Nat)) (data : List Byte) :
    (s.withFresh i r data).poolUse s.t.uid = s.poolUse s.t.uid + 1 := by
  simp [State.poolUse, State.allClusters, State.withFresh, State.freshSwatch]
  omega

/-- A swatch of the free list stands in no cluster. -/
theorem State.Room.swatch?_free (h : s.Room n) {x : Nat × Nat} (hx : x ∈ s.cl.free) (hlo : x.1 ≤ i) (hhi : i < x.1 + x.2) :
    s.cl.swatch? i = none := by
  refine List.find?_eq_none.mpr fun w hw hi => ?_
  have hi : w.idx = i := by simpa using hi
  have := h.apart w hw x hx
  omega

theorem swatch?_withFresh (hi : s.cl.swatch? i = none) (j : Nat) :
    (s.withFresh i r data).cl.swatch? j = if j = i then some (s.freshSwatch i data) else s.cl.swatch? j := by
  unfold Cluster.swatch? at hi ⊢
  show (s.cl.bolt ++ [s.freshSwatch i data]).find? _ = _
  rw [List.find?_append]
  by_cases hj : j = i
  · subst hj
    rw [hi]
    simp [State.freshSwatch]
  · simp [State.freshSwatch, hj, Ne.symm hj]

theorem content_withFresh (hi : s.cl.swatch? i = none) (j : Nat) :
    (s.withFresh i r data).cl.content j = if j = i then some (data, false) else s.cl.content j := by
  unfold Cluster.content
  rw [swatch?_withFresh hi]
  split <;> rfl

/-- Where there is room for one more swatch the task gets one that was free. -/
theorem State.Room.alloc (h : s.Room (n + 1)) (data : List Byte) : ∃ i t, allocAct data s = .ok (i, t) ∧ s.BoltOnly t ∧ t.Room n ∧
    s.cl.content i = none ∧ ∀ j, t.cl.content j = if j = i then some (data, false) else s.cl.content j := by
  obtain ⟨i, r, hp, hsum, ⟨x, hx, hlo, hhi⟩, hsub, hpw⟩ := popFree_spec s.cl.free (Nat.lt_of_lt_of_le (Nat.succ_pos n) h.free)
  have hi := h.swatch?_free hx hlo hhi
  obtain ⟨hranges, hout⟩ := hpw h.ranges
  refine ⟨i, _, allocAct_run h hp, ⟨_, _, _, rfl⟩, ?_, by rw [Cluster.content, hi]; rfl, content_withFresh hi⟩
  refine ⟨?_, ?_, ?_, hranges, fun w hw y hy => ?_, h.turn⟩
  · show (s.withFresh i r data).poolUse s.t.uid + n ≤ s.t.poolq.toNat
    have := h.quota
    rw [poolUse_withFresh]
    omega
  · show n ≤ (r.map (·.2)).sum
    have := h.free
    unfold Cluster.freeCount at this
    omega
  · show ((s.cl.bolt ++ [s.freshSwatch i data]).map Swatch.idx).Nodup
    rw [List.map_append]
    refine List.Nodup.append h.nodup (List.nodup_singleton _) ?_
    intro j hj hj'
    obtain ⟨w, hw, rfl⟩ := List.mem_map.mp hj
    exact absurd (List.find?_eq_none.mp hi w hw) (by simpa [State.freshSwatch] using hj')
  · rcases List.mem_append.mp hw with hw | hw
    · obtain ⟨z, hz, hle⟩ := hsub y hy
      have := h.apart w hw z hz
      omega
    · rw [List.mem_singleton.mp hw]
      exact hout y hy

/-- Of a cluster that lists no swatch twice, each one listed is the one found. -/
theorem swatch?_of_mem {w : Swatch} (h : s.Room n) (hw : w ∈ s.cl.bolt) : s.cl.swatch? w.idx = some w := by
  have hsome : (s.cl.swatch? w.idx).isSome = true := List.find?_isSome.mpr ⟨w, hw, by simp⟩
  obtain ⟨v, hv⟩ := Option.isSome_iff_exists.mp hsome
  have hi : v.idx = w.idx := by simpa using List.find?_some hv
  rw [hv, List.inj_on_of_nodup_map h.nodup (List.mem_of_find?_eq_some hv) hw hi]

/-- A swatch once swatch `i` is held once more. -/
def Swatch.held (i : Nat) (w : Swatch) : Swatch := if w.idx = i then { w with refs := w.refs + 1 } else w

theorem bolt_hold (s : State) (i : Nat) : (s.holdAll [i]).cl.bolt = s.cl.bolt.map (Swatch.held i) := rfl

theorem held_idx (i : Nat) (w : Swatch) : (w.held i).idx = w.idx := by
  unfold Swatch.held
  split <;> rfl

theorem held_charge (i : Nat) (w : Swatch) : (w.held i).charge = w.charge := by
  unfold Swatch.held
  split <;> rfl

/-- A swatch that is referenced already is charged to its task as before. -/
theorem held_refs_pos {w : Swatch} (h : s.Room n) (hi : 1 ≤ s.refs i) (hw : w ∈ s.cl.bolt) : 0 < (w.held i).refs ↔ 0 < w.refs := by
  unfold Swatch.held
  split
  · next hwi =>
    have hr : s.refs i = w.refs := by rw [State.refs, ← hwi, swatch?_of_mem h hw, Option.map_some, Option.getD_some]
    rw [hr] at hi
    exact ⟨fun _ => hi, fun _ => Nat.succ_pos _⟩
  · rfl

theorem poolUse_hold (h : s.Room n) (hi : 1 ≤ s.refs i) (uid : Nat) : (s.holdAll [i]).poolUse uid = s.poolUse uid := by
  have hlen : ((s.cl.bolt.map (Swatch.held i)).filter fun w => w.charge = some uid && decide (0 < w.refs)).length =
      (s.cl.bolt.filter fun w => w.charge = some uid && decide (0 < w.refs)).length := by
    rw [List.filter_map, List.length_map, List.filter_congr]
    intro w hw
    simp only [Function.comp_apply, held_charge, held_refs_pos h hi hw]
  exact congrArg (fun k => (k :: s.clusters.map _).sum) hlen

/-- Holding references takes nothing from the room of the task. -/
theorem State.Room.hold (h : s.Room n) (hi : 1 ≤ s.refs i) : (s.holdAll [i]).Room n where
  quota := (congrArg (· + n) (poolUse_hold h hi _)).trans_le h.quota
  free := h.free
  nodup := by
    rw [bolt_hold, List.map_map, show Swatch.idx ∘ Swatch.held i = Swatch.idx from funext (held_idx i)]
    exact h.nodup
  ranges := h.ranges
  apart w hw x hx := by
    obtain ⟨v, hv, rfl⟩ := List.mem_map.mp (bolt_hold s i ▸ hw)
    rw [held_idx]
    exact h.apart v hv x hx
  turn := h.turn

theorem State.Room.holdAll {l : List Nat} (h : s.Room n) (hl : ∀ i ∈ l, 1 ≤ s.refs i) : (s.holdAll l).Room n := by
  induction l generalizing s with
  | nil => exact h
  | cons i r ih =>
    refine ih (s := s.holdAll [i]) (h.hold (hl i List.mem_cons_self)) fun j hj => ?_
    have hj := hl j (List.mem_cons_of_mem _ hj)
    rw [refs_holdAll hj]
    omega

end Room
end Sys2Proof.Machine
end

section
/-! Reading chains and passing them on (06_chains R141, R143 to R145, 09_vmem R213): O21 and O25 are settled. -/

namespace Sys2Proof.Machine

section Queries
variable {s : State} {d a b : Reg}

theorem execVget_reads {c : Nat} (hc : s.holdsContext = true) (hne : (s.entry (s.h.name a)).state ≠ .empty)
    (hsp : (s.entry (s.h.name a)).state ≠ .spilled) (hlen : (s.rx b).toNat < (s.entry (s.h.name a)).len)
    (hprog : (s.rx b).toNat < (s.entry (s.h.name a)).prog)
    (hread : s.cl.element (s.entry (s.h.name a)).tag (s.entry (s.h.name a)).segs (s.rx b).toNat = .ok c) :
    execVget d a b s = .next (s.put d (elementWord (s.entry (s.h.name a)).tag (s.rx b).toNat c)) := by
  have h0 : (s.entry (s.h.name a)).len ≠ 0 := by omega
  have hact : elementAct (s.entry (s.h.name a)).tag (s.entry (s.h.name a)).segs (s.rx b).toNat s = .ok (c, s) := by
    simp only [elementAct, hread]
  refine vecFinish_ok _ hc ?_
  simp only [Act.bind_run, Act.get_run, notSpilled_run (List.forall_mem_singleton.mpr hsp),
    notEmpty_run (List.forall_mem_singleton.mpr hne), decide_eq_false h0, Bool.and_false, Bool.false_eq_true, if_false,
    within_run _ (decide_eq_true hlen), if_neg hprog.not_ge, hact, Act.modify_run]

end Queries

/-- Settles O21: each query ends with one write in the state as it was. -/
theorem chainQueriesRead : Obligations.ChainQueriesRead := by
  intro s d a b hc
  have hu : s.who = .user := by
    simp only [State.holdsContext, Bool.and_eq_true, decide_eq_true_eq] at hc
    exact hc.1
  refine ⟨vecFinish_ok _ hc rfl, vecFinish_ok _ hc rfl, vecFinish_ok _ hc rfl, ?_, ?_⟩
  · rintro e c rfl hne hsp hlen hprog hread
    exact execVget_reads hc hne hsp hlen hprog hread
  · exact (if_pos hu).trans (vecFinish_ok _ hc rfl)

/-! ### Mailboxes -/

section Mail
variable {s t : State} {d a b : Reg} {e : Entry} {slot : Nat}

theorem mem_setEntry (k : Nat) (e : Entry) : ∀ l : List (Nat × Entry), (k, e) ∈ setEntry l k e
  | [] => List.mem_singleton_self _
  | (j, f) :: r => by
    unfold setEntry
    split_ifs
    · exact List.mem_cons_self
    · exact List.mem_cons_self
    · exact List.mem_cons_of_mem _ (mem_setEntry k e r)

theorem readsRetired_run (h : s.readsOf s.h.id = []) : readsRetired s = .ok ((), s) := by
  simp [readsRetired, Act.bind_run, h]

/-- A version in a mailbox is no hart's any more. -/
theorem mailVersion_h (s : State) (slot : Nat) (e : Entry) : (s.mailVersion slot e).h = s.h := by
  unfold State.mailVersion
  dsimp only
  split_ifs
  · exact (holdAll_boltOnly _ s).hart
  · rfl
  · rfl

theorem mailVersion_mem (s : State) (slot : Nat) (e : Entry) : (s.mailVersion slot e).mem = s.mem := by
  unfold State.mailVersion
  dsimp only
  split_ifs
  · exact (holdAll_boltOnly _ s).mem
  · rfl
  · rfl

theorem mem_mailVersion (s : State) (slot : Nat) (e : Entry) : (slot, e) ∈ (s.mailVersion slot e).cl.mail := mem_setEntry _ _ _

theorem execCpost_posts (hc : s.holdsContext = true) (hlive : (s.entry (s.h.name d)).state = .live) (hslot : (s.rx b).toNat ≤ 63)
    (hreads : s.readsOf s.h.id = []) (hfree : ∀ m ∈ s.cl.mail, m.1 ≠ (s.rx b).toNat)
    (hq : s.queuedBefore (WaitKind.posts (s.rx b).toNat) = false) :
    execCpost d b s = .next ((s.drain.emptyName (s.h.name d)).mailVersion (s.rx b).toNat (s.entry (s.h.name d))).advance := by
  have hany : (s.cl.mail.any fun m => m.1 = (s.rx b).toNat) = false := by simpa using hfree
  have hentry : s.drain.entry (s.h.name d) = s.entry (s.h.name d) := by rw [State.entry, drain_h, State.entry]
  have hsrc : ∀ k ∈ [s.h.name d], (s.entry k).state = .live := List.forall_mem_singleton.mpr hlive
  refine vecFinish_ok _ hc ?_
  simp only [Act.bind_run, Act.get_run, notSpilled_live hsrc, notEmpty_live hsrc, slotCheck, require_run _ (decide_eq_true hslot),
    complete_live hsrc, readsRetired_run hreads, hany, hq, Bool.or_false, Bool.false_eq_true, if_false, Act.modify_run, hentry]

/-- The state in which slot `slot` is empty. -/
def State.unmailed (s : State) (slot : Nat) : State := { s with cl := { s.cl with mail := s.cl.mail.filter fun m => m.1 != slot } }

/-- The state in which the version `e` has been taken from `slot` as name `k`. -/
def State.taken (s : State) (k slot : Nat) (e : Entry) : State :=
  ((s.unmailed slot).withId e).2.retireName k ((s.unmailed slot).withId e).1

theorem execCtake_takes (hc : s.holdsContext = true) (hd : (s.entry (s.h.name d)).state ≠ .spilled) (hslot : (s.rx b).toNat ≤ 63)
    (hfind : (s.cl.mail.find? fun m => m.1 = (s.rx b).toNat) = some ((s.rx b).toNat, e))
    (hq : s.queuedBefore (WaitKind.takes (s.rx b).toNat) = false) (hr : s.unretired (s.h.name d) = false) :
    execCtake d a b s = .next ((s.taken (s.h.name d) (s.rx b).toNat e).acquire.put a 0#64) := by
  have hret := retireAct_run (s := ((s.unmailed (s.rx b).toNat).withId e).2) (e := ((s.unmailed (s.rx b).toNat).withId e).1) hr
  rw [State.taken]
  unfold State.unmailed at hret ⊢
  refine vecFinish_ok _ hc ?_
  simp only [Act.bind_run, Act.get_run, notSpilled_run (List.forall_mem_singleton.mpr hd), slotCheck,
    require_run _ (decide_eq_true hslot), hfind, hq, Bool.false_eq_true, if_false, Act.modify_run, hret]

theorem acquire_h (s : State) : s.acquire.h = { s.h with sb := (splitRelease s.h.sb).2 } := by
  show { (s.commitAll (splitRelease s.h.sb).1).h with sb := (splitRelease s.h.sb).2 } = _
  rw [(State.MemoryOnly.commitAll _ s).hart]

theorem acquire_cl (s : State) : s.acquire.cl = s.cl := (State.MemoryOnly.commitAll _ s).cluster

theorem taken_h (s : State) (k slot : Nat) (e : Entry) : ∃ v : Entry, v.segs = e.segs ∧ v.tag = e.tag ∧ v.len = e.len ∧
    (s.taken k slot e).h = { s.h with names := setEntry s.h.names k v } :=
  ⟨((s.unmailed slot).withId e).2.retiring k ((s.unmailed slot).withId e).1, rfl, rfl, rfl, retireName_h _ k _⟩

theorem taken_mail (s : State) (k slot : Nat) (e : Entry) : (s.taken k slot e).cl.mail = s.cl.mail.filter fun m => m.1 != slot :=
  (retireName_releases _ k _).mail

theorem rx_put_zero (s : State) (r : Reg) : (s.put r 0#64).rx r = 0#64 := by
  by_cases hr : r = 0#7
  · exact if_pos hr
  · exact rx_put_same s hr _

end Mail

/-- Settles O25: a version goes from a name to a slot and back, and nothing that its retirement releases touches the slots. -/
theorem mailboxesPassChains : Obligations.MailboxesPassChains := by
  intro s d a b
  refine ⟨fun hc => ⟨fun hlive hslot hreads hfree hq => ?_, fun e hd hslot hfind hq hr => ?_⟩, ?_, ?_⟩
  · have hh := mailVersion_h (s.drain.emptyName (s.h.name d)) (s.rx b).toNat (s.entry (s.h.name d))
    refine ⟨_, execCpost_posts hc hlive hslot hreads hfree hq, ?_, mem_mailVersion _ _ _, ?_, mailVersion_mem _ (s.rx b).toNat _, ?_⟩
    · rw [State.entry, State.advance_h_names, hh]
      exact congrArg Entry.state (setName_entry s.drain.fresh.2 _ _)
    · rw [State.advance_h_sb, hh]
      exact congrArg Hart.sb (drain_h s)
    · rw [State.advance_h_pc, hh]
      show s.drain.h.pc + 4#64 = _
      rw [drain_h]
  · obtain ⟨v, hsegs, htag, hlen, hh⟩ := taken_h s (s.h.name d) (s.rx b).toNat e
    have hentry : ((s.taken (s.h.name d) (s.rx b).toNat e).acquire.put a 0#64).entry (s.h.name d) = v := by
      show entryIn ((s.taken (s.h.name d) (s.rx b).toNat e).acquire.h.wx a 0#64).names _ = v
      rw [Hart.wx_names, acquire_h, hh]
      exact entryIn_setEntry v _ _
    refine ⟨_, execCtake_takes hc hd hslot hfind hq hr, fun m hm => ?_, ?_, ?_, ?_, rx_put_zero _ a, ?_⟩
    · rw [State.put_cl, acquire_cl, taken_mail] at hm
      simpa using (List.mem_filter.mp hm).2
    · rw [hentry, hsegs]
    · rw [hentry, htag]
    · rw [hentry, hlen]
    · rw [State.put_h_pc, Hart.wx_pc, acquire_h, hh]
  · intro slot since hw h0 hlate
    have hout : s.waitedOut { kind := .cpost slot, since := since } = true := by simp [State.waitedOut, h0, hlate]
    show execCpostTimeout s = _
    simp only [execCpostTimeout, hw, hout, if_true]
  · intro slot since hw h0 hlate
    have hout : s.waitedOut { kind := .ctake slot a, since := since } = true := by simp [State.waitedOut, h0, hlate]
    show execCtakeTimeout s = _
    simp only [execCtakeTimeout, hw, hout, if_true]

end Sys2Proof.Machine
end

section
/-! Making versions from the segments of others (06_chains R129, R130, R135 to R137): what retires is live over those
segments; O23 is settled. -/

namespace Sys2Proof.Machine

/-! ### New versions -/

section Versions
variable {s t u : State} {k n len : Nat} {tag : ElemType} {segs : List Seg} {e : Entry}

/-- What a name shows once a live version has retired there. -/
theorem newVersion_of_retiring (hn : ∃ h b m, t.entry k = { e with counts := addCount h (s.entry k).counts, dirty := true, behind := b, stamp := m })
    (hl : e.state = .live) (hpc : t.h.pc = s.h.pc + 4#64) (hx : t.h.x = s.h.x) : newVersion s t k e.tag e.len e.segs := by
  obtain ⟨h, b, m, hn⟩ := hn
  unfold newVersion
  rw [hn]
  exact ⟨hl, rfl, rfl, rfl, version_addCount _ _ h rfl, rfl, hpc, hx⟩

theorem newVersion_retireName (he : u.entry k = s.entry k) (hpc : u.h.pc = s.h.pc) (hx : u.h.x = s.h.x) (hl : e.state = .live) :
    newVersion s (u.retireName k e).advance k e.tag e.len e.segs := by
  refine newVersion_of_retiring ⟨u.h.id.toNat, u.ahead e, u.t.nextStamp, ?_⟩ hl ?_ ?_
  · exact (retireName_entry u k e).trans (by rw [State.retiring, he])
  · rw [State.advance_h_pc, retireName_h, hpc]
  · rw [State.advance_h_x, retireName_h, hx]

theorem State.BoltOnly.newVersion (hb : s.BoltOnly u) (hl : e.state = .live) :
    newVersion s (u.retireName k e).advance k e.tag e.len e.segs :=
  newVersion_retireName (by rw [State.entry, hb.hart, State.entry]) (by rw [hb.hart]) (by rw [hb.hart]) hl

/-- What is said of a new version is said of the hart. -/
theorem newVersion_of_hart (h : t.h = u.h) (hn : newVersion s u k tag len segs) : newVersion s t k tag len segs := by
  unfold newVersion State.entry at hn ⊢
  rw [h]
  exact hn

/-- The retirement of another name does not touch it. -/
theorem newVersion_retireName_ne {j : Nat} (h : newVersion s t.advance j tag len segs) (hj : j ≠ k) :
    newVersion s (t.retireName k e).advance j tag len segs := by
  have he : (t.retireName k e).advance.entry j = t.advance.entry j := retireName_entry_ne t e hj
  unfold Machine.newVersion at h ⊢
  rw [State.advance_h_pc, State.advance_h_x] at h ⊢
  rw [he, retireName_h]
  exact h

theorem retireName_unretired_ne {j : Nat} (s : State) (e : Entry) (hj : j ≠ k) : (s.retireName k e).unretired j = s.unretired j := by
  unfold State.unretired State.awaited State.ahead State.readsOf Task.reads
  rw [retireName_entry_ne s e hj, (retireName_releases s k e).matrix, retireName_h]
  rfl

/-- Two live versions retire one after the other as two names (R137). -/
theorem State.BoltOnly.retires_both {j : Nat} {f : Entry} (hb : s.BoltOnly u) (hne : k ≠ j) (hk : s.unretired k = false)
    (hj : s.unretired j = false) (he : e.state = .live) (hf : f.state = .live) :
    ∃ x y, retireAct k e u = .ok ((), x) ∧ retireAct j f x = .ok ((), y) ∧
      Machine.newVersion s y.advance k e.tag e.len e.segs ∧ Machine.newVersion s y.advance j f.tag f.len f.segs := by
  have hj' : (u.retireName k e).unretired j = false := (retireName_unretired_ne u e hne.symm).trans ((hb.unretired j).trans hj)
  have hentry : (u.retireName k e).entry j = s.entry j := by rw [retireName_entry_ne u e hne.symm, State.entry, hb.hart, State.entry]
  exact ⟨_, _, retireAct_run ((hb.unretired k).trans hk), retireAct_run hj', newVersion_retireName_ne (hb.newVersion he) hne,
    newVersion_retireName hentry (by rw [retireName_h, hb.hart]) (by rw [retireName_h, hb.hart]) hf⟩

/-- A computation that gives a live version of this type and length over these segments, and has only given out swatches. -/
def Makes (a : Act Entry) (s : State) (tag : ElemType) (len : Nat) (segs : List Seg) : Prop :=
  ∃ e t, a s = .ok (e, t) ∧ s.BoltOnly t ∧ e.state = .live ∧ e.tag = tag ∧ e.len = len ∧ e.segs = segs

/-- The version that a computation makes can retire where nothing is waited for (R124). -/
theorem Makes.retires {a : Act Entry} (h : Makes a s tag len segs) (hr : s.unretired k = false) :
    ∃ e t, a s = .ok (e, t) ∧ t.unretired k = false ∧ newVersion s (t.retireName k e).advance k tag len segs := by
  obtain ⟨e, t, he, hb, hl, rfl, rfl, rfl⟩ := h
  exact ⟨e, t, he, (hb.unretired k).trans hr, hb.newVersion hl⟩

/-- A complete version as it is built (R120, R130). -/
def builtEntry (tag : ElemType) (len : Nat) (segs : List Seg) (map : Option Nat) (id : Nat) : Entry :=
  { state := .live, tag := tag, segs := segs, map := map, len := len, prog := len, id := id }

/-- A chain of at most four segments has no map (R120). -/
theorem buildAct_small (h : segs.length ≤ 4) :
    buildAct tag len segs s = .ok (builtEntry tag len segs none s.t.nextStamp, s.fresh.2) := by
  simp only [buildAct, if_neg h.not_gt, Act.bind_run, Act.pure_run]
  rfl

theorem buildAct_mapped {i : Nat} (h : 4 < segs.length) (hi : allocAct (mapBytes segs) s = .ok (i, t)) :
    buildAct tag len segs s = .ok (builtEntry tag len segs (some i) t.t.nextStamp, t.fresh.2) := by
  simp only [buildAct, if_pos h, Act.bind_run, hi, Act.pure_run]
  rfl

theorem State.Room.fresh (h : s.Room n) : s.fresh.2.Room n := ⟨h.quota, h.free, h.nodup, h.ranges, h.apart, h.turn⟩

/-- Room for one swatch is room for the map of a chain (R120). -/
theorem buildAct_room (hr : s.Room (n + 1)) (tag : ElemType) (len : Nat) (segs : List Seg) :
    ∃ m i t, buildAct tag len segs s = .ok (builtEntry tag len segs m i, t) ∧ s.BoltOnly t ∧ t.Room n := by
  rcases le_or_gt segs.length 4 with h | h
  · exact ⟨_, _, _, buildAct_small h, fresh_boltOnly s, (hr.mono (Nat.le_succ n)).fresh⟩
  · obtain ⟨i, t, hi, hb, hroom, -⟩ := hr.alloc (mapBytes segs)
    exact ⟨_, _, _, buildAct_mapped h hi, hb.trans (fresh_boltOnly t), hroom.fresh⟩

/-- Segments are held, and make a version where there is room for a map. -/
theorem makes_of_held {m : List (Seg × Nat)} (hh : s.canHold ((m.map (·.1)).map Seg.swatch)) (hr : s.Room 1) (tag : ElemType) (len : Nat) :
    Makes (do holdSegs m; buildAct tag len (m.map (·.1))) s tag len (m.map (·.1)) := by
  obtain ⟨x, i, t, hv, hb, -⟩ := buildAct_room (hr.holdAll fun i hi => (hh i hi).1) tag len (m.map (·.1))
  refine ⟨builtEntry tag len _ x i, t, ?_, (holdAll_boltOnly _ s).trans hb, rfl, rfl, rfl, rfl⟩
  rw [Act.bind_run, holdSegs_run hh]
  exact hv

end Versions

/-! ### The instructions -/

/-- Nothing stops an instruction with source `ka` and destination `kd` before its own checks (R126, R129, R359). -/
structure Operands (s : State) (ka kd : Nat) : Prop where
  context : s.holdsContext = true
  live : (s.entry ka).state = .live
  dest : (s.entry kd).state ≠ .spilled
  retired : s.unretired kd = false

section Cuts
variable {s : State} {d a b : Reg} {ka kd : Nat} {e f : Entry}

theorem Operands.notSpilled (h : Operands s ka kd) : notSpilled [ka, kd] s = .ok ((), s) :=
  notSpilled_run (by simp [h.live, h.dest])

theorem Operands.notEmpty (h : Operands s ka kd) : notEmpty [ka] s = .ok ((), s) := notEmpty_live (by simp [h.live])

theorem Operands.complete (h : Operands s ka kd) : complete [ka] s = .ok ((), s) := complete_live (by simp [h.live])

theorem execCseam_joins {joined : List (Seg × Nat)} (h : Operands s (s.h.name a) (s.h.name d)) (he : s.entry (s.h.name a) = e)
    (hf : s.entry (s.h.name b) = f) (hfl : f.state = .live) (hroom : s.Room 1) (htag : f.tag = e.tag) (hpos : bytePos e.tag e.len = true)
    (hj : coalesce ((e.segs.map fun g => (g, s.h.name a)) ++ f.segs.map fun g => (g, s.h.name b)) = joined)
    (hlen : joined.length ≤ 64) (hbytes : bytesFor e.tag e.len + bytesFor f.tag f.len ≤ 16384)
    (hh : s.canHold ((joined.map (·.1)).map Seg.swatch)) :
    ∃ t, execCseam d a b s = .next t ∧ newVersion s t (s.h.name d) e.tag (e.len + f.len) (joined.map (·.1)) := by
  have hsrc : ∀ k ∈ [s.h.name a, s.h.name b], (s.entry k).state = .live := by simp [h.live, hf, hfl]
  have hops : ∀ k ∈ [s.h.name a, s.h.name b, s.h.name d], (s.entry k).state ≠ .spilled := by simp [h.live, hf, hfl, h.dest]
  have hfits : (decide (joined.length ≤ 64) && decide (bytesFor e.tag e.len + bytesFor e.tag f.len ≤ 16384)) = true := by
    simpa [hlen, htag] using hbytes
  obtain ⟨v, t, hv, hret, hnew⟩ := (makes_of_held hh hroom e.tag (e.len + f.len)).retires h.retired
  refine ⟨_, vecFinish_ok _ h.context ?_, hnew⟩
  rw [Act.bind_run, holdSegs_run hh] at hv
  simp only [Act.bind_run, Act.get_run, notSpilled_run hops, notEmpty_live hsrc, complete_live hsrc, he, hf, htag, decide_true,
    Act.require_true, cutCheck_run _ hpos, hj, fits, require_run _ hfits, holdSegs_run hh, hv, retireAct_run hret, Act.modify_run]

theorem execChemh_cuts {p : Nat} (h : Operands s (s.h.name a) (s.h.name d)) (he : s.entry (s.h.name a) = e) (hp : (s.rx b).toNat = p)
    (hroom : s.Room 1) (hpos : p = e.len ∨ bytePos e.tag p = true) (hle : p ≤ e.len)
    (hh : s.canHold (((cut (s.h.name a) e.segs (bytesFor e.tag p) (bytesFor e.tag e.len)).map (·.1)).map Seg.swatch)) :
    ∃ t, execChemh d a b s = .next t ∧ newVersion s t (s.h.name d) e.tag (e.len - p)
      ((cut (s.h.name a) e.segs (bytesFor e.tag p) (bytesFor e.tag e.len)).map (·.1)) := by
  obtain ⟨v, t, hv, hret, hnew⟩ := (makes_of_held hh hroom e.tag (e.len - p)).retires h.retired
  refine ⟨_, vecFinish_ok _ h.context ?_, hnew⟩
  rw [Act.bind_run, holdSegs_run hh] at hv
  have hcheck : (decide (p = e.len) || bytePos e.tag p) = true := by simpa using hpos
  simp only [Act.bind_run, Act.get_run, h.notSpilled, h.notEmpty, h.complete, he, hp, cutCheck_run _ hcheck,
    within_run _ (decide_eq_true hle), cutVersion, holdSegs_run hh, hv, retireAct_run hret, Act.modify_run]

theorem execChemt_cuts {p : Nat} (h : Operands s (s.h.name a) (s.h.name d)) (he : s.entry (s.h.name a) = e) (hp : (s.rx b).toNat = p)
    (hroom : s.Room 1) (hle : p ≤ e.len)
    (hh : s.canHold (((cut (s.h.name a) e.segs 0 (bytesFor e.tag (e.len - p))).map (·.1)).map Seg.swatch)) :
    ∃ t, execChemt d a b s = .next t ∧ newVersion s t (s.h.name d) e.tag (e.len - p)
      ((cut (s.h.name a) e.segs 0 (bytesFor e.tag (e.len - p))).map (·.1)) := by
  obtain ⟨v, t, hv, hret, hnew⟩ := (makes_of_held hh hroom e.tag (e.len - p)).retires h.retired
  refine ⟨_, vecFinish_ok _ h.context ?_, hnew⟩
  rw [Act.bind_run, holdSegs_run hh] at hv
  simp only [Act.bind_run, Act.get_run, h.notSpilled, h.notEmpty, h.complete, he, hp, within_run _ (decide_eq_true hle), cutVersion,
    holdSegs_run hh, hv, retireAct_run hret, Act.modify_run]

theorem execCslice_cuts {start n stop : Nat} (h : Operands s (s.h.name a) (s.h.name d)) (he : s.entry (s.h.name a) = e)
    (hstart : (s.rx b).toNat % 2 ^ 32 = start) (hn : (s.rx b).toNat / 2 ^ 32 = n)
    (hstop : (if n = 0 then bytesFor e.tag start else bytesFor e.tag (start + n)) = stop)
    (hroom : s.Room 1) (hpos : n = 0 ∨ bytePos e.tag start = true) (hle : start + n ≤ e.len)
    (hh : s.canHold (((cut (s.h.name a) e.segs (bytesFor e.tag start) stop).map (·.1)).map Seg.swatch)) :
    ∃ t, execCslice d a b s = .next t ∧ newVersion s t (s.h.name d) e.tag n
      ((cut (s.h.name a) e.segs (bytesFor e.tag start) stop).map (·.1)) := by
  obtain ⟨v, t, hv, hret, hnew⟩ := (makes_of_held hh hroom e.tag n).retires h.retired
  refine ⟨_, vecFinish_ok _ h.context ?_, hnew⟩
  rw [Act.bind_run, holdSegs_run hh] at hv
  have hcheck : (decide (n = 0) || bytePos e.tag start) = true := by simpa using hpos
  simp only [Act.bind_run, Act.get_run, h.notSpilled, h.notEmpty, h.complete, he, hstart, hn, hstop, cutCheck_run _ hcheck,
    within_run _ (decide_eq_true hle), cutVersion, holdSegs_run hh, hv, retireAct_run hret, Act.modify_run]

theorem execCsplit_tail {p : Nat} {tail : List (Seg × Nat)} (h : Operands s (s.h.name a) (s.h.name d)) (hsame : s.h.name d = s.h.name a)
    (he : s.entry (s.h.name a) = e) (hp : (s.rx b).toNat = p)
    (htail : cut (s.h.name a) e.segs (bytesFor e.tag p) (bytesFor e.tag e.len) = tail)
    (hroom : s.Room 1) (hpos : p = e.len ∨ bytePos e.tag p = true) (hle : p ≤ e.len) (hh : s.canHold ((tail.map (·.1)).map Seg.swatch)) :
    ∃ t, execCsplit d a b s = .next t ∧ newVersion s t (s.h.name d) e.tag (e.len - p) (tail.map (·.1)) := by
  obtain ⟨v, t, hv, hret, hnew⟩ := (makes_of_held hh hroom e.tag (e.len - p)).retires h.retired
  refine ⟨_, vecFinish_ok _ h.context ?_, hnew⟩
  rw [Act.bind_run, holdSegs_run hh] at hv
  have hcheck : (decide (p = e.len) || bytePos e.tag p) = true := by simpa using hpos
  simp only [Act.bind_run, Act.get_run, h.notSpilled, h.notEmpty, h.complete, he, hp, cutCheck_run _ hcheck,
    within_run _ (decide_eq_true hle), htail, if_pos hsame, holdSegs, Act.pure_run, holdSegs_run hh, hv, retireAct_run hret, Act.modify_run]

theorem execCsplit_both {p : Nat} {tail head : List (Seg × Nat)} (h : Operands s (s.h.name a) (s.h.name d)) (hne : s.h.name d ≠ s.h.name a)
    (hra : s.unretired (s.h.name a) = false) (he : s.entry (s.h.name a) = e) (hp : (s.rx b).toNat = p)
    (htail : cut (s.h.name a) e.segs (bytesFor e.tag p) (bytesFor e.tag e.len) = tail)
    (hhead : cut (s.h.name a) e.segs 0 (bytesFor e.tag p) = head)
    (hroom : s.Room 2) (hpos : p = e.len ∨ bytePos e.tag p = true) (hle : p ≤ e.len)
    (hh : s.canHold ((tail.map (·.1)).map Seg.swatch ++ (head.map (·.1)).map Seg.swatch)) :
    ∃ t, execCsplit d a b s = .next t ∧ newVersion s t (s.h.name d) e.tag (e.len - p) (tail.map (·.1)) ∧
      newVersion s t (s.h.name a) e.tag p (head.map (·.1)) := by
  obtain ⟨htl, hhd⟩ := canHold_append hh
  have hheld := (hroom.holdAll fun i hi => (htl i hi).1).holdAll fun i hi => (hhd i hi).1
  obtain ⟨m, i, u, hv, hu, hleft⟩ := buildAct_room hheld e.tag (e.len - p) (tail.map (·.1))
  obtain ⟨n, j, w, hv', hw, -⟩ := buildAct_room hleft e.tag p (head.map (·.1))
  have hbolt : s.BoltOnly w := (((holdAll_boltOnly _ s).trans (holdAll_boltOnly _ _)).trans hu).trans hw
  have hcheck : (decide (p = e.len) || bytePos e.tag p) = true := by simpa using hpos
  obtain ⟨x, y, hx, hy, hnew⟩ := hbolt.retires_both (e := builtEntry e.tag (e.len - p) (tail.map (·.1)) m i)
    (f := builtEntry e.tag p (head.map (·.1)) n j) hne h.retired hra rfl rfl
  refine ⟨_, vecFinish_ok _ h.context ?_, hnew⟩
  simp only [Act.bind_run, Act.get_run, h.notSpilled, h.notEmpty, h.complete, he, hp, cutCheck_run _ hcheck,
    within_run _ (decide_eq_true hle), htail, if_neg hne, hhead, holdSegs_run htl, holdSegs_run hhd, hv, hv', hx, hy, Act.modify_run]

end Cuts

/-- Settles O23: each instruction holds the segments that Cut or Coalesce gives, and the versions built over them retire. -/
theorem chainsAreCutAndJoined : Obligations.ChainsAreCutAndJoined := by
  intro s d a b hc kd ka kb e f p piece holds hd he hroom hturn hrd hra
  have h : Operands s ka kd := ⟨hc, he, hd, hrd⟩
  have hroom : s.Room 2 := room_of_swatchRoom hroom hturn
  have hroom1 : s.Room 1 := hroom.mono (by decide)
  refine ⟨?_, ?_, ?_, ?_, ?_⟩
  · intro joined hf htag hpos hlen hbytes hh
    exact execCseam_joins h rfl rfl hf hroom1 htag hpos rfl (by simpa [joined] using hlen) hbytes hh
  · exact fun hpos hle hh => execChemh_cuts h rfl rfl hroom1 hpos hle hh
  · exact fun hle hh => execChemt_cuts h rfl rfl hroom1 hle hh
  · intro tail head hpos hle hh
    have hh : s.canHold (tail.map Seg.swatch ++ head.map Seg.swatch) := List.map_append ▸ hh
    by_cases hne : kd = ka
    · obtain ⟨t, ht, hv⟩ := execCsplit_tail h hne rfl rfl rfl hroom1 hpos hle (canHold_append hh).1
      exact ⟨t, ht, hv, fun h => absurd hne.symm h⟩
    · obtain ⟨t, ht, hv, hv'⟩ := execCsplit_both h hne hra rfl rfl rfl rfl hroom hpos hle hh
      exact ⟨t, ht, hv, fun _ => hv'⟩
  · exact fun hpos hle hh => execCslice_cuts h rfl rfl rfl rfl hroom1 hpos hle hh
end Sys2Proof.Machine
end

section
/-! Versions that are new, the same, moved or gone (06_chains R131 to R133, R139, R140): cnew, cdrop, cshare, cretype and
cmovv. -/

namespace Sys2Proof.Machine

/-! ### The elements of a chain -/

section Elements
variable {c c' : Cluster} {l : List Seg} {ty : ElemType} {i n off : Nat}

/-- Where no byte is poisoned a read gives the bytes as they stand. -/
theorem chainBytes_eq_rawBytes (h : ∀ off x, c.chainByte l off = some x → x.2.2 = false) (off n : Nat) :
    c.chainBytes l off n = .ok (c.rawBytes l off n) := by
  refine (congrArg (a₂ := fun i => (pure (((c.chainByte l (off + i)).map fun p => p.2.1).getD 0#8) : Except Nat Byte))
    (fun f => (List.range n).mapM f) (funext fun i => ?_)).trans List.mapM_pure
  cases hx : c.chainByte l (off + i) with
  | none => rfl
  | some x => exact if_neg (ne_true_of_eq_false (h _ x hx))

theorem element_eq_rawBytes (h : ∀ off x, c.chainByte l off = some x → x.2.2 = false) (ty : ElemType) (i : Nat) :
    c.element ty l i = .ok (elemOf ty (c.rawBytes l (granuleSpan ty i).1 (granuleSpan ty i).2) (i % granule ty)) := by
  simp only [Cluster.element, chainBytes_eq_rawBytes h]

theorem element_congr (h : ∀ off, c'.chainByte l off = c.chainByte l off) (ty : ElemType) (i : Nat) :
    c'.element ty l i = c.element ty l i := by
  simp only [Cluster.element, Cluster.chainBytes, h]

theorem ofBytes_zeros (n : Nat) : ofBytes (List.replicate n 0#8) = 0 := by
  induction n with
  | zero => rfl
  | succ n ih => simp [List.replicate_succ, ofBytes, ih]

theorem elemOf_zeros (ty : ElemType) (n i : Nat) : elemOf ty (List.replicate n 0#8) i = 0 := by
  have hfield (off k : Nat) : field (List.replicate n 0#8) off k = 0 := by
    rw [field, List.drop_replicate, List.take_replicate, ofBytes_zeros]
  unfold elemOf
  split
  · exact hfield _ _
  · split_ifs <;> simp [hfield]

/-- Every element of a chain of zeros is zero. -/
theorem element_zero (h : ∀ off x, c.chainByte l off = some x → x.2 = (0#8, false)) (ty : ElemType) (i : Nat) :
    c.element ty l i = .ok 0 := by
  have hraw (off n : Nat) : c.rawBytes l off n = List.replicate n 0#8 := by
    refine List.eq_replicate_iff.mpr ⟨by simp [Cluster.rawBytes], fun b hb => ?_⟩
    obtain ⟨j, -, rfl⟩ := List.mem_map.mp hb
    cases hx : c.chainByte l (off + j) with
    | none => rfl
    | some x => simp [h _ x hx]
  rw [element_eq_rawBytes (fun off x hx => congrArg (·.2) (h off x hx)), hraw, elemOf_zeros]

end Elements

/-! ### Fresh chains -/

section Fresh
variable {s t u : State} {i j k n m : Nat} {e : Entry}

/-- From `s` to `t` swatches have been given out, and those that were allocated keep their bytes. -/
structure State.Allots (s t : State) : Prop where
  bolt : s.BoltOnly t
  keeps : ∀ i x, s.cl.content i = some x → t.cl.content i = some x

theorem State.Allots.refl (s : State) : s.Allots s := ⟨.refl s, fun _ _ h => h⟩

theorem State.Allots.trans (h : s.Allots t) (g : t.Allots u) : s.Allots u :=
  ⟨h.bolt.trans g.bolt, fun i x hx => g.keeps i x (h.keeps i x hx)⟩

theorem State.Room.allots (h : s.Room (n + 1)) (data : List Byte) : ∃ i t, allocAct data s = .ok (i, t) ∧ s.Allots t ∧ t.Room n ∧
    s.cl.content i = none ∧ ∀ j, t.cl.content j = if j = i then some (data, false) else s.cl.content j := by
  obtain ⟨i, t, ha, hb, hr, hi, ht⟩ := h.alloc data
  refine ⟨i, t, ha, ⟨hb, fun j x hx => ?_⟩, hr, hi, ht⟩
  rw [ht, if_neg, hx]
  rintro rfl
  cases hi.symm.trans hx

/-- A swatch of zeros. -/
def zeroed : List Byte × Bool := (List.replicate 256 0#8, false)

theorem zeroSegs_run : ∀ (f n : Nat) (s : State), n ≤ 256 * f → s.Room ((n + 255) / 256) → ∃ segs t, zeroSegs f n s = .ok (segs, t) ∧
    s.Allots t ∧ segs.length ≤ f ∧ chainLen segs = n ∧ ∀ g ∈ segs, t.cl.content g.swatch = some zeroed
  | 0, n, s, hn, _ => ⟨[], s, rfl, .refl s, le_rfl, by simp at hn; simp [hn, chainLen], by simp⟩
  | f + 1, n, s, hn, hr => by
    by_cases h0 : n = 0
    · exact ⟨[], s, by simp [zeroSegs, h0], .refl s, Nat.zero_le _, by simp [h0, chainLen], by simp⟩
    · obtain ⟨i, t, ha, hs, hroom, -, hi⟩ := State.Room.allots (n := (n - 256 + 255) / 256) (hr.mono (by omega)) (List.replicate 256 0#8)
      obtain ⟨segs, u, hz, hu, hlen, hsum, hzero⟩ := zeroSegs_run f (n - 256) t (by omega) hroom
      refine ⟨{ swatch := i, first := 0, count := min n 256 } :: segs, u, ?_, hs.trans hu, Nat.succ_le_succ hlen, ?_, ?_⟩
      · simp only [zeroSegs, if_neg h0, Act.bind_run, ha, hz, Act.pure_run]
      · rw [chainLen_cons, hsum]
        dsimp only
        omega
      · exact List.forall_mem_cons.mpr ⟨hu.keeps i _ (by rw [hi, if_pos rfl]; rfl), hzero⟩

theorem content_retireName (hi : i ∈ e.swatches) : (s.retireName k e).cl.content i = s.cl.content i := by
  refine (retireName_releases s k e).content i (shown_of_entry (k := k) ?_)
  rw [setName_entry]
  exact hi

/-- A chain reads as it did before its version retired. -/
theorem chainByte_retireName (s : State) (k : Nat) (e : Entry) (off : Nat) :
    (s.retireName k e).cl.chainByte e.segs off = s.cl.chainByte e.segs off :=
  chainByte_congr (fun _ hg => content_retireName (List.mem_append_left _ (List.mem_map_of_mem hg))) off

theorem execCnew_zeros {d a : Reg} (hc : s.holdsContext = true) (hd : (s.entry (s.h.name d)).state ≠ .spilled)
    (hr : s.unretired (s.h.name d) = false) (hn : (s.rx a).toNat = n) (hbytes : bytesFor s.h.ty n ≤ 512)
    (hroom : s.Room ((bytesFor s.h.ty n + 255) / 256)) :
    ∃ t segs, execCnew d a s = .next t ∧ newVersion s t (s.h.name d) s.h.ty n segs ∧ chainLen segs = bytesFor s.h.ty n ∧
      ∀ k, t.cl.element s.h.ty segs k = .ok 0 := by
  obtain ⟨segs, u, hz, hu, hlen, hsum, hzero⟩ := zeroSegs_run 2 _ s hbytes hroom
  have hbolt : s.BoltOnly u.fresh.2 := hu.bolt.trans (fresh_boltOnly u)
  have hread (off : Nat) (x : Nat × Byte × Bool) (hx : u.cl.chainByte segs off = some x) : x.2 = (0#8, false) := by
    rw [chainByte_eq_cell] at hx
    obtain ⟨p, hp, hx⟩ := Option.bind_eq_some_iff.mp hx
    obtain ⟨g, hg, hgp⟩ := place_mem hp
    rw [Cluster.cell, ← hgp, hzero g hg, Option.map_some, Option.some_inj] at hx
    rw [← hx]
    exact congrArg (·, false) (List.getElem?_getD_replicate_default_eq ..)
  refine ⟨_, segs, vecFinish_ok _ hc ?_, hbolt.newVersion (e := builtEntry s.h.ty n segs none u.t.nextStamp) rfl, hsum, fun k => ?_⟩
  · simp only [Act.bind_run, Act.get_run, notSpilled_run (List.forall_mem_singleton.mpr hd), hn,
      require_run _ (decide_eq_true hbytes), hz, buildAct_small (show segs.length ≤ 4 by omega),
      retireAct_run ((hbolt.unretired _).trans hr), Act.modify_run]
  · exact (element_congr (chainByte_retireName u.fresh.2 _ (builtEntry s.h.ty n segs none u.t.nextStamp)) _ _).trans (element_zero hread _ _)

end Fresh

/-! ### The same segments, and none -/

section Same
variable {s t u : State} {d a : Reg} {k kd : Nat} {e : Entry}

theorem emptyName_entry (s : State) (k : Nat) : ∃ b n, (s.emptyName k).entry k =
    { counts := addCount s.h.id.toNat (s.entry k).counts, dirty := true, behind := b, stamp := n } :=
  ⟨_, _, setName_entry s.fresh.2 k _⟩

theorem execCdrop_empty (hc : s.holdsContext = true) (he : (s.entry (s.h.name d)).state = .empty) : execCdrop d s = .next s.advance := by
  refine vecFinish_ok _ hc ?_
  simp only [Act.bind_run, Act.get_run, notSpilled_run (List.forall_mem_singleton.mpr (by rw [he]; decide)), if_pos he, Act.modify_run]

theorem execCdrop_drops (hc : s.holdsContext = true) (hd : (s.entry (s.h.name d)).state ≠ .spilled)
    (he : (s.entry (s.h.name d)).state ≠ .empty) : execCdrop d s = .next
      ((s.emptyName (s.h.name d)).dropLater (s.awaited (s.entry (s.h.name d))) (s.h.name d) (s.entry (s.h.name d))).advance := by
  refine vecFinish_ok _ hc ?_
  simp only [Act.bind_run, Act.get_run, notSpilled_run (List.forall_mem_singleton.mpr hd), if_neg he, Act.modify_run]

theorem holdSegs_named (k : Nat) {l : List Seg} (hh : s.canHold (l.map Seg.swatch)) :
    holdSegs (l.map fun g => (g, k)) s = .ok ((), s.holdAll (l.map Seg.swatch)) := by
  have hl : (l.map fun g => (g, k)).map (·.1) = l := by simp [Function.comp_def]
  rw [holdSegs_run (by rw [hl]; exact hh), hl]

theorem sameSegs_run {f : Entry → Entry} (hh : s.canHold e.swatches) : sameSegs k e f s =
    .ok (((s.holdAll e.swatches).withId (f e)).1, (s.holdAll e.swatches).fresh.2) := by
  obtain ⟨hs, hm⟩ := canHold_append hh
  unfold sameSegs
  rw [Act.bind_run, holdSegs_named k hs, Entry.swatches, holdAll_append]
  cases hmap : e.map with
  | none => rfl
  | some m =>
    rw [hmap] at hm
    simp only [Act.bind_run, holdAct_run hm]
    rfl

theorem makes_sameSegs {f : Entry → Entry} (hh : s.canHold e.swatches) (hl : (f e).state = .live) :
    Makes (sameSegs k e f) s (f e).tag (f e).len (f e).segs :=
  ⟨_, _, sameSegs_run hh, (holdAll_boltOnly _ s).trans (fresh_boltOnly _), hl, rfl, rfl, rfl⟩

theorem execCshare_shares (h : Operands s (s.h.name a) (s.h.name d)) (he : s.entry (s.h.name a) = e) (hh : s.canHold e.swatches) :
    ∃ t, execCshare d a s = .next t ∧ newVersion s t (s.h.name d) e.tag e.len e.segs := by
  obtain ⟨v, t, hv, hret, hnew⟩ := (makes_sameSegs (k := s.h.name a) (f := id) hh (he ▸ h.live)).retires h.retired
  refine ⟨_, vecFinish_ok _ h.context ?_, hnew⟩
  simp only [Act.bind_run, Act.get_run, h.notSpilled, h.notEmpty, h.complete, he, hv, retireAct_run hret, Act.modify_run]

theorem execCretype_retypes {ty : ElemType} {n : Nat} (h : Operands s (s.h.name a) (s.h.name d)) (he : s.entry (s.h.name a) = e)
    (hh : s.canHold e.swatches) (hn : retypeLen ty (bytesFor e.tag e.len) = some n) :
    ∃ t, execCretype d a ty s = .next t ∧ newVersion s t (s.h.name d) ty n e.segs := by
  obtain ⟨v, t, hv, hret, hnew⟩ := (makes_sameSegs (k := s.h.name a) (f := fun e => { e with tag := ty, len := n, prog := n }) hh
    (he ▸ h.live : e.state = .live)).retires h.retired
  refine ⟨_, vecFinish_ok _ h.context ?_, hnew⟩
  simp only [Act.bind_run, Act.get_run, h.notSpilled, h.notEmpty, h.complete, he, hn, hv, retireAct_run hret, Act.modify_run]

theorem moveVersion_h (s : State) (k : Nat) (e : Entry) : (s.moveVersion k e).h = s.h := by
  unfold State.moveVersion
  extract_lets s1
  have h1 : s1.h = s.h := by
    dsimp only [s1]
    split_ifs
    · rfl
    · exact (holdAll_boltOnly _ s).hart
    · rfl
  split_ifs
  · exact h1
  · exact h1

/-- A version that waits for nothing has nothing behind it but what a handler broke off (R126). -/
theorem behind_builds (h : s.unretired k = false) : ((s.entry k).behind.any fun i => !(i ∈ s.h.builds)) = false := by
  have hw : s.awaited (s.entry k) = [] := by simpa [State.unretired] using h
  refine List.any_eq_false.mpr fun i hi => ?_
  simpa using List.filter_eq_nil_iff.mp hw i (List.mem_append_left _ hi)

theorem execCmovv_moves (h : Operands s (s.h.name a) (s.h.name d)) (hne : s.h.name a ≠ s.h.name d) (he : s.entry (s.h.name a) = e) :
    execCmovv d a s = .next (((s.emptyName (s.h.name a)).retireName (s.h.name d) e).moveVersion (s.h.name d) e).advance := by
  refine vecFinish_ok _ h.context ?_
  simp only [Act.bind_run, Act.get_run, h.notSpilled, h.notEmpty, if_neg hne.symm, behind_builds h.retired, Bool.false_eq_true, if_false,
    Act.modify_run, he]

/-- A version that has moved is the destination's, and no more the source's (R139). -/
theorem newVersion_moved (hne : k ≠ kd) (hl : e.state = .live) :
    newVersion s (((s.emptyName k).retireName kd e).moveVersion kd e).advance kd e.tag e.len e.segs ∧
      ((((s.emptyName k).retireName kd e).moveVersion kd e).advance.entry k).state = .empty := by
  have hh : (((s.emptyName k).retireName kd e).moveVersion kd e).advance.h = ((s.emptyName k).retireName kd e).advance.h :=
    congrArg (fun h : Hart => { h with pc := h.pc + 4#64, wait := none }) (moveVersion_h _ kd e)
  obtain ⟨b, n, hempty⟩ := emptyName_entry s k
  refine ⟨newVersion_of_hart hh (newVersion_retireName ?_ rfl rfl hl), ?_⟩
  · exact setName_entry_ne s.fresh.2 _ hne.symm
  · rw [State.entry, hh]
    exact congrArg Entry.state ((retireName_entry_ne _ e hne).trans hempty)

end Same
end Sys2Proof.Machine
end

section
/-! Single elements of a chain (02_numbers R31, 06_chains R142): which bytes an element lies in, and that it reads as it was
written. -/

namespace Sys2Proof.Machine

/-! ### Bytes of lists -/

section Bytes
variable {l bs : List Byte} {off n v : Nat}

theorem length_overlay (l : List Byte) (off : Nat) (bs : List Byte) : (overlay l off bs).length = l.length := by
  fun_induction overlay l off bs <;> simp_all

/-- What is laid over a list stands there. -/
theorem drop_overlay (l : List Byte) (off : Nat) (bs : List Byte) (h : off + bs.length ≤ l.length) :
    ((overlay l off bs).drop off).take bs.length = bs := by
  fun_induction overlay l off bs with
  | case1 => simp
  | case2 off bs hne => exact absurd (List.length_eq_zero_iff.mp (Nat.eq_zero_of_add_eq_zero_left (Nat.le_zero.mp h))) hne
  | case3 x r b bs ih =>
    simp only [List.length_cons] at h ⊢
    simpa using ih (by omega)
  | case4 x r n bs hne ih =>
    simp only [List.length_cons, List.drop_succ_cons] at h ⊢
    exact ih (by omega)

theorem ofBytes_bytesOf (n v : Nat) : ofBytes (bytesOf n v) = v % 256 ^ n := by
  induction n generalizing v with
  | zero => simp [bytesOf, ofBytes, Nat.mod_one]
  | succ n ih =>
    rw [bytesOf, ofBytes, ih, BitVec.toNat_ofNat, show 256 ^ (n + 1) = 256 * 256 ^ n from Nat.pow_succ', Nat.mod_mul]

/-- A number laid over bytes is read back there. -/
theorem field_overlay (h : off + n ≤ l.length) (v : Nat) : field (overlay l off (bytesOf n v)) off n = v % 256 ^ n := by
  have hd := drop_overlay l off (bytesOf n v) (by rwa [length_bytesOf])
  rw [length_bytesOf] at hd
  rw [field, hd, ofBytes_bytesOf]

/-- The bits put into a number are read back from it. -/
theorem putBits_read (v lo n e : Nat) : putBits v lo n e / 2 ^ lo % 2 ^ n = e % 2 ^ n := by
  have h : putBits v lo n e = v % 2 ^ lo + 2 ^ lo * (e % 2 ^ n + 2 ^ n * (v / 2 ^ (lo + n))) := by
    rw [putBits, Nat.pow_add]
    ring
  rw [h, Nat.add_mul_div_left _ _ (Nat.two_pow_pos lo), Nat.div_eq_of_lt (Nat.mod_lt _ (Nat.two_pow_pos lo)), Nat.zero_add,
    Nat.add_mul_mod_self_left, Nat.mod_mod]

/-- They are read back from a byte that holds them. -/
theorem putBits_read_mod {lo n k : Nat} (h : lo + n ≤ k) (v e : Nat) : putBits v lo n e % 2 ^ k / 2 ^ lo % 2 ^ n = e % 2 ^ n := by
  obtain ⟨r, rfl⟩ := Nat.exists_eq_add_of_le h
  rw [Nat.add_assoc, Nat.pow_add, Nat.mod_mul_right_div_self, Nat.mod_mod_of_dvd _ (pow_dvd_pow 2 (Nat.le_add_right n r)), putBits_read]

end Bytes

/-! ### Where an element lies -/

section Layout
variable {t : ElemType} {i n v : Nat}

/-- The ways in which elements lie in bytes (R31). -/
theorem elem_layout (t : ElemType) : t = .cb8x2 ∨ isSix t = true ∨
    isSix t = false ∧ t ≠ .cb8x2 ∧ (elemBits t = 1 ∧ granule t = 8 ∨ elemBits t = 4 ∧ granule t = 2 ∨
      0 < elemBits t / 8 ∧ elemBits t = 8 * (elemBits t / 8) ∧ granule t = 1) := by
  cases t <;> decide

theorem elemSpan_plain (h : t ≠ .cb8x2) : elemSpan t i =
    (i * elemBits t / 8, (i * elemBits t + elemBits t - 1) / 8 - i * elemBits t / 8 + 1) := by
  unfold elemSpan
  split
  · contradiction
  · rfl

theorem granule_six (h : isSix t = true) : granule t = 4 := by
  cases t <;> cases h <;> rfl

/-- The bytes of an element of a type that is not of 6 bits are those of its granule. -/
theorem elemSpan_eq_granuleSpan (h : isSix t = false) (i : Nat) : elemSpan t i = granuleSpan t i := by
  rcases elem_layout t with rfl | h6 | ⟨-, hc, hb⟩
  · show (2 * (i / 8), 2) = (2 * ((i / 8 * 8 + 7) / 8), 2)
    congr 2
    omega
  · rw [h] at h6
    cases h6
  · rw [elemSpan_plain hc, granuleSpan, bytesFor_plain h hc, bytesFor_plain h hc, Prod.mk.injEq]
    rcases hb with ⟨hb, hg⟩ | ⟨hb, hg⟩ | ⟨hpos, hb, hg⟩
    · rw [hb, hg]
      omega
    · rw [hb, hg]
      omega
    · rw [hg, hb]
      generalize elemBits t / 8 = k at *
      have hi : i / 1 * 1 * (8 * k) = 8 * (i * k) := by rw [Nat.div_one, Nat.mul_one]; ring
      have hi' : i * (8 * k) = 8 * (i * k) := by ring
      rw [hi, hi']
      omega

/-- The bytes of an element lie in its granule. -/
theorem elemSpan_le (t : ElemType) (i : Nat) : (granuleSpan t i).1 ≤ (elemSpan t i).1 ∧
    (elemSpan t i).1 + (elemSpan t i).2 ≤ (granuleSpan t i).1 + (granuleSpan t i).2 := by
  cases h : isSix t with
  | false =>
    rw [elemSpan_eq_granuleSpan h]
    exact ⟨le_rfl, le_rfl⟩
  | true =>
    have hc : t ≠ .cb8x2 := by rintro rfl; cases h
    simp only [elemSpan_plain hc, granuleSpan, bytesFor_six h, granule_six h, elemBits_eq_six h]
    omega

/-- The bytes of an element below the length lie in those of the chain. -/
theorem elemSpan_le_bytesFor (h : i < n) : (elemSpan t i).1 + (elemSpan t i).2 ≤ bytesFor t n := by
  rcases elem_layout t with rfl | h6 | ⟨h6, hc, hb⟩
  · simp only [elemSpan, bytesFor]
    omega
  · have hc : t ≠ .cb8x2 := by rintro rfl; cases h6
    simp only [elemSpan_plain hc, bytesFor_six h6, elemBits_eq_six h6]
    omega
  · rw [elemSpan_plain hc, bytesFor_plain h6 hc]
    dsimp only
    rcases hb with ⟨hb, -⟩ | ⟨hb, -⟩ | ⟨hpos, hb, -⟩
    · rw [hb]
      omega
    · rw [hb]
      omega
    · have hle : (i + 1) * elemBits t ≤ n * elemBits t := Nat.mul_le_mul_right _ h
      rw [Nat.succ_mul] at hle
      omega

theorem elemOf_six (h : isSix t = true) (l : List Byte) (i : Nat) : elemOf t l i = field l (3 * (i / 4)) 3 / 2 ^ (6 * (i % 4)) % 64 := by
  unfold elemOf
  split
  · cases h
  · exact if_pos h

theorem elemOf_small (h : isSix t = false) (hc : t ≠ .cb8x2) (hb : elemBits t < 8) (l : List Byte) (i : Nat) :
    elemOf t l i = field l (i * elemBits t / 8) 1 / 2 ^ (i * elemBits t % 8) % 2 ^ elemBits t := by
  unfold elemOf
  split
  · contradiction
  · rw [if_neg (ne_true_of_eq_false h), if_pos hb]

theorem elemOf_wide (h : isSix t = false) (hc : t ≠ .cb8x2) (hb : ¬elemBits t < 8) (l : List Byte) (i : Nat) :
    elemOf t l i = field l (i * (elemBits t / 8)) (elemBits t / 8) := by
  unfold elemOf
  split
  · contradiction
  · rw [if_neg (ne_true_of_eq_false h), if_neg hb]

theorem setElem_six (h : isSix t = true) (l : List Byte) (i v : Nat) : setElem t l i v =
    overlay l (3 * (i / 4)) (bytesOf 3 (putBits (field l (3 * (i / 4)) 3) (6 * (i % 4)) 6 v)) := by
  unfold setElem
  split
  · cases h
  · exact if_pos h

theorem setElem_small (h : isSix t = false) (hc : t ≠ .cb8x2) (hb : elemBits t < 8) (l : List Byte) (i v : Nat) : setElem t l i v =
    overlay l (i * elemBits t / 8) (bytesOf 1 (putBits (field l (i * elemBits t / 8) 1) (i * elemBits t % 8) (elemBits t) v)) := by
  unfold setElem
  split
  · contradiction
  · rw [if_neg (ne_true_of_eq_false h), if_pos hb]

theorem setElem_wide (h : isSix t = false) (hc : t ≠ .cb8x2) (hb : ¬elemBits t < 8) (l : List Byte) (i v : Nat) : setElem t l i v =
    overlay l (i * (elemBits t / 8)) (bytesOf (elemBits t / 8) v) := by
  unfold setElem
  split
  · contradiction
  · rw [if_neg (ne_true_of_eq_false h), if_neg hb]

theorem length_setElem (t : ElemType) (l : List Byte) (i v : Nat) : (setElem t l i v).length = l.length := by
  unfold setElem
  split
  · exact length_overlay ..
  · split_ifs <;> exact length_overlay ..

/-- An element written into the bytes of its granule is read back from them (R31). -/
theorem elemOf_setElem {l : List Byte} (h : isSix t = false) (hl : l.length = (granuleSpan t i).2) :
    elemOf t (setElem t l (i % granule t) v) (i % granule t) = v % 2 ^ (if t = .cb8x2 then 16 else elemBits t) := by
  rcases elem_layout t with rfl | h6 | ⟨-, hc, hb⟩
  · have h0 : 2 * (i % granule .cb8x2 / 8) = 0 := by simp only [granule]; omega
    simp only [elemOf, setElem, h0]
    rw [field_overlay (by rw [hl]; exact le_rfl)]
    rfl
  · rw [h] at h6
    cases h6
  · rw [if_neg hc]
    have hl : l.length = (granule t * elemBits t + 7) / 8 := hl.trans (bytesFor_plain h hc)
    have hsmall (hb : elemBits t < 8) (hoff : i % granule t * elemBits t / 8 + 1 ≤ l.length)
        (hbits : i % granule t * elemBits t % 8 + elemBits t ≤ 8) :
        elemOf t (setElem t l (i % granule t) v) (i % granule t) = v % 2 ^ elemBits t := by
      rw [setElem_small h hc hb, elemOf_small h hc hb, field_overlay hoff]
      exact putBits_read_mod hbits _ _
    rcases hb with ⟨hb, hg⟩ | ⟨hb, hg⟩ | ⟨hpos, hb, hg⟩
    · rw [hb, hg] at hl
      refine hsmall (by omega) ?_ ?_ <;> (rw [hb, hg]; omega)
    · rw [hb, hg] at hl
      refine hsmall (by omega) ?_ ?_ <;> (rw [hb, hg]; omega)
    · have hn : ¬elemBits t < 8 := by omega
      rw [setElem_wide h hc hn, elemOf_wide h hc hn, field_overlay, show (256 : Nat) = 2 ^ 8 from rfl, ← Nat.pow_mul, ← hb]
      rw [hg, Nat.one_mul] at hl
      rw [hg, Nat.mod_one]
      omega

theorem overlay_all {l bs : List Byte} (h : bs.length = l.length) : overlay l 0 bs = bs := by
  have hd := drop_overlay l 0 bs (by omega)
  rwa [List.drop_zero, h, ← length_overlay l 0 bs, List.take_length] at hd

/-- A 6-bit element is read back from the bytes that hold its bits, whatever the others of its granule are. -/
theorem elemOf_six_of_bytes {l bs : List Byte} (h : isSix t = true) (hl : l.length = (granuleSpan t i).2) (hbs : bs.length = (granuleSpan t i).2)
    (hsame : ∀ j < (elemSpan t i).2, bs.getD ((elemSpan t i).1 - (granuleSpan t i).1 + j) 0#8 =
      (setElem t l (i % granule t) v).getD ((elemSpan t i).1 - (granuleSpan t i).1 + j) 0#8) :
    elemOf t bs (i % granule t) = v % 64 := by
  have hc : t ≠ .cb8x2 := by rintro rfl; cases h
  have hg : (granuleSpan t i) = (3 * (i / 4), 3) := by
    rw [granuleSpan, bytesFor_six h, bytesFor_six h, granule_six h]
    congr 2
    omega
  have h0 : 3 * (i % 4 / 4) = 0 := by omega
  rw [hg] at hl hbs
  rw [hg, elemSpan_plain hc, elemBits_eq_six h, granule_six h, setElem_six h, h0, overlay_all (by rw [length_bytesOf, hl])] at hsame
  rw [granule_six h, elemOf_six h, h0]
  generalize field l 0 3 = F at hsame
  obtain ⟨x, y, z, rfl⟩ := List.length_eq_three.mp hbs
  have hr : i % 4 % 4 = i % 4 := Nat.mod_mod _ _
  rw [hr] at hsame ⊢
  have hfirst : i * 6 / 8 = 3 * (i / 4) + 6 * (i % 4) / 8 := by
    rw [show i * 6 = 8 * (3 * (i / 4)) + 6 * (i % 4) by omega, Nat.mul_add_div (by decide)]
  have hlast : (i * 6 + 6 - 1) / 8 = 3 * (i / 4) + (6 * (i % 4) + 5) / 8 := by
    rw [show i * 6 + 6 - 1 = 8 * (3 * (i / 4)) + (6 * (i % 4) + 5) by omega, Nat.mul_add_div (by decide)]
  have hbyte (k : Nat) (hlo : 6 * (i % 4) / 8 ≤ k) (hhi : k ≤ (6 * (i % 4) + 5) / 8) :
      ([x, y, z].getD k 0#8).toNat = putBits F (6 * (i % 4)) 6 v / 256 ^ k % 256 := by
    have hk := hsame (k - 6 * (i % 4) / 8) (by dsimp only; omega)
    rw [show i * 6 / 8 - 3 * (i / 4) + (k - 6 * (i % 4) / 8) = k by omega] at hk
    rw [hk, getD_bytesOf _ (by omega), BitVec.toNat_ofNat]
  have hx := x.isLt
  have hy := y.isLt
  show (x.toNat + 256 * (y.toNat + 256 * (z.toNat + 256 * 0))) / _ % _ = _
  rcases (by omega : i % 4 = 0 ∨ i % 4 = 1 ∨ i % 4 = 2 ∨ i % 4 = 3) with h4 | h4 | h4 | h4 <;> rw [h4] at hbyte ⊢
  · have h0 := hbyte 0 (by decide) (by decide)
    simp only [putBits, List.getD_cons_zero] at h0
    omega
  · have h0 := hbyte 0 (by decide) (by decide)
    have h1 := hbyte 1 (by decide) (by decide)
    simp only [putBits, List.getD_cons_zero, List.getD_cons_succ] at h0 h1
    omega
  · have h1 := hbyte 1 (by decide) (by decide)
    have h2 := hbyte 2 (by decide) (by decide)
    simp only [putBits, List.getD_cons_zero, List.getD_cons_succ] at h1 h2
    omega
  · have h2 := hbyte 2 (by decide) (by decide)
    simp only [putBits, List.getD_cons_zero, List.getD_cons_succ] at h2
    omega

/-- An element is read back from bytes that agree with those written where its bits lie (R31, R142). -/
theorem elemOf_of_bytes {l bs : List Byte} (hl : l.length = (granuleSpan t i).2) (hbs : bs.length = (granuleSpan t i).2)
    (hsame : ∀ j < (elemSpan t i).2, bs.getD ((elemSpan t i).1 - (granuleSpan t i).1 + j) 0#8 =
      (setElem t l (i % granule t) v).getD ((elemSpan t i).1 - (granuleSpan t i).1 + j) 0#8) :
    elemOf t bs (i % granule t) = v % 2 ^ (if t = .cb8x2 then 16 else elemBits t) := by
  cases h : isSix t with
  | true =>
    rw [if_neg (by rintro rfl; cases h), elemBits_eq_six h]
    exact elemOf_six_of_bytes h hl hbs hsame
  | false =>
    rw [elemSpan_eq_granuleSpan h, Nat.sub_self] at hsame
    have hall : bs = setElem t l (i % granule t) v := by
      refine List.ext_getElem (by rw [hbs, length_setElem, hl]) fun j hj hj' => ?_
      simpa [List.getD_eq_getElem, hj, hj'] using hsame j (hbs ▸ hj)
    rw [hall]
    exact elemOf_setElem h hl

end Layout
end Sys2Proof.Machine
end

section
/-! Writing bytes of a chain (06_chains R142): those that stand alone in their swatches read as they were written. -/

namespace Sys2Proof.Machine

/-! ### Writing bytes of a chain -/

section Writing
variable {c : Cluster} {l : List Seg} {off i j : Nat} {b : Byte} {p q : Nat × Nat} {bs : List Byte}

theorem setAt_eq_set {α : Type} (l : List α) (n : Nat) (v : α) : setAt l n v = l.set n v := by
  fun_induction setAt l n v <;> simp_all

/-- The cluster with the bytes of swatch `i` changed. -/
def Cluster.mapData (c : Cluster) (i : Nat) (f : List Byte → List Byte) : Cluster :=
  c.mapSwatch i fun w => { w with data := f w.data }

/-- The cluster with `b` as byte `p.2` of swatch `p.1`. -/
def Cluster.setCell (c : Cluster) (p : Nat × Nat) (b : Byte) : Cluster := c.mapData p.1 fun d => setAt d p.2 b

theorem putBytes_cons (hp : place l off = some p) (b : Byte) (bs : List Byte) :
    c.putBytes l off (b :: bs) = (c.setCell p b).putBytes l (off + 1) bs := by
  obtain ⟨g, hg, rfl⟩ := Option.map_eq_some_iff.mp hp
  simp only [Cluster.putBytes, hg]
  rfl

theorem content_mapData (c : Cluster) (i j : Nat) (f : List Byte → List Byte) :
    (c.mapData i f).content j = (c.content j).map fun x => if j = i then (f x.1, x.2) else x := by
  unfold Cluster.content Cluster.mapData
  rw [swatch?_mapSwatch, Option.map_map, Option.map_map]
  · refine Option.map_congr fun w _ => ?_
    by_cases h : j = i <;> simp [h]
  · exact fun _ => rfl

theorem cell_setCell_same {x : List Byte × Bool} (hx : c.content p.1 = some x) (hp : p.2 < x.1.length) :
    (c.setCell p b).cell p = some (p.1, b, x.2) := by
  rw [Cluster.cell, Cluster.setCell, content_mapData, hx]
  simp [setAt_eq_set, hp]

theorem cell_setCell_ne (h : q ≠ p) : (c.setCell p b).cell q = c.cell q := by
  rw [Cluster.cell, Cluster.setCell, content_mapData, Option.map_map, Cluster.cell]
  refine Option.map_congr fun x _ => ?_
  by_cases hi : q.1 = p.1
  · have hj : p.2 ≠ q.2 := fun hj => h (Prod.ext hi hj.symm)
    simp [hi, setAt_eq_set, List.getD_eq_getElem?_getD, List.getElem?_set_ne hj]
  · simp [hi]

/-- Every allocated swatch has its 256 bytes, and none holds poison. -/
def Cluster.Sound (c : Cluster) : Prop := ∀ i x, c.content i = some x → x.1.length = 256 ∧ x.2 = false

theorem Cluster.Sound.mapData {f : List Byte → List Byte} (h : c.Sound) (hf : ∀ d, d.length = 256 → (f d).length = 256) (i : Nat) :
    (c.mapData i f).Sound := by
  intro j x hx
  rw [content_mapData] at hx
  obtain ⟨y, hy, rfl⟩ := Option.map_eq_some_iff.mp hx
  have hs := h j y hy
  split
  · exact ⟨hf _ hs.1, hs.2⟩
  · exact hs

theorem Cluster.Sound.setCell (h : c.Sound) (p : Nat × Nat) (b : Byte) : (c.setCell p b).Sound :=
  h.mapData (f := fun d => setAt d p.2 b) (fun d hd => by rw [setAt_eq_set, List.length_set, hd]) p.1

/-- Byte `off` of a chain lies within an allocated swatch, and no other byte of the chain lies there. -/
def Alone (c : Cluster) (l : List Seg) (off : Nat) : Prop :=
  ∃ p, place l off = some p ∧ p.2 < 256 ∧ (c.content p.1).isSome = true ∧ ∀ off', place l off' = some p → off' = off

theorem Alone.setCell (h : Alone c l off) (q : Nat × Nat) (b : Byte) : Alone (c.setCell q b) l off := by
  obtain ⟨p, hp, hlt, hsome, honly⟩ := h
  refine ⟨p, hp, hlt, ?_, honly⟩
  rw [Cluster.setCell, content_mapData, Option.isSome_map]
  exact hsome

/-- Bytes written elsewhere leave a byte. -/
theorem cell_putBytes_ne : ∀ (bs : List Byte) (c : Cluster) (off : Nat), (∀ j < bs.length, place l (off + j) ≠ some p) →
    (c.putBytes l off bs).cell p = c.cell p
  | [], _, _, _ => rfl
  | b :: bs, c, off, h => by
    have hrest (c : Cluster) := cell_putBytes_ne bs c (off + 1) fun j hj => by
      rw [Nat.add_assoc, Nat.add_comm 1]
      exact h (j + 1) (Nat.succ_lt_succ hj)
    cases hq : place l off with
    | none =>
      have hg : locate l off = none := Option.map_eq_none_iff.mp hq
      simp only [Cluster.putBytes, hg]
      exact hrest c
    | some q =>
      rw [putBytes_cons hq, hrest, cell_setCell_ne]
      rintro rfl
      exact h 0 (Nat.succ_pos _) hq

/-- Bytes that stand alone read as they were written. -/
theorem chainByte_putBytes (hs : c.Sound) (h : ∀ j < bs.length, Alone c l (off + j)) (hj : j < bs.length) :
    ∃ w, (c.putBytes l off bs).chainByte l (off + j) = some (w, bs.getD j 0#8, false) := by
  induction bs generalizing c off j with
  | nil => exact absurd hj (Nat.not_lt_zero j)
  | cons b bs ih =>
    obtain ⟨p, hp, hlt, hsome, honly⟩ := h 0 (Nat.succ_pos _)
    rw [Nat.add_zero] at hp honly
    rw [putBytes_cons hp]
    cases j with
    | zero =>
      obtain ⟨x, hx⟩ := Option.isSome_iff_exists.mp hsome
      obtain ⟨hlen, hpois⟩ := hs _ x hx
      refine ⟨p.1, ?_⟩
      simp only [Nat.add_zero]
      rw [chainByte_eq_cell, hp, Option.bind_some, cell_putBytes_ne, cell_setCell_same hx (hlen ▸ hlt), hpois]
      · rfl
      · intro j _ hj
        have := honly _ hj
        omega
    | succ j =>
      have hnext (j : Nat) : off + (j + 1) = off + 1 + j := by omega
      rw [hnext j]
      refine ih (hs.setCell p b) (fun k hk => ?_) (Nat.lt_of_succ_lt_succ hj)
      rw [← hnext k]
      exact (h (k + 1) (Nat.succ_lt_succ hk)).setCell p b

theorem Cluster.Sound.putBytes : ∀ (bs : List Byte) (c : Cluster) (off : Nat), c.Sound → (c.putBytes l off bs).Sound
  | [], _, _, h => h
  | b :: bs, c, off, h => by
    unfold Cluster.putBytes
    refine Cluster.Sound.putBytes bs _ _ ?_
    cases locate l off with
    | none => exact h
    | some p => exact h.setCell (p.1.swatch, p.1.first + p.2) b

theorem putBytes_bolt : ∀ (bs : List Byte) (c : Cluster) (off : Nat), ∃ bolt, c.putBytes l off bs = { c with bolt := bolt }
  | [], c, _ => ⟨c.bolt, rfl⟩
  | b :: bs, c, off => by
    unfold Cluster.putBytes
    cases locate l off with
    | none => exact putBytes_bolt bs c (off + 1)
    | some p =>
      obtain ⟨bolt, h⟩ := putBytes_bolt bs (c.setCell (p.1.swatch, p.1.first + p.2) b) (off + 1)
      exact ⟨bolt, h⟩

end Writing

end Sys2Proof.Machine
end

section
/-! The segments of vput (06_chains R142): a plan that copies what is shared, and where the bytes written then lie. -/

namespace Sys2Proof.Machine

/-! ### Places of a chain -/

section Places
variable {l : List Seg} {off off' : Nat} {p : Nat × Nat}

theorem place_of_lt : ∀ {l : List Seg} {off : Nat}, off < chainLen l → ∃ p, place l off = some p
  | [], _, h => absurd h (Nat.not_lt_zero _)
  | g :: r, off, h => by
    rcases lt_or_ge off g.count with hlt | hle
    · exact ⟨_, place_cons_of_lt hlt⟩
    · rw [chainLen_cons] at h
      rw [place_cons_of_le hle]
      exact place_of_lt (by omega)

/-- A byte of a chain lies in its swatch where the segments do (R120). -/
theorem place_lt : ∀ {l : List Seg} {off : Nat}, (∀ g ∈ l, g.first + g.count ≤ 256) → place l off = some p → p.2 < 256
  | g :: r, off, hl, h => by
    rcases lt_or_ge off g.count with hlt | hle
    · rw [place_cons_of_lt hlt, Option.some_inj] at h
      have := hl g List.mem_cons_self
      rw [← h]
      dsimp only
      omega
    · rw [place_cons_of_le hle] at h
      exact place_lt (fun g hg => hl g (List.mem_cons_of_mem _ hg)) h

/-- In a swatch that just one segment has, each byte is one of the chain's at most once. -/
theorem place_inj : ∀ {l : List Seg} {off off' : Nat}, (l.map Seg.swatch).count p.1 ≤ 1 → place l off = some p → place l off' = some p →
    off' = off
  | g :: r, off, off', hc, h, h' => by
    have twice {x : Nat} (hg : g.swatch = p.1) (hx : place r x = some p) : False := by
      obtain ⟨g', hg', hs⟩ := place_mem hx
      have : 0 < (r.map Seg.swatch).count p.1 := List.count_pos_iff.mpr (hs ▸ List.mem_map_of_mem hg')
      rw [List.map_cons, hg, List.count_cons_self] at hc
      omega
    rcases lt_or_ge off g.count with hlt | hle <;> rcases lt_or_ge off' g.count with hlt' | hle'
    · rw [place_cons_of_lt hlt, Option.some_inj] at h
      rw [place_cons_of_lt hlt', Option.some_inj, ← h, Prod.mk.injEq] at h'
      omega
    · rw [place_cons_of_lt hlt, Option.some_inj] at h
      rw [place_cons_of_le hle'] at h'
      exact (twice (congrArg (·.1) h) h').elim
    · rw [place_cons_of_lt hlt', Option.some_inj] at h'
      rw [place_cons_of_le hle] at h
      exact (twice (congrArg (·.1) h') h).elim
    · rw [place_cons_of_le hle] at h
      rw [place_cons_of_le hle'] at h'
      have hr : (r.map Seg.swatch).count p.1 ≤ 1 := (List.count_le_count_cons ..).trans hc
      have := place_inj hr h h'
      omega

end Places

/-! ### Copies -/

section Copies
variable {s t u : State} {F G : List Nat} {l segs : List Seg} {plan : List (Seg × Bool)} {i k n b0 b1 pos off : Nat} {p : Nat × Nat}

/-- From `s` to `t` the swatches `F`, which were free, have been given out, whole and without poison, and no others. -/
structure State.Draws (s t : State) (F : List Nat) : Prop where
  allots : s.Allots t
  nodup : F.Nodup
  free : ∀ i ∈ F, s.cl.content i = none
  given : ∀ i ∈ F, (t.cl.content i).isSome = true
  only : ∀ i x, t.cl.content i = some x → s.cl.content i = some x ∨ x.1.length = 256 ∧ x.2 = false

namespace State.Draws

theorem refl (s : State) : s.Draws s [] := ⟨.refl s, List.nodup_nil, by simp, by simp, fun _ _ h => .inl h⟩

theorem kept (h : s.Draws t F) (hi : (s.cl.content i).isSome = true) : (t.cl.content i).isSome = true := by
  obtain ⟨x, hx⟩ := Option.isSome_iff_exists.mp hi
  rw [h.allots.keeps i x hx, Option.isSome_some]

theorem trans (h : s.Draws t F) (g : t.Draws u G) : s.Draws u (F ++ G) where
  allots := h.allots.trans g.allots
  nodup := h.nodup.append g.nodup fun i hi hi' => by
    have := h.given i hi
    rw [g.free i hi'] at this
    cases this
  free i hi := by
    rcases List.mem_append.mp hi with hi | hi
    · exact h.free i hi
    · refine Option.eq_none_iff_forall_ne_some.mpr fun x hx => ?_
      cases (g.free i hi).symm.trans (h.allots.keeps i x hx)
  given i hi := by
    rcases List.mem_append.mp hi with hi | hi
    · exact g.kept (h.given i hi)
    · exact g.given i hi
  only i x hx := by
    rcases g.only i x hx with hx | hx
    · exact h.only i x hx
    · exact .inr hx

theorem left (h : s.Draws t (F ++ G)) : s.Draws t F :=
  { h with nodup := h.nodup.of_append_left, free := fun i hi => h.free i (List.mem_append_left _ hi),
           given := fun i hi => h.given i (List.mem_append_left _ hi) }

end State.Draws

theorem State.Room.draws (h : s.Room (n + 1)) {data : List Byte} (hd : data.length = 256) :
    ∃ i t, allocAct data s = .ok (i, t) ∧ s.Draws t [i] ∧ t.Room n := by
  obtain ⟨i, t, ha, hs, hr, hi, ht⟩ := h.allots data
  refine ⟨i, t, ha, ⟨hs, List.nodup_singleton i, List.forall_mem_singleton.mpr hi, List.forall_mem_singleton.mpr ?_, fun j x hx => ?_⟩, hr⟩
  · rw [ht, if_pos rfl, Option.isSome_some]
  · rw [ht] at hx
    split at hx
    · cases hx
      exact .inr ⟨hd, rfl⟩
    · exact .inl hx

theorem length_padded (bs : List Byte) : (overlay (List.replicate 256 0#8) 0 bs).length = 256 :=
  (length_overlay ..).trans List.length_replicate

/-- Swatch `i` as a copy reads it; one that is not allocated has no bytes. -/
def State.swatchOr (s : State) (i : Nat) : Swatch :=
  (s.cl.swatch? i).getD { idx := 0, data := [], refs := 0, poison := false, owner := 0#6, charge := none }

/-- The segments that a plan gives, the copied ones in the swatches of the last list (R142). -/
inductive Copied : List (Seg × Bool) → List Seg → List Nat → Prop
  | nil : Copied [] [] []
  | keep {g : Seg} {c : Bool} {plan : List (Seg × Bool)} {l : List Seg} {F : List Nat} :
      c = false → Copied plan l F → Copied ((g, c) :: plan) (g :: l) F
  | copy {g : Seg} {c : Bool} {plan : List (Seg × Bool)} {l : List Seg} {F : List Nat} (i : Nat) :
      c = true → Copied plan l F → Copied ((g, c) :: plan) ({ swatch := i, first := 0, count := g.count } :: l) (i :: F)

theorem copyPlan_run : ∀ (plan : List (Seg × Bool)) (s : State), s.Room (plan.length + n) →
    (∀ i x, s.cl.content i = some x → x.2 = false) →
    ∃ segs F t, copyPlan plan s = .ok (segs, t) ∧ s.Draws t F ∧ t.Room n ∧ Copied plan segs F
  | [], s, hr, _ => ⟨[], [], s, rfl, .refl s, by simpa using hr, .nil⟩
  | (g, false) :: plan, s, hr, hp => by
    obtain ⟨segs, F, t, hrun, hd, hroom, hc⟩ := copyPlan_run plan s (hr.mono (by simp only [List.length_cons]; omega)) hp
    refine ⟨g :: segs, F, t, ?_, hd, hroom, .keep rfl hc⟩
    simp only [copyPlan, Act.bind_run, Act.get_run, Bool.false_eq_true, if_false, Act.pure_run, hrun]
  | (g, true) :: plan, s, hr, hp => by
    have hclean : (s.swatchOr g.swatch).poison = false := by
      unfold State.swatchOr
      cases hs : s.cl.swatch? g.swatch with
      | none => rfl
      | some v => exact hp g.swatch (v.data, v.poison) (by rw [Cluster.content, hs, Option.map_some])
    have hr : s.Room (plan.length + n + 1) := hr.mono (by simp only [List.length_cons]; omega)
    obtain ⟨i, t, ha, hd, hroom⟩ := hr.draws (length_padded (((s.swatchOr g.swatch).data.drop g.first).take g.count))
    obtain ⟨segs, F, u, hrun, hd', hroom, hc⟩ := copyPlan_run plan t hroom fun j x hx => (hd.only j x hx).elim (hp j x) (·.2)
    refine ⟨_, i :: F, u, ?_, hd.trans hd', hroom, .copy i rfl hc⟩
    unfold State.swatchOr at hclean ha
    simp only [copyPlan, Act.bind_run, Act.get_run, if_true, hclean, Bool.not_false, Act.require_true, ha, Act.pure_run, hrun]

namespace Copied

theorem counts (h : Copied plan l F) : l.map Seg.count = plan.map (·.1.count) := by
  induction h with
  | nil => rfl
  | keep _ _ ih => exact congrArg _ ih
  | copy _ _ _ ih => exact congrArg _ ih

theorem swatch_mem (h : Copied plan l F) : ∀ g ∈ l, g.swatch ∈ F ∨ g.swatch ∈ plan.map (·.1.swatch) := by
  induction h with
  | nil => simp
  | keep _ _ ih =>
    exact List.forall_mem_cons.mpr ⟨.inr List.mem_cons_self, fun g hg => (ih g hg).imp_right (List.mem_cons_of_mem _)⟩
  | copy i _ _ ih =>
    exact List.forall_mem_cons.mpr ⟨.inl List.mem_cons_self, fun g hg => (ih g hg).imp (List.mem_cons_of_mem _) (List.mem_cons_of_mem _)⟩

/-- A swatch has no more segments than before, and one for each time that it was given out. -/
theorem count_le (h : Copied plan l F) (i : Nat) : (l.map Seg.swatch).count i ≤ (plan.map (·.1.swatch)).count i + F.count i := by
  induction h with
  | nil => simp
  | keep _ _ ih =>
    simp only [List.map_cons, List.count_cons]
    omega
  | copy j _ _ ih =>
    simp only [List.map_cons, List.count_cons]
    omega

theorem within (h : Copied plan l F) (hp : ∀ x ∈ plan, x.1.first + x.1.count ≤ 256) : ∀ g ∈ l, g.first + g.count ≤ 256 := by
  induction h with
  | nil => simp
  | keep _ _ ih => exact List.forall_mem_cons.mpr ⟨hp _ List.mem_cons_self, ih fun x hx => hp x (List.mem_cons_of_mem _ hx)⟩
  | copy _ _ _ ih =>
    refine List.forall_mem_cons.mpr ⟨?_, ih fun x hx => hp x (List.mem_cons_of_mem _ hx)⟩
    have := hp _ List.mem_cons_self
    dsimp only at this ⊢
    omega

end Copied

theorem vputPlan_fst (s : State) (k b0 b1 : Nat) : ∀ (l : List Seg) (pos : Nat), (s.vputPlan k b0 b1 l pos).map (·.1) = l
  | [], _ => rfl
  | g :: r, pos => congrArg (g :: ·) (vputPlan_fst s k b0 b1 r (pos + g.count))

theorem vputPlan_map {α : Type} (f : Seg → α) (s : State) (k b0 b1 : Nat) (l : List Seg) (pos : Nat) :
    ((s.vputPlan k b0 b1 l pos).map fun p => f p.1) = l.map f := by
  rw [← vputPlan_fst s k b0 b1 l pos, List.map_map, vputPlan_fst]
  rfl

/-- A byte that is written lies in a fresh swatch or in one that nothing else has (R142). -/
theorem swatch_of_written : ∀ {l : List Seg} {pos : Nat} {segs : List Seg} {F : List Nat}, Copied (s.vputPlan k b0 b1 l pos) segs F →
    pos ≤ off → b0 ≤ off → off < b1 → place segs (off - pos) = some p → p.1 ∈ F ∨ s.sharedSwatch k p.1 = false
  | [], _, _, _, h, _, _, _, hp => by
    cases h
    cases hp
  | g :: r, pos, _, _, h, hpos, hlo, hhi, hp => by
    have hnext (hle : g.count ≤ off - pos) : pos + g.count ≤ off ∧ off - pos - g.count = off - (pos + g.count) := by omega
    cases h with
    | keep hc h =>
      rcases lt_or_ge (off - pos) g.count with hlt | hle
      · rw [place_cons_of_lt hlt, Option.some_inj] at hp
        rw [← hp]
        simp only [Bool.and_eq_false_iff, decide_eq_false_iff_not] at hc
        rcases hc with (hc | hc) | hc
        · omega
        · omega
        · exact .inr hc
      · rw [place_cons_of_le hle, (hnext hle).2] at hp
        exact swatch_of_written h (hnext hle).1 hlo hhi hp
    | copy i _ h =>
      rcases lt_or_ge (off - pos) g.count with hlt | hle
      · rw [place_cons_of_lt (show off - pos < (Seg.mk i 0 g.count).count from hlt), Option.some_inj] at hp
        exact .inl (hp ▸ List.mem_cons_self)
      · rw [place_cons_of_le (show (Seg.mk i 0 g.count).count ≤ off - pos from hle), (hnext hle).2] at hp
        exact (swatch_of_written h (hnext hle).1 hlo hhi hp).imp_left (List.mem_cons_of_mem _)

end Copies

end Sys2Proof.Machine
end

section
/-! vput (06_chains R142): the element reads as it was written, in a version that retires; O22 is settled. -/

namespace Sys2Proof.Machine

/-! ### The element that is written -/

section Element
variable {c : Cluster} {t : ElemType} {segs : List Seg} {old : List Byte} {i j v : Nat}

/-- The bytes that vput writes for element `i` over the bytes `old` of its granule (R142). -/
def writtenBytes (t : ElemType) (old : List Byte) (i v : Nat) : List Byte :=
  ((putElement t old i v).drop ((elemSpan t i).1 - (granuleSpan t i).1)).take (elemSpan t i).2

theorem length_writtenBytes (hold : old.length = (granuleSpan t i).2) : (writtenBytes t old i v).length = (elemSpan t i).2 := by
  have := elemSpan_le t i
  rw [writtenBytes, putElement, List.length_take, List.length_drop, length_setElem, hold]
  omega

theorem getD_writtenBytes (hj : j < (elemSpan t i).2) : (writtenBytes t old i v).getD j 0#8 =
    (setElem t old (i % granule t) v).getD ((elemSpan t i).1 - (granuleSpan t i).1 + j) 0#8 := by
  rw [writtenBytes, putElement, List.getD_eq_getElem?_getD, List.getElem?_take_of_lt hj, List.getElem?_drop, ← List.getD_eq_getElem?_getD]

theorem Cluster.Sound.clean (h : c.Sound) (l : List Seg) (off : Nat) (x : Nat × Byte × Bool) (hx : c.chainByte l off = some x) :
    x.2.2 = false := by
  rw [chainByte_eq_cell] at hx
  obtain ⟨p, -, hx⟩ := Option.bind_eq_some_iff.mp hx
  obtain ⟨y, hy, rfl⟩ := Option.map_eq_some_iff.mp hx
  exact (h _ y hy).2

theorem getD_rawBytes (c : Cluster) (l : List Seg) (off : Nat) {n : Nat} (hj : j < n) :
    (c.rawBytes l off n).getD j 0#8 = ((c.chainByte l (off + j)).map fun p => p.2.1).getD 0#8 := by
  simp [Cluster.rawBytes, List.getD_eq_getElem?_getD, List.getElem?_map, List.getElem?_range hj]

/-- An element whose bytes stand alone reads as it was written. -/
theorem element_putBytes (hs : c.Sound) (hold : old.length = (granuleSpan t i).2)
    (h : ∀ j < (elemSpan t i).2, Alone c segs ((elemSpan t i).1 + j)) :
    (c.putBytes segs (elemSpan t i).1 (writtenBytes t old i v)).element t segs i =
      .ok (v % 2 ^ (if t = .cb8x2 then 16 else elemBits t)) := by
  rw [element_eq_rawBytes ((hs.putBytes _ c _).clean _)]
  refine congrArg _ (elemOf_of_bytes (l := old) hold (by simp [Cluster.rawBytes]) fun j hj => ?_)
  obtain ⟨hlo, hhi⟩ := elemSpan_le t i
  obtain ⟨w, hw⟩ := chainByte_putBytes hs (bs := writtenBytes t old i v) (by rwa [length_writtenBytes hold]) (by rwa [length_writtenBytes hold])
  rw [getD_rawBytes _ _ _ (by omega), show (granuleSpan t i).1 + ((elemSpan t i).1 - (granuleSpan t i).1 + j) = (elemSpan t i).1 + j by omega,
    hw, ← getD_writtenBytes hj]
  rfl

end Element

/-! ### vput -/

section Vput
variable {s t u w : State} {d a b : Reg} {k i n off : Nat} {e : Entry} {segs : List Seg} {plan : List (Seg × Bool)} {m : Option Nat}
  {F M : List Nat} {fresh : Bool}

theorem canHold_of_sublist {l r : List Nat} (h : s.canHold r) (hs : l.Sublist r) : s.canHold l := fun i hi => by
  have := h i (hs.subset hi)
  have := hs.count_le i
  omega

/-- The segments of a vput of element `i` of name `k`, and whether each is copied (R142). -/
def State.elementPlan (s : State) (k : Nat) (e : Entry) (i : Nat) : List (Seg × Bool) :=
  s.vputPlan k (elemSpan e.tag i).1 ((elemSpan e.tag i).1 + (elemSpan e.tag i).2) e.segs 0

/-- Whether vput takes a fresh swatch for the map: one that is shared, over segments that change (R142). -/
def State.freshMap (s : State) (k : Nat) (e : Entry) (plan : List (Seg × Bool)) : Bool :=
  (e.map.any fun m => s.sharedSwatch k m) && plan.any (·.2)

/-- What vput holds: the swatches that the new version has in common with the old one. -/
def keptSwatches (plan : List (Seg × Bool)) (e : Entry) (fresh : Bool) : List Nat :=
  (plan.filter fun p => !p.2).map (·.1.swatch) ++ if fresh then [] else e.map.toList

/-- The cluster with the segments in the map swatch, where there is one. -/
def Cluster.withMap (c : Cluster) (m : Option Nat) (segs : List Seg) : Cluster :=
  match m with
  | some m => c.mapData m fun _ => mapBytes segs
  | none => c

/-- The state in which element `i` of a chain over `segs` holds `v`, and the map lists the segments. -/
def State.elementPut (s : State) (e : Entry) (segs : List Seg) (m : Option Nat) (i v : Nat) : State :=
  let new := writtenBytes e.tag (s.cl.rawBytes e.segs (granuleSpan e.tag i).1 (granuleSpan e.tag i).2) i v
  { s with cl := (s.cl.withMap m segs).putBytes segs (elemSpan e.tag i).1 new }

/-- The version that vput makes over the segments `segs`, before its element is written, and the state with its number (R142). -/
def State.putVersion (s : State) (e : Entry) (segs : List Seg) (m : Option Nat) : Entry × State :=
  s.withId { e with segs := segs, map := m }

/-- What vput does once it has its references. -/
def putAct (a : Reg) (k : Nat) (e : Entry) (i : Nat) (fresh : Bool) (plan : List (Seg × Bool)) : Act Unit := do
  let segs ← copyPlan plan
  let m ← (if fresh then (do let i ← allocAct (mapBytes segs); pure (some i)) else pure e.map : Act (Option Nat))
  modify fun s => s.elementPut e segs m i (s.rx a).toNat
  let v ← (fun s => .ok ((s.putVersion e segs m).1, (s.putVersion e segs m).2) : Act Entry)
  retireAct k v
  modify fun s => s.advance

theorem execVput_eq (d a b : Reg) (s : State) : execVput d a b s = vecFinish (chainqWord d a b 4#4) (do
    let s ← get
    let k := s.h.name d
    notSpilled [k]
    notEmpty [k]
    complete [k]
    let e := s.entry k
    let i := (s.rx b).toNat
    within (decide (i < e.len)) k (s.rx b)
    let plan := s.elementPlan k e i
    holdSegs ((plan.filter fun p => !p.2).map fun p => (p.1, k))
    match e.map with
    | some m => if s.freshMap k e plan then pure () else holdAct m k
    | none => pure ()
    putAct a k e i (s.freshMap k e plan) plan) s := rfl

theorem elementPut_boltOnly (s : State) (e : Entry) (segs : List Seg) (m : Option Nat) (i v : Nat) : s.BoltOnly (s.elementPut e segs m i v) := by
  have hmap : ∃ bolt, s.cl.withMap m segs = { s.cl with bolt := bolt } := by
    cases m with
    | none => exact ⟨_, rfl⟩
    | some m => exact ⟨_, rfl⟩
  obtain ⟨bolt, hmap⟩ := hmap
  obtain ⟨bolt', hput⟩ := putBytes_bolt (l := segs) (writtenBytes e.tag (s.cl.rawBytes e.segs (granuleSpan e.tag i).1 (granuleSpan e.tag i).2) i v)
    (s.cl.withMap m segs) (elemSpan e.tag i).1
  refine ⟨bolt', s.cl.free, s.t.nextStamp, ?_⟩
  rw [State.elementPut, hput, hmap]

/-- The state once the version over `segs` that vput makes has retired as name `k`. -/
def State.elementRetired (s : State) (a : Reg) (k : Nat) (e : Entry) (i : Nat) (segs : List Seg) (m : Option Nat) : State :=
  let p := (s.elementPut e segs m i (s.rx a).toNat).putVersion e segs m
  p.2.retireName k p.1

theorem putAct_run (hr : u.Room (plan.length + 1)) (hp : ∀ i x, u.cl.content i = some x → x.2 = false) (hret : u.unretired k = false) :
    ∃ segs m F M w, u.Draws w (F ++ M) ∧ Copied plan segs F ∧
      putAct a k e i fresh plan u = .ok ((), (w.elementRetired a k e i segs m).advance) := by
  obtain ⟨segs, F, t, hcopy, hdraw, hroom, hc⟩ := copyPlan_run plan u hr hp
  have hend {w : State} {M : List Nat} (hd : u.Draws w (F ++ M)) (m : Option Nat) :
      retireAct k ((w.elementPut e segs m i (w.rx a).toNat).putVersion e segs m).1
        ((w.elementPut e segs m i (w.rx a).toNat).putVersion e segs m).2 = .ok ((), w.elementRetired a k e i segs m) :=
    retireAct_run (((hd.allots.bolt.trans (elementPut_boltOnly ..)).trans (fresh_boltOnly _)).unretired k |>.trans hret)
  cases fresh with
  | false =>
    have hdraw : u.Draws t (F ++ []) := by rwa [List.append_nil]
    refine ⟨segs, e.map, F, [], t, hdraw, hc, ?_⟩
    simp only [putAct, Act.bind_run, hcopy, Bool.false_eq_true, if_false, Act.pure_run, Act.modify_run, hend hdraw]
  | true =>
    obtain ⟨j, w, ha, hd, -⟩ := hroom.draws (length_padded (segs.flatMap fun g => bytesOf 4 (descOf g)))
    have hdraw := hdraw.trans hd
    refine ⟨segs, some j, F, [j], w, hdraw, hc, ?_⟩
    simp only [putAct, Act.bind_run, hcopy, if_true, mapBytes, ha, Act.pure_run, Act.modify_run, hend hdraw]

theorem elementRetired_newVersion (hb : s.BoltOnly w) (hl : e.state = .live) (a : Reg) (k i : Nat) (segs : List Seg) (m : Option Nat) :
    newVersion s (w.elementRetired a k e i segs m).advance k e.tag e.len segs :=
  ((hb.trans (elementPut_boltOnly ..)).trans (fresh_boltOnly _)).newVersion (e := ((w.elementPut e segs m i (w.rx a).toNat).putVersion e segs m).1) hl

theorem keptSwatches_sublist (hp : plan.map (·.1) = e.segs) (fresh : Bool) : (keptSwatches plan e fresh).Sublist e.swatches := by
  have hs : (plan.map (·.1.swatch)) = e.segs.map Seg.swatch := by rw [← hp, List.map_map]; rfl
  refine List.Sublist.append (hs ▸ List.filter_sublist.map _) ?_
  cases fresh with
  | false => exact List.Sublist.refl _
  | true => exact List.nil_sublist _

theorem content_clean (h : ∀ w ∈ s.cl.bolt, w.poison = false) {x : List Byte × Bool} (hx : s.cl.content i = some x) : x.2 = false := by
  obtain ⟨v, hv, rfl⟩ := Option.map_eq_some_iff.mp hx
  exact h v (List.mem_of_find?_eq_some hv)

theorem execVput_run (h : Operands s (s.h.name d) (s.h.name d)) (he : s.entry (s.h.name d) = e) (hi : (s.rx b).toNat = i) (hlt : i < e.len)
    (hh : s.canHold e.swatches) (hroom : s.Room (e.segs.length + 1)) (hp : ∀ w ∈ s.cl.bolt, w.poison = false) :
    ∃ l segs m F M w, (s.holdAll l).Draws w (F ++ M) ∧ Copied (s.elementPlan (s.h.name d) e i) segs F ∧
      execVput d a b s = .next (w.elementRetired a (s.h.name d) e i segs m).advance := by
  have hlive : ∀ k ∈ [s.h.name d], (s.entry k).state = .live := List.forall_mem_singleton.mpr h.live
  have hfst := vputPlan_fst s (s.h.name d) (elemSpan e.tag i).1 ((elemSpan e.tag i).1 + (elemSpan e.tag i).2) e.segs 0
  generalize hplan : s.elementPlan (s.h.name d) e i = plan
  replace hfst : plan.map (·.1) = e.segs := hplan ▸ hfst
  generalize hf : s.freshMap (s.h.name d) e plan = fresh
  have hkept : s.canHold (keptSwatches plan e fresh) := canHold_of_sublist hh (keptSwatches_sublist hfst fresh)
  have hheld : (s.holdAll (keptSwatches plan e fresh)).Room (plan.length + 1) := by
    have hlen : plan.length = e.segs.length := by rw [← hfst, List.length_map]
    rw [hlen]
    exact hroom.holdAll fun i hi => (hkept i hi).1
  obtain ⟨segs, m, F, M, w, hd, hc, hrun⟩ := putAct_run (a := a) (e := e) (i := i) (fresh := fresh) hheld
    (fun j x hx => content_clean hp (content_holdAll _ s j ▸ hx)) (((holdAll_boltOnly _ s).unretired _).trans h.retired)
  refine ⟨_, segs, m, F, M, w, hd, hc, ?_⟩
  rw [execVput_eq]
  refine vecFinish_ok _ h.context ?_
  obtain ⟨hsegs, hmap⟩ := canHold_append hkept
  rw [keptSwatches, holdAll_append] at hrun
  have hswatch : (((plan.filter fun p => !p.2).map fun p => (p.1, s.h.name d)).map (·.1)).map Seg.swatch =
      (plan.filter fun p => !p.2).map (·.1.swatch) := by
    rw [List.map_map, List.map_map]
    rfl
  have hhold := holdSegs_run (s := s) (m := (plan.filter fun p => !p.2).map fun p => (p.1, s.h.name d)) (by rwa [hswatch])
  rw [hswatch] at hhold
  simp only [Act.bind_run, Act.get_run, notSpilled_live hlive, notEmpty_live hlive, complete_live hlive, he, hi,
    within_run _ (decide_eq_true hlt), hplan, hhold, hf]
  cases hem : e.map with
  | none =>
    have hnil : (if fresh then [] else e.map.toList) = [] := by rw [hem]; split <;> rfl
    rw [hnil] at hrun
    exact hrun
  | some m =>
    cases fresh with
    | true => exact hrun
    | false =>
      rw [hem] at hrun hmap
      simp only [Bool.false_eq_true, if_false, Option.toList_some] at hrun hmap ⊢
      rw [Act.bind_run, holdAct_run hmap]
      exact hrun

end Vput
end Sys2Proof.Machine
end

section
/-! Versions are made (06_chains R131 to R133, R139, R140, R142): the element that vput writes reads as the value; O22 is
settled. -/

namespace Sys2Proof.Machine

section Written
variable {c : Cluster} {s u w : State} {e : Entry} {segs l : List Seg} {F M : List Nat} {m : Option Nat} {i k b0 b1 off : Nat}

theorem chainLen_eq_sum (h : segs.map Seg.count = l.map Seg.count) : chainLen segs = chainLen l := congrArg List.sum h

theorem content_isSome_of_refs (h : 1 ≤ s.refs i) : (s.cl.content i).isSome = true := by
  rw [Cluster.content, Option.isSome_map]
  cases hw : s.cl.swatch? i with
  | some _ => rfl
  | none => simp [State.refs, hw] at h

theorem refs_of_free (h : s.cl.content i = none) : s.refs i = 0 := by
  rw [State.refs, Option.map_eq_none_iff.mp h]
  rfl

theorem refs_of_not_shared (h : s.sharedSwatch k i = false) : s.refs i ≤ 1 := by
  simp only [State.sharedSwatch, Bool.or_eq_false_iff, decide_eq_false_iff_not] at h
  have := h.1
  split at this <;> omega

/-- Each byte that vput writes stands alone in its swatch (R142). -/
theorem alone_of_copied (hd : u.Draws w F) (hu : ∀ j, u.cl.content j = s.cl.content j) (hc : Copied (s.vputPlan k b0 b1 l 0) segs F)
    (hl : ∀ g ∈ l, g.first + g.count ≤ 256) (hb : b1 ≤ chainLen l) (href : ∀ i ∈ l.map Seg.swatch, 1 ≤ s.refs i)
    (hcount : ∀ i, (l.map Seg.swatch).count i ≤ s.refs i) (hlo : b0 ≤ off) (hhi : off < b1) : Alone w.cl segs off := by
  have hfst := vputPlan_fst s k b0 b1 l 0
  have hcounts : segs.map Seg.count = l.map Seg.count := hc.counts.trans (vputPlan_map ..)
  have hswatch : (s.vputPlan k b0 b1 l 0).map (·.1.swatch) = l.map Seg.swatch := vputPlan_map ..
  obtain ⟨p, hp⟩ := place_of_lt (l := segs) (off := off) (by rw [chainLen_eq_sum hcounts]; omega)
  have hwithin : ∀ x ∈ s.vputPlan k b0 b1 l 0, x.1.first + x.1.count ≤ 256 :=
    fun x hx => hl _ (hfst ▸ List.mem_map_of_mem (f := (·.1)) hx)
  obtain ⟨g, hg, hgp⟩ := place_mem hp
  have hle := hc.count_le p.1
  rw [hswatch] at hle
  have hrefs := hcount p.1
  have hF := List.nodup_iff_count_le_one.mp hd.nodup p.1
  refine ⟨p, hp, place_lt (hc.within hwithin) hp, ?_, fun off' h' => place_inj ?_ hp h'⟩
  · rcases hc.swatch_mem g hg with h | h
    · exact hd.given _ (hgp ▸ h)
    · rw [hswatch, hgp] at h
      exact hd.kept (hu p.1 ▸ content_isSome_of_refs (href _ h))
  · by_cases hmem : p.1 ∈ F
    · have h0 := refs_of_free ((hu p.1).symm.trans (hd.free _ hmem))
      omega
    · have hs := refs_of_not_shared ((swatch_of_written (off := off) hc (Nat.zero_le _) hlo hhi hp).resolve_left hmem)
      have h0 := List.count_eq_zero_of_not_mem hmem
      omega

theorem Alone.withMap (h : Alone c l off) (m : Option Nat) (segs : List Seg) : Alone (c.withMap m segs) l off := by
  cases m with
  | none => exact h
  | some m =>
    obtain ⟨p, hp, hlt, hsome, honly⟩ := h
    refine ⟨p, hp, hlt, ?_, honly⟩
    rw [Cluster.withMap, content_mapData, Option.isSome_map]
    exact hsome

theorem Cluster.Sound.withMap (h : c.Sound) (m : Option Nat) (segs : List Seg) : (c.withMap m segs).Sound := by
  cases m with
  | none => exact h
  | some m => exact h.mapData (f := fun _ => mapBytes segs) (fun _ _ => length_padded _) m

theorem sound_of_bolt (hd : ∀ w ∈ s.cl.bolt, w.data.length = 256) (hp : ∀ w ∈ s.cl.bolt, w.poison = false) : s.cl.Sound := by
  intro i x hx
  refine ⟨?_, content_clean hp hx⟩
  obtain ⟨v, hv, rfl⟩ := Option.map_eq_some_iff.mp hx
  exact hd v (List.mem_of_find?_eq_some hv)

theorem State.Draws.sound (h : u.Draws w F) (hs : u.cl.Sound) : w.cl.Sound := fun i x hx => (h.only i x hx).elim (hs i x) id

/-- The element reads as the value that was put (R142). -/
theorem element_elementRetired {a : Reg} {v : Nat} (hs : w.cl.Sound) (hv : (w.rx a).toNat = v)
    (h : ∀ j < (elemSpan e.tag i).2, Alone w.cl segs ((elemSpan e.tag i).1 + j)) :
    (w.elementRetired a k e i segs m).advance.cl.element e.tag segs i =
      .ok (v % 2 ^ (if e.tag = .cb8x2 then 16 else elemBits e.tag)) := by
  subst hv
  have hread (off : Nat) := chainByte_retireName ((w.elementPut e segs m i (w.rx a).toNat).putVersion e segs m).2 k
    ((w.elementPut e segs m i (w.rx a).toNat).putVersion e segs m).1 off
  refine (element_congr (c' := (w.elementRetired a k e i segs m).cl) (c := (w.elementPut e segs m i (w.rx a).toNat).cl) hread e.tag i).trans ?_
  exact element_putBytes (hs.withMap m segs) (by simp [Cluster.rawBytes]) fun j hj => (h j hj).withMap m segs

end Written

/-! ### The instructions -/

section Made
variable {s : State} {d a b : Reg} {k i : Nat} {e : Entry}

theorem execVput_puts (h : Operands s (s.h.name d) (s.h.name d)) (he : s.entry (s.h.name d) = e) (hi : (s.rx b).toNat = i)
    (hlt : i < e.len) (hh : s.canHold e.swatches) (hroom : s.Room (e.segs.length + 1)) (hp : ∀ w ∈ s.cl.bolt, w.poison = false) :
    ∃ t segs, execVput d a b s = .next t ∧ newVersion s t (s.h.name d) e.tag e.len segs ∧ segs.map Seg.count = e.segs.map Seg.count ∧
      ((∀ w ∈ s.cl.bolt, w.data.length = 256) → (∀ g ∈ e.segs, g.first + g.count ≤ 256) → bytesFor e.tag e.len ≤ chainLen e.segs →
        (∀ i, e.swatches.count i ≤ s.refs i) → t.cl.element e.tag segs i =
          .ok ((s.rx a).toNat % 2 ^ (if e.tag = .cb8x2 then 16 else elemBits e.tag))) := by
  obtain ⟨l, segs, m, F, M, w, hd, hc, hrun⟩ := execVput_run (a := a) h he hi hlt hh hroom hp
  have hbolt : s.BoltOnly w := (holdAll_boltOnly l s).trans hd.allots.bolt
  refine ⟨_, segs, hrun, elementRetired_newVersion hbolt (he ▸ h.live) a _ i segs m, ?_, fun hdata hsegs hbytes hcount => ?_⟩
  · exact hc.counts.trans (vputPlan_map ..)
  · have hheld : (s.holdAll l).cl.Sound := fun j x hx => sound_of_bolt hdata hp j x (content_holdAll l s j ▸ hx)
    have hspan := elemSpan_le_bytesFor (t := e.tag) hlt
    refine element_elementRetired (hd.sound hheld) (by rw [State.rx, hbolt.hart, State.rx]) fun j hj => ?_
    refine alone_of_copied hd.left (content_holdAll l s) hc hsegs (hspan.trans hbytes) (fun i hi => (hh i (List.mem_append_left _ hi)).1)
      (fun i => (List.Sublist.count_le i (List.sublist_append_left _ _)).trans (hcount i)) (Nat.le_add_right _ _) (by omega)

theorem execCdrop_ends (hc : s.holdsContext = true) (hd : (s.entry (s.h.name d)).state ≠ .spilled) :
    ∃ t, execCdrop d s = .next t ∧ (t.entry (s.h.name d)).state = .empty ∧ t.h.pc = s.h.pc + 4#64 ∧
      ((s.entry (s.h.name d)).state ≠ .empty → (t.entry (s.h.name d)).version = (s.entry (s.h.name d)).version + 1#16) := by
  by_cases he : (s.entry (s.h.name d)).state = .empty
  · exact ⟨_, execCdrop_empty hc he, he, rfl, fun h => absurd he h⟩
  · have hrel := State.Releases.dropLater (s.emptyName (s.h.name d)) (s.awaited (s.entry (s.h.name d))) (s.h.name d) (s.entry (s.h.name d))
    obtain ⟨b, n, hempty⟩ := emptyName_entry s (s.h.name d)
    have hentry := (hrel.entry (s.h.name d)).trans hempty
    refine ⟨_, execCdrop_drops hc hd he, congrArg Entry.state hentry, ?_, fun _ => ?_⟩
    · rw [State.advance_h_pc, hrel.hart]
      rfl
    · exact version_addCount _ _ s.h.id.toNat (congrArg Entry.counts hentry)

end Made

/-- Settles O22: each instruction builds a live version over segments that it holds or was given, which retires; what vput
writes lies in swatches that only the new version has. -/
theorem chainsAreMade : Obligations.ChainsAreMade := by
  intro s d a b ty hc kd ka e hd hturn hr
  refine ⟨?_, execCdrop_ends hc hd, ?_, ?_, ?_, ?_⟩
  · intro hbytes hroom
    obtain ⟨t, segs, ht, hnew, hlen, hzero⟩ := execCnew_zeros hc hd hr rfl hbytes (room_of_swatchRoom hroom hturn)
    exact ⟨t, segs, ht, hnew, hlen, fun k _ => hzero k⟩
  · exact fun hl hh => execCshare_shares ⟨hc, hl, hd, hr⟩ rfl hh
  · exact fun n hl hh hn => execCretype_retypes ⟨hc, hl, hd, hr⟩ rfl hh hn
  · exact fun hl hne => ⟨_, execCmovv_moves ⟨hc, hl, hd, hr⟩ hne rfl, newVersion_moved hne hl⟩
  · exact fun hl hlt hh hroom hp => execVput_puts ⟨hc, hl, hd, hr⟩ rfl rfl hlt hh (room_of_swatchRoom hroom hturn) hp
end Sys2Proof.Machine
end

section
/-! The integer element functions (02_numbers R33, 07_vector R158 to R163, R170): codes and the integers that they stand for,
and what each function gives of them; O27 is settled. -/

namespace Sys2Proof.Machine

/-! ### Codes and integers (02_numbers R33) -/

section Codes
variable {sg : Bool} {n a b : Nat} {v w : Int}

/-- An integer that a type of `n` bits has. -/
def InRange (sg : Bool) (n : Nat) (v : Int) : Prop := intLo sg n ≤ v ∧ v ≤ intHi sg n

theorem intOf_modEq (sg : Bool) (n a : Nat) : intOf sg n a ≡ a [ZMOD 2 ^ n] := by
  unfold intOf
  split
  · exact Int.sub_modulus_modEq_iff.mpr rfl
  · rfl

theorem codeOf_congr (h : v ≡ w [ZMOD 2 ^ n]) : codeOf n v = codeOf n w := congrArg Int.toNat h

theorem codeOf_natCast (n k : Nat) : codeOf n k = k % 2 ^ n := by
  unfold codeOf
  norm_cast

theorem codeOf_of_modEq {k : Nat} (h : v ≡ k [ZMOD 2 ^ n]) : codeOf n v = k % 2 ^ n := (codeOf_congr h).trans (codeOf_natCast n k)

/-- A code stands for an integer that has it as its code. -/
theorem codeOf_intOf (ha : a < 2 ^ n) : codeOf n (intOf sg n a) = a :=
  (codeOf_of_modEq (intOf_modEq sg n a)).trans (Nat.mod_eq_of_lt ha)

theorem intOf_inj (ha : a < 2 ^ n) (hb : b < 2 ^ n) : intOf sg n a = intOf sg n b ↔ a = b :=
  ⟨fun h => by rw [← codeOf_intOf (sg := sg) ha, h, codeOf_intOf hb], congrArg _⟩

theorem inRange_signed {m : Nat} : InRange true (m + 1) v ↔ -2 ^ m ≤ v ∧ v < 2 ^ m := by
  unfold InRange intLo intHi
  exact and_congr_right fun _ => Int.le_sub_one_iff

theorem inRange_unsigned : InRange false n v ↔ 0 ≤ v ∧ v < 2 ^ n := by
  unfold InRange intLo intHi
  exact and_congr_right fun _ => Int.le_sub_one_iff

theorem intOf_unsigned (n a : Nat) : intOf false n a = a := rfl

theorem intOf_signed (m a : Nat) : intOf true (m + 1) a = if 2 ^ m ≤ a then (a : Int) - 2 ^ (m + 1) else a := by
  simp [intOf]

theorem intOf_inRange (hn : 1 ≤ n) (ha : a < 2 ^ n) : InRange sg n (intOf sg n a) := by
  cases sg with
  | false =>
    rw [inRange_unsigned, intOf_unsigned]
    exact ⟨Int.natCast_nonneg a, mod_cast ha⟩
  | true =>
    obtain ⟨m, rfl⟩ := Nat.exists_eq_add_of_le' hn
    have hz : (2 : Int) ^ (m + 1) = 2 * 2 ^ m := pow_succ' 2 m
    have ha : (a : Int) < 2 ^ (m + 1) := mod_cast ha
    rw [inRange_signed, intOf_signed]
    split
    · next h =>
      have h : (2 : Int) ^ m ≤ a := mod_cast h
      omega
    · next h =>
      have h : (a : Int) < 2 ^ m := mod_cast Nat.lt_of_not_le h
      omega

/-- The code of an integer of the type stands for it. -/
theorem intOf_codeOf (hn : 1 ≤ n) (hv : InRange sg n v) : intOf sg n (codeOf n v) = v := by
  have hpos : (0 : Int) < 2 ^ n := by positivity
  have hcode : ((codeOf n v : Nat) : Int) = v % 2 ^ n := Int.toNat_of_nonneg (Int.emod_nonneg _ hpos.ne')
  cases sg with
  | false =>
    rw [inRange_unsigned] at hv
    rw [intOf_unsigned, hcode, Int.emod_eq_of_lt hv.1 hv.2]
  | true =>
    obtain ⟨m, rfl⟩ := Nat.exists_eq_add_of_le' hn
    have hz : (2 : Int) ^ (m + 1) = 2 * 2 ^ m := pow_succ' 2 m
    rw [inRange_signed] at hv
    have hiff : 2 ^ m ≤ codeOf (m + 1) v ↔ (2 : Int) ^ m ≤ v % 2 ^ (m + 1) := by
      rw [← hcode]
      norm_cast
    rw [intOf_signed, hcode]
    simp only [hiff]
    rcases lt_or_ge v 0 with h | h
    · rw [← Int.add_emod_right, Int.emod_eq_of_lt (by omega) (by omega), if_pos (by omega)]
      ring
    · rw [Int.emod_eq_of_lt h (by omega), if_neg (by omega)]

theorem intLo_le_zero (sg : Bool) (n : Nat) : intLo sg n ≤ 0 := by
  unfold intLo
  split <;> simp

theorem intHi_nonneg (sg : Bool) (n : Nat) : 0 ≤ intHi sg n := by
  have h (k : Nat) : (0 : Int) < 2 ^ k := by positivity
  unfold intHi
  split
  · exact Int.sub_nonneg_of_le (h _)
  · exact Int.sub_nonneg_of_le (h _)

/-- What lies between 0 and an integer of the type is one. -/
theorem InRange.towards_zero (hv : InRange sg n v) (hlo : min v 0 ≤ w) (hhi : w ≤ max v 0) : InRange sg n w := by
  have := intLo_le_zero sg n
  have := intHi_nonneg sg n
  obtain ⟨h1, h2⟩ := hv
  exact ⟨by omega, by omega⟩

end Codes

/-! ### The members -/

section Members
variable {sg : Bool} {n a b : Nat} {x y v : Int}

/-- Saturation gives the integer of the type that is nearest, with IOV where it is another one (R159). -/
theorem clamp_spec (hn : 1 ≤ n) (v : Int) : intOf sg n (clamp sg n v).1 = max (intLo sg n) (min (intHi sg n) v) ∧
    (clamp sg n v).2 = if v < intLo sg n ∨ intHi sg n < v then fIOV else 0#9 := by
  have := intLo_le_zero sg n
  have := intHi_nonneg sg n
  refine ⟨intOf_codeOf hn ⟨by omega, by omega⟩, ?_⟩
  simp only [clamp, flagIf, ← Bool.decide_or, decide_eq_true_eq]

theorem mulh_inRange (hn : 1 ≤ n) (hx : InRange sg n x) (hy : InRange sg n y) : InRange sg n (x * y / 2 ^ n) := by
  have hpos : (0 : Int) < 2 ^ n := by positivity
  cases sg with
  | false =>
    rw [inRange_unsigned] at *
    exact ⟨Int.ediv_nonneg (mul_nonneg hx.1 hy.1) hpos.le, Int.ediv_lt_of_lt_mul hpos (mul_lt_mul'' hx.2 hy.2 hx.1 hy.1)⟩
  | true =>
    obtain ⟨m, rfl⟩ := Nat.exists_eq_add_of_le' hn
    have hm : (0 : Int) < 2 ^ m := by positivity
    rw [inRange_signed] at *
    rw [pow_succ'] at *
    generalize (2 : Int) ^ m = H at *
    have habs : |x * y| ≤ H * H := by
      rw [abs_mul]
      exact mul_le_mul (abs_le.mpr ⟨hx.1, hx.2.le⟩) (abs_le.mpr ⟨hy.1, hy.2.le⟩) (abs_nonneg y) hm.le
    obtain ⟨hlo, hhi⟩ := abs_le.mp habs
    exact ⟨(Int.le_ediv_iff_mul_le hpos).mpr (by nlinarith), Int.ediv_lt_of_lt_mul hpos (by nlinarith)⟩

/-- Division towards zero gives no integer farther from zero. -/
theorem natAbs_tdiv_le (x y : Int) : (x.tdiv y).natAbs ≤ x.natAbs := by
  rw [Int.natAbs_tdiv]
  exact Nat.div_le_self _ _

/-- But for the lowest value by -1 a quotient is an integer of the type (R160). -/
theorem tdiv_inRange (hn : 1 ≤ n) (hx : InRange sg n x) (hy : InRange sg n y) (h : ¬(sg = true ∧ x = intLo sg n ∧ y = -1)) :
    InRange sg n (x.tdiv y) := by
  have habs := natAbs_tdiv_le x y
  cases sg with
  | false =>
    rw [inRange_unsigned] at *
    have := Int.tdiv_nonneg hx.1 hy.1
    omega
  | true =>
    obtain ⟨m, rfl⟩ := Nat.exists_eq_add_of_le' hn
    have hlo : intLo true (m + 1) = -2 ^ m := rfl
    rw [inRange_signed] at *
    rw [hlo] at h
    have hm : (0 : Int) < 2 ^ m := by positivity
    generalize (2 : Int) ^ m = H at *
    refine ⟨by omega, lt_of_le_of_ne (by omega) fun heq => ?_⟩
    have hx' : x = -H := by omega
    have hone : y.natAbs = 1 := by
      have hdiv := congrArg Int.natAbs heq
      rw [Int.natAbs_tdiv, hx', Int.natAbs_neg] at hdiv
      exact (Nat.div_eq_self.mp hdiv).resolve_left (by omega)
    rcases Int.natAbs_eq_iff.mp hone with rfl | rfl
    · rw [Nat.cast_one, Int.tdiv_one] at heq
      omega
    · exact h ⟨rfl, hx', rfl⟩

theorem tmod_inRange (hx : InRange sg n x) (y : Int) : InRange sg n (x.tmod y) := by
  have habs : (x.tmod y).natAbs ≤ x.natAbs := by
    rw [Int.natAbs_tmod]
    exact Nat.mod_le _ _
  refine hx.towards_zero ?_ ?_ <;> rcases lt_or_ge x 0 with h | h
  · omega
  · have := Int.tmod_nonneg y h
    omega
  · have := Int.tmod_nonneg y (Int.neg_nonneg.mpr h.le)
    rw [Int.neg_tmod] at this
    omega
  · omega

theorem divide_zero (sg : Bool) (n : Nat) (x : Int) : divide sg n x 0 = (2 ^ n - 1, x, fIDZ) := if_pos rfl

theorem divide_lowest (n : Nat) (x : Int) (hx : x = intLo true n) : divide true n x (-1) = (x, 0, fIOV) := by
  simp [divide, hx]

theorem divide_quotient (hy : y ≠ 0) (h : ¬(sg = true ∧ x = intLo sg n ∧ y = -1)) : divide sg n x y = (x.tdiv y, x.tmod y, 0#9) := by
  rw [divide, if_neg hy, if_neg]
  intro hc
  simp only [Bool.and_eq_true, decide_eq_true_eq] at hc
  obtain ⟨⟨rfl, hx⟩, hy⟩ := hc
  exact h ⟨rfl, hx, hy⟩

theorem testBit_complement {i : Nat} (hi : i < n) (b : Nat) : ((2 ^ n - 1) ^^^ b).testBit i = !b.testBit i := by
  simp [Nat.testBit_xor, Nat.testBit_two_pow_sub_one, hi]

/-- An arithmetic right shift by more than the width gives what one by the width gives. -/
theorem ediv_pow_min (hn : 1 ≤ n) (hx : InRange true n x) (k : Nat) : x / 2 ^ min k n = x / 2 ^ k := by
  rcases le_total k n with h | h
  · rw [Nat.min_eq_left h]
  · obtain ⟨m, rfl⟩ := Nat.exists_eq_add_of_le' hn
    have hpow : (2 : Int) ^ (m + 1) ≤ 2 ^ k := by gcongr; norm_num
    have hm : (0 : Int) < 2 ^ m := by positivity
    rw [Nat.min_eq_right h]
    rw [inRange_signed] at hx
    rw [pow_succ'] at *
    rcases lt_or_ge x 0 with hneg | hpos
    · rw [Int.ediv_eq_neg_one_of_neg_of_le hneg (by omega), Int.ediv_eq_neg_one_of_neg_of_le hneg (by omega)]
    · rw [Int.ediv_eq_zero_of_lt hpos (by omega), Int.ediv_eq_zero_of_lt hpos (by omega)]

theorem ediv_pow_inRange (hx : InRange sg n x) (k : Nat) : InRange sg n (x / 2 ^ k) := by
  have hpos : (0 : Int) < 2 ^ k := by positivity
  rcases lt_or_ge x 0 with h | h
  · refine hx.towards_zero ((min_le_left x 0).trans ((Int.le_ediv_iff_mul_le hpos).mpr ?_)) ?_
    · nlinarith
    · exact (Int.ediv_neg_of_neg_of_pos h hpos).le.trans (le_max_right x 0)
  · exact hx.towards_zero ((min_le_right x 0).trans (Int.ediv_nonneg h hpos.le)) ((Int.ediv_le_self _ h).trans (le_max_left x 0))

/-- An arithmetic right shift divides downwards (R162). -/
theorem intOf_sra (hn : 1 ≤ n) (ha : a < 2 ^ n) (k : Nat) : intOf true n (shiftCode .sra n a k) = intOf true n a / 2 ^ k := by
  have hx : InRange true n (intOf true n a) := intOf_inRange hn ha
  rw [← intOf_codeOf hn (ediv_pow_inRange hx k), ← ediv_pow_min hn hx]
  congr 1
  show a / 2 ^ min k n + (if decide (2 ^ (n - 1) ≤ a) = true then 2 ^ n - 2 ^ (n - min k n) else 0) = _
  obtain ⟨r, hr⟩ := Nat.exists_eq_add_of_le (Nat.min_le_right k n)
  generalize min k n = j at hr ⊢
  subst hr
  have hpow : 2 ^ (j + r) = 2 ^ r * 2 ^ j := by rw [Nat.add_comm, Nat.pow_add]
  have hdiv : a / 2 ^ j < 2 ^ r := Nat.div_lt_of_lt_mul (by rwa [Nat.mul_comm, ← hpow])
  have hle : 2 ^ r ≤ 2 ^ (j + r) := Nat.pow_le_pow_right (by decide) (Nat.le_add_left r j)
  rw [Nat.add_sub_cancel_left]
  by_cases htop : 2 ^ (j + r - 1) ≤ a
  · have hquot : intOf true (j + r) a / 2 ^ j = (a / 2 ^ j : Nat) - 2 ^ r := by
      rw [intOf, if_pos (by simpa using htop), pow_add, mul_comm, sub_eq_add_neg, ← neg_mul,
        Int.add_mul_ediv_right _ _ (by positivity)]
      push_cast
      ring
    have hmod : (a / 2 ^ j : Nat) - 2 ^ r ≡ (a / 2 ^ j + (2 ^ (j + r) - 2 ^ r) : Nat) [ZMOD 2 ^ (j + r)] := by
      rw [Nat.cast_add, Nat.cast_sub hle]
      push_cast
      exact (Int.modEq_iff_dvd.mpr ⟨1, by ring⟩)
    rw [if_pos (decide_eq_true htop), hquot, codeOf_of_modEq hmod, Nat.mod_eq_of_lt (by omega)]
  · rw [if_neg (by simpa using htop), intOf, if_neg (by simpa using htop)]
    have hcast : ((a : Int) / 2 ^ j) = (a / 2 ^ j : Nat) := by norm_cast
    rw [hcast, codeOf_natCast, Nat.mod_eq_of_lt (by omega), Nat.add_zero]

/-- A rotation turns right (R162). -/
theorem testBit_rot {i : Nat} (hn : 1 ≤ n) (ha : a < 2 ^ n) (hi : i < n) (k : Nat) :
    (shiftCode .rot n a k).testBit i = a.testBit ((i + k) % n) := by
  show ((a / 2 ^ (k % n) + a % 2 ^ (k % n) * 2 ^ (n - k % n)) % 2 ^ n).testBit i = _
  have hj : k % n < n := Nat.mod_lt _ hn
  have hik : (i + k) % n = if i < n - k % n then i + k % n else i - (n - k % n) := by
    rw [Nat.add_mod, Nat.mod_eq_of_lt hi]
    split
    · exact Nat.mod_eq_of_lt (by omega)
    · rw [Nat.mod_eq_sub_mod (by omega), Nat.mod_eq_of_lt (by omega)]
      omega
  generalize k % n = j at hj hik ⊢
  have hlow : a / 2 ^ j < 2 ^ (n - j) := Nat.div_lt_of_lt_mul (by rwa [← Nat.pow_add, Nat.add_sub_cancel' hj.le])
  rw [Nat.testBit_mod_two_pow, decide_eq_true hi, Bool.true_and, Nat.add_comm, Nat.mul_comm, Nat.testBit_two_pow_mul_add _ hlow, hik]
  split
  · rw [Nat.testBit_div_two_pow, Nat.add_comm]
  · rw [Nat.testBit_mod_two_pow, decide_eq_true (by omega), Bool.true_and]

/-- A difference of codes, made positive, is that of the integers modulo 2^n. -/
theorem sub_modEq (sg : Bool) (a : Nat) (hb : b < 2 ^ n) :
    intOf sg n a - intOf sg n b ≡ (a + 2 ^ n - b : Nat) [ZMOD 2 ^ n] := by
  refine ((intOf_modEq sg n a).sub (intOf_modEq sg n b)).trans (Int.modEq_iff_dvd.mpr ⟨1, ?_⟩)
  rw [Nat.cast_sub (by omega)]
  push_cast
  ring

theorem neg_modEq (sg : Bool) (ha : a < 2 ^ n) : -intOf sg n a ≡ (2 ^ n - a : Nat) [ZMOD 2 ^ n] := by
  refine (intOf_modEq sg n a).neg.trans (Int.modEq_iff_dvd.mpr ⟨1, ?_⟩)
  rw [Nat.cast_sub ha.le]
  push_cast
  ring

/-- The lowest value of a signed type is its own negative modulo 2^n. -/
theorem codeOf_neg_lowest (hn : 1 ≤ n) (ha : a < 2 ^ n) (h : intOf true n a = intLo true n) : codeOf n (-intOf true n a) = a := by
  obtain ⟨m, rfl⟩ := Nat.exists_eq_add_of_le' hn
  have hlo : intLo true (m + 1) = -2 ^ m := rfl
  refine Eq.trans (codeOf_congr (Int.modEq_iff_dvd.mpr ⟨-1, ?_⟩)) (codeOf_intOf (sg := true) ha)
  rw [h, hlo]
  ring

/-- But for the lowest value of a signed type the magnitude is an integer of the type. -/
theorem magnitude_inRange (hn : 1 ≤ n) (hx : InRange sg n x) (h : ¬(sg = true ∧ x = intLo sg n)) :
    InRange sg n (if x < 0 then -x else x) := by
  split
  · next hneg =>
    cases sg with
    | false =>
      rw [inRange_unsigned] at hx
      omega
    | true =>
      obtain ⟨m, rfl⟩ := Nat.exists_eq_add_of_le' hn
      have hlo : intLo true (m + 1) = -2 ^ m := rfl
      have hne : x ≠ -2 ^ m := fun he => h ⟨rfl, he.trans hlo.symm⟩
      rw [inRange_signed] at *
      omega
  · exact hx

theorem bitCode_ite {p : Prop} [Decidable p] : bitCode (decide p) = if p then 1 else 0 := by simp [bitCode]

theorem binInt_min_max (sg : Bool) (n a b : Nat) :
    intOf sg n (binInt .min sg n a b).1 = min (intOf sg n a) (intOf sg n b) ∧
    intOf sg n (binInt .max sg n a b).1 = max (intOf sg n a) (intOf sg n b) := by
  constructor
  · show intOf sg n (if intOf sg n b < intOf sg n a then b else a) = _
    split <;> omega
  · show intOf sg n (if intOf sg n a < intOf sg n b then b else a) = _
    split <;> omega

theorem binInt_bits {i : Nat} (hi : i < n) : (binInt .and sg n a b).1.testBit i = (a.testBit i && b.testBit i) ∧
    (binInt .or sg n a b).1.testBit i = (a.testBit i || b.testBit i) ∧
    (binInt .xor sg n a b).1.testBit i = (a.testBit i != b.testBit i) ∧
    (binInt .andn sg n a b).1.testBit i = (a.testBit i && !b.testBit i) := by
  refine ⟨Nat.testBit_and .., Nat.testBit_or .., Nat.testBit_xor .., ?_⟩
  rw [← testBit_complement hi b]
  exact Nat.testBit_and ..

theorem binInt_equal (ha : a < 2 ^ n) (hb : b < 2 ^ n) :
    (binInt .ceq sg n a b).1 = (if intOf sg n a = intOf sg n b then 1 else 0) ∧
    (binInt .cne sg n a b).1 = (if intOf sg n a = intOf sg n b then 0 else 1) := by
  simp only [binInt, bitCode, intOf_inj ha hb, beq_iff_eq, bne_iff_ne, ite_not, and_self]

theorem binInt_shift_left_right (k : Nat) : (n ≤ k → (binInt .sll sg n a k).1 = 0 ∧ (binInt .srl sg n a k).1 = 0) ∧
    (k < n → (binInt .sll sg n a k).1 = a * 2 ^ k % 2 ^ n ∧ (binInt .srl sg n a k).1 = a / 2 ^ k) :=
  ⟨fun h => ⟨if_neg h.not_gt, if_neg h.not_gt⟩, fun h => ⟨if_pos h, if_pos h⟩⟩

theorem binInt_divide_zero (ha : a < 2 ^ n) (h : intOf sg n b = 0) :
    binInt .div sg n a b = (2 ^ n - 1, fIDZ) ∧ binInt .rem sg n a b = (a, fIDZ) := by
  have hones : codeOf n (2 ^ n - 1) = 2 ^ n - 1 := by
    have hcast : ((2 : Int) ^ n - 1) = (2 ^ n - 1 : Nat) := by
      rw [Nat.cast_sub Nat.one_le_two_pow]
      push_cast
      rfl
    rw [hcast, codeOf_natCast, Nat.mod_eq_of_lt (by have := Nat.two_pow_pos n; omega)]
  simp only [binInt, h, divide_zero, hones, codeOf_intOf ha, and_self]

theorem binInt_divide_lowest (ha : a < 2 ^ n) (hx : intOf true n a = intLo true n) (hy : intOf true n b = -1) :
    binInt .div true n a b = (a, fIOV) ∧ binInt .rem true n a b = (0, fIOV) := by
  have hzero : codeOf n 0 = 0 := (codeOf_natCast n 0).trans (Nat.zero_mod _)
  simp only [binInt, hy, divide_lowest n _ hx, hzero, codeOf_intOf ha, and_self]

theorem binInt_divide (hn : 1 ≤ n) (ha : a < 2 ^ n) (hb : b < 2 ^ n) (hy : intOf sg n b ≠ 0)
    (h : ¬(sg = true ∧ intOf sg n a = intLo sg n ∧ intOf sg n b = -1)) :
    intOf sg n (binInt .div sg n a b).1 = Int.tdiv (intOf sg n a) (intOf sg n b) ∧ (binInt .div sg n a b).2 = 0#9 ∧
    intOf sg n (binInt .rem sg n a b).1 = Int.tmod (intOf sg n a) (intOf sg n b) ∧ (binInt .rem sg n a b).2 = 0#9 := by
  have hx : InRange sg n (intOf sg n a) := intOf_inRange hn ha
  simp only [binInt, divide_quotient hy h]
  exact ⟨intOf_codeOf hn (tdiv_inRange hn hx (intOf_inRange hn hb) h), trivial, intOf_codeOf hn (tmod_inRange hx _), trivial⟩

end Members

/-! ### The unary members -/

section Unary
variable {t : ElemType} {a : Nat}

theorem unElem_lowest (i : Nat) (hn : 1 ≤ elemBits t) (ha : a < 2 ^ elemBits t) (hs : isSigned t = true)
    (h : intOf true (elemBits t) a = intLo true (elemBits t)) : unElem .abs t i a = (a, fIOV) ∧ unElem .neg t i a = (a, fIOV) := by
  have hneg : intLo true (elemBits t) < 0 := by simp [intLo]
  have hcode := codeOf_neg_lowest hn ha h
  rw [h] at hcode
  simp only [unElem, hs, h, hneg, if_true, hcode, flagIf, decide_true, Bool.and_self, and_self]

theorem unElem_magnitude (i : Nat) (hn : 1 ≤ elemBits t) (ha : a < 2 ^ elemBits t)
    (h : ¬(isSigned t = true ∧ intOf (isSigned t) (elemBits t) a = intLo (isSigned t) (elemBits t))) :
    let x := intOf (isSigned t) (elemBits t) a
    intOf (isSigned t) (elemBits t) (unElem .abs t i a).1 = (if x < 0 then -x else x) ∧ (unElem .abs t i a).2 = 0#9 ∧
      (unElem .neg t i a).1 = (2 ^ elemBits t - a) % 2 ^ elemBits t ∧ (unElem .neg t i a).2 = 0#9 := by
  have hflag : (isSigned t && decide (intOf (isSigned t) (elemBits t) a = intLo true (elemBits t))) = false := by
    rw [Bool.eq_false_iff]
    intro hc
    obtain ⟨hs, hx⟩ : isSigned t = true ∧ intOf (isSigned t) (elemBits t) a = intLo true (elemBits t) := by simpa using hc
    exact h ⟨hs, by rwa [hs] at hx ⊢⟩
  refine ⟨intOf_codeOf hn (magnitude_inRange hn (intOf_inRange hn ha) h), ?_, codeOf_of_modEq (neg_modEq _ ha), ?_⟩
  · simp only [unElem, hflag, flagIf, Bool.false_eq_true, if_false]
  · simp only [unElem, hflag, flagIf, Bool.false_eq_true, if_false]

theorem unElem_clz (i : Nat) (ha : a < 2 ^ elemBits t) : (unElem .clz t i a).1 ≤ elemBits t ∧ a < 2 ^ (elemBits t - (unElem .clz t i a).1) ∧
    (a ≠ 0 → 2 ^ (elemBits t - (unElem .clz t i a).1 - 1) ≤ a) := by
  have hlen : bitLen a ≤ elemBits t := bitLen_le_iff.mpr ha
  have hclz : elemBits t - (unElem .clz t i a).1 = bitLen a := Nat.sub_sub_self hlen
  rw [hclz]
  refine ⟨Nat.sub_le _ _, bitLen_le_iff.mp le_rfl, fun h0 => ?_⟩
  rw [← Nat.not_lt, ← bitLen_le_iff]
  have hpos : bitLen a ≠ 0 := by simp [bitLen, h0]
  omega

end Unary

/-- Settles O27: a function gives the code of an integer of the type, which stands for that integer; what wraps is
congruent to it modulo 2^n. -/
theorem vectorIntegerElements : Obligations.VectorIntegerElements := by
  intro sg n a b hn ha hb x y lo hi
  have hx : InRange sg n x := intOf_inRange hn ha
  have hy : InRange sg n y := intOf_inRange hn hb
  have havg : InRange sg n ((x + y + 1) / 2) := by
    obtain ⟨hx1, hx2⟩ := hx
    obtain ⟨hy1, hy2⟩ := hy
    exact ⟨by omega, by omega⟩
  refine ⟨codeOf_of_modEq ((intOf_modEq sg n a).add (intOf_modEq sg n b)), codeOf_of_modEq (sub_modEq sg a hb),
    codeOf_of_modEq (sub_modEq sg b ha), codeOf_of_modEq ((intOf_modEq sg n a).mul (intOf_modEq sg n b)), clamp_spec hn (x + y),
    clamp_spec hn (x - y), intOf_codeOf hn havg, (binInt_min_max sg n a b).1, (binInt_min_max sg n a b).2, fun i hi => binInt_bits hi,
    (binInt_equal ha hb).1, (binInt_equal ha hb).2, bitCode_ite, bitCode_ite, (binInt_shift_left_right b).1,
    (binInt_shift_left_right b).2, intOf_sra hn ha b, fun i hi => testBit_rot hn ha hi b, intOf_codeOf hn (mulh_inRange hn hx hy),
    binInt_divide_zero ha, ?_, binInt_divide hn ha hb, ?_⟩
  · rintro rfl hlow hminus
    exact binInt_divide_lowest ha hlow hminus
  · rintro t i - rfl rfl
    obtain ⟨hclz, hclz', hclz''⟩ := unElem_clz i ha
    exact ⟨fun ⟨hs, hlow⟩ => unElem_lowest i hn ha hs (hs ▸ hlow), unElem_magnitude i hn ha,
      fun j hj => testBit_complement hj a, hclz, hclz', hclz'', ones_eq_countP _ a, rfl, rfl⟩

end Sys2Proof.Machine
end

section
/-! Vector results that are held back (06_chains R124, 05_control R108): O26 and O32 are refuted. A version carries a number
of its own in the model (log 15), and an instruction retires once no view of its version waits for another. Neither statement
asks that the number which the instruction's version is given is new: where another name shows a version that has that number
already and waits, the instruction performs its elements and then waits to retire. -/

namespace Sys2Proof.Machine

/-- A hart that holds its vector context, with room for 65 swatches, VTYPE b1 and VL 1. Name 2 holds one element, a one.
Name 1 shows a version that waits for another one, and whose number, 1, is the one that the task gives next. -/
def numberTaken : State :=
  { who := .user
    h := { vl := 1#18, names := [(1, { id := 1, stamp := 1, behind := [7] }),
                       (2, { state := .live, tag := .b1, segs := [⟨0, 0, 1⟩], len := 1, prog := 1 })] }
    t := { poolq := 66#16 }
    cl := { bolt := [{ idx := 0, data := [1#8], refs := 1, poison := false, owner := 0#6, charge := some 0 }],
            free := [(1, 65)],
            cores := Vector.replicate 8 { owner := some 0 } } }

/-- What vcompr of name 2 by itself into name 0 asks for. -/
def squeezed : VSpec := lite (.perm .compr) false .vec 0#7 2#7 2#7

theorem squeezed_check : squeezed.check numberTaken = .ok ((), numberTaken) := by
  have hspilled : ∀ k ∈ (squeezed.sources numberTaken).map (·.name) ++ squeezed.dNames numberTaken.h,
      (numberTaken.entry k).state ≠ .spilled := by decide
  have hlive : ∀ k ∈ (squeezed.sources numberTaken).map (·.name), (numberTaken.entry k).state = .live := by decide
  have htags : tagCheck (squeezed.sources numberTaken) numberTaken = .ok ((), numberTaken) := rfl
  have hlens : lenCheck (squeezed.sources numberTaken) numberTaken = .ok ((), numberTaken) := rfl
  simp only [VSpec.check, Act.bind_run, Act.get_run]
  rw [show squeezed.op.destType numberTaken.h.ty _ = some .b1 from rfl]
  simp only [Option.isSome_some, if_true, notSpilled_run hspilled, notEmpty_live hlive]
  rw [if_neg (by decide), Act.bind_run, require_run _ (by decide)]
  simp only [Act.bind_run, htags]
  rw [if_neg (by decide), Act.bind_run, hlens]
  exact require_run _ (by decide)

/-- Nothing of what the statements name stops that instruction. -/
theorem squeezed_ready (n : Nat) (h : numberTaken.swatchRoom n = true) : readyFor numberTaken squeezed n := by
  refine ⟨by decide, rfl, rfl, squeezed_check, ?_, ?_, by decide, ?_, h, by decide, rfl⟩
  · decide
  · decide
  · decide

/-- Whether an instruction is under way, and the length of the version that name 0 shows. -/
def shownAt : Out → Option (Bool × Nat)
  | .next t => some (t.h.flight.isSome, (t.entry 0).len)
  | _ => none

/-- The instruction waits: it has taken its element, but is not retired, and the length of its version reads as 0 (R173). -/
theorem squeezed_waits : shownAt (exec (.vcompr 0#7 2#7 2#7) numberTaken) = some (true, 0) := by decide +kernel

/-- Refutes O26: at `numberTaken` the instruction is still under way after the step. -/
theorem not_vectorComputationCompletes : ¬ Obligations.VectorComputationCompletes := by
  intro h
  obtain ⟨t, _, _, _, hexec, -, -, -, -, -, hflight⟩ := h (.vcompr 0#7 2#7 2#7) numberTaken _ rfl (squeezed_ready 65 (by decide))
  have hwait := squeezed_waits
  rw [hexec, shownAt, hflight] at hwait
  simp at hwait

/-- Refutes O32: at `numberTaken` the version has length 0, though va has one element whose bit in vb is one. -/
theorem not_vectorElementsTakeTheirValues : ¬ Obligations.VectorElementsTakeTheirValues := by
  intro h
  obtain ⟨t, hexec, -, hc⟩ := (h (.vcompr 0#7 2#7 2#7) numberTaken squeezed (by decide)).1 rfl (squeezed_ready 65 (by decide))
  obtain ⟨hlen, -⟩ := hc rfl
  have hwait := squeezed_waits
  rw [hexec, shownAt] at hwait
  have htaken : ((List.range numberTaken.h.vl.toNat).filter fun k => numberTaken.cl.codeAt (numberTaken.entry 2) k = 1).length = 1 := by
    decide
  have hzero : (t.entry 0).len = 0 := congrArg Prod.snd (Option.some_inj.mp hwait)
  exact absurd (hzero.symm.trans (hlen.trans htaken)) (by decide)

end Sys2Proof.Machine
end

section
/-! What the retirement of versions leaves of the hart with the turn (06_chains R124): all but the versions that it shows. -/

namespace Sys2Proof.Machine

/-- The hart but for what its names and its instructions show. -/
def Hart.bare (h : Hart) : Hart := { h with names := [], flight := none, stopped := none }

/-- The hart `g` is `h` but for what its names and its instructions show, and no instruction has come under way. -/
structure Hart.Keeps (h g : Hart) : Prop where
  bare : g.bare = h.bare
  idle : h.flight = none → g.flight = none

theorem Hart.Keeps.refl (h : Hart) : h.Keeps h := ⟨rfl, fun hn => hn⟩

theorem Hart.Keeps.trans {h g k : Hart} (a : h.Keeps g) (b : g.Keeps k) : h.Keeps k := ⟨b.bare.trans a.bare, b.idle ∘ a.idle⟩

/-- From `s` to `t` the hart with the turn has kept all but what it shows. -/
def State.KeepsHart (s t : State) : Prop := s.h.Keeps t.h

namespace State.KeepsHart
variable {s t u : State}

theorem refl (s : State) : s.KeepsHart s := Hart.Keeps.refl s.h

theorem of_hart (h : t.h = s.h) : s.KeepsHart t := by
  unfold State.KeepsHart
  rw [h]
  exact Hart.Keeps.refl s.h

theorem trans (h : s.KeepsHart t) (g : t.KeepsHart u) : s.KeepsHart u := Hart.Keeps.trans h g

theorem task (s : State) (t : Task) : s.KeepsHart { s with t := t } := refl s

theorem of_releases (h : s.Releases t) : s.KeepsHart t := of_hart h.hart

theorem mapHarts {f : Hart → Hart} (hf : ∀ h : Hart, h.Keeps (f h)) (s : State) : s.KeepsHart (s.mapHarts f) := by
  by_cases hw : s.who = .user
  · have h : (s.mapHarts f).h = f s.h := if_pos hw
    unfold State.KeepsHart
    rw [h]
    exact hf s.h
  · exact of_hart (if_neg hw)

theorem mapTables (s : State) (tab : List (Nat × Entry) → List (Nat × Entry)) (f : Nat → Entry → Entry) :
    s.KeepsHart (s.mapTables tab f) := by
  unfold State.mapTables
  refine (mapHarts (fun h => ?_) s).trans (task _ _)
  exact ⟨rfl, fun hn => by rw [hn, Option.map_none]⟩

theorem mapCaptured (s : State) (up : Entry → Entry) : s.KeepsHart (s.mapHarts fun h =>
    { h with flight := h.flight.map (·.mapCaptured up), stopped := h.stopped.map (·.mapCaptured up) }) := by
  refine mapHarts (fun h => ?_) s
  exact ⟨rfl, fun hn => by rw [hn, Option.map_none]⟩

theorem updateVersion (s : State) (id : Nat) (f : Entry → Entry) : s.KeepsHart (s.updateVersion id f) := by
  unfold State.updateVersion State.mapShows
  dsimp only
  exact (((of_hart (holdAll_boltOnly _ s).hart).trans (mapTables _ _ _)).trans (mapCaptured _ _)).trans (task _ _)

theorem finishVersion (s : State) (e : Entry) : s.KeepsHart (s.finishVersion e) := by
  unfold State.finishVersion
  dsimp only
  split
  · exact updateVersion _ _ _
  · exact (updateVersion _ _ _).trans (of_releases (.releaseAll _ _))

theorem dropDue (s : State) (id : Nat) : s.KeepsHart (s.dropDue id) := by
  unfold State.dropDue
  exact List.foldlRecOn _ _ (task s _) fun _ h d _ => h.trans (of_releases (.dropVersion _ d.name d.old))

theorem retireOne (s : State) (h : BitVec 3) (k : Nat) (e old : Entry) : s.KeepsHart (s.retireOne h k e old) := by
  unfold State.retireOne State.mapShows
  dsimp only
  exact ((((mapTables s _ _).trans (task _ _)).trans (finishVersion _ e)).trans (of_releases (.dropVersion _ k old))).trans (dropDue _ e.id)

theorem retireReads (n : Nat) (s : State) : s.KeepsHart (s.retireReads n) := by
  induction n generalizing s with
  | zero => exact refl s
  | succ n ih =>
    unfold State.retireReads
    split
    · exact refl s
    · refine trans ?_ (ih _)
      split
      · exact (task s _).trans (retireOne _ _ _ _ _)
      · exact task s _

theorem retireVersion (s : State) (h : BitVec 3) (k : Nat) (e old : Entry) : s.KeepsHart (s.retireVersion h k e old) :=
  (retireOne s h k e old).trans (retireReads _ _)

theorem retireDests (l : List (Nat × Entry × Entry)) (s : State) : s.KeepsHart (Machine.retireDests l s) := by
  induction l generalizing s with
  | nil => exact refl s
  | cons d r ih => exact (retireVersion s s.h.id d.1 d.2.1 d.2.2).trans (ih _)

end State.KeepsHart

/-! ### The retirement of an instruction -/

section Retires
variable {s t : State} {f : Flight} {ds : List (Nat × Entry × Entry)}

/-- How a vector instruction leaves its hart `h` as it retires (R124, R150, R157). -/
structure Hart.Passed (h : Hart) (f : Flight) (g : Hart) : Prop where
  flight : g.flight = none
  vstart : g.vstart = 0#18
  fflags : g.fflags = h.fflags ||| f.flags
  pc : g.pc = h.pc + 4#64
  x : g.x = h.x
  mirror : g.mirror = h.mirror

/-- The state once the destinations `ds` of an instruction have retired and its captures are released. -/
def State.released (s : State) (f : Flight) (ds : List (Nat × Entry × Entry)) : State :=
  (retireDests ds { s with h := { s.h with flight := none } }).releaseAll f.holds

/-- The state once the instruction has retired. -/
def State.retired (s : State) (f : Flight) (ds : List (Nat × Entry × Entry)) : State :=
  let t := s.released f ds
  State.advance { t with h := { t.h with fflags := t.h.fflags ||| f.flags, vstart := 0#18 } }

theorem retireAll_run (hf : s.h.flight = some f) (hc : closeDests f f.dests s = .ok (ds, t)) : retireAll s = .ok ((), t.retired f ds) := by
  unfold retireAll
  rw [Act.bind_run, Act.get_run]
  dsimp only
  rw [hf]
  dsimp only
  rw [Act.bind_run, hc]
  rfl

theorem released_keeps (s : State) (f : Flight) (ds : List (Nat × Entry × Entry)) : Hart.Keeps { s.h with flight := none } (s.released f ds).h :=
  State.KeepsHart.trans (s := { s with h := { s.h with flight := none } }) (.retireDests ds _) (.of_releases (.releaseAll f.holds _))

/-- An instruction that has retired has passed. -/
theorem retired_passed (s : State) (f : Flight) (ds : List (Nat × Entry × Entry)) : s.h.Passed f (s.retired f ds).h := by
  obtain ⟨hbare, hidle⟩ := released_keeps s f ds
  have hfflags : (s.released f ds).h.fflags = s.h.fflags := (congrArg Hart.fflags hbare :)
  have hpc : (s.released f ds).h.pc = s.h.pc := (congrArg Hart.pc hbare :)
  exact ⟨hidle rfl, rfl, congrArg (· ||| f.flags) hfflags, congrArg (· + 4#64) hpc, (congrArg Hart.x hbare :), (congrArg Hart.mirror hbare :)⟩

theorem awaited_nil {old : Entry} (hb : old.behind = []) (hr : s.readsOf s.h.id = []) : s.awaited old = [] := by
  simp [State.awaited, State.ahead, hb, hr]

/-- What a flight's destinations show: the versions to which a squash returns their names. -/
def Flight.olds (f : Flight) : List (Nat × Entry) := f.dests.map fun d => (d.1, d.2.2)

theorem shows_eq (s : State) : s.shows = s.h.names ++ (s.h.flight.toList ++ s.h.stopped.toList).flatMap Flight.olds ++ s.t.shows := rfl

/-- Whether a version is held back depends on what the task shows, and on what its stopped instructions build. -/
theorem heldBack_congr (hw : t.who = s.who) (ht : t.t.shows = s.t.shows) (hh : t.t.harts = s.t.harts) (hn : t.h.names = s.h.names) (hs : t.h.stopped = s.h.stopped)
    (hf : t.h.flight.toList.flatMap Flight.olds = s.h.flight.toList.flatMap Flight.olds) (id : Nat) : t.heldBack id = s.heldBack id := by
  have hshows : t.shows = s.shows := by
    rw [shows_eq, shows_eq, List.flatMap_append, List.flatMap_append, hn, hs, hf, ht]
  have hbuilds : t.stoppedBuilds = s.stoppedBuilds := by
    unfold State.stoppedBuilds State.taskHarts
    rw [hw, hh]
    split
    · rw [List.flatMap_cons, List.flatMap_cons, hs]
    · rfl
  rw [State.heldBack, hshows, hbuilds, State.heldBack]

/-- Nothing holds an instruction back whose destinations supersede versions that have retired (R108, R124). -/
theorem retireHeld_false (hf : s.h.flight = some f) (hr : s.readsOf s.h.id = [])
    (hd : ∀ d ∈ f.dests, d.2.2.behind = [] ∧ s.heldBack d.2.1.id = false) : s.retireHeld = false := by
  have hany : (f.dests.any fun d => !(s.awaited d.2.2).isEmpty || s.heldBack d.2.1.id) = false :=
    List.any_eq_false.mpr fun d hm => by simp [awaited_nil (hd d hm).1 hr, (hd d hm).2]
  simp [State.retireHeld, hf, hr, hany]

theorem settleRun_retires (hf : s.h.flight = some f) (hdone : f.vl ≤ f.k) (hheld : s.retireHeld = false)
    (hc : closeDests f f.dests s = .ok (ds, t)) : settleRun (s, none) = .next (t.retired f ds) := by
  have hend : (s.h.flight.any fun f => decide (f.k < f.vl)) = false := by simp [hf, hdone]
  simp only [settleRun, hend, hheld, Bool.false_eq_true, if_false, retireAll_run hf hc]

/-- A store with all its elements has nothing to wait for but mreads. -/
theorem storeHeld_done (hf : s.h.flight = some f) (hdone : f.vl ≤ f.k) (hp : f.pinFault = none) (hr : s.readsOf s.h.id = []) :
    s.storeHeld = none := by
  simp [State.storeHeld, hf, hp, hr, Nat.sub_eq_zero_of_le hdone, probeStore]

theorem runElems_done (n : Nat) (hf : s.h.flight = some f) (hdone : f.vl ≤ f.k) : runElems n s = (s, none) := by
  cases n with
  | zero => rfl
  | succ n => simp [runElems, hf, hdone]

theorem runFlight_done (n : Nat) (hf : s.h.flight = some f) (hdone : f.vl ≤ f.k) (hp : f.pinFault = none) (hr : s.readsOf s.h.id = []) :
    runFlight n s = settleRun (s, none) := by
  have hleft : s.elemsLeft = 0 := by simp [State.elemsLeft, hf, Nat.sub_eq_zero_of_le hdone]
  simp only [runFlight, hleft, if_true, storeHeld_done hf hdone hp hr, runElems_done n hf hdone]

/-! ### The swatches of the destinations -/

/-- A version whose segments cover what is needed takes no swatch. -/
theorem grow_covered {k need total n : Nat} {since : Option Nat} {e : Entry} (h : need ≤ 256 * e.segs.length) :
    grow k since need total n e s = .ok (e, s) := by
  cases n with
  | zero => rfl
  | succ n =>
    rw [grow, if_pos h]
    rfl

/-- The length that a destination has at the end (R173). -/
def Flight.endLen (f : Flight) (e : Entry) : Nat := if f.op = .perm .compr then e.prog else e.len

/-- The bytes of a destination at its end, dealt out over its segments. -/
def closedSegs (total : Nat) (segs : List Seg) : List Seg :=
  (List.range segs.length).zipWith (fun n (g : Seg) => { g with count := Nat.min 256 (total - 256 * n) }) segs

theorem closeDests_cons {d : Nat × Entry × Entry} {e : Entry} {r : List (Nat × Entry × Entry)} {u : State}
    (hg : grow (f.vl - 1) f.boltSince (bytesFor d.2.1.tag (f.endLen d.2.1)) (bytesFor d.2.1.tag (f.endLen d.2.1)) 65 d.2.1 s = .ok (e, u))
    (hr : closeDests f r { u with cl := u.cl.withMap e.map (closedSegs (bytesFor d.2.1.tag (f.endLen d.2.1)) e.segs) } = .ok (ds, t)) :
    closeDests f (d :: r) s =
      .ok ((d.1, { e with segs := closedSegs (bytesFor d.2.1.tag (f.endLen d.2.1)) e.segs, len := f.endLen d.2.1 }, d.2.2) :: ds, t) := by
  unfold Flight.endLen closedSegs at *
  unfold closeDests
  rw [Act.bind_run, hg]
  dsimp only
  cases hm : e.map with
  | none =>
    rw [hm] at hr
    replace hr : closeDests f r u = .ok (ds, t) := hr
    dsimp only
    rw [Act.bind_run, hr, ← hm]
    rfl
  | some j =>
    rw [hm] at hr
    dsimp only
    rw [Act.bind_run, Act.modify_run]
    dsimp only
    rw [Act.bind_run, ← hm]
    simp only [Cluster.withMap, Cluster.mapData] at hr
    rw [hr]
    rfl

/-- Destinations that have their swatches take no more. -/
theorem closeDests_covered (f : Flight) : ∀ (l : List (Nat × Entry × Entry)) (s : State),
    (∀ d ∈ l, bytesFor d.2.1.tag (f.endLen d.2.1) ≤ 256 * d.2.1.segs.length) → ∃ ds t, closeDests f l s = .ok (ds, t) ∧ t.h = s.h
  | [], s, _ => ⟨[], s, rfl, rfl⟩
  | d :: r, s, h => by
    obtain ⟨hd, hr⟩ := List.forall_mem_cons.mp h
    obtain ⟨ds, t, hc, ht⟩ := closeDests_covered f r _ hr
    exact ⟨_, t, closeDests_cons (grow_covered hd) hc, ht⟩

end Retires

/-! ### INSTRUCTION_RETIRE -/

section Event
variable {s : State} {f : Flight}

theorem runFlight_retires (n : Nat) (hf : s.h.flight = some f) (hdone : f.vl ≤ f.k) (hp : f.pinFault = none)
    (hr : s.readsOf s.h.id = []) (hd : ∀ d ∈ f.dests, d.2.2.behind = [] ∧ s.heldBack d.2.1.id = false)
    (hs : ∀ d ∈ f.dests, bytesFor d.2.1.tag (f.endLen d.2.1) ≤ 256 * d.2.1.segs.length) :
    ∃ t, runFlight n s = .next t ∧ s.h.Passed f t.h := by
  obtain ⟨ds, t, hc, ht⟩ := closeDests_covered f f.dests s hs
  refine ⟨_, (runFlight_done n hf hdone hp hr).trans (settleRun_retires hf hdone (retireHeld_false hf hr hd) hc), ?_⟩
  rw [← ht]
  exact retired_passed t f ds

/-- The state with the outcome of the comparison recorded, under protected mode (R362). -/
def State.compared (s : State) (mm : Mismatch) : State :=
  if s.who = .user && s.t.pm then { s with h := { s.h with mirror := mm } } else s

theorem compared_eq (s : State) (mm : Mismatch) : s.compared mm =
    if s.who = .user ∧ s.t.pm = true then { s with h := { s.h with mirror := mm } } else s := by
  simp [State.compared]

theorem compared_flight (s : State) (mm : Mismatch) : (s.compared mm).h.flight = s.h.flight := by
  unfold State.compared
  split
  · rfl
  · rfl

theorem compared_hart (s : State) (mm : Mismatch) : (s.compared mm).h =
    { s.h with mirror := if s.who = .user ∧ s.t.pm = true then mm else s.h.mirror } := by
  rw [compared_eq]
  split
  · rfl
  · rfl

theorem compared_reads (s : State) (mm : Mismatch) : (s.compared mm).readsOf (s.compared mm).h.id = s.readsOf s.h.id := by
  unfold State.compared
  split
  · rfl
  · rfl

theorem compared_heldBack (s : State) (mm : Mismatch) (id : Nat) : (s.compared mm).heldBack id = s.heldBack id := by
  unfold State.compared
  split
  · apply heldBack_congr <;> rfl
  · rfl

theorem execInstructionRetire_eq (mm : Mismatch) (s : State) : execInstructionRetire mm s =
    match (s.compared mm).h.flight with
    | some f => if f.vl ≤ f.k && !f.op.folds then runFlight 0 (s.compared mm) else .next (s.compared mm)
    | none => .next (s.compared mm) := rfl

theorem execInstructionRetire_idle (mm : Mismatch) (hf : s.h.flight = none) : execInstructionRetire mm s = .next (s.compared mm) := by
  rw [execInstructionRetire_eq, compared_flight, hf]

theorem execInstructionRetire_done (mm : Mismatch) (hf : s.h.flight = some f) (hop : f.op.folds = false) (hdone : f.vl ≤ f.k) :
    execInstructionRetire mm s = runFlight 0 (s.compared mm) := by
  rw [execInstructionRetire_eq, compared_flight, hf]
  simp [hop, hdone]

/-- An instruction whose elements are all performed retires, and the outcome of the comparison stands (R124, R362). -/
theorem execInstructionRetire_retires (mm : Mismatch) (hf : s.h.flight = some f) (hop : f.op.folds = false) (hdone : f.vl ≤ f.k)
    (hp : f.pinFault = none) (hr : s.readsOf s.h.id = []) (hd : ∀ d ∈ f.dests, d.2.2.behind = [] ∧ s.heldBack d.2.1.id = false)
    (hs : ∀ d ∈ f.dests, bytesFor d.2.1.tag (f.endLen d.2.1) ≤ 256 * d.2.1.segs.length) :
    ∃ t, execInstructionRetire mm s = .next t ∧ (s.compared mm).h.Passed f t.h := by
  rw [execInstructionRetire_done mm hf hop hdone]
  exact runFlight_retires 0 ((compared_flight s mm).trans hf) hdone hp ((compared_reads s mm).trans hr)
    (fun d hm => ⟨(hd d hm).1, (compared_heldBack s mm _).trans (hd d hm).2⟩) hs

end Event
end Sys2Proof.Machine
end

section
/-! Reading the captures of a vector instruction (07_vector R150, R153, R155): where they are complete and no swatch holds
poison, what is read is there, and reading changes nothing. -/

namespace Sys2Proof.Machine

/-! ### Computations that give a value and change nothing -/

section Gives
variable {α β : Type} {s : State} {a : Act α} {f : α → Act β}

/-- At `s` the computation gives a value, and leaves the state as it is. -/
def Gives (a : Act α) (s : State) : Prop := ∃ x, a s = .ok (x, s)

theorem Gives.pure (x : α) : Gives (pure x : Act α) s := ⟨x, rfl⟩

theorem Gives.bind (ha : Gives a s) (hf : ∀ x, Gives (f x) s) : Gives (a >>= f) s := by
  obtain ⟨x, hx⟩ := ha
  obtain ⟨y, hy⟩ := hf x
  exact ⟨y, by rw [Act.bind_run, hx]; exact hy⟩

theorem Gives.ite {c : Prop} [Decidable c] {a b : Act α} (ha : Gives a s) (hb : Gives b s) : Gives (if c then a else b) s := by
  split
  · exact ha
  · exact hb

theorem Gives.chainPoison {k fld : Nat} {store : Bool} (ha : Gives a s) : Gives (chainPoison k fld store a) s := by
  obtain ⟨x, hx⟩ := ha
  exact ⟨x, by rw [Machine.chainPoison, hx]⟩

end Gives

/-! ### Elements of complete chains -/

section Elements
variable {s : State} {c : Cluster} {e : Entry} {i : Nat}

/-- No allocated swatch holds poison. -/
def Cluster.Clean (c : Cluster) : Prop := ∀ i x, c.content i = some x → x.2 = false

theorem clean_of_bolt (h : ∀ w ∈ s.cl.bolt, w.poison = false) : s.cl.Clean := fun _ _ hx => content_clean h hx

theorem Cluster.Clean.chainByte (h : c.Clean) (l : List Seg) (off : Nat) (x : Nat × Byte × Bool) (hx : c.chainByte l off = some x) :
    x.2.2 = false := by
  rw [chainByte_eq_cell] at hx
  obtain ⟨p, -, hx⟩ := Option.bind_eq_some_iff.mp hx
  obtain ⟨y, hy, rfl⟩ := Option.map_eq_some_iff.mp hx
  exact h _ y hy

theorem gives_element (h : s.cl.Clean) (t : ElemType) (l : List Seg) (i : Nat) : Gives (elementAct t l i) s :=
  ⟨_, by rw [elementAct, element_eq_rawBytes (h.chainByte l)]⟩

theorem gives_srcElem (h : s.cl.Clean) (he : e.state ≠ .pending) : Gives (srcElem e i) s := by
  unfold srcElem
  rw [if_neg (by simp [he])]
  exact gives_element h _ _ _

theorem gives_oldElem (h : s.cl.Clean) (he : e.state ≠ .pending) : Gives (oldElem e i) s := by
  unfold oldElem
  exact .ite (gives_srcElem h he) (.pure 0)

theorem gives_optElem (h : s.cl.Clean) {o : Option Entry} (ho : ∀ e ∈ o, e.state ≠ .pending) : Gives (optElem o i) s := by
  unfold optElem
  split
  · next e => exact gives_srcElem h (ho e rfl)
  · exact .pure 0

end Elements

/-! ### The captures of a flight -/

section Captures
variable {s : State} {f : Flight}

/-- What an instruction has captured is complete, and no swatch holds poison. -/
structure State.Reads (s : State) (f : Flight) : Prop where
  clean : s.cl.Clean
  captured : ∀ e ∈ f.captured, e.state ≠ .pending

namespace State.Reads

theorem va (h : s.Reads f) (i : Nat) : Gives (optElem f.va i) s :=
  gives_optElem h.clean fun e he => h.captured e (by simp [Flight.captured, Option.mem_def.mp he])

theorem vb (h : s.Reads f) (i : Nat) : Gives (optElem f.vb i) s :=
  gives_optElem h.clean fun e he => h.captured e (by simp [Flight.captured, Option.mem_def.mp he])

theorem vd (h : s.Reads f) (i : Nat) : Gives (optElem f.vd i) s :=
  gives_optElem h.clean fun e he => h.captured e (by simp [Flight.captured, Option.mem_def.mp he])

theorem vb_some (h : s.Reads f) {e : Entry} (he : f.vb = some e) (i : Nat) : Gives (srcElem e i) s :=
  gives_srcElem h.clean (h.captured e (by simp [Flight.captured, he]))

theorem datas (h : s.Reads f) {e : Entry} (he : e ∈ f.datas) (i : Nat) : Gives (srcElem e i) s :=
  gives_srcElem h.clean (h.captured e (by simp [Flight.captured, he]))

theorem active (h : s.Reads f) (i : Nat) : Gives (f.active i) s := by
  unfold Flight.active
  split
  · next m hm => exact .bind (gives_srcElem h.clean (h.captured m (by simp [Flight.captured, hm]))) fun _ => .pure _
  · exact .pure true

theorem index (h : s.Reads f) (i : Nat) : Gives (f.index i) s := by
  unfold Flight.index
  split
  · next e he => exact .bind (h.vb_some he i) fun _ => .pure _
  · exact .pure 0

/-- The code that an active element receives (R158 to R177). -/
theorem opElem (h : s.Reads f) (i : Nat) : Gives (opElem f i) s := by
  unfold Machine.opElem
  dsimp only
  split
  case h_1 =>
    refine .bind (h.va i) fun _ => .bind ?_ fun _ => .pure _
    split
    · next e he => exact .bind (h.vb_some he _) fun _ => .pure _
    · exact .pure none
  case h_2 =>
    refine .bind (h.va i) fun _ => .bind ?_ fun _ => ?_
    · split
      · next e he => exact .bind (h.vb_some he i) fun _ => .pure _
      · exact .pure none
    · exact .ite (.bind (h.vd i) fun _ => .pure _) (.pure _)
  case h_3 => exact .pure _
  case h_4 => exact .bind (h.va i) fun _ => .pure _
  case h_5 => exact .bind (h.va i) fun _ => .pure _
  case h_6 =>
    split
    · next e he => exact .bind (h.vb_some he 0) fun _ => .pure _
    · exact .pure _
  case h_7 =>
    split
    · next e he => exact .bind (h.vb_some he i) fun _ => .pure _
    · exact .pure _
  case h_8 =>
    refine .bind ?_ fun _ => .pure _
    split
    · exact h.va _
    · exact h.vb _
  case h_9 =>
    refine .bind ?_ fun k => ?_
    · split
      · next e he _ _ _ _ => exact h.vb_some he i
      · exact .pure _
    · split
      · exact .bind (h.va _) fun _ => .pure _
      · exact .pure _
  case h_10 => exact .bind (h.va i) fun _ => .bind (h.vb i) fun _ => .pure _
  case h_11 => exact .bind (h.va i) fun _ => .pure _
  case h_12 => exact .pure _
  case h_13 => exact .pure _

/-- The active elements of a captured chain. -/
theorem activeElems (h : s.Reads f) {o : Option Entry} (ho : ∀ i, Gives (optElem o i) s) (n : Nat) : ∀ i, Gives (activeElems f o n i) s := by
  induction n with
  | zero => exact fun _ => .pure []
  | succ n ih =>
    intro i
    unfold Machine.activeElems
    refine .bind (h.active i) fun _ => .bind ?_ fun _ => .bind (ih (i + 1)) fun _ => .pure _
    exact .ite (.bind (ho i) fun _ => .pure _) (.pure [])

/-- The value of a fold (R180 to R193). -/
theorem foldElems (h : s.Reads f) : Gives (foldElems f) s := by
  have hva := h.activeElems h.va f.vl 0
  have hvb := h.activeElems h.vb f.vl 0
  unfold Machine.foldElems
  refine .bind ⟨s, rfl⟩ fun _ => ?_
  split
  case h_5 => exact .bind hvb fun _ => .bind hva fun _ => .pure _
  case h_7 => exact .pure _
  all_goals exact .bind hva fun _ => .pure _

/-- What a store will read of its chains (09_vmem R206). -/
theorem probeFields (h : s.Reads f) (k : Nat) (l : List Entry) (hl : ∀ e ∈ l, e ∈ f.datas) : ∀ j, Gives (probeFields k j l) s := by
  induction l with
  | nil => exact fun _ => .pure _
  | cons e r ih =>
    obtain ⟨he, hr⟩ := List.forall_mem_cons.mp hl
    intro j
    exact .bind (.chainPoison (h.datas he k)) fun _ => ih hr (j + 1)

theorem probeStore (h : s.Reads f) (n : Nat) : ∀ k, Gives (probeStore f n k) s := by
  induction n with
  | zero => exact fun _ => .pure _
  | succ n ih =>
    intro k
    unfold Machine.probeStore
    refine .ite (.pure _) (.bind (.chainPoison (h.active k)) fun on => ?_)
    have hindex : Gives (f.offset .indexed true k) s := .chainPoison (h.index k)
    have hfields := h.probeFields k f.datas (fun _ he => he) 0
    refine .ite (.bind hfields fun _ => ?_) (ih _)
    exact .ite (.bind (.bind hindex fun _ => .pure _) fun _ => ih _) (ih _)

end State.Reads
end Captures
end Sys2Proof.Machine
end

section
/-! A fold under way whose sources are complete (08_draws R183). -/

namespace Sys2Proof.Machine

section Folds
variable {s : State} {f : Flight}

theorem afterFold_vstart (h : Hart) (d : Reg) (r : RedOut) : (h.afterFold d r).vstart = 0#18 := by
  unfold Hart.afterFold
  dsimp only
  split
  · simp
  · simp

theorem afterFold_pc (h : Hart) (d : Reg) (r : RedOut) : (h.afterFold d r).pc = h.pc := by
  unfold Hart.afterFold
  dsimp only
  split
  · simp
  · simp

/-- The state once a fold has given `r` (R180, R185). -/
def State.foldedBy (s : State) (f : Flight) (r : RedOut) : State :=
  let t := s.releaseAll f.holds
  State.advance { t with h := { t.h.afterFold f.d r with flight := none } }

theorem runFold_gives (hf : s.h.flight = some f) (h : s.Reads f) : ∃ r, runFold s = .next (s.foldedBy f r) := by
  obtain ⟨r, hr⟩ := h.foldElems
  have hwait : (f.op.wholeSources && f.captured.any fun e => e.state = .pending) = false := by
    rw [List.any_eq_false.mpr fun e he => by simp [h.captured e he], Bool.and_false]
  refine ⟨r, ?_⟩
  unfold runFold
  rw [hf]
  dsimp only
  rw [hwait, hr]
  rfl

theorem execReductionBegin_completes (hf : s.h.flight = some f) (hop : f.op.folds = true) (h : s.Reads f) :
    ∃ t, execReductionBegin s = .next t ∧ t.h.flight = none ∧ t.h.vstart = 0#18 ∧ t.h.pc = s.h.pc + 4#64 := by
  obtain ⟨r, hr⟩ := runFold_gives hf h
  have hpc : (s.foldedBy f r).h.pc = s.h.pc + 4#64 := by
    rw [State.foldedBy, State.advance_h_pc]
    dsimp only
    rw [afterFold_pc, (State.Releases.releaseAll f.holds s).hart]
  refine ⟨_, ?_, rfl, afterFold_vstart _ _ _, hpc⟩
  rw [execReductionBegin, hf]
  dsimp only
  rw [if_pos hop, hr]

end Folds
end Sys2Proof.Machine
end

section
/-! Writing the destination of a streaming instruction (06_chains R134): swatches as they are needed, where there is room. -/

namespace Sys2Proof.Machine

/-! ### Bytes of swatches, and the room of a task -/

section Rooms
variable {s t : State} {c : Cluster} {n k : Nat} {l : List Seg}

theorem poolUse_mapData (s : State) (i : Nat) (f : List Byte → List Byte) (uid : Nat) :
    State.poolUse { s with cl := s.cl.mapData i f } uid = s.poolUse uid := by
  have hfilter (p : Swatch → Bool) (hp : ∀ w : Swatch, p (if w.idx = i then { w with data := f w.data } else w) = p w) :
      ((s.cl.mapData i f).bolt.filter p).length = (s.cl.bolt.filter p).length := by
    show ((s.cl.bolt.map fun w => if w.idx = i then { w with data := f w.data } else w).filter p).length = _
    rw [List.filter_map, List.length_map]
    exact congrArg List.length (List.filter_congr fun w _ => hp w)
  refine congrArg (fun k => (k :: s.clusters.map _).sum) (hfilter _ fun w => ?_)
  split
  · rfl
  · rfl

/-- What the bytes of a swatch are does not matter to the room of a task. -/
theorem State.Room.mapData (h : s.Room n) (i : Nat) (f : List Byte → List Byte) : State.Room { s with cl := s.cl.mapData i f } n where
  quota := (congrArg (· + n) (poolUse_mapData s i f _)).trans_le h.quota
  free := h.free
  nodup := by
    show ((s.cl.bolt.map fun w => if w.idx = i then { w with data := f w.data } else w).map Swatch.idx).Nodup
    rw [List.map_map, show Swatch.idx ∘ (fun w : Swatch => if w.idx = i then { w with data := f w.data } else w) = Swatch.idx from
      funext fun w => by dsimp only [Function.comp_apply]; split <;> rfl]
    exact h.nodup
  ranges := h.ranges
  apart w hw x hx := by
    obtain ⟨v, hv, rfl⟩ := List.mem_map.mp hw
    have hidx : (if v.idx = i then { v with data := f v.data } else v : Swatch).idx = v.idx := by split <;> rfl
    rw [hidx]
    exact h.apart v hv x hx
  turn := h.turn

theorem Cluster.Clean.mapData (h : c.Clean) (i : Nat) (f : List Byte → List Byte) : (c.mapData i f).Clean := by
  intro j x hx
  rw [content_mapData] at hx
  obtain ⟨y, hy, rfl⟩ := Option.map_eq_some_iff.mp hx
  have := h j y hy
  split
  · exact this
  · exact this

theorem State.Room.putBytes : ∀ (bs : List Byte) (s : State) (off : Nat), s.Room n → State.Room { s with cl := s.cl.putBytes l off bs } n
  | [], _, _, h => h
  | b :: bs, s, off, h => by
    unfold Cluster.putBytes
    cases locate l off with
    | none => exact State.Room.putBytes bs s (off + 1) h
    | some p => exact State.Room.putBytes bs _ (off + 1) (h.mapData p.1.swatch fun d => setAt d (p.1.first + p.2) b)

theorem Cluster.Clean.putBytes : ∀ (bs : List Byte) (c : Cluster) (off : Nat), c.Clean → (c.putBytes l off bs).Clean
  | [], _, _, h => h
  | b :: bs, c, off, h => by
    unfold Cluster.putBytes
    cases locate l off with
    | none => exact Cluster.Clean.putBytes bs c (off + 1) h
    | some p => exact Cluster.Clean.putBytes bs _ (off + 1) (h.mapData p.1.swatch fun d => setAt d (p.1.first + p.2) b)

theorem State.Room.withMap (h : s.Room n) (m : Option Nat) (segs : List Seg) : State.Room { s with cl := s.cl.withMap m segs } n := by
  cases m with
  | none => exact h
  | some j => exact h.mapData j fun _ => mapBytes segs

theorem Cluster.Clean.withMap (h : c.Clean) (m : Option Nat) (segs : List Seg) : (c.withMap m segs).Clean := by
  cases m with
  | none => exact h
  | some j => exact h.mapData j fun _ => mapBytes segs

theorem withMap_boltOnly (s : State) (m : Option Nat) (segs : List Seg) : s.BoltOnly { s with cl := s.cl.withMap m segs } := by
  cases m with
  | none => exact .refl s
  | some j => exact ⟨_, _, _, rfl⟩

theorem putBytes_boltOnly (s : State) (l : List Seg) (off : Nat) (bs : List Byte) : s.BoltOnly { s with cl := s.cl.putBytes l off bs } := by
  obtain ⟨bolt, h⟩ := putBytes_bolt (l := l) bs s.cl off
  exact ⟨bolt, s.cl.free, s.t.nextStamp, by rw [h]⟩

/-- Where nobody asked before, a stream takes a swatch as an instruction does that does not stream. -/
theorem streamAlloc_of_allocAct {r : Nat × State} (h : allocAct (List.replicate 256 0#8) s = .ok r) : streamAlloc k none s = .ok r := by
  unfold allocAct at h
  unfold streamAlloc
  split at h
  · next ha =>
    cases h
    rw [ha]
  · cases h

theorem State.Room.stream (h : s.Room (n + 1)) (hc : s.cl.Clean) (k : Nat) :
    ∃ i t, streamAlloc k none s = .ok (i, t) ∧ s.BoltOnly t ∧ t.Room n ∧ t.cl.Clean := by
  obtain ⟨i, t, ha, hd, hr⟩ := h.draws (data := List.replicate 256 0#8) List.length_replicate
  exact ⟨i, t, streamAlloc_of_allocAct ha, hd.allots.bolt, hr, fun j x hx => (hd.only j x hx).elim (hc j x) (·.2)⟩

end Rooms

/-! ### Growth -/

section Growth
variable {s t : State} {e : Entry} {k need total n : Nat}

/-- The swatches that a version may still come to need: up to 64 segments, and a map (R120, R134). -/
def Entry.spare (e : Entry) : Nat := 64 - e.segs.length + if e.map.isNone then 1 else 0

/-- The swatches that the version may still need are there, and none holds poison. -/
structure State.CanGrow (s : State) (e : Entry) : Prop where
  segs : e.segs.length ≤ 64
  room : s.Room e.spare
  clean : s.cl.Clean

/-- `e'` is the version `e` but for its segments, its map and its progress. -/
def Entry.Grows (e e' : Entry) : Prop := e' = { e with segs := e'.segs, map := e'.map, prog := e'.prog }

theorem Entry.Grows.trans {e e' e'' : Entry} (h : e.Grows e') (g : e'.Grows e'') : e.Grows e'' := by
  unfold Entry.Grows at *
  rw [g, h]

/-- The version with one segment more. -/
def Entry.addSeg (e : Entry) (total i : Nat) (m : Option Nat) : Entry :=
  { e with segs := e.segs ++ [{ swatch := i, first := 0, count := Nat.min 256 (total - 256 * e.segs.length) }], map := m }

theorem grow_step (h : ¬need ≤ 256 * e.segs.length) (since : Option Nat) : grow k since need total (n + 1) e = (do
    let m ← (if e.segs.length = 4 && e.map.isNone then (do let i ← streamAlloc k since; pure (some i)) else pure e.map : Act (Option Nat))
    let i ← streamAlloc k since
    modify fun s => { s with cl := s.cl.withMap m (e.addSeg total i m).segs }
    grow k since need total n (e.addSeg total i m)) := by
  rw [grow, if_neg h]
  refine congrArg _ (funext fun m => congrArg _ (funext fun i => ?_))
  cases m with
  | none => rfl
  | some j => rfl

/-- A version takes its map before its fifth segment, where it needs one. -/
theorem mapFirst_run (h : s.CanGrow e) : ∃ m t,
    (if e.segs.length = 4 && e.map.isNone then (do let i ← streamAlloc k none; pure (some i)) else pure e.map : Act (Option Nat)) s =
      .ok (m, t) ∧ s.BoltOnly t ∧ t.Room (64 - e.segs.length + if m.isNone then 1 else 0) ∧ t.cl.Clean := by
  split
  · next hm =>
    obtain ⟨h4, hnone⟩ : e.segs.length = 4 ∧ e.map.isNone = true := by simpa using hm
    have hroom : s.Room (64 - e.segs.length + 1) := by
      have := h.room
      rwa [Entry.spare, if_pos hnone] at this
    obtain ⟨i, t, ha, hb, hr, hc⟩ := hroom.stream h.clean k
    exact ⟨some i, t, by rw [Act.bind_run, ha]; rfl, hb, hr, hc⟩
  · exact ⟨e.map, s, rfl, .refl s, h.room, h.clean⟩

/-- Where there are swatches for 64 segments and a map a version grows as far as it must (R134). -/
theorem grow_run (hneed : need ≤ 16384) : ∀ (n : Nat) (e : Entry) (s : State), s.CanGrow e →
    ∃ e' t, grow k none need total n e s = .ok (e', t) ∧ s.BoltOnly t ∧ t.CanGrow e' ∧ e.Grows e'
  | 0, e, s, h => ⟨e, s, rfl, .refl s, h, rfl⟩
  | n + 1, e, s, h => by
    by_cases hcov : need ≤ 256 * e.segs.length
    · exact ⟨e, s, grow_covered hcov, .refl s, h, rfl⟩
    · have hlt : e.segs.length < 64 := by omega
      obtain ⟨m, u, hm, hbu, hru, hcu⟩ := mapFirst_run (k := k) h
      have hru : u.Room (63 - e.segs.length + (if m.isNone then 1 else 0) + 1) := by
        rwa [show 63 - e.segs.length + (if m.isNone then 1 else 0) + 1 = 64 - e.segs.length + (if m.isNone then 1 else 0) by omega]
      obtain ⟨i, v, hi, hbv, hrv, hcv⟩ := hru.stream hcu k
      have hgrow : State.CanGrow { v with cl := v.cl.withMap m (e.addSeg total i m).segs } (e.addSeg total i m) := by
        refine ⟨by simp [Entry.addSeg]; omega, ?_, hcv.withMap _ _⟩
        have hlen : (e.addSeg total i m).spare = 63 - e.segs.length + (if m.isNone then 1 else 0) := by
          simp [Entry.spare, Entry.addSeg]
        rw [hlen]
        exact hrv.withMap _ _
      obtain ⟨e', t, hg, hb, hcan, hsame⟩ := grow_run hneed n _ _ hgrow
      refine ⟨e', t, ?_, ((hbu.trans hbv).trans (withMap_boltOnly v m _)).trans hb, hcan, Entry.Grows.trans (e' := e.addSeg total i m) rfl hsame⟩
      simp only [grow_step hcov, Act.bind_run, hm, hi, Act.modify_run, hg]

end Growth

/-! ### One element -/

section Write
variable {s : State} {e : Entry} {k total j c : Nat}

/-- An element below the length is written, in swatches that are there (R134). -/
theorem writeElem_run (h : s.CanGrow e) (hj : j < total) (htotal : bytesFor e.tag total ≤ 16384) :
    ∃ e' t, writeElem k none e total j c s = .ok (e', t) ∧ s.BoltOnly t ∧ t.CanGrow e' ∧ e.Grows e' := by
  have hneed : (if j + 1 = total then bytesFor e.tag total else (elemSpan e.tag j).1 + (elemSpan e.tag j).2) ≤ 16384 := by
    split
    · exact htotal
    · exact (elemSpan_le_bytesFor hj).trans htotal
  obtain ⟨e', t, hg, hb, hcan, hsame⟩ := grow_run (k := k) (total := bytesFor e.tag total) hneed 65 e s h
  let bs := writtenBytes e.tag (t.cl.rawBytes e'.segs (granuleSpan e.tag j).1 (granuleSpan e.tag j).2) j c
  refine ⟨{ e' with prog := j + 1 }, { t with cl := t.cl.putBytes e'.segs (elemSpan e.tag j).1 bs }, ?_,
    hb.trans (putBytes_boltOnly t _ _ bs), ⟨hcan.segs, hcan.room.putBytes bs t _, hcan.clean.putBytes bs t.cl _⟩,
    Entry.Grows.trans hsame rfl⟩
  unfold writeElem
  dsimp only
  rw [Act.bind_run, hg]
  rfl

end Write
end Sys2Proof.Machine
end

section
/-! The elements of a computation under way (07_vector R149, R156, R157): where nothing stops it each element is performed, and
the instruction retires with the last; O33 is settled. -/

namespace Sys2Proof.Machine

/-! ### One element -/

section Element
variable {s t : State} {f : Flight} {n : Nat} {e e' old : Entry}

/-- The two-operand and one-operand members and the conversions. -/
def VOp.elementwise : VOp → Bool
  | .bin _ | .un _ | .cvt _ _ _ => true
  | _ => false

theorem stepElem_eq (hop : f.op.elementwise = true) (hd : f.dests = [(n, e, old)]) : stepElem f = (do
    let on ← f.active f.k
    let x ← (if on then opElem f f.k
      else if f.op = VOp.perm .merge then (do let a ← optElem f.va f.k; pure (a, 0#9))
      else (do let c ← oldElem old f.k; pure (c, 0#9)) : Act (Nat × Flags))
    let e' ← writeElem f.k f.boltSince e f.vl f.k x.1
    setDest 0 e'
    pure x.2) := by
  unfold stepElem
  rw [hd]
  cases hf : f.op with
  | bin _ => rfl
  | un _ => rfl
  | cvt _ _ _ => rfl
  | _ => simp [VOp.elementwise, hf] at hop

/-- An element of such an instruction with one destination is performed (R156). -/
theorem stepElem_run (hop : f.op.elementwise = true) (hd : f.dests = [(n, e, old)]) (hs : f.boltSince = none) (hr : s.Reads f)
    (hold : old.state ≠ .pending) (hg : s.CanGrow e) (hlt : f.k < f.vl) (hbytes : bytesFor e.tag f.vl ≤ 16384) :
    ∃ (fl : Flags) (e' : Entry) (t : State), stepElem f s = .ok (fl, t.withDest 0 e') ∧ s.BoltOnly t ∧ t.CanGrow e' ∧ e.Grows e' := by
  obtain ⟨on, hon⟩ := hr.active f.k
  have hgiven : Gives (if on then opElem f f.k
      else if f.op = VOp.perm .merge then (do let a ← optElem f.va f.k; pure (a, 0#9))
      else (do let c ← oldElem old f.k; pure (c, 0#9)) : Act (Nat × Flags)) s :=
    .ite (hr.opElem f.k) (.ite (.bind (hr.va f.k) fun _ => .pure _) (.bind (gives_oldElem hr.clean hold) fun _ => .pure _))
  obtain ⟨⟨c, fl⟩, hc⟩ := hgiven
  obtain ⟨e', t, hw, hb, hcan, hgrows⟩ := writeElem_run (k := f.k) (c := c) hg hlt hbytes
  refine ⟨fl, e', t, ?_, hb, hcan, hgrows⟩
  rw [stepElem_eq hop hd, Act.bind_run, hon]
  dsimp only
  rw [Act.bind_run, hc]
  dsimp only
  rw [Act.bind_run, hs, hw]
  rfl

/-- The flight once element `f.k` has been performed. -/
def Flight.after (f : Flight) (n : Nat) (e' old : Entry) (fl : Flags) : Flight :=
  { f with dests := [(n, e', old)], k := f.k + 1, flags := f.flags ||| fl, boltSince := none }

theorem afterElem_hart (hf : t.h.flight = some f) (hd : f.dests = [(n, e, old)]) (e' : Entry) (fl : Flags) :
    ((t.withDest 0 e').afterElem f.k fl).h =
      { t.h with fex := fexAfter t.h.fex fl f.k, wait := none, flight := some (f.after n e' old fl) } := by
  have hdests : (List.range f.dests.length).zipWith (fun m (d : Nat × Entry × Entry) => if m = 0 then (d.1, e', d.2.2) else d) f.dests =
      [(n, e', old)] := by
    rw [hd]
    rfl
  unfold State.afterElem State.withDest
  dsimp only
  rw [hf]
  simp only [Option.map_some, hdests]
  rfl

end Element

/-! ### All elements -/

section Stream
variable {s t : State} {f : Flight} {n : Nat} {e old : Entry}

/-- Nothing stops the computation under way, which builds the version `e` of name `n` over `old`. -/
structure State.Streams (s : State) (f : Flight) (n : Nat) (e old : Entry) : Prop where
  flight : s.h.flight = some f
  dests : f.dests = [(n, e, old)]
  op : f.op.elementwise = true
  since : f.boltSince = none
  fault : f.pinFault = none
  bytes : bytesFor e.tag f.vl ≤ 16384
  endBytes : bytesFor e.tag e.len ≤ 16384
  reads : s.Reads f
  complete : old.state ≠ .pending
  retired : old.behind = []
  grow : s.CanGrow e
  quiet : s.h.ftrapen = 0#9
  mreads : s.readsOf s.h.id = []
  free : s.heldBack e.id = false

theorem State.BoltOnly.views (h : s.BoltOnly t) : t.who = s.who ∧ t.t.shows = s.t.shows ∧ t.t.harts = s.t.harts ∧ t.t.reads = s.t.reads := by
  obtain ⟨_, _, _, rfl⟩ := h
  exact ⟨rfl, rfl, rfl, rfl⟩

/-- An element leaves the instruction as free to go on as it was. -/
theorem State.Streams.step (h : s.Streams f n e old) (hlt : f.k < f.vl) : ∃ (fl : Flags) (e' : Entry) (t : State), stepElem f s = .ok (fl, t.withDest 0 e') ∧
    ((t.withDest 0 e').afterElem f.k fl).Streams (f.after n e' old fl) n e' old ∧
    ((t.withDest 0 e').afterElem f.k fl).h.vstart = s.h.vstart := by
  obtain ⟨fl, e', t, hstep, hb, hcan, hgrows⟩ := stepElem_run h.op h.dests h.since h.reads h.complete h.grow hlt h.bytes
  have hhart := afterElem_hart (hb.hart.symm ▸ h.flight) h.dests e' fl
  rw [hb.hart] at hhart
  obtain ⟨hwho, hshows, hharts, hreads⟩ := hb.views
  have hroom : ((t.withDest 0 e').afterElem f.k fl).Room e'.spare := ⟨hcan.room.quota, hcan.room.free, hcan.room.nodup, hcan.room.ranges,
    hcan.room.apart, hcan.room.turn⟩
  have htag : e'.tag = e.tag := (congrArg Entry.tag hgrows :)
  have hlen : e'.len = e.len := (congrArg Entry.len hgrows :)
  have hid : e'.id = e.id := (congrArg Entry.id hgrows :)
  have hheld : ((t.withDest 0 e').afterElem f.k fl).heldBack e'.id = s.heldBack e.id := by
    rw [hid]
    refine heldBack_congr (t := (t.withDest 0 e').afterElem f.k fl) (s := s) hwho hshows hharts (by rw [hhart]) (by rw [hhart]) ?_ _
    rw [hhart, h.flight]
    simp [Flight.olds, Flight.after, h.dests]
  have hmreads : ((t.withDest 0 e').afterElem f.k fl).readsOf ((t.withDest 0 e').afterElem f.k fl).h.id = s.readsOf s.h.id := by
    rw [hhart]
    exact congrArg (fun l : List MOp => (l.filter fun m => m.hart = s.h.id).map MOp.version) hreads
  refine ⟨fl, e', t, hstep, ?_, by rw [hhart]⟩
  exact { flight := by rw [hhart], dests := rfl, op := h.op, since := rfl, fault := h.fault, bytes := by rw [htag]; exact h.bytes,
          endBytes := by rw [htag, hlen]; exact h.endBytes, reads := ⟨hcan.clean, h.reads.captured⟩, complete := h.complete,
          retired := h.retired, grow := ⟨hcan.segs, hroom, hcan.clean⟩, quiet := by rw [hhart]; exact h.quiet,
          mreads := hmreads.trans h.mreads, free := hheld.trans h.free }

theorem pinFlight_elementwise (hf : s.h.flight = some f) (hop : f.op.elementwise = true) : s.pinFlight = .ok s := by
  unfold State.pinFlight
  rw [hf]
  dsimp only
  cases ho : f.op with
  | load _ => simp [VOp.elementwise, ho] at hop
  | store _ => simp [VOp.elementwise, ho] at hop
  | _ => rfl

theorem runElems_step {fl : Flags} {u : State} (m : Nat) (hf : s.h.flight = some f) (hop : f.op.elementwise = true) (hp : f.pinFault = none)
    (hlt : f.k < f.vl) (hstep : stepElem f s = .ok (fl, u)) (hq : (u.afterElem f.k fl).h.ftrapen = 0#9) :
    runElems (m + 1) s = runElems m (u.afterElem f.k fl) := by
  have hen : (u.afterElem f.k fl).h.enabled fl = 0#9 := by rw [Hart.enabled, hq, BitVec.and_zero, BitVec.zero_and]
  rw [runElems, hf]
  dsimp only
  rw [if_neg hlt.not_ge, pinFlight_elementwise hf hop]
  dsimp only
  rw [hf, Option.getD_some, hp]
  dsimp only
  rw [hstep]
  dsimp only
  rw [hen]
  rfl

/-- At most `m` elements are performed, and nothing stops them. -/
theorem State.Streams.run : ∀ (m : Nat) (s : State) (f : Flight) (e : Entry), s.Streams f n e old → f.k ≤ f.vl →
    ∃ (t : State) (g : Flight) (e' : Entry), runElems m s = (t, none) ∧ t.Streams g n e' old ∧ g.k = min (f.k + m) f.vl ∧ g.vl = f.vl ∧
      t.h.vstart = s.h.vstart
  | 0, s, f, e, h, hle => ⟨s, f, e, rfl, h, by omega, rfl, rfl⟩
  | m + 1, s, f, e, h, hle => by
    rcases hle.lt_or_eq with hlt | heq
    · obtain ⟨fl, e', t, hstep, hnext, hvstart⟩ := h.step hlt
      obtain ⟨u, g, e'', hrun, hu, hk, hvl, hv⟩ := State.Streams.run m _ _ _ hnext (show f.k + 1 ≤ f.vl from hlt)
      refine ⟨u, g, e'', (runElems_step m h.flight h.op h.fault hlt hstep hnext.quiet).trans hrun, hu, ?_, hvl, hv.trans hvstart⟩
      rw [hk]
      show min (f.k + 1 + m) f.vl = _
      omega
    · exact ⟨s, f, e, runElems_done _ h.flight heq.ge, h, by omega, rfl, rfl⟩

/-- A computation with all its elements can be closed (R134). -/
theorem State.Streams.closes (h : s.Streams f n e old) : ∃ ds t, closeDests f f.dests s = .ok (ds, t) := by
  have hend : f.endLen e = e.len := by
    refine if_neg fun hop => ?_
    have := h.op
    rw [hop] at this
    cases this
  obtain ⟨e', t, hg, -⟩ := grow_run (k := f.vl - 1) (total := bytesFor e.tag e.len) h.endBytes 65 e s h.grow
  rw [← hend, ← h.since] at hg
  rw [h.dests]
  exact ⟨_, _, closeDests_cons (d := (n, e, old)) hg rfl⟩

/-- What becomes of the elements performed: the instruction retires with the last, or waits before its next (R149). -/
theorem State.Streams.settles (h : s.Streams f n e old) : ∃ t, settleRun (s, none) = .next t ∧
    (f.vl ≤ f.k → t.h.flight = none) ∧ (f.k < f.vl → t.h.vstart = BitVec.ofNat 18 f.k) := by
  rcases lt_or_ge f.k f.vl with hlt | hge
  · have hmore : (s.h.flight.any fun f => decide (f.k < f.vl)) = true := by simp [h.flight, hlt]
    refine ⟨s.pauseFlight, ?_, fun hge => absurd hlt hge.not_gt, fun _ => ?_⟩
    · simp only [settleRun, hmore, if_true]
    · rw [State.pauseFlight, h.flight]
  · obtain ⟨ds, t, hc⟩ := h.closes
    have hheld : s.retireHeld = false := retireHeld_false h.flight h.mreads fun d hd => by
      rw [h.dests, List.mem_singleton] at hd
      rw [hd]
      exact ⟨h.retired, h.free⟩
    exact ⟨_, settleRun_retires h.flight hge hheld hc, fun _ => (retired_passed t f ds).flight, fun hlt => absurd hge hlt.not_ge⟩

theorem State.Streams.storeHeld (h : s.Streams f n e old) : s.storeHeld = none := by
  obtain ⟨x, hx⟩ := h.reads.probeStore (f.vl - f.k) f.k
  unfold State.storeHeld
  rw [h.flight]
  dsimp only
  rw [h.fault, h.mreads]
  simp only [Option.map_none, Option.getD_none, hx, List.isEmpty_nil, if_true, ite_self]

/-- At most `m` elements are performed, and the instruction retires or waits before the next. -/
theorem State.Streams.runFlight (h : s.Streams f n e old) (hle : f.k ≤ f.vl) (m : Nat) : ∃ t, runFlight m s = .next t ∧
    (f.vl ≤ f.k + m → t.h.flight = none) ∧ (f.k + m < f.vl → t.h.vstart = BitVec.ofNat 18 (f.k + m)) := by
  obtain ⟨t, g, e', hrun, ht, hk, hvl, -⟩ := State.Streams.run m s f e h hle
  obtain ⟨u, hu, hdone, hmore⟩ := ht.settles
  have hpin : (if s.elemsLeft = 0 then .ok s else s.pinFlight) = (.ok s : Except Stop State) := by
    rw [pinFlight_elementwise h.flight h.op, ite_self]
  refine ⟨u, ?_, fun hm => hdone (by omega), fun hm => ?_⟩
  · rw [Machine.runFlight, hpin]
    dsimp only
    rw [h.storeHeld]
    dsimp only
    rw [hrun, hu]
  · rw [hmore (by omega), hk, min_eq_left hm.le]

end Stream

/-! ### Pieces -/

section Pieces
variable {s : State} {f : Flight} {n : Nat} {e old : Entry}

/-- A piece has the element that it is asked for (R149). -/
theorem lt_pieceEnd (t : ElemType) (k : Nat) : k < pieceEnd t k := by
  have hbits : 0 < elemBits t := by cases t <;> decide
  rw [pieceEnd, Nat.lt_iff_add_one_le, Nat.le_div_iff_mul_le hbits, Nat.succ_mul]
  omega

/-- The state in which the instruction under way goes on at VSTART. -/
def State.resumed (s : State) (f : Flight) : State := { s with h := { s.h with flight := some { f with k := s.h.vstart.toNat } } }

theorem execVectorPieceExecute_elementwise (hf : s.h.flight = some f) (hop : f.op.elementwise = true) (hd : f.dests = [(n, e, old)]) :
    execVectorPieceExecute s = runFlight (pieceEnd e.tag s.h.vstart.toNat - s.h.vstart.toNat) (s.resumed f) := by
  have htag : (f.dests.map (·.2.1.tag)).headD f.ty = e.tag := by rw [hd]; rfl
  rw [← htag]
  unfold execVectorPieceExecute
  rw [hf]
  dsimp only
  split
  case h_2 | h_3 | h_4 => rfl
  all_goals
    rename_i ho
    simp [VOp.elementwise, ho] at hop

/-- A computation that nothing stops performs its piece: it retires, or VSTART moves up (R149). -/
theorem State.Streams.piece (hf : s.h.flight = some f) (h : (s.resumed f).Streams { f with k := s.h.vstart.toNat } n e old)
    (hvl : f.vl < 2 ^ 18) (hle : s.h.vstart.toNat ≤ f.vl) :
    ∃ t, execVectorPieceExecute s = .next t ∧ (t.h.flight = none ∨ s.h.vstart.toNat < t.h.vstart.toNat) := by
  have hend := lt_pieceEnd e.tag s.h.vstart.toNat
  obtain ⟨t, ht, hdone, hmore⟩ := h.runFlight hle (pieceEnd e.tag s.h.vstart.toNat - s.h.vstart.toNat)
  refine ⟨t, (execVectorPieceExecute_elementwise hf h.op h.dests).trans ht, ?_⟩
  simp only [Nat.add_sub_cancel' hend.le] at hdone hmore
  rcases le_or_gt f.vl (pieceEnd e.tag s.h.vstart.toNat) with hall | hsome
  · exact .inl (hdone hall)
  · right
    rwa [hmore hsome, BitVec.toNat_ofNat, Nat.mod_eq_of_lt (hsome.trans hvl)]

end Pieces

/-! ### The wait for a swatch -/

section Wait
variable {s : State} {f : Flight} {t0 : Nat}

theorem execBoltWaitTimeout_stream (hf : s.h.flight = some f) (hs : f.boltSince = some t0) (ht : t0 + 10000 ≤ s.time) :
    execBoltWaitTimeout s = .next (takeTrap (NoRoom.bolt.trap s.h.vstart.toNat) false
      { s with h := Hart.halt { s.h with flight := some { f with boltSince := none } } }) := by
  simp only [execBoltWaitTimeout, hf, hs, ht, if_true]

theorem execBoltWaitTimeout_mread (hf : s.h.flight = none) (hw : s.h.wait = some { kind := .bolt, since := t0 }) (ht : t0 + 10000 ≤ s.time) :
    execBoltWaitTimeout s = .next (takeTrap (NoRoom.bolt.trap 0) false s) := by
  simp [execBoltWaitTimeout, hf, hw, ht]

end Wait

/-- Settles O33: an event performs elements that nothing stops, or retires or folds what is complete, or ends a wait. -/
theorem vectorEventsAdvance : Obligations.VectorEventsAdvance := by
  intro s f mm
  refine ⟨fun hf => (execInstructionRetire_idle mm hf).trans (congrArg _ (compared_eq s mm)), ?_,
    fun t0 hf hs ht => execBoltWaitTimeout_stream hf hs ht, fun t0 hf hw ht => execBoltWaitTimeout_mread hf hw ht,
    fun hf hop hc hp => execReductionBegin_completes hf hop ⟨clean_of_bolt hp, hc⟩, ?_⟩
  · intro hf hop hdone hp hr hd hs
    obtain ⟨t, ht, hpassed⟩ := execInstructionRetire_retires mm hf hop hdone hp hr hd hs
    rw [compared_hart] at hpassed
    exact ⟨t, ht, hpassed.flight, hpassed.vstart, hpassed.fflags, hpassed.pc, hpassed.x,
      fun hw hm => hpassed.mirror.trans (if_pos ⟨hw, hm⟩)⟩
  · intro n e old hf hd hs hop hvl hle hc hold hb hfree hr hp hbytes hend hsegs hclean hroom hturn hq
    have hop : f.op.elementwise = true := by
      rcases hop with ⟨o, h⟩ | ⟨o, h⟩ | ⟨a, b, c, h⟩ <;> rw [h] <;> rfl
    have hroom : s.Room e.spare := (room_of_swatchRoom hroom hturn).mono (by unfold Entry.spare; split <;> omega)
    have hheld : (s.resumed f).heldBack e.id = false := by
      rw [← hfree]
      apply heldBack_congr
      case hf => rw [hf]; rfl
      all_goals rfl
    refine State.Streams.piece hf (n := n) (e := e) (old := old) ?_ hvl hle
    exact { flight := rfl, dests := hd, op := hop, since := hs, fault := hp, bytes := hbytes, endBytes := hend,
            reads := ⟨clean_of_bolt hclean, hc⟩, complete := hold, retired := hb,
            grow := ⟨hsegs, ⟨hroom.quota, hroom.free, hroom.nodup, hroom.ranges, hroom.apart, hroom.turn⟩, clean_of_bolt hclean⟩,
            quiet := hq, mreads := hr, free := hheld }

end Sys2Proof.Machine
end

section
/-! What the reductions give of unmasked elements (08_draws R180, 07_vector R177): sums, extremes, counts and positions. -/

namespace Sys2Proof.Machine

/-! ### Elements with their indices -/

section Numbered
variable {i j n : Nat} {l : List Nat}

/-- The elements `l` with their indices from `i` on, as a fold takes them that is not masked. -/
def numbered (i : Nat) (l : List Nat) : List (Nat × Nat) := (l.zipIdx i).map Prod.swap

@[simp] theorem numbered_nil (i : Nat) : numbered i [] = [] := rfl

@[simp] theorem numbered_cons (i c : Nat) (l : List Nat) : numbered i (c :: l) = (i, c) :: numbered (i + 1) l := rfl

theorem numbered_snd (i : Nat) (l : List Nat) : (numbered i l).map Prod.snd = l := by
  rw [numbered, List.map_map]
  exact List.zipIdx_map_fst i l

theorem getElem?_numbered (i : Nat) (l : List Nat) (k : Nat) : (numbered i l)[k]? = l[k]?.map fun c => (i + k, c) := by
  rw [numbered, List.getElem?_map, List.getElem?_zipIdx, Option.map_map]
  rfl

/-- What stands among the numbered elements is an element with its own index. -/
theorem mem_numbered {x : Nat × Nat} (h : x ∈ numbered 0 l) : x.1 < l.length ∧ x.2 = l.getD x.1 0 := by
  obtain ⟨p, hp, rfl⟩ := List.mem_map.mp h
  have hp := List.mem_zipIdx_iff_getElem?.mp hp
  obtain ⟨hlt, -⟩ := List.getElem?_eq_some_iff.mp hp
  exact ⟨hlt, by simp [Prod.swap, List.getD_eq_getElem?_getD, hp]⟩

theorem numbered_mem (h : j < l.length) : (j, l.getD j 0) ∈ numbered 0 l := by
  refine List.mem_iff_getElem?.mpr ⟨j, ?_⟩
  rw [getElem?_numbered, List.getElem?_eq_getElem h, List.getD_eq_getElem l 0 h, Nat.zero_add]
  rfl

theorem count_numbered (p : Nat → Bool) (i : Nat) (l : List Nat) : ((numbered i l).filter fun x => p x.2).length = l.countP p := by
  rw [← List.countP_eq_length_filter]
  conv_rhs => rw [← numbered_snd i l, List.countP_map]
  rfl

theorem find_numbered (p : Nat → Bool) (l : List Nat) : ((numbered 0 l).find? fun x => p x.2).map Prod.fst = l.findIdx? p := by
  rw [List.findIdx?_eq_fst_find?_zipIdx, numbered, List.find?_map, Option.map_map]
  rfl

end Numbered

/-! ### Integer extremes -/

section Extremes
variable {max : Bool} {i j : Nat} {l : List Nat} {f : Nat → Int} {v : Int}

/-- Of the elements `l`, numbered from `i` on, number `j` has the extreme value `v`, and none before it has (R180). -/
def ExtremeFrom (max : Bool) (f : Nat → Int) (i : Nat) (l : List Nat) (j : Nat) (v : Int) : Prop :=
  ∃ k, j = i + k ∧ k < l.length ∧ v = f (l.getD k 0) ∧
    ∀ n, n < l.length → (if max then f (l.getD n 0) ≤ v else v ≤ f (l.getD n 0)) ∧ (n < k → f (l.getD n 0) ≠ v)

/-- Whether `v` goes beyond `u`. -/
def intBeyond (max : Bool) (u v : Int) : Bool := if max then decide (u < v) else decide (v < u)

theorem intExtreme_cons {r : List (Nat × Int)} {u : Int} (h : intExtreme max r = some (j, v)) :
    intExtreme max ((i, u) :: r) = if intBeyond max u v then some (j, v) else some (i, u) := by
  rw [intExtreme, h]
  rfl

theorem extremeFrom_single (c : Nat) : ExtremeFrom max f i [c] i (f c) := by
  refine ⟨0, rfl, Nat.one_pos, rfl, fun n hn => ⟨?_, fun h => absurd h n.not_lt_zero⟩⟩
  obtain rfl : n = 0 := Nat.lt_one_iff.mp hn
  split <;> exact le_rfl

/-- An extreme that goes beyond the element before it is the extreme with it. -/
theorem ExtremeFrom.keep (h : ExtremeFrom max f (i + 1) l j v) {c : Nat} (hc : intBeyond max (f c) v = true) :
    ExtremeFrom max f i (c :: l) j v := by
  obtain ⟨k, rfl, hk, hv, hall⟩ := h
  refine ⟨k + 1, by omega, Nat.succ_lt_succ hk, hv, fun n hn => ?_⟩
  cases n with
  | zero =>
    cases max with
    | false =>
      have hc : v < f c := of_decide_eq_true hc
      exact ⟨hc.le, fun _ => hc.ne'⟩
    | true =>
      have hc : f c < v := of_decide_eq_true hc
      exact ⟨hc.le, fun _ => hc.ne⟩
  | succ n =>
    obtain ⟨hle, hne⟩ := hall n (Nat.lt_of_succ_lt_succ hn)
    exact ⟨hle, fun h => hne (Nat.lt_of_succ_lt_succ h)⟩

/-- An element beyond which the extreme of those after it does not go is the extreme with them. -/
theorem ExtremeFrom.take (h : ExtremeFrom max f (i + 1) l j v) {c : Nat} (hc : intBeyond max (f c) v = false) :
    ExtremeFrom max f i (c :: l) i (f c) := by
  obtain ⟨k, -, -, -, hall⟩ := h
  refine ⟨0, rfl, Nat.succ_pos _, rfl, fun n hn => ⟨?_, fun h => absurd h n.not_lt_zero⟩⟩
  cases n with
  | zero => split <;> exact le_rfl
  | succ n =>
    have hle := (hall n (Nat.lt_of_succ_lt_succ hn)).1
    cases max with
    | false => exact (not_lt.mp (of_decide_eq_false hc)).trans hle
    | true => exact le_trans hle (not_lt.mp (of_decide_eq_false hc))

theorem intExtreme_spec (max : Bool) (f : Nat → Int) : ∀ (l : List Nat) (i : Nat), l ≠ [] →
    ∃ j v, intExtreme max ((numbered i l).map fun x => (x.1, f x.2)) = some (j, v) ∧ ExtremeFrom max f i l j v
  | [], _, h => absurd rfl h
  | [c], i, _ => ⟨i, f c, rfl, extremeFrom_single c⟩
  | c :: e :: r, i, _ => by
    obtain ⟨j, v, hr, hv⟩ := intExtreme_spec max f (e :: r) (i + 1) (List.cons_ne_nil _ _)
    rw [numbered_cons, List.map_cons, intExtreme_cons hr]
    cases hb : intBeyond max (f c) v with
    | false => exact ⟨i, f c, rfl, hv.take hb⟩
    | true => exact ⟨j, v, rfl, hv.keep hb⟩

/-- The integer extremes are those of the elements, at the lowest index that has them (R180). -/
theorem extreme_int {ty : ElemType} (ht : isInt ty = true) (hl : l ≠ []) :
    extremeAt ty max l (extreme max ty (numbered 0 l)).2.1 (extreme max ty (numbered 0 l)).1 := by
  obtain ⟨j, v, hr, k, hj, hk, hv, hall⟩ := intExtreme_spec max (intOf (isSigned ty) (elemBits ty)) l 0 hl
  obtain rfl : j = k := hj.trans (Nat.zero_add k)
  subst hv
  unfold extreme
  rw [if_pos ht, hr]
  exact ⟨hk, rfl, hall⟩

end Extremes

/-! ### Sums -/

section Sums
variable {a b c e i : Nat} {l : List Nat}

theorem reduce_int_sum {ty : ElemType} (gvl vl : Nat) (lg : BitVec 8) (ht : isInt ty = true) (l : List Nat) :
    (reduce .sum gvl lg vl ty (numbered 0 l)).lo = BitVec.ofInt 64 ((l.map (intOf (isSigned ty) (elemBits ty))).sum) := by
  have hmap : (numbered 0 l).map (fun x => intOf (isSigned ty) (elemBits ty) x.2) = l.map (intOf (isSigned ty) (elemBits ty)) := by
    conv_rhs => rw [← numbered_snd 0 l, List.map_map]
    rfl
  simp only [reduce, ht, if_true, hmap, intWord]

/-- An f32 number is converted to itself (R180). -/
theorem toF32_number (i : Nat) (h : nanCode c = false) : toF32 .f32 i c = (c, 0#9) := by
  have hsig : (valueOf .f32 i c).isSig = false := by
    change (f32Fmt.decode c).isNan = false at h
    change (f32Fmt.decode c).isSig = false
    cases hd : f32Fmt.decode c with
    | nan s => rw [hd] at h; cases h
    | inf n => rfl
    | fin n m e => rfl
  simp [toF32, convert, isInt, hsig]

theorem toF32_numbers : ∀ (i : Nat) (l : List Nat), (∀ e ∈ l, nanCode e = false) →
    ((numbered i l).map fun x => (x.1, (toF32 .f32 x.1 x.2).1)) = numbered i l
  | _, [], _ => rfl
  | i, c :: l, h => by
    obtain ⟨hc, hl⟩ := List.forall_mem_cons.mp h
    rw [numbered_cons, List.map_cons, toF32_numbers (i + 1) l hl, toF32_number i hc]

theorem orderedSum_fst (acc : Nat) (l : List (Nat × Nat)) :
    (orderedSum acc l).1 = (l.map Prod.snd).foldl (fun acc e => (addF32 acc e).1) acc := by
  induction l generalizing acc with
  | nil => rfl
  | cons x r ih => exact ih _

/-- An ordered sum of f32 numbers adds one after the other (02_numbers R48). -/
theorem reduce_osum_f32 (gvl vl : Nat) (lg : BitVec 8) (h : ∀ e ∈ c :: l, nanCode e = false) :
    (reduce .osum gvl lg vl .f32 (numbered 0 (c :: l))).lo =
      BitVec.ofNat 64 (canonF32 (l.foldl (fun acc e => (addF32 acc e).1) c)) := by
  have hint : isInt .f32 = false := rfl
  have hcodes := toF32_numbers 0 (c :: l) h
  rw [numbered_cons] at hcodes
  simp only [reduce, hint, Bool.false_eq_true, if_false, numbered_cons, List.map_map, Function.comp_def, hcodes, orderedSum_fst,
    numbered_snd, f32Word]

/-- A sum of f32 numbers in a free order is that of the free tree (02_numbers R49). -/
theorem reduce_sum_f32 (gvl vl : Nat) (lg : BitVec 8) (hne : l ≠ []) (h : ∀ e ∈ l, nanCode e = false) :
    (reduce .sum gvl lg vl .f32 (numbered 0 l)).lo =
      BitVec.ofNat 64 (canonF32 (freeSum (Config.redTree gvl lg vl) (numbered 0 l)).1) := by
  have hint : isInt .f32 = false := rfl
  cases l with
  | nil => exact absurd rfl hne
  | cons c r =>
    have hcodes := toF32_numbers 0 (c :: r) h
    rw [numbered_cons] at hcodes
    simp only [reduce, hint, Bool.false_eq_true, if_false, numbered_cons, List.map_map, Function.comp_def, hcodes, f32Word]

theorem canonF32_number (h : nanCode c = false) : canonF32 c = c := by simp [canonF32, h]

theorem addFin_comm (rm : Rounding) (x y : FVal) : addFin rm x y = addFin rm y x := by
  unfold addFin
  simp only [min_comm x.expo, add_comm (x.units _)]
  by_cases hn : x.neg = y.neg
  · simp [hn, Bool.and_comm]
  · simp [hn, Ne.symm hn]

theorem fvAdd_comm (rm : Rounding) (x y : FVal) : fvAdd rm x y = fvAdd rm y x := by
  cases x with
  | nan s => cases y <;> simp [fvAdd, FVal.isSig, Bool.or_comm]
  | inf n =>
    cases y with
    | nan s => simp [fvAdd, FVal.isSig]
    | inf k =>
      by_cases h : n = k
      · rw [h]
      · simp [fvAdd, h, Ne.symm h]
    | fin k m e => rfl
  | fin n m e =>
    cases y with
    | nan s => simp [fvAdd, FVal.isSig]
    | inf k => rfl
    | fin k p d => simp [fvAdd, addFin_comm rm (.fin n m e)]

theorem addF32_comm (a b : Nat) : addF32 a b = addF32 b a := by rw [addF32, fvAdd_comm, addF32]

/-- On either side of any tree two elements make one sum. -/
theorem treeSum_pair (side : Nat → Nat → Bool) (i c j e : Nat) : (treeSum side 2 1 [(i, c), (j, e)]).1 = (addF32 c e).1 := by
  cases hi : side 1 i with
  | false => cases hj : side 1 j <;> simp [treeSum, hi, hj, addF32_comm e]
  | true => cases hj : side 1 j <;> simp [treeSum, hi, hj]

/-- An infinity plus a finite number is the infinity, whatever the number. -/
theorem addF32_inf {n : Bool} (ha : f32Fmt.decode a = .inf n) (hb : nanCode b = false) (hb' : (f32Fmt.decode b).isInf = false) :
    addF32 a b = (f32Fmt.infinity n, 0#9) := by
  unfold nanCode at hb
  unfold addF32
  rw [ha]
  cases hd : f32Fmt.decode b with
  | nan s => rw [hd] at hb; cases hb
  | inf k => rw [hd] at hb'; cases hb'
  | fin k m e => simp [fvAdd, Fmt.deliverInv, Fmt.deliver, flagIf]

theorem addF32_inf_zero {n : Bool} (ha : f32Fmt.decode a = .inf n) : addF32 a 0 = (f32Fmt.infinity n, 0#9) :=
  addF32_inf ha (by decide) (by decide)

theorem freeSum_single (side : Nat → Nat → Bool) (h : nanCode c = false) : (freeSum side [(i, c)]).1 = c := by
  cases hi : (f32Fmt.decode c).isInf <;> simp [freeSum, h, hi, treeSum]

/-- The sum of two f32 numbers is theirs, whatever the tree: one that is infinite hides a finite one (02_numbers R49). -/
theorem freeSum_pair (side : Nat → Nat → Bool) (hc : nanCode c = false) (he : nanCode e = false) :
    (freeSum side [(0, c), (1, e)]).1 = (addF32 c e).1 := by
  have hinf {a : Nat} (ha : (f32Fmt.decode a).isInf = true) : ∃ n, f32Fmt.decode a = .inf n := by
    cases hd : f32Fmt.decode a with
    | inf n => exact ⟨n, rfl⟩
    | _ => rw [hd] at ha; cases ha
  cases hic : (f32Fmt.decode c).isInf with
  | false =>
    cases hie : (f32Fmt.decode e).isInf with
    | false => simp [freeSum, hc, he, hic, hie, treeSum_pair]
    | true =>
      obtain ⟨n, hn⟩ := hinf hie
      simp [freeSum, hc, he, hic, hie, treeSum_pair, addF32_comm _ e, addF32_inf_zero hn, addF32_inf hn hc hic]
  | true =>
    obtain ⟨n, hn⟩ := hinf hic
    cases hie : (f32Fmt.decode e).isInf with
    | false => simp [freeSum, hc, he, hic, hie, treeSum_pair, addF32_inf_zero hn, addF32_inf hn he hie]
    | true => simp [freeSum, hc, he, hic, hie, treeSum_pair]

end Sums
end Sys2Proof.Machine
end

section
/-! Draws of which just one weight is not zero, and the merge of two weights (08_draws R186, R187, R192 to R194). -/

namespace Sys2Proof.Machine

/-! ### f32 codes (02_numbers R34) -/

section Codes
variable {a b c m : Nat} {e : Int}

theorem f32_decode_eq (c : Nat) : f32Fmt.decode c =
    if c / 2 ^ 23 % 256 = 255 then (if c % 2 ^ 23 = 0 then .inf (bitOf c 31) else .nan (!bitOf (c % 2 ^ 23) 22))
    else if c / 2 ^ 23 % 256 = 0 then .fin (bitOf c 31) (c % 2 ^ 23) (-149)
    else .fin (bitOf c 31) (c % 2 ^ 23 + 2 ^ 23) ((c / 2 ^ 23 % 256 : Nat) - 127 - 23) := by
  have hieee : decide (f32Fmt.sp = .ieee) = true := rfl
  have hone : decide (f32Fmt.sp = .oneNan) = false := rfl
  unfold Fmt.decode
  simp only [hieee, hone, Bool.true_and, Bool.false_and, decide_eq_true_eq, Bool.false_eq_true, if_false]
  rfl

/-- The code of a positive finite number. -/
theorem f32_decode_pos (h : 0 < c) (hinf : c < 0x7F800000) : ∃ (m : Nat) (e : Int), f32Fmt.decode c = .fin false m e ∧ 0 < m ∧ -149 ≤ e := by
  have hsign : bitOf c 31 = false := by simp [bitOf]; omega
  rw [f32_decode_eq, if_neg (by omega), hsign]
  split
  · exact ⟨_, _, rfl, by omega, le_rfl⟩
  · exact ⟨_, _, rfl, by omega, by omega⟩

/-- The code of a zero of either sign. -/
theorem f32_decode_zero (h : c % 2 ^ 31 = 0) : ∃ n, f32Fmt.decode c = .fin n 0 (-149) := by
  refine ⟨bitOf c 31, ?_⟩
  rw [f32_decode_eq, if_neg (by omega), if_pos (by omega), show c % 2 ^ 23 = 0 by omega]

theorem f32_decode_finite (h : c % 2 ^ 31 < 0x7F800000) : ∃ (n : Bool) (m : Nat) (e : Int), f32Fmt.decode c = .fin n m e := by
  rw [f32_decode_eq, if_neg (by omega)]
  split
  · exact ⟨_, _, _, rfl⟩
  · exact ⟨_, _, _, rfl⟩

/-- Rounding in units of 2^sh gives no less than what is left of the magnitude (02_numbers R42). -/
theorem le_roundShift (rm : Rounding) (neg : Bool) (m : Nat) (sticky : Bool) (sh : Int) :
    (if sh ≤ 0 then m * 2 ^ (-sh).toNat else m / 2 ^ sh.toNat) ≤ (roundShift rm neg m sticky sh).1 := by
  unfold roundShift
  split
  · dsimp only
    split <;> omega
  · dsimp only
    split <;> omega

/-- In the units of the last place that f32 has there a magnitude above zero is one at least. -/
theorem roundShift_pos (hm : 0 < m) (he : -149 ≤ e) :
    0 < (roundShift .rne false m false (max (e + bitLen m - 24) (-149) - e)).1 := by
  refine lt_of_lt_of_le ?_ (le_roundShift _ _ _ _ _)
  split
  · positivity
  · next h =>
    have hlen : ¬bitLen m ≤ bitLen m - 1 := by
      unfold bitLen
      rw [if_neg hm.ne']
      omega
    rw [bitLen_le_iff, not_lt] at hlen
    refine Nat.div_pos ((Nat.pow_le_pow_right Nat.two_pos ?_).trans hlen) (by positivity)
    omega

/-- The code of `k` units of 2^q, without the sign: a carry out of the mantissa moves the exponent up (02_numbers R34). -/
def Fmt.unitsCode (f : Fmt) (k : Nat) (q : Int) : Int :=
  let big := decide (k = 2 ^ (f.mb + 1))
  let k1 := if big then k / 2 else k
  let q1 := if big then q + 1 else q
  (if k1 < 2 ^ f.mb then (0 : Int) else q1 + f.mb + f.bias) * 2 ^ f.mb + (if k1 < 2 ^ f.mb then (k1 : Int) else k1 - 2 ^ f.mb)

theorem f32_unitsCode_pos {k : Nat} {q : Int} (hk : 0 < k) (hq : -149 ≤ q) : 0 < f32Fmt.unitsCode k q := by
  unfold Fmt.unitsCode
  extract_lets big k1 q1
  have hk1 : 0 < k1 := by
    simp only [k1]
    split
    · next h =>
      have h : k = 2 ^ 24 := of_decide_eq_true h
      omega
    · exact hk
  have hq1 : -149 ≤ q1 := by
    simp only [q1]
    split <;> omega
  clear_value k1 q1
  show (0 : Int) < (if k1 < 2 ^ 23 then 0 else q1 + 23 + 127) * 2 ^ 23 + (if k1 < 2 ^ 23 then (k1 : Int) else k1 - 2 ^ 23)
  by_cases h : k1 < 2 ^ 23
  · rw [if_pos h, if_pos h]
    omega
  · rw [if_neg h, if_neg h]
    omega

/-- A positive number rounded to nearest is the code of its units, or that of infinity (R42, R44). -/
theorem f32_round_rne (hm : 0 < m) (e : Int) : (f32Fmt.round .rne false false m e false).1 =
    let q := max (e + bitLen m - 24) (-149)
    let c := f32Fmt.unitsCode (roundShift .rne false m false (q - e)).1 q
    if 0x7F7FFFFF < c then 0x7F800000 else c.toNat := by
  have hpack (c : Nat) : f32Fmt.pack false 0 c = c := by simp [Fmt.pack]
  dsimp only
  rw [← hpack (Int.toNat _)]
  unfold Fmt.round
  rw [if_neg (by simp; omega)]
  exact apply_ite Prod.fst _ _ _

/-- A number above zero rounds to a code that is not that of a zero, where f32 has its last place. -/
theorem zeroW_round (hm : 0 < m) (he : -149 ≤ e) : zeroW (f32Fmt.round .rne false false m e false).1 = false := by
  have hpos := f32_unitsCode_pos (roundShift_pos hm he) (le_max_right (e + bitLen m - 24) (-149))
  rw [f32_round_rne hm]
  dsimp only
  refine decide_eq_false ?_
  split <;> omega

theorem addFin_pos {m k : Nat} {e d : Int} (hm : 0 < m) (hk : 0 < k) :
    ∃ j, addFin .rne (.fin false m e) (.fin false k d) = .fin false j (min e d) ∧ 0 < j := by
  have hpos (n : Nat) (hn : 0 < n) (z x : Int) : 0 < FVal.units (.fin false n z) x := by
    simp [FVal.units]
    positivity
  have h1 := hpos m hm e (min e d)
  have h2 := hpos k hk d (min e d)
  refine ⟨((FVal.fin false m e).units (min e d) + (FVal.fin false k d).units (min e d)).natAbs, ?_, by omega⟩
  unfold addFin
  dsimp only [FVal.expo]
  rw [if_neg (by omega), decide_eq_false (by omega)]

/-- The sum of two positive finite weights is not zero. -/
theorem zeroW_addF32 (ha : 0 < a) (ha' : a < 0x7F800000) (hb : 0 < b) (hb' : b < 0x7F800000) : zeroW (addF32 a b).1 = false := by
  obtain ⟨m, e, hda, hm, he⟩ := f32_decode_pos ha ha'
  obtain ⟨k, d, hdb, hk, hd⟩ := f32_decode_pos hb hb'
  obtain ⟨j, hj, hpos⟩ := addFin_pos (e := e) (d := d) hm hk
  have hsum : (addF32 a b).1 = (f32Fmt.round .rne false false j (min e d) false).1 := by
    unfold addF32
    rw [hda, hdb]
    simp only [fvAdd, hj, Fmt.deliverInv, Fmt.deliver]
  rw [hsum]
  exact zeroW_round hpos (le_min he hd)

end Codes

/-! ### Weights (R187) -/

section Weights
variable {c : Nat}

theorem zeroW_iff : zeroW c = true ↔ c % 2 ^ 31 = 0 := decide_eq_true_iff

/-- A finite weight that is not negative, or a zero: it counts as it is. -/
def CountsAsIs (c : Nat) : Prop := leafWeight c = (c, 0#9) ∧ c ≠ infCode

theorem infCode_eq : infCode = 0x7F800000 := rfl

theorem countsAsIs_zero (h : c % 2 ^ 31 = 0) : CountsAsIs c := by
  obtain ⟨n, hn⟩ := f32_decode_zero h
  refine ⟨?_, by rw [infCode_eq]; omega⟩
  unfold leafWeight
  rw [hn]
  simp [FVal.isZero]

theorem countsAsIs_finite (h : c < 0x7F800000) : CountsAsIs c := by
  rcases Nat.eq_zero_or_pos c with rfl | hpos
  · exact countsAsIs_zero rfl
  · obtain ⟨m, e, hd, -, -⟩ := f32_decode_pos hpos h
    refine ⟨?_, by rw [infCode_eq]; omega⟩
    unfold leafWeight
    rw [hd]
    simp [FVal.neg]

end Weights

/-! ### The tree (R186) -/

section Tree
variable {coin : Nat → FVal} {l : List (Nat × Nat)} {p : Nat × Nat} {k : Nat}

/-- Whether a pair of the tree has a weight. -/
def weighs (p : Nat × Nat) : Bool := !zeroW p.2

theorem mergePair_left {m : Nat} {x y : Nat × Nat} (h : weighs y = false) : mergePair coin m x y = (x, false) :=
  if_pos (by simpa [weighs] using h)

theorem mergePair_right {m : Nat} {x y : Nat × Nat} (h : weighs y = true) (hx : weighs x = false) : mergePair coin m x y = (y, false) :=
  (if_neg (by simpa [weighs] using h)).trans (if_pos (by simpa [weighs] using hx))

/-- One level up, of at most one pair that has a weight that pair is left. -/
theorem drawLevel_weighs (w m low : Nat) (l : List (Nat × Nat)) (h : (l.filter weighs).length ≤ 1) :
    (drawLevel coin w m low l).1.filter weighs = l.filter weighs := by
  fun_induction drawLevel coin w m low l with
  | case1 m low x y r p q ih =>
    have hr : (r.filter weighs).length ≤ 1 :=
      (((List.sublist_cons_self y r).trans (List.sublist_cons_self x _)).filter weighs).length_le.trans h
    cases hy : weighs y with
    | false =>
      have hp : p = (x, false) := mergePair_left hy
      simp [hp, List.filter_cons, hy, q, ih hr]
    | true =>
      have hx : weighs x = false := Bool.eq_false_iff.mpr fun hx => by simp [hx, hy] at h
      have hp : p = (y, false) := mergePair_right hy hx
      simp [hp, hx, hy, q, ih hr]
  | case2 => rfl

theorem drawLevel_length (w m low : Nat) (l : List (Nat × Nat)) : (drawLevel coin w m low l).1.length = (l.length + 1) / 2 := by
  fun_induction drawLevel coin w m low l with
  | case1 m low x y r p q ih => simp only [List.length_cons, q, ih]; omega
  | case2 m low l h =>
    match l with
    | [] => rfl
    | [y] => simp
    | x :: y :: r => exact (h x y r rfl).elim

/-- Of 2^k leaves of which just one has a weight that one is drawn, whatever the coins. -/
theorem drawTree_single : ∀ (k base w : Nat) (l : List (Nat × Nat)), l.length = 2 ^ k → l.filter weighs = [p] →
    (drawTree coin k base w l).1 = p
  | 0, _, _, l, hlen, hp => by
    obtain ⟨q, rfl⟩ := List.length_eq_one_iff.mp hlen
    have hq : p ∈ [q] := List.mem_of_mem_filter (p := weighs) (hp ▸ List.mem_singleton_self p)
    exact (List.mem_singleton.mp hq).symm
  | k + 1, base, w, l, hlen, hp => by
    refine drawTree_single k _ _ _ ?_ ((drawLevel_weighs w base 0 l (by simp [hp])).trans hp)
    rw [drawLevel_length, hlen, pow_succ]
    omega

theorem le_two_pow_levels (n : Nat) : n ≤ 2 ^ levels n := by
  have h := bitLen_le_iff.mp (le_refl (bitLen (n - 1)))
  unfold levels
  omega

/-- Of leaves whose weights count as they are, and of which just one has a weight, that one is drawn (R186, R187). -/
theorem drawOver_single {leaves : List (Nat × Nat × Nat)} (hw : ∀ x ∈ leaves, CountsAsIs x.2.2)
    (hp : (leaves.map Prod.snd).filter weighs = [p]) :
    (drawOver coin leaves).lo = BitVec.ofNat 64 p.1 ∧ (drawOver coin leaves).hi = some (BitVec.ofNat 64 p.2) := by
  have hinf : ((leaves.map fun x => (x.1, x.2.1, leafWeight x.2.2)).any fun x => x.2.2.1 = infCode) = false := by
    rw [List.any_map]
    exact List.any_eq_false.mpr fun x hx => by simp [(hw x hx).1, (hw x hx).2]
  have hps : (leaves.map fun x => (x.2.1, (leafWeight x.2.2).1)) = leaves.map Prod.snd :=
    List.map_congr_left fun x hx => by rw [(hw x hx).1]
  have htree : (drawTree coin (levels leaves.length) (2 ^ levels leaves.length / 2) 2
      (leaves.map Prod.snd ++ List.replicate (2 ^ levels leaves.length - leaves.length) (noIndex, 0))).1 = p := by
    refine drawTree_single _ _ _ _ ?_ ?_
    · rw [List.length_append, List.length_map, List.length_replicate, Nat.add_sub_cancel' (le_two_pow_levels _)]
    · rw [List.filter_append, hp, List.filter_replicate_of_neg (by decide), List.append_nil]
  have hz : zeroW p.2 = false := by
    have hm : p ∈ (leaves.map Prod.snd).filter weighs := hp ▸ List.mem_singleton_self p
    simpa [weighs] using (List.mem_filter.mp hm).2
  unfold drawOver
  simp only [hinf, Bool.false_eq_true, if_false, List.map_map, Function.comp_def, hps, htree, hz]
  exact ⟨trivial, rfl⟩

end Tree
end Sys2Proof.Machine
end

section
/-! The draws over elements that are not masked, of which one is clear, and xdmerge (08_draws R191 to R194). -/

namespace Sys2Proof.Machine

/-! ### Leaves -/

section Leaves
variable {coin : Nat → FVal} {n j w : Nat} {l ix : List Nat}

/-- Of pairs by index of which just number `j` has a weight that one is left. -/
theorem filter_weighs_range {g : Nat → Nat × Nat} (hj : j < n) (h : ∀ i, i < n → weighs (g i) = (i == j)) :
    ((List.range n).map g).filter weighs = [g j] := by
  have hfilter : (List.range n).filter (weighs ∘ g) = (List.range n).filter fun i => i == j :=
    List.filter_congr fun i hi => h i (List.mem_range.mp hi)
  rw [List.filter_map, hfilter, List.filter_beq, List.count_range, if_pos hj]
  rfl

/-- A numbered element is found by its index. -/
theorem find_index {β : Type} (l : List Nat) (g : Nat → Nat → β) {i : Nat} (hi : i < l.length) :
    ((numbered 0 l).map fun x => (x.1, g x.1 x.2)).find? (fun x => x.1 = i) = some (i, g i (l.getD i 0)) := by
  rw [List.find?_map]
  have hmem : (i, l.getD i 0) ∈ numbered 0 l := numbered_mem hi
  have hsome : ((numbered 0 l).find? ((fun x : Nat × β => decide (x.1 = i)) ∘ fun x => (x.1, g x.1 x.2))).isSome = true :=
    List.find?_isSome.mpr ⟨_, hmem, by simp⟩
  obtain ⟨x, hx⟩ := Option.isSome_iff_exists.mp hsome
  have hxi : x.1 = i := by simpa using List.find?_some hx
  obtain ⟨-, hval⟩ := mem_numbered (List.mem_of_find?_eq_some hx)
  rw [hx, Option.map_some, hval, hxi]

/-- Of the weights by index just number `j` is not zero, and all count as they are. -/
def Clear (n j : Nat) (w : Nat → Nat) : Prop := j < n ∧ ∀ i, i < n → CountsAsIs (w i) ∧ zeroW (w i) = (i != j)

/-- A draw over leaves of which one is clear (R186). -/
theorem drawOver_clear {w ixs : Nat → Nat} (h : Clear n j w) :
    (drawOver coin ((List.range n).map fun i => (i, ixs i, w i))).lo = BitVec.ofNat 64 (ixs j) ∧
    (drawOver coin ((List.range n).map fun i => (i, ixs i, w i))).hi = some (BitVec.ofNat 64 (w j)) := by
  obtain ⟨hj, hw⟩ := h
  refine drawOver_single (p := (ixs j, w j)) ?_ ?_
  · rintro x hx
    obtain ⟨i, hi, rfl⟩ := List.mem_map.mp hx
    exact (hw i (List.mem_range.mp hi)).1
  · rw [List.map_map]
    exact filter_weighs_range (g := fun i => (ixs i, w i)) hj fun i hi => by simp [weighs, (hw i hi).2, bne]

theorem clear_of_onlyWeight (h : onlyWeight l j) : Clear l.length j fun i => l.getD i 0 := by
  obtain ⟨hj, hpos, hfin, hzero⟩ := h
  refine ⟨hj, fun i hi => ?_⟩
  by_cases hij : i = j
  · subst hij
    have hw : zeroW (l.getD i 0) = false := decide_eq_false (by omega)
    exact ⟨countsAsIs_finite hfin, hw.trans (bne_self_eq_false' i).symm⟩
  · have hz := hzero i hi hij
    exact ⟨countsAsIs_zero hz, (zeroW_iff.mpr hz).trans (bne_iff_ne.mpr hij).symm⟩

end Leaves

/-! ### Draws over the elements -/

section Draws
variable {coin : Nat → FVal} {op : VRed} {dtemp n j : Nat} {l ix : List Nat} {act ixs : List (Nat × Nat)}

/-- The weights that a draw forms of the active elements (R191 to R193). -/
def drawWeights (op : VRed) (dtemp : Nat) (act : List (Nat × Nat)) : List (Nat × Nat × Flags) :=
  match op with
  | .drawt => logitWeights dtemp act
  | _ => act.map fun x => (x.1, x.2, 0#9)

/-- The index that leaf `i` carries (R193). -/
def carried (op : VRed) (ixs : List (Nat × Nat)) (i : Nat) : Nat :=
  if op = .drawp then ((ixs.find? fun y => y.1 = i).map (·.2)).getD noIndex else i

/-- The leaves of a draw with their weights, which are 0 where none is formed. -/
def drawLeaves (op : VRed) (ws : List (Nat × Nat × Flags)) (ixs : List (Nat × Nat)) (n : Nat) : List (Nat × Nat × Nat) :=
  (List.range n).map fun i =>
    match ws.find? fun x => x.1 = i with
    | some x => (i, carried op ixs i, x.2.1)
    | none => (i, i, 0)

theorem draw_eq (op : VRed) (coin : Nat → FVal) (dtemp n : Nat) (act ixs : List (Nat × Nat)) :
    (draw op coin dtemp n act ixs).lo = (drawOver coin (drawLeaves op (drawWeights op dtemp act) ixs n)).lo ∧
    (draw op coin dtemp n act ixs).hi = (drawOver coin (drawLeaves op (drawWeights op dtemp act) ixs n)).hi := ⟨rfl, rfl⟩

/-- Where each element's weight is formed, the clear one is drawn (R186). -/
theorem draw_clear {g : Nat → Nat → Nat} (hw : drawWeights op dtemp act = (numbered 0 l).map fun x => (x.1, g x.1 x.2, 0#9))
    (h : Clear l.length j fun i => g i (l.getD i 0)) :
    (draw op coin dtemp l.length act ixs).lo = BitVec.ofNat 64 (carried op ixs j) ∧
    (draw op coin dtemp l.length act ixs).hi = some (BitVec.ofNat 64 (g j (l.getD j 0))) := by
  have hleaves : drawLeaves op (drawWeights op dtemp act) ixs l.length =
      (List.range l.length).map fun i => (i, carried op ixs i, g i (l.getD i 0)) :=
    List.map_congr_left fun i hi => by
      rw [hw, find_index l (fun i c => (g i c, 0#9)) (List.mem_range.mp hi)]
  rw [(draw_eq ..).1, (draw_eq ..).2, hleaves]
  exact drawOver_clear h

theorem carried_numbered (hj : j < ix.length) : carried .drawp (numbered 0 ix) j = ix.getD j 0 := by
  have hfind := find_index ix (fun _ c => c) hj
  rw [List.map_id'' fun _ => rfl] at hfind
  rw [carried, if_pos rfl, hfind]
  rfl

/-- vdraw picks the only weight (R191). -/
theorem draw_onlyWeight (h : onlyWeight l j) :
    (draw .draw coin dtemp l.length (numbered 0 l) []).lo = BitVec.ofNat 64 j ∧
    (draw .draw coin dtemp l.length (numbered 0 l) []).hi = some (BitVec.ofNat 64 (l.getD j 0)) :=
  draw_clear (g := fun _ c => c) rfl (clear_of_onlyWeight h)

/-- vdrawp picks the only weight, with the index that it carries (R193). -/
theorem drawp_onlyWeight (h : onlyWeight l j) (hix : ix.length = l.length) :
    (draw .drawp coin dtemp l.length (numbered 0 l) (numbered 0 ix)).lo = BitVec.ofNat 64 (ix.getD j 0) ∧
    (draw .drawp coin dtemp l.length (numbered 0 l) (numbered 0 ix)).hi = some (BitVec.ofNat 64 (l.getD j 0)) := by
  have hj : j < ix.length := hix ▸ h.1
  rw [← carried_numbered hj]
  exact draw_clear (g := fun _ c => c) rfl (clear_of_onlyWeight h)

end Draws

/-! ### Logits (R192) -/

section Logits
variable {coin : Nat → FVal} {dtemp i j : Nat} {l : List Nat} {u v : FVal} {vs r : List (Nat × FVal)}

/-- Whether `v` goes beyond `u` in the order of R181. -/
def floatBeyond (max : Bool) (u v : FVal) : Bool := if max then fvBelow u v else fvBelow v u

theorem floatExtreme_cons {max : Bool} {y : Nat × FVal} (hr : floatExtreme max r = some y) (hu : u.isNan = false) :
    floatExtreme max ((i, u) :: r) = if floatBeyond max u y.2 then some y else some (i, u) := by
  rw [floatExtreme, hr]
  simp [hu, floatBeyond]

/-- The extreme of numbers is one of them (R181). -/
theorem floatExtreme_mem (max : Bool) : ∀ (vs : List (Nat × FVal)), vs ≠ [] → (∀ x ∈ vs, x.2.isNan = false) →
    ∃ x ∈ vs, floatExtreme max vs = some x
  | [], h, _ => absurd rfl h
  | [(i, u)], _, hn => by
    have hu : u.isNan = false := hn _ (List.mem_singleton_self _)
    exact ⟨_, List.mem_singleton_self _, by simp [floatExtreme, hu]⟩
  | (i, u) :: y :: r, _, hn => by
    obtain ⟨hu, hr⟩ := List.forall_mem_cons.mp hn
    obtain ⟨x, hx, hm⟩ := floatExtreme_mem max (y :: r) (List.cons_ne_nil _ _) hr
    rw [floatExtreme_cons hm hu]
    cases floatBeyond max u x.2 with
    | false => exact ⟨_, List.mem_cons_self, rfl⟩
    | true => exact ⟨x, List.mem_cons_of_mem _ hx, rfl⟩

theorem fvBelow_lowest (hu : u.isNan = false) : fvBelow u (.inf true) = false ∧ (u ≠ .inf true → fvBelow (.inf true) u = true) := by
  cases u with
  | nan s => cases hu
  | inf n => cases n <;> decide
  | fin n m e => exact ⟨rfl, fun _ => rfl⟩

/-- The largest of numbers is −∞ only where all are. -/
theorem floatExtreme_lowest : ∀ (vs : List (Nat × FVal)) (i : Nat), (∀ x ∈ vs, x.2.isNan = false) →
    floatExtreme true vs = some (i, .inf true) → ∀ x ∈ vs, x.2 = .inf true
  | [], _, _, _ => by simp
  | [(j, u)], i, hn, h => by
    have hu : u.isNan = false := hn _ (List.mem_singleton_self _)
    simp only [floatExtreme, hu, Bool.false_eq_true, if_false, Option.some_inj, Prod.mk.injEq] at h
    simp [h.2]
  | (j, u) :: y :: r, i, hn, h => by
    obtain ⟨hu, hr⟩ := List.forall_mem_cons.mp hn
    obtain ⟨⟨k, w⟩, hx, hm⟩ := floatExtreme_mem true (y :: r) (List.cons_ne_nil _ _) hr
    rw [floatExtreme_cons hm hu] at h
    dsimp only at h hu
    have hlow : fvBelow u w = false ∧ u = .inf true := by
      change (if fvBelow u w then some (k, w) else some (j, u)) = _ at h
      split at h
      · next hb =>
        rw [Option.some_inj, Prod.mk.injEq] at h
        rw [h.2, (fvBelow_lowest hu).1] at hb
        cases hb
      · next hb =>
        rw [Option.some_inj, Prod.mk.injEq] at h
        exact ⟨Bool.eq_false_iff.mpr hb, h.2⟩
    have hw : w = .inf true := by
      by_contra hne
      have hb := (fvBelow_lowest (hr _ hx)).2 hne
      rw [hlow.2, hb] at hlow
      exact absurd hlow.1 (by decide)
    exact List.forall_mem_cons.mpr ⟨hlow.2, floatExtreme_lowest (y :: r) k hr (hw ▸ hm)⟩

/-- Where one logit is a number and the others are −∞ the largest is that number. -/
theorem floatExtreme_clear (hv : (j, v) ∈ vs) (hne : v ≠ .inf true) (hn : v.isNan = false) (h : ∀ x ∈ vs, x.2 = .inf true ∨ x.2 = v) :
    ∃ i, floatExtreme true vs = some (i, v) := by
  have hnan : ∀ x ∈ vs, x.2.isNan = false := fun x hx => by
    rcases h x hx with hx | hx
    · rw [hx]; rfl
    · rw [hx, hn]
  obtain ⟨⟨i, u⟩, hu, hm⟩ := floatExtreme_mem true vs (List.ne_nil_of_mem hv) hnan
  rcases h _ hu with hu | hu
  · exact absurd (floatExtreme_lowest vs i hnan (hm.trans (by rw [← hu])) _ hv) hne
  · exact ⟨i, by rw [hm, ← hu]⟩

theorem fvEq_self {n : Bool} {m : Nat} {e : Int} : fvEq (.fin n m e) (.fin n m e) = true := decide_eq_true rfl

/-- The weights that vdrawt forms of one finite logit and of −∞: 1 and 0, whatever DTEMP holds (R192). -/
theorem logitWeights_clear (dtemp : Nat) (hj : j < l.length) (hfin : l.getD j 0 % 2 ^ 31 < 0x7F800000)
    (hinf : ∀ i, i < l.length → i ≠ j → l.getD i 0 = 0xFF800000) :
    logitWeights dtemp (numbered 0 l) = (numbered 0 l).map fun x => (x.1, if x.1 = j then oneCode else 0, 0#9) := by
  obtain ⟨n, m, e, hv⟩ := f32_decode_finite hfin
  have hlow : f32Fmt.decode 0xFF800000 = .inf true := by decide
  have hval : ∀ x ∈ numbered 0 l, f32Fmt.decode x.2 = if x.1 = j then .fin n m e else .inf true := by
    intro x hx
    obtain ⟨hlt, hx⟩ := mem_numbered hx
    split
    · next h => rw [hx, h, hv]
    · next h => rw [hx, hinf _ hlt h, hlow]
  have hall : ∀ x ∈ (numbered 0 l).map fun x => (x.1, f32Fmt.decode x.2), x.2 = .inf true ∨ x.2 = .fin n m e := by
    intro x hx
    obtain ⟨y, hy, rfl⟩ := List.mem_map.mp hx
    dsimp only
    rw [hval y hy]
    split
    · exact .inr rfl
    · exact .inl rfl
  have hmem : (j, FVal.fin n m e) ∈ (numbered 0 l).map fun x => (x.1, f32Fmt.decode x.2) :=
    List.mem_map.mpr ⟨_, numbered_mem hj, by rw [hv]⟩
  obtain ⟨i, hi⟩ := floatExtreme_clear hmem (by simp) rfl hall
  unfold logitWeights
  simp only [hi]
  refine List.map_congr_left fun x hx => ?_
  rw [hval x hx]
  by_cases h : x.1 = j
  · simp [h, FVal.isNan, fvEq_self]
  · simp [h, FVal.isNan]

/-- vdrawt picks the only finite logit, with weight 1 (R192). -/
theorem drawt_clear (hj : j < l.length) (hfin : l.getD j 0 % 2 ^ 31 < 0x7F800000)
    (hinf : ∀ i, i < l.length → i ≠ j → l.getD i 0 = 0xFF800000) :
    (draw .drawt coin dtemp l.length (numbered 0 l) []).lo = BitVec.ofNat 64 j ∧
    (draw .drawt coin dtemp l.length (numbered 0 l) []).hi = some 0x3F800000#64 := by
  have hclear : Clear l.length j fun i => if i = j then oneCode else 0 := by
    refine ⟨hj, fun i _ => ?_⟩
    by_cases h : i = j
    · subst h
      simp only [if_true, bne_self_eq_false]
      exact ⟨countsAsIs_finite (by decide), by decide⟩
    · simp only [if_neg h, bne_iff_ne.mpr h]
      exact ⟨countsAsIs_zero rfl, rfl⟩
  obtain ⟨hlo, hhi⟩ := draw_clear (coin := coin) (op := .drawt) (ixs := []) (g := fun i _ => if i = j then oneCode else 0)
    (logitWeights_clear dtemp hj hfin hinf) hclear
  refine ⟨hlo, hhi.trans ?_⟩
  rw [if_pos rfl]
  rfl

end Logits

/-! ### The merge of two pairs (R194) -/

section Merge
variable {coin : Nat → FVal} {il ir wl wr : Nat}

/-- Whether the coin times the total of two weights is less than the right one (R186). -/
def rightWins (coin : FVal) (wl wr : Nat) : Bool :=
  fvLt (f32Fmt.decode (f32Fmt.deliverInv .rne (fvMul coin (f32Fmt.decode (addF32 wl wr).1))).1) (f32Fmt.decode wr)

/-- The pair that a merge of two finite weights gives. -/
def mergedPair (coin : FVal) (il wl ir wr : Nat) : Nat × Nat :=
  if wr = 0 then (if wl = 0 then (noIndex, 0) else (il, wl))
  else if wl = 0 then (ir, wr) else (if rightWins coin wl wr then ir else il, (addF32 wl wr).1)

theorem zeroW_finite {c : Nat} (h : c < 0x7F800000) : zeroW c = decide (c = 0) := decide_eq_decide.mpr (by omega)

theorem mergePair_finite (m : Nat) (hl : wl < 0x7F800000) (hr : wr < 0x7F800000) :
    (mergePair coin m (il, wl) (ir, wr)).1 =
      if wr = 0 then (il, wl) else if wl = 0 then (ir, wr) else (if rightWins (coin m) wl wr then ir else il, (addF32 wl wr).1) := by
  unfold mergePair
  simp only [zeroW_finite hl, zeroW_finite hr, decide_eq_true_eq]
  rw [apply_ite Prod.fst, apply_ite Prod.fst]
  rfl

/-- xdmerge of two finite weights that are not negative (R194). -/
theorem mergeDraws_finite (hl : wl < 0x7F800000) (hr : wr < 0x7F800000) :
    (mergeDraws coin (il, wl) (ir, wr)).lo = BitVec.ofNat 64 (mergedPair (coin 0x7FFFFFFF) il wl ir wr).1 ∧
    (mergeDraws coin (il, wl) (ir, wr)).hi = some (BitVec.ofNat 64 (mergedPair (coin 0x7FFFFFFF) il wl ir wr).2) := by
  obtain ⟨hwl, hil⟩ := countsAsIs_finite hl
  obtain ⟨hwr, hir⟩ := countsAsIs_finite hr
  have hpair := mergePair_finite (coin := coin) (il := il) (ir := ir) 0x7FFFFFFF hl hr
  unfold mergeDraws
  simp only [hwl, hwr, hil, hir, decide_false, Bool.or_self, Bool.false_eq_true, if_false, hpair]
  unfold mergedPair
  by_cases h0r : wr = 0
  · by_cases h0l : wl = 0
    · simp [h0r, h0l, zeroW]
    · simp [h0r, h0l, zeroW_finite hl, f32Word]
  · by_cases h0l : wl = 0
    · simp [h0r, h0l, zeroW_finite hr, f32Word]
    · have htotal := zeroW_addF32 (Nat.pos_of_ne_zero h0l) hl (Nat.pos_of_ne_zero h0r) hr
      simp [h0r, h0l, htotal, f32Word]

end Merge
end Sys2Proof.Machine
end

section
/-! A fold from its issue to its end (08_draws R180 to R185, 07_vector R177); O30 is settled. -/

namespace Sys2Proof.Machine

/-! ### The hart after a fold -/

section AfterFold
variable {h : Hart} {d r : Reg} {out : RedOut} {w : Word}

theorem nextReg_ne (d : Reg) : nextReg d ≠ d := by
  unfold nextReg
  simp

/-- The hart with the flags of a fold, and the trap held that they raise (R185). -/
def Hart.flagged (h : Hart) (out : RedOut) : Hart :=
  { h with fflags := h.fflags ||| flagsAll out.flags, fex := fexAll h.fex out.flags, vstart := 0#18,
           held := h.held ++ (lateTrap h out.flags).toList }

theorem afterFold_single (hw : out.hi = none) : h.afterFold d out = (h.flagged out).wx d out.lo := by
  simp only [Hart.afterFold, hw]
  rfl

theorem afterFold_pair (hw : out.hi = some w) : h.afterFold d out = ((h.flagged out).wx d out.lo).wx (nextReg d) w := by
  simp only [Hart.afterFold, hw]
  rfl

theorem afterFold_rx_ne (hd : r ≠ d) (hn : out.hi ≠ none → r ≠ nextReg d) : (h.afterFold d out).rx r = h.rx r := by
  cases hw : out.hi with
  | none =>
    rw [afterFold_single hw, Hart.rx_wx_ne _ _ _ _ hd]
    rfl
  | some w =>
    rw [afterFold_pair hw, Hart.rx_wx_ne _ _ _ _ (hn (by simp [hw])), Hart.rx_wx_ne _ _ _ _ hd]
    rfl

theorem afterFold_rx_lo (hd : d ≠ 0#7) : (h.afterFold d out).rx d = out.lo := by
  cases hw : out.hi with
  | none => rw [afterFold_single hw, rx_wx_same _ hd]
  | some w => rw [afterFold_pair hw, Hart.rx_wx_ne _ _ _ _ (nextReg_ne d).symm, rx_wx_same _ hd]

theorem afterFold_rx_hi (hw : out.hi = some w) (hd : nextReg d ≠ 0#7) : (h.afterFold d out).rx (nextReg d) = w := by
  rw [afterFold_pair hw, rx_wx_same _ hd]

theorem afterFold_names (h : Hart) (d : Reg) (out : RedOut) : (h.afterFold d out).names = h.names := by
  cases hw : out.hi with
  | none => simp [afterFold_single hw, Hart.flagged]
  | some w => simp [afterFold_pair hw, Hart.flagged]

theorem afterFold_dctr (h : Hart) (d : Reg) (out : RedOut) : (h.afterFold d out).dctr = h.dctr := by
  cases hw : out.hi with
  | none => simp [afterFold_single hw, Hart.flagged]
  | some w => simp [afterFold_pair hw, Hart.flagged]

end AfterFold

/-! ### Issue -/

section Issue
variable {s : State} {v : VSpec} {op : VOp}

/-- The members that fold: the reductions and draws but vrand, vmcount and vmlow. -/
theorem VOp.folds_cases (h : op.folds = true) : (∃ o, o ≠ .rand ∧ op = .red o) ∨ op = .mask .count ∨ op = .mask .low := by
  unfold VOp.folds at h
  split at h
  · cases h
  · next o hne => exact .inl ⟨o, fun h => hne (h ▸ rfl), rfl⟩
  · exact .inr (.inl rfl)
  · exact .inr (.inr rfl)
  · cases h

/-- A fold reads va and builds no chain. -/
theorem VOp.folds_reads (h : op.folds = true) (ty a : ElemType) : op.readsA = true ∧ op.destType ty a = none := by
  rcases VOp.folds_cases h with ⟨o, ho, rfl⟩ | rfl | rfl
  · cases o with
    | rand => exact absurd rfl ho
    | _ => exact ⟨rfl, rfl⟩
  · exact ⟨rfl, rfl⟩
  · exact ⟨rfl, rfl⟩

/-- The state once a fold has issued: its captures are held, and its counter is taken (R183, R184). -/
def VSpec.folding (v : VSpec) (s : State) : State :=
  let u := s.holdAll (v.capture s).holds
  { u with h := { s.h.clearFex with dctr := if v.op.draws then s.h.dctr + 1#64 else s.h.dctr, flight := some (v.capture s) } }

theorem issue_fold (hf : v.op.folds = true) (s : State) : v.issue s = v.folding s := by
  have hpack : v.op ≠ .pack := fun h => by rw [h] at hf; cases hf
  have hh := (holdAll_boltOnly (v.capture s).holds s).hart
  unfold VSpec.issue VSpec.folding
  simp only [(VOp.folds_reads hf s.h.ty _).2, if_neg hpack, hh]
  rfl

theorem folding_cl (v : VSpec) (s : State) : (v.folding s).cl = (s.holdAll (v.capture s).holds).cl := rfl

theorem folding_element (v : VSpec) (s : State) (ty : ElemType) (l : List Seg) (i : Nat) :
    (v.folding s).cl.element ty l i = s.cl.element ty l i := by
  rw [folding_cl]
  exact element_congr (chainByte_congr fun g _ => content_holdAll _ s g.swatch) ty i

/-- What a fold captures are its sources (R156, R180). -/
theorem captured_eq_sources (hf : v.op.folds = true) (s : State) : (v.capture s).captured = (v.sources s).map Source.entry := by
  obtain ⟨hreads, hdest⟩ := VOp.folds_reads hf s.h.ty (s.entry (s.h.name v.word.a)).tag
  unfold Flight.captured VSpec.capture VSpec.sources
  rcases VOp.folds_cases hf with ⟨o, -, hop⟩ | hop | hop
  all_goals
    rw [hop] at hreads hdest
    simp only [hop, hreads, hdest, Option.isSome_none, Bool.and_false, Bool.or_self, Bool.false_and, Bool.false_eq_true, if_true, if_false]
    split <;> split <;> rfl

end Issue
/-! ### The fold -/

section Fold
variable {s t : State} {v : VSpec} {f : Flight} {d r : Reg} {out : RedOut} {e : Entry} {l : List Nat}

theorem folding_reads (h : foldReady s v) (hf : v.op.folds = true) : (v.folding s).Reads (v.capture s) := by
  obtain ⟨-, -, -, hlive, hclean⟩ := h
  refine ⟨fun i x hx => ?_, fun e he => ?_⟩
  · rw [folding_cl, content_holdAll] at hx
    exact content_clean hclean hx
  · rw [captured_eq_sources hf] at he
    obtain ⟨x, hx, rfl⟩ := List.mem_map.mp he
    rw [hlive x hx]
    decide

/-- A fold that nothing stops issues, and then folds what it has captured (R183). -/
theorem execFold_issues (h : foldReady s v) (hf : v.op.folds = true) : execFold v s = runFold (v.folding s) := by
  obtain ⟨hc, -, hcheck, -, -⟩ := h
  obtain ⟨hw, ho⟩ : s.who = .user ∧ s.myCore.owner = some s.t.uid := by simpa [State.holdsContext] using hc
  simp [execFold, hw, State.vectorContext, ho, hcheck, issue_fold hf]

theorem runFold_eq (hf : s.h.flight = some f) (h : s.Reads f) (hr : foldElems f s = .ok (out, s)) :
    runFold s = .next (s.foldedBy f out) := by
  have hwait : (f.op.wholeSources && f.captured.any fun e => e.state = .pending) = false := by
    rw [List.any_eq_false.mpr fun e he => by simp [h.captured e he], Bool.and_false]
  unfold runFold
  rw [hf]
  dsimp only
  rw [hwait, hr]
  rfl

/-- From `s` to `t` a fold has given `out` to `xd`, and its second value to the register after it (R180, R185). -/
structure FoldGave (s t : State) (d : Reg) (out : RedOut) : Prop where
  pc : t.h.pc = s.h.pc + 4#64
  vstart : t.h.vstart = 0#18
  flight : t.h.flight = none
  names : t.h.names = s.h.names
  others : ∀ r, r ≠ d → (out.hi ≠ none → r ≠ nextReg d) → t.rx r = s.rx r
  lo : d ≠ 0#7 → t.rx d = out.lo
  hi : ∀ w, out.hi = some w → nextReg d ≠ 0#7 → t.rx (nextReg d) = w

theorem FoldGave.folded {pair : Bool} (h : FoldGave s t d out) (hp : pair = false → out.hi = none) : folded s t d pair := by
  refine ⟨h.pc, h.vstart, h.flight, h.names, fun r hd hn => h.others r hd fun hhi => hn ?_⟩
  by_contra hpair
  exact hhi (hp (Bool.eq_false_iff.mpr hpair))

/-- The hart once a fold has given its values (R180, R185). -/
theorem foldedBy_hart (s : State) (f : Flight) (out : RedOut) : (s.foldedBy f out).h =
    { s.h.afterFold f.d out with flight := none, pc := s.h.pc + 4#64, wait := none } := by
  rw [← afterFold_pc s.h f.d out, ← (State.Releases.releaseAll f.holds s).hart]
  rfl

/-- A fold that nothing stops completes with its value (R183, R185). -/
theorem execFold_completes (h : foldReady s v) (hf : v.op.folds = true)
    (hr : foldElems (v.capture s) (v.folding s) = .ok (out, v.folding s)) :
    ∃ t, execFold v s = .next t ∧ FoldGave s t v.word.d out ∧ t.h.dctr = if v.op.draws then s.h.dctr + 1#64 else s.h.dctr := by
  have hrun : runFold (v.folding s) = .next ((v.folding s).foldedBy (v.capture s) out) := runFold_eq rfl (folding_reads h hf) hr
  refine ⟨_, (execFold_issues h hf).trans hrun, ?_, ?_⟩
  · have hx (r : Reg) : ((v.folding s).foldedBy (v.capture s) out).rx r = ((v.folding s).h.afterFold v.word.d out).rx r := by
      rw [State.rx, foldedBy_hart]
      rfl
    refine ⟨by rw [foldedBy_hart]; rfl, ?_, by rw [foldedBy_hart], ?_, fun r hd hn => ?_, fun hd => ?_, fun w hw hd => ?_⟩
    · rw [foldedBy_hart]
      exact afterFold_vstart _ _ _
    · rw [foldedBy_hart]
      exact afterFold_names _ _ _
    · rw [hx, afterFold_rx_ne hd hn]
      rfl
    · rw [hx, afterFold_rx_lo hd]
    · rw [hx, afterFold_rx_hi hw hd]
  · rw [foldedBy_hart]
    exact afterFold_dctr _ _ _

/-! ### The elements that a fold takes -/

/-- The elements of the chain that name `r` shows are `l`, VL of them. -/
def State.elementsAre (s : State) (r : Reg) (l : List Nat) : Prop :=
  l.length = s.h.vl.toNat ∧
    ∀ k, k < l.length → s.cl.element (s.entry (s.h.name r)).tag (s.entry (s.h.name r)).segs k = .ok (l.getD k 0)

/-- A fold that is not masked takes every element (R155). -/
theorem activeElems_unmasked {o : Option Entry} (hm : f.mask = none) : ∀ (l : List Nat) (i : Nat),
    (∀ k, k < l.length → optElem o (i + k) s = .ok (l.getD k 0, s)) → activeElems f o l.length i s = .ok (numbered i l, s)
  | [], _, _ => rfl
  | c :: r, i, h => by
    have hc : optElem o i s = .ok (c, s) := h 0 (Nat.succ_pos _)
    have hr := activeElems_unmasked hm r (i + 1) fun k hk => by
      rw [Nat.add_right_comm, Nat.add_assoc]
      exact h (k + 1) (Nat.succ_lt_succ hk)
    have hon : f.active i s = .ok (true, s) := by
      unfold Flight.active
      rw [hm]
      rfl
    simp only [List.length_cons, activeElems, Act.bind_run, hon, if_true, hc, Act.pure_run, hr]
    rfl

theorem srcElem_complete (i : Nat) {c : Nat} (he : e.state ≠ .pending) (hc : s.cl.element e.tag e.segs i = .ok c) :
    srcElem e i s = .ok (c, s) := by
  unfold srcElem elementAct
  rw [if_neg (by simp [he]), hc]

/-- The captured elements are those that the chain had at issue. -/
theorem activeElems_captured (hm : v.masked = false) (hl : s.elementsAre r l) (he : (s.entry (s.h.name r)).state ≠ .pending) :
    activeElems (v.capture s) (some (s.entry (s.h.name r))) s.h.vl.toNat 0 (v.folding s) = .ok (numbered 0 l, v.folding s) := by
  obtain ⟨hlen, hl⟩ := hl
  rw [← hlen]
  refine activeElems_unmasked (by simp [VSpec.capture, hm]) l 0 fun k hk => ?_
  refine srcElem_complete _ he ?_
  rw [folding_element, Nat.zero_add]
  exact hl k hk

end Fold

/-! ### Folds of one chain, and of two -/

section Chains
variable {s : State} {v : VSpec} {c ix : List Nat}

theorem capture_va (hf : v.op.folds = true) (s : State) : (v.capture s).va = some (s.entry (s.h.name v.word.a)) :=
  if_pos (VOp.folds_reads hf s.h.ty s.h.ty).1

theorem source_a_complete (h : foldReady s v) (hf : v.op.folds = true) : (s.entry (s.h.name v.word.a)).state ≠ .pending :=
  (folding_reads h hf).captured _ (by simp [Flight.captured, capture_va hf])

/-- A fold of one chain gives its function of the active elements, which are all where there is no mask (R180). -/
theorem execFold_one (h : foldReady s v) (hf : v.op.folds = true) {g : State → List (Nat × Nat) → RedOut}
    (hg : foldElems (v.capture s) = do
      let u ← get
      let l ← activeElems (v.capture s) (v.capture s).va s.h.vl.toNat 0
      pure (g u l)) :
    ∃ t l, execFold v s = .next t ∧ FoldGave s t v.word.d (g (v.folding s) l) ∧
      (t.h.dctr = if v.op.draws then s.h.dctr + 1#64 else s.h.dctr) ∧
      (v.masked = false → ∀ c, s.elementsAre v.word.a c → l = numbered 0 c) := by
  have hreads := folding_reads h hf
  obtain ⟨l, hl⟩ := hreads.activeElems hreads.va s.h.vl.toNat 0
  have hr : foldElems (v.capture s) (v.folding s) = .ok (g (v.folding s) l, v.folding s) := by
    simp only [hg, Act.bind_run, Act.get_run, hl, Act.pure_run]
  obtain ⟨t, hnext, hgave, hdctr⟩ := execFold_completes h hf hr
  refine ⟨t, l, hnext, hgave, hdctr, fun hm c hc => ?_⟩
  have hc := activeElems_captured hm hc (source_a_complete h hf)
  rw [← capture_va hf, hl, Except.ok.injEq, Prod.mk.injEq] at hc
  exact hc.1

/-- vdrawp draws over the active elements of vb, with those of va (R193). -/
theorem execFold_drawp (h : foldReady s v) (hop : v.op = .red .drawp) (hb : v.bsel = .vec) :
    ∃ t l ixs, execFold v s = .next t ∧ FoldGave s t v.word.d
        (draw .drawp (coinVal s.h.dkey s.h.dstream s.h.dctr) s.h.dtemp.toNat s.h.vl.toNat l ixs) ∧ t.h.dctr = s.h.dctr + 1#64 ∧
      (v.masked = false → ∀ c, s.elementsAre v.word.b c → l = numbered 0 c) ∧
      (v.masked = false → ∀ c, s.elementsAre v.word.a c → ixs = numbered 0 c) := by
  have hf : v.op.folds = true := by rw [hop]; rfl
  have hreads := folding_reads h hf
  have hvb : (v.capture s).vb = some (s.entry (s.h.name v.word.b)) := if_pos hb
  have hvl : (v.capture s).vl = s.h.vl.toNat := if_neg (by rw [hop]; decide)
  obtain ⟨l, hl⟩ := hreads.activeElems hreads.vb s.h.vl.toNat 0
  obtain ⟨ixs, hixs⟩ := hreads.activeElems hreads.va s.h.vl.toNat 0
  have hr : foldElems (v.capture s) (v.folding s) =
      .ok (draw .drawp (coinVal s.h.dkey s.h.dstream s.h.dctr) s.h.dtemp.toNat s.h.vl.toNat l ixs, v.folding s) := by
    have hop : (v.capture s).op = .red .drawp := hop
    simp only [foldElems, hop, hvl, Act.bind_run, Act.get_run, hl, hixs, Act.pure_run]
    rfl
  obtain ⟨t, hnext, hgave, hdctr⟩ := execFold_completes h hf hr
  refine ⟨t, l, ixs, hnext, hgave, hdctr.trans (if_pos (by rw [hop]; rfl)), fun hm c hc => ?_, fun hm c hc => ?_⟩
  · have hc := activeElems_captured hm hc (hreads.captured _ (by simp [Flight.captured, hvb]))
    rw [← hvb, hl, Except.ok.injEq, Prod.mk.injEq] at hc
    exact hc.1
  · have hc := activeElems_captured hm hc (source_a_complete h hf)
    rw [← capture_va hf, hixs, Except.ok.injEq, Prod.mk.injEq] at hc
    exact hc.1

/-- The word that names an instruction in traps does not matter to its checks. -/
theorem foldReady_word {op : VOp} {m : Bool} {bs : BSel} {d a b : Reg} (h : foldReady s (lite op m bs d a b)) (major : BitVec 7)
    (fn : BitVec 4) : foldReady s { word := fmtA major d a b fn, op := op, masked := m, bsel := bs } := h

end Chains

/-! ### The members -/

section Members
variable {s t : State} {m : Bool} {d a b : Reg} {op : VRed} {out : RedOut}

theorem FoldGave.values {x y : Word} (h : FoldGave s t d out) (hd : d ≠ 0#7) (ho : out.lo = x ∧ out.hi = some y) :
    t.rx d = x ∧ (nextReg d ≠ 0#7 → t.rx (nextReg d) = y) := ⟨(h.lo hd).trans ho.1, h.hi y ho.2⟩

theorem folds_of_not_draws (h : (VOp.red op).draws = false) : (VOp.red op).folds = true := by
  cases op with
  | rand => cases h
  | _ => rfl

theorem foldElems_reduce {f : Flight} (hf : f.op = .red op) (hop : (VOp.red op).draws = false) : foldElems f = (do
    let u ← get
    let l ← activeElems f f.va f.vl 0
    pure (reduce op u.t.gvl.toNat u.h.lgmask f.vl f.ty l)) := by
  unfold foldElems
  rw [hf]
  cases op with
  | draw | drawt | drawp | rand => cases hop
  | _ => rfl

/-- A reduction completes with its value (R180). -/
theorem vecRed_reduces (hop : (VOp.red op).draws = false) (code : BitVec 3) (h : foldReady s (lite (.red op) m .none d a 0#7)) :
    ∃ t gvl lg l, vecRed op code m d a s = .next t ∧ FoldGave s t d (reduce op gvl lg s.h.vl.toNat s.h.ty l) ∧
      (m = false → ∀ c, s.elementsAre a c → l = numbered 0 c) := by
  obtain ⟨t, l, hnext, hgave, -, hl⟩ := execFold_one (foldReady_word h 0x40#7 (BitVec.ofBool m ++ code)) (folds_of_not_draws hop)
    (g := fun u l => reduce op u.t.gvl.toNat u.h.lgmask s.h.vl.toNat s.h.ty l) (foldElems_reduce rfl hop)
  exact ⟨t, _, _, l, hnext, hgave, hl⟩

theorem reduce_sum_hi (gvl vl : Nat) (lg : BitVec 8) (ty : ElemType) (l : List (Nat × Nat)) (hop : op = .sum ∨ op = .osum) :
    (reduce op gvl lg vl ty l).hi = none := by
  rcases hop with rfl | rfl
  all_goals
    simp only [reduce]
    split
    · rfl
    · split <;> rfl

/-- The extremes complete with the extreme of the elements, and the pair forms with its index (R180). -/
theorem vecRed_extreme {max pair : Bool} (hop : (VOp.red op).draws = false)
    (hred : ∀ gvl lg vl ty l, (reduce op gvl lg vl ty l).lo = (extreme max ty l).1 ∧
      (reduce op gvl lg vl ty l).hi = if pair then some (BitVec.ofNat 64 (extreme max ty l).2.1) else none)
    (code : BitVec 3) (h : foldReady s (lite (.red op) m .none d a 0#7)) :
    ∃ t, vecRed op code m d a s = .next t ∧ folded s t d pair ∧ (m = false → d ≠ 0#7 → ∀ l, s.elementsAre a l →
      isInt s.h.ty = true → l ≠ [] → ∃ j, extremeAt s.h.ty max l j (t.rx d) ∧
        (pair = true → nextReg d ≠ 0#7 → t.rx (nextReg d) = BitVec.ofNat 64 j)) := by
  obtain ⟨t, gvl, lg, l, hnext, hgave, hl⟩ := vecRed_reduces hop code h
  obtain ⟨hlo, hhi⟩ := hred gvl lg s.h.vl.toNat s.h.ty l
  refine ⟨t, hnext, hgave.folded fun hp => hhi.trans (if_neg (by simp [hp])), fun hm hd c hc ht hne => ?_⟩
  refine ⟨(extreme max s.h.ty l).2.1, ?_, fun hp => hgave.hi _ (hhi.trans (if_pos hp))⟩
  rw [hgave.lo hd, hlo, hl hm c hc]
  exact extreme_int ht hne

/-- vdraw and vdrawt complete with the pair drawn, and their counter taken (R184, R191, R192). -/
theorem execFold_draws (hop : op = .draw ∨ op = .drawt) (fn : BitVec 4) (h : foldReady s (lite (.red op) m .none d a 0#7)) :
    ∃ t l, execFold { word := fmtA 0x41#7 d a 0#7 fn, op := .red op, masked := m } s = .next t ∧
      FoldGave s t d (draw op (coinVal s.h.dkey s.h.dstream s.h.dctr) s.h.dtemp.toNat s.h.vl.toNat l []) ∧
      folded s t d true ∧ t.h.dctr = s.h.dctr + 1#64 ∧ (m = false → ∀ c, s.elementsAre a c → l = numbered 0 c) := by
  have hf : (VOp.red op).folds = true ∧ (VOp.red op).draws = true := by rcases hop with rfl | rfl <;> exact ⟨rfl, rfl⟩
  obtain ⟨t, l, hnext, hgave, hdctr, hl⟩ := execFold_one (foldReady_word h 0x41#7 fn) hf.1
    (g := fun _ l => draw op (coinVal s.h.dkey s.h.dstream s.h.dctr) s.h.dtemp.toNat s.h.vl.toNat l [])
    (by rcases hop with rfl | rfl <;> rfl)
  exact ⟨t, l, hnext, hgave, hgave.folded nofun, hdctr.trans (if_pos hf.2), hl⟩

/-- vmcount and vmlow complete with their number (07_vector R177). -/
theorem execFold_mask {o : VMaskOp} (hop : o = .count ∨ o = .low) (fn : BitVec 4) (h : foldReady s (lite (.mask o) m .none d a 0#7)) :
    ∃ t l, execFold { word := fmtA 0x3A#7 d a 0#7 fn, op := .mask o, masked := m } s = .next t ∧ folded s t d false ∧
      (d ≠ 0#7 → t.rx d = BitVec.ofNat 64 (if o = .count then (l.filter fun x => x.2 = 1).length
        else ((l.find? fun x => x.2 = 1).map (·.1)).getD s.h.vl.toNat)) ∧
      (m = false → ∀ c, s.elementsAre a c → l = numbered 0 c) := by
  obtain ⟨t, l, hnext, hgave, -, hl⟩ := execFold_one (foldReady_word h 0x3A#7 fn) (by rcases hop with rfl | rfl <;> rfl)
    (g := fun _ l => { lo := BitVec.ofNat 64 (if o = .count then (l.filter fun x => x.2 = 1).length
        else ((l.find? fun x => x.2 = 1).map (·.1)).getD s.h.vl.toNat) })
    (by rcases hop with rfl | rfl <;> rfl)
  exact ⟨t, l, hnext, hgave.folded fun _ => rfl, hgave.lo, hl⟩

/-- xdmerge completes with the pair of the merge, and its counter taken (R184, R194). -/
theorem execXdmerge_merges (hc : s.holdsContext = true) :
    let low (r : Reg) := (s.rx r).toNat % 2 ^ 32
    let out := mergeDraws (coinVal s.h.dkey s.h.dstream s.h.dctr) (low a, low (nextReg a)) (low b, low (nextReg b))
    execXdmerge d a b s =
      .next ({ s with h := Hart.afterFold { s.h.clearFex with dctr := s.h.dctr + 1#64 } d out } : State).advance := by
  have hu : s.who = .user := by
    simp only [State.holdsContext, Bool.and_eq_true, decide_eq_true_eq] at hc
    exact hc.1
  exact (if_pos hu).trans (vecFinish_ok _ hc rfl)

end Members

/-- Settles O30: a fold issues, takes the elements that its chains had, and ends with its function of them. -/
theorem foldsComplete : Obligations.FoldsComplete := by
  intro s m d a b red codesOf codes
  refine ⟨fun h => ?sum, fun h => ?osum, fun h => ?max, fun h => ?min, fun h => ?maxi, fun h => ?mini, fun h => ?draw, fun h => ?drawt,
    fun h => ?drawp, fun h => ?count, fun h => ?low, fun h => ?merge⟩
  case sum =>
    obtain ⟨t, gvl, lg, l, hnext, hgave, hl⟩ := vecRed_reduces rfl 0#3 h
    refine ⟨t, hnext, hgave.folded fun _ => reduce_sum_hi _ _ _ _ _ (.inl rfl), ?_, ?_, ?_⟩
    · rintro c ⟨hm, hd, hc⟩ ht
      rw [hgave.lo hd, hl hm _ hc]
      exact reduce_int_sum _ _ _ ht c
    · rintro c ⟨hm, hd, hc⟩ ht hn
      rw [hgave.lo hd, hl hm _ hc, ht, reduce_sum_f32 _ _ _ (List.cons_ne_nil _ _) (by simpa using hn), numbered_cons, numbered_nil,
        freeSum_single _ hn, canonF32_number hn]
    · rintro c e ⟨hm, hd, hc⟩ ht hn hn'
      rw [hgave.lo hd, hl hm _ hc, ht, reduce_sum_f32 _ _ _ (List.cons_ne_nil _ _) (by simp [hn, hn']), numbered_cons, numbered_cons,
        numbered_nil, freeSum_pair _ hn hn']
  case osum =>
    obtain ⟨t, gvl, lg, l, hnext, hgave, hl⟩ := vecRed_reduces rfl 1#3 h
    refine ⟨t, hnext, hgave.folded fun _ => reduce_sum_hi _ _ _ _ _ (.inr rfl), ?_⟩
    rintro c r ⟨hm, hd, hc⟩ ht hn
    rw [hgave.lo hd, hl hm _ hc, ht]
    exact reduce_osum_f32 _ _ _ hn
  case max =>
    obtain ⟨t, hnext, hfold, hval⟩ := vecRed_extreme (max := true) (pair := false) rfl (fun _ _ _ _ _ => ⟨rfl, rfl⟩) 2#3 h
    exact ⟨t, hnext, hfold, fun l ⟨hm, hd, hl⟩ ht hne => (hval hm hd l hl ht hne).imp fun _ h => h.1⟩
  case min =>
    obtain ⟨t, hnext, hfold, hval⟩ := vecRed_extreme (max := false) (pair := false) rfl (fun _ _ _ _ _ => ⟨rfl, rfl⟩) 3#3 h
    exact ⟨t, hnext, hfold, fun l ⟨hm, hd, hl⟩ ht hne => (hval hm hd l hl ht hne).imp fun _ h => h.1⟩
  case maxi =>
    obtain ⟨t, hnext, hfold, hval⟩ := vecRed_extreme (max := true) (pair := true) rfl (fun _ _ _ _ _ => ⟨rfl, rfl⟩) 4#3 h
    exact ⟨t, hnext, hfold, fun l ⟨hm, hd, hl⟩ ht hne => (hval hm hd l hl ht hne).imp fun _ h => ⟨h.1, h.2 rfl⟩⟩
  case mini =>
    obtain ⟨t, hnext, hfold, hval⟩ := vecRed_extreme (max := false) (pair := true) rfl (fun _ _ _ _ _ => ⟨rfl, rfl⟩) 5#3 h
    exact ⟨t, hnext, hfold, fun l ⟨hm, hd, hl⟩ ht hne => (hval hm hd l hl ht hne).imp fun _ h => ⟨h.1, h.2 rfl⟩⟩
  case draw =>
    obtain ⟨t, l, hnext, hgave, hfold, hdctr, hl⟩ := execFold_draws (.inl rfl) (BitVec.ofBool m ++ 0#3) h
    refine ⟨t, hnext, hfold, hdctr, ?_⟩
    rintro c j ⟨hm, hd, hc⟩ hj
    refine hgave.values hd ?_
    rw [hl hm c hc, ← hc.1]
    exact draw_onlyWeight hj
  case drawt =>
    obtain ⟨t, l, hnext, hgave, hfold, hdctr, hl⟩ := execFold_draws (.inr rfl) (BitVec.ofBool m ++ 1#3) h
    refine ⟨t, hnext, hfold, hdctr, ?_⟩
    rintro c j ⟨hm, hd, hc⟩ hj - hfin hinf
    refine hgave.values hd ?_
    rw [hl hm c hc, ← hc.1]
    exact drawt_clear hj hfin hinf
  case drawp =>
    obtain ⟨t, l, ixs, hnext, hgave, hdctr, hl, hixs⟩ := execFold_drawp (foldReady_word h 0x41#7 (BitVec.ofBool m ++ 2#3)) rfl rfl
    refine ⟨t, hnext, hgave.folded nofun, hdctr, ?_⟩
    rintro ix c j ⟨-, -, hix⟩ ⟨hm, hd, hc⟩ hj
    refine hgave.values hd ?_
    rw [hl hm c hc, hixs hm ix hix, ← hc.1]
    exact drawp_onlyWeight hj (hix.1.trans hc.1.symm)
  case count =>
    obtain ⟨t, l, hnext, hfold, hlo, hl⟩ := execFold_mask (.inl rfl) (vecFn m false 0#2) h
    refine ⟨t, hnext, hfold, ?_⟩
    rintro c ⟨hm, hd, hc⟩
    rw [hlo hd, if_pos rfl, hl hm c hc, count_numbered (· = 1)]
  case low =>
    obtain ⟨t, l, hnext, hfold, hlo, hl⟩ := execFold_mask (.inr rfl) (vecFn m false 1#2) h
    refine ⟨t, hnext, hfold, ?_⟩
    rintro c ⟨hm, hd, hc⟩
    rw [hlo hd, if_neg (by decide), hl hm c hc]
    exact congrArg _ (congrArg (Option.getD · _) (find_numbered (· = 1) c))
  case merge =>
    refine ⟨_, execXdmerge_merges h, ?_, congrArg (· + 4#64) (afterFold_pc _ d _), fun r hd hn => afterFold_rx_ne hd fun _ => hn, ?_⟩
    · exact afterFold_dctr _ _ _
    · intro il ir wl wr total part right pair hl hr
      obtain ⟨hlo, hhi⟩ := mergeDraws_finite (coin := coinVal s.h.dkey s.h.dstream s.h.dctr) (il := il) (ir := ir) hl hr
      exact ⟨fun hd => (afterFold_rx_lo hd).trans hlo, fun hd => afterFold_rx_hi hhi hd⟩

end Sys2Proof.Machine
end

section
/-! Stash windows (09_vmem R215, R216): smap where its operands are within bounds, and sunmap and sflush of a live window; O34
is settled. -/

namespace Sys2Proof.Machine

section Windows
variable {s u : State} {d a b : Reg}

/-- An instruction on vector state traps where its computation does, if its task holds the context (R359). -/
theorem vecFinish_trap {f : Act Unit} {tr : Trap} (w : Word) (hc : s.holdsContext = true) (h : f s = .error (.trap tr)) :
    vecFinish w f s = .next (takeTrap tr false s) := by
  obtain ⟨hw, ho⟩ : s.who = .user ∧ s.myCore.owner = some s.t.uid := by simpa [State.holdsContext] using hc
  simp [vecFinish, hw, State.vectorContext, ho, finish_trap h]

/-! ### smap (R215) -/

section Smap
variable {g o len n : Nat} {ps : List (Option WindowPin)} {tr : Trap}

/-- The ranges `[o, o + len)` of scratch and `[g, g + len)` of global memory are within the bounds of R215. -/
structure State.Mappable (s : State) (g o len : Nat) : Prop where
  base : g % 256 = 0
  offset : o % 256 = 0
  lines : len % 256 = 0
  nonempty : len ≠ 0
  short : len ≤ 2 ^ 23
  granted : o + len ≤ s.t.scrb
  apart : ∀ v ∈ s.t.windows, overlaps v.off v.len o len = false ∧ overlaps v.va.toNat v.len g len = false

theorem State.Mappable.aligned (h : s.Mappable g o len) :
    (decide (g % 256 = 0) && decide (o % 256 = 0) && decide (len % 256 = 0) && decide (len ≠ 0)) = true := by
  simp [h.base, h.offset, h.lines, h.nonempty]

theorem State.Mappable.inside (h : s.Mappable g o len) :
    (decide (len ≤ 2 ^ 23) && decide (o + len ≤ s.t.scrb) &&
      !(s.t.windows.any fun w => overlaps w.off w.len o len || overlaps w.va.toNat w.len g len)) = true := by
  have hapart : (s.t.windows.any fun w => overlaps w.off w.len o len || overlaps w.va.toNat w.len g len) = false :=
    List.any_eq_false.mpr fun v hv => by simp [h.apart v hv]
  rw [hapart, decide_eq_true h.short, decide_eq_true h.granted]
  rfl

/-- The operands of smap in registers `a` and `b` are within those bounds. -/
def State.MapsAt (s : State) (a b : Reg) : Prop :=
  s.Mappable (s.rx a).toNat ((s.rx b).toNat % 2 ^ 32) ((s.rx b).toNat / 2 ^ 32)

/-- The pinning of the pages of smap's global range. -/
def State.mapPins (s : State) (a b : Reg) : Except Stop (List (Option WindowPin) × State) :=
  pinPages (((s.rx a).toNat % 65536 + (s.rx b).toNat / 2 ^ 32 + 65535) / 65536) (s.rx a).toNat s

theorem execSmap_full (hc : s.holdsContext = true) (h : s.MapsAt a b) (hn : s.t.freeWindow = none) :
    execSmap d a b s = .next (s.put d (BitVec.allOnes 64)) := by
  refine vecFinish_ok _ hc ?_
  simp only [Act.bind_run, Act.get_run, require_run _ h.aligned, require_run _ h.inside, hn, Act.modify_run]

theorem execSmap_binds (hc : s.holdsContext = true) (h : s.MapsAt a b) (hn : s.t.freeWindow = some n) (hp : s.mapPins a b = .ok (ps, u)) :
    execSmap d a b s = .next (({ u with t := { u.t with windows := u.t.windows ++
      [{ num := n, off := (s.rx b).toNat % 2 ^ 32, len := (s.rx b).toNat / 2 ^ 32, va := u.rx a, pages := ps, lines := [] }] } }
      : State).put d (BitVec.ofNat 64 n)) := by
  unfold State.mapPins at hp
  refine vecFinish_ok _ hc ?_
  simp only [Act.bind_run, Act.get_run, require_run _ h.aligned, require_run _ h.inside, hn, hp, Act.modify_run]

theorem execSmap_traps (hc : s.holdsContext = true) (h : s.MapsAt a b) (hn : s.t.freeWindow = some n)
    (hp : s.mapPins a b = .error (.trap tr)) :
    execSmap d a b s = .next (takeTrap tr false s) := by
  unfold State.mapPins at hp
  refine vecFinish_trap _ hc ?_
  simp only [Act.bind_run, Act.get_run, require_run _ h.aligned, require_run _ h.inside, hn, hp]

end Smap

/-! ### sunmap and sflush (R216) -/

section Flush
variable {w : Window} {x : Word}

theorem windowAct_run (h : (s.t.windows.find? fun v => BitVec.ofNat 64 v.num = x) = some w) : windowAct x s = .ok (w, s) := by
  simp only [windowAct, Act.bind_run, Act.get_run, h, Act.pure_run]

theorem execSunmap_ends (hc : s.holdsContext = true) (h : (s.t.windows.find? fun v => BitVec.ofNat 64 v.num = s.rx a) = some w) :
    execSunmap a s = .next ({ s.flushWindow w with
      t := { (s.flushWindow w).t with windows := (s.flushWindow w).t.windows.filter fun v => v.num != w.num } } : State).advance := by
  refine vecFinish_ok _ hc ?_
  simp only [Act.bind_run, Act.get_run, windowAct_run h, Act.modify_run]

theorem execSflush_one (hc : s.holdsContext = true) (h : (s.t.windows.find? fun v => BitVec.ofNat 64 v.num = s.rx a) = some w)
    (hone : s.rx a ≠ BitVec.allOnes 64) : execSflush a s = .next (s.flushWindow w).advance := by
  refine vecFinish_ok _ hc ?_
  simp only [Act.bind_run, Act.get_run, if_neg hone, windowAct_run h, Act.modify_run]

theorem execSflush_all (hc : s.holdsContext = true) (hall : s.rx a = BitVec.allOnes 64) :
    execSflush a s = .next s.flushAll.advance := by
  refine vecFinish_ok _ hc ?_
  simp only [Act.bind_run, Act.get_run, if_pos hall, Act.modify_run]

theorem execStashEviction_drops {win : Nat} (line : Nat) (h : (s.t.windows.find? fun v => v.num = win) = some w) :
    execStashEviction win line s = .next { s.flushLine w line with
      t := (s.flushLine w line).t.mapWindow win fun v => { v with lines := v.lines.filter fun l => l.line != line } } := by
  rw [execStashEviction, h]

end Flush

end Windows

/-- Settles O34, a case for each instruction and each way that smap can go. -/
theorem stashWindowsBindAndFlush : Obligations.StashWindowsBindAndFlush := by
  intro s d a b w win line
  refine ⟨fun hc => ⟨?smap, ?one, ?all⟩, ?eviction⟩
  case smap =>
    intro g o len hg ho hl hne hshort hgranted hapart
    have hmaps : s.MapsAt a b := ⟨hg, ho, hl, hne, hshort, hgranted, hapart⟩
    exact ⟨execSmap_full hc hmaps, fun n ps u hn hp => execSmap_binds hc hmaps hn hp, fun n tr hn hp => execSmap_traps hc hmaps hn hp⟩
  case one => exact fun hw => ⟨execSunmap_ends hc hw, execSflush_one hc hw⟩
  case all => exact execSflush_all hc
  case eviction => exact execStashEviction_drops line

end Sys2Proof.Machine
end

section
/-! A vector load whose version is held back (06_chains R124, 05_control R108): O31 is refuted, as O26 and O32 are. The statement
does not ask that the number which the model gives the load's version be new (log 15): where another name shows a version that
has that number already and waits, the load reads its elements and then waits to retire. -/

namespace Sys2Proof.Machine

/-- A hart that holds its vector context, with room for 520 swatches and 256 bytes of scratch at address 0, VTYPE i8 and VL 1.
Name 1 shows a version that waits for another one, and whose number, 1, is the one that the task gives next. -/
def loadNumberTaken : State :=
  { who := .user
    h := { vl := 1#18, ty := .i8, names := [(1, { id := 1, stamp := 1, behind := [7] })] }
    t := { poolq := 520#16, scrb := 256 }
    cl := { free := [(0, 520)], cores := Vector.replicate 8 { owner := some 0 } } }

/-- What vld of name 0 from address 0 asks for. -/
def byteLoad : VSpec := lite (.load .unit) false .none 0#7 0#7 0#7

theorem byteLoad_check : byteLoad.check loadNumberTaken = .ok ((), loadNumberTaken) := by
  have hsources : byteLoad.sources loadNumberTaken = [] := rfl
  have hspilled : ∀ k ∈ [] ++ byteLoad.dNames loadNumberTaken.h, (loadNumberTaken.entry k).state ≠ .spilled := by decide
  simp only [VSpec.check, Act.bind_run, Act.get_run]
  rw [show byteLoad.op.destType loadNumberTaken.h.ty _ = some .i8 from rfl, hsources]
  simp only [Option.isSome_some, if_true, List.map_nil, notSpilled_run hspilled, notEmpty_live (List.forall_mem_nil _)]
  rw [if_neg (by decide), Act.bind_run, require_run _ (by decide)]
  simp only [tagCheck, lenCheck, Act.bind_run, Act.pure_run]
  rw [if_neg (by decide), Act.bind_run, Act.pure_run]
  exact require_run _ (by decide)

/-- Nothing of what the statement names stops that load. -/
theorem byteLoad_ready : readyFor loadNumberTaken byteLoad 520 := by
  refine ⟨by decide, rfl, rfl, byteLoad_check, ?_, ?_, by decide, ?_, by decide, by decide, rfl⟩
  · decide
  · decide
  · decide

/-- Its byte lies in free scratch. -/
theorem byteLoad_inScratch (k j : Nat) (hk : k < loadNumberTaken.h.vl.toNat) (hj : j < byteLoad.nf) :
    elementInScratch loadNumberTaken (byteLoad.capture loadNumberTaken) .unit k j := by
  obtain rfl : k = 0 := Nat.lt_one_iff.mp hk
  obtain rfl : j = 0 := Nat.lt_one_iff.mp hj
  have hfree : loadNumberTaken.scratchFree 0 1 = true := by decide
  rintro idx -
  refine ⟨.inr rfl, fun _ => hfree, fun o ho => ?_⟩
  obtain rfl : o = 0 := Nat.lt_one_iff.mp ho
  exact hfree

/-- The load waits: it is not retired, though the version that name 0 shows has its one element. -/
theorem byteLoad_waits : shownAt (exec (.vld false false 0#7 0#7) loadNumberTaken) = some (true, 1) := by decide +kernel

/-- Refutes O31: at `loadNumberTaken` the load is still under way after the step. -/
theorem not_vectorMemoryCompletes : ¬ Obligations.VectorMemoryCompletes := by
  intro h
  obtain ⟨t, hexec, -, -, hflight, -⟩ :=
    h (.vld false false 0#7 0#7) loadNumberTaken true .unit byteLoad rfl byteLoad_ready byteLoad_inScratch
  have hwait := byteLoad_waits
  rw [hexec, shownAt, hflight] at hwait
  simp at hwait

end Sys2Proof.Machine
end

section
/-! The attachment and the shape of the matrix engine (10_matrix R220 to R224); O35 is settled. -/

namespace Sys2Proof.Machine

section Attach
variable {s t : State} {a : Act Unit} {tr : Trap} {k : WaitKind}

/-- Where a task's hart holds the vector context, an instruction on vector state answers what its computation does (R359). -/
theorem vecFinish_held (w : Word) (hc : s.holdsContext = true) (a : Act Unit) : vecFinish w a s = finish a s := by
  obtain ⟨hw, ho⟩ : s.who = .user ∧ s.myCore.owner = some s.t.uid := by simpa [State.holdsContext] using hc
  simp [vecFinish, hw, State.vectorContext, ho]

theorem regFinish_held (w : Word) (hc : s.holdsContext = true) (a : Act Unit) : regFinish w a s = finish a s := by
  have hw : s.who = .user := by
    rw [State.holdsContext, Bool.and_eq_true] at hc
    exact of_decide_eq_true hc.1
  rw [regFinish, if_pos hw, vecFinish_held w hc]

theorem regFinish_ok (w : Word) (hc : s.holdsContext = true) (h : a s = .ok ((), t)) : regFinish w a s = .next t :=
  (regFinish_held w hc a).trans (finish_ok h)

theorem regFinish_trap (w : Word) (hc : s.holdsContext = true) (h : a s = .error (.trap tr)) :
    regFinish w a s = .next (takeTrap tr false s) :=
  (regFinish_held w hc a).trans (finish_trap h)

/-- MSHAPE is written where the value is valid (R223, R224). -/
theorem setShape_run {v : Word} (h : (shapeOf v).isSome = true) :
    setShape v s = .ok ((), { s with t := { s.t with mshape := v } }) := by
  simp only [setShape, Act.bind_run, h, Act.require_true, Act.modify_run]

theorem setShape_traps {v : Word} (h : shapeOf v = none) : setShape v s = .error (.trap (shapeTrap v)) := by
  simp only [setShape, Act.bind_run, h, Option.isSome_none, Act.require_false]

end Attach

/-- Settles O35: each instruction passes its check, or the check of the shape traps. -/
theorem matrixAttachAndShape : Obligations.MatrixAttachAndShape := by
  unfold Obligations.MatrixAttachAndShape
  intro s d a hc
  refine ⟨fun hb => regFinish_ok _ hc ?_, fun hb => regFinish_ok _ hc ?_, fun hq => regFinish_ok _ hc ?_,
    fun hv => regFinish_ok _ hc ?_, fun hv => regFinish_trap _ hc ?_⟩
  · rw [Act.modify_run, if_pos hb]
  · rw [Act.modify_run, if_neg (by omega)]
  · simp only [Act.bind_run, Act.get_run, hq, List.isEmpty_nil, if_true, Act.modify_run]
  · simp only [Act.bind_run, Act.get_run, setShape_run hv, Act.modify_run]
  · simp only [Act.bind_run, Act.get_run, setShape_traps hv, shapeTrap]

end Sys2Proof.Machine
end

section
/-! The queue of the matrix engine (10_matrix R219, R225 to R230, R233, R238, R240): what an instruction leaves that joins it; O36
is settled. -/

namespace Sys2Proof.Machine

/-! ### Joining the queue -/

section Queue
variable {s t u : State} {w : Word} {m : MOp} {kind : MKind} {tile : BitVec 2}

theorem attached_run (hb : 0 < s.t.matrix.bands) (hq : s.t.matrix.queue.length < 16) : attached w s = .ok ((), s) := by
  simp [attached, Act.bind_run, Nat.not_le.mpr hq, hb]

theorem attached_waits (hq : 16 ≤ s.t.matrix.queue.length) : attached w s = .error (.wait .other) := by
  simp [attached, Act.bind_run, hq]

/-- Where 16 operations are queued the hart waits, with no check made (R219). -/
theorem vecFinish_attached_waits (hc : s.holdsContext = true) (hq : 16 ≤ s.t.matrix.queue.length) (w : Word) (k : Unit → Act Unit) :
    vecFinish w (attached w >>= k) s = .next (s.enterWait .other) := by
  rw [vecFinish_held w hc]
  refine finish_wait ?_
  rw [Act.bind_run, attached_waits hq]

/-- The state in which `m` stands at the end of the queue (R219). -/
def State.withOp (s : State) (m : MOp) : State :=
  let s1 := s.holdAll m.holds
  let n := s1.t.matrix.issued + 1
  ({ s1 with h := s1.h.issued 4 n, t := { s1.t with matrix := { s1.t.matrix with
    issued := n, queue := s1.t.matrix.queue ++ [{ m with n := n, hart := s.h.id }] } } }).advance

theorem enqueueOp_run (m : MOp) (s : State) : enqueueOp m s = .ok ((), s.withOp m) := rfl

theorem withOp_names (s : State) (m : MOp) : (s.withOp m).h.names = s.h.names :=
  (congrArg Hart.names (holdAll_boltOnly m.holds s).hart :)

theorem withOp_queue (s : State) (m : MOp) :
    (s.withOp m).t.matrix.queue = s.t.matrix.queue ++ [{ m with n := s.t.matrix.issued + 1, hart := s.h.id }] := by
  obtain ⟨bolt, free, n, h⟩ := holdAll_boltOnly m.holds s
  simp [State.withOp, h]

/-- What has joined the queue stands at its end under the next number, and the hart has passed. -/
theorem queuedOp_withOp (hm : m.kind = kind) (ht : m.tile = tile.toNat) (he : m.executed = false) : queuedOp s (s.withOp m) kind tile := by
  obtain ⟨bolt, free, n, h⟩ := holdAll_boltOnly m.holds s
  exact ⟨_, withOp_queue s m, hm, ht, rfl, by simp [State.withOp, h], rfl, he, by simp [State.withOp, h, Hart.issued]⟩

/-- What was said of the queue before swatches were given out and names were written holds of it after. -/
theorem queuedOp_of_same (hq : u.t.matrix = s.t.matrix) (hi : u.h.id = s.h.id) (hp : u.h.pc = s.h.pc) (h : queuedOp u t kind tile) :
    queuedOp s t kind tile := by
  unfold queuedOp at h ⊢
  rwa [hq, hi, hp] at h

end Queue

/-! ### The destination of an mread -/

section Read
variable {s t : State} {since : Option Nat} {n k : Nat}

/-- The state at the TIME since which a hart waits for a swatch: who is ahead there is who is ahead of that hart (R115). -/
def State.asOf (s : State) (since : Option Nat) : State := { s with time := since.getD s.time }

theorem boltBefore_asOf (s : State) (since : Option Nat) : (s.asOf since).boltBefore none = s.boltBefore since := rfl

theorem room_asOf (h : s.swatchRoom n = true) (hb : s.boltBefore since = false) : (s.asOf since).Room n :=
  room_of_swatchRoom (s := s.asOf since) h hb

theorem State.Room.ahead (h : (s.asOf since).Room n) : s.boltAhead since = 0 := by
  have hturn : s.boltBefore since = false := h.turn
  simpa [State.boltBefore] using hturn

/-- A hart that nobody is ahead of takes a swatch as one does that has just asked. -/
theorem allocTurn_asOf (h : (s.asOf since).Room (n + 1)) (data : List Byte) :
    ∃ i t, s.allocTurn since data = .ok (i, t) ∧ s.BoltOnly t ∧ (t.asOf since).Room n := by
  obtain ⟨i, t, ha, -, hr, -⟩ := h.alloc data
  obtain ⟨j, r, hp, -⟩ := popFree_spec s.cl.free (Nat.lt_of_lt_of_le (Nat.succ_pos n) h.free)
  obtain ⟨rfl, rfl⟩ : j = i ∧ (s.asOf since).withFresh j r data = t := by
    simpa using (allocAct_run (data := data) h hp).symm.trans ha
  refine ⟨j, s.withFresh j r data, ?_, ⟨_, _, _, rfl⟩, hr⟩
  have hq : ¬s.t.poolq.toNat ≤ s.poolUse s.t.uid := by
    have hquota : s.poolUse s.t.uid + (n + 1) ≤ s.t.poolq.toNat := h.quota
    omega
  have hf : s.cl.freeCount ≠ 0 := Nat.pos_iff_ne_zero.mp (Nat.lt_of_lt_of_le (Nat.succ_pos n) h.free)
  simp [State.allocTurn, State.alloc, hq, hp, h.ahead, hf, State.withFresh, State.freshSwatch]

theorem streamAlloc_asOf (h : (s.asOf since).Room (n + 1)) (k : Nat) :
    ∃ i t, streamAlloc k since s = .ok (i, t) ∧ s.BoltOnly t ∧ (t.asOf since).Room n := by
  obtain ⟨i, t, ha, hb⟩ := allocTurn_asOf h (List.replicate 256 0#8)
  refine ⟨i, t, ?_, hb⟩
  rw [streamAlloc, ha]

theorem streamAllocs_asOf : ∀ (l : List Nat) (s : State), (s.asOf since).Room (n + l.length) →
    ∃ is t, (l.mapM fun _ => streamAlloc k since) s = .ok (is, t) ∧ s.BoltOnly t ∧ (t.asOf since).Room n
  | [], s, h => ⟨[], s, rfl, .refl s, h⟩
  | _ :: l, s, h => by
    obtain ⟨i, t, ha, hb, hr⟩ := streamAlloc_asOf (n := n + l.length) h k
    obtain ⟨is, u, hl, hbu, hru⟩ := streamAllocs_asOf l t hr
    refine ⟨i :: is, u, ?_, hb.trans hbu, hru⟩
    rw [List.mapM_cons, Act.bind_run, ha]
    dsimp only
    rw [Act.bind_run, hl]
    rfl

/-- The swatches of a version of `bytes` bytes, with its map (R120, R230). -/
def swatchesFor (bytes : Nat) : Nat := if 4 < (bytes + 255) / 256 then (bytes + 255) / 256 + 1 else (bytes + 255) / 256

theorem mapIf_run (c : Prop) [Decidable c] (h : (s.asOf since).Room (n + if c then 1 else 0)) :
    ∃ m t, (if c then (do let i ← streamAlloc k since; pure (some i)) else pure none : Act (Option Nat)) s = .ok (m, t) ∧
      s.BoltOnly t ∧ (t.asOf since).Room n := by
  split
  · next hc =>
    rw [if_pos hc] at h
    obtain ⟨i, t, ha, hb, hr⟩ := streamAlloc_asOf h k
    exact ⟨some i, t, by rw [Act.bind_run, ha]; rfl, hb, hr⟩
  · next hc =>
    rw [if_neg hc] at h
    exact ⟨none, s, rfl, .refl s, h⟩

/-- Where there is room a version that an engine will fill is made at once. -/
theorem engineVersion_run {tag : ElemType} {len bytes : Nat} (w : Bool) (h : (s.asOf s.h.boltSince).Room (swatchesFor bytes)) :
    ∃ e t, engineVersion w tag len bytes s = .ok (e, t) ∧ s.BoltOnly t ∧ e.state = .pending ∧ e.tag = tag ∧ e.len = len := by
  have hquota : (decide (s.poolUse s.t.uid + swatchesFor bytes ≤ s.t.poolq.toNat) || decide (swatchesFor bytes = 0)) = true := by
    rw [Bool.or_eq_true]
    exact .inl (decide_eq_true h.quota)
  have hfree : ¬(s.cl.freeCount < swatchesFor bytes + s.boltAhead s.h.boltSince && decide (swatchesFor bytes ≠ 0)) = true := by
    have hle : swatchesFor bytes ≤ s.cl.freeCount := h.free
    simp [h.ahead, Nat.not_lt.mpr hle]
  obtain ⟨m, t, hm, hbt, hrt⟩ := mapIf_run (k := 0) (n := (bytes + 255) / 256) (4 < (bytes + 255) / 256) (s := s) (since := s.h.boltSince) (by
    have := h
    unfold swatchesFor at this
    split at this
    · next hc => rwa [if_pos hc]
    · next hc => rwa [if_neg hc])
  obtain ⟨is, u, hl, hbu, -⟩ := streamAllocs_asOf (n := 0) (k := 0) (since := s.h.boltSince) (List.range ((bytes + 255) / 256)) t (by simpa using hrt)
  unfold swatchesFor at hquota hfree
  unfold engineVersion
  simp only [Act.bind_run, Act.get_run, hquota, Act.require_true, if_neg hfree, hm, hl]
  cases m with
  | none => exact ⟨_, _, rfl, (hbt.trans hbu).trans (fresh_boltOnly u), rfl, rfl, rfl⟩
  | some i =>
    refine ⟨_, _, rfl, (hbt.trans hbu).trans ?_, rfl, rfl, rfl⟩
    exact ⟨_, _, _, rfl⟩

end Read
/-! ### The instructions of the queue -/

section Instructions
variable {s : State} {d : BitVec 2} {f a b : Reg}

/-- Where the context is held and the queue has room, an instruction of the queue passes its first checks (R233). -/
structure Joins (s : State) : Prop where
  context : s.holdsContext = true
  bands : 0 < s.t.matrix.bands
  room : s.t.matrix.queue.length < 16

theorem Joins.attached (h : Joins s) (w : Word) : Machine.attached w s = .ok ((), s) := attached_run h.bands h.room

/-- An instruction whose checks pass joins the queue. -/
theorem Joins.queues (h : Joins s) {w : Word} {x : Act Unit} {kind : MKind} {tile : BitVec 2} (m : MOp) (hk : m.kind = kind)
    (ht : m.tile = tile.toNat) (he : m.executed = false) (hx : x s = enqueueOp m s) :
    ∃ t, vecFinish w x s = .next t ∧ queuedOp s t kind tile :=
  ⟨s.withOp m, vecFinish_ok w h.context hx, queuedOp_withOp hk ht he⟩

theorem execMzero_queued (h : Joins s) : ∃ t, execMzero d s = .next t ∧ queuedOp s t .zero d := by
  refine h.queues (newOp (mctlWord (tileField d) 0#7 0#7 3#4) .zero d) rfl rfl rfl ?_
  rw [Act.bind_run, h.attached]

/-- The region lies within the tile, and has 4096 cells at most (R230, R233). -/
structure Region.Fits (r : Region) (s : State) : Prop where
  rows : r.row0 + r.nr ≤ s.tileRows
  cols : r.col0 + r.nc ≤ 256
  size : r.nr * r.nc ≤ 4096

theorem regionCheck_run {x : Word} (h : (regionOf x).Fits s) : regionCheck x s = .ok ((), s) := by
  simp [regionCheck, Act.bind_run, h.rows, h.cols]

theorem regionSize_run {x : Word} (h : (regionOf x).Fits s) : regionSize x s = .ok ((), s) := require_run _ (decide_eq_true h.size)

theorem matrixDest_run (s : State) (k : Nat) (e : Entry) : matrixDest k e s = .ok (s.entry k, s.setName k
    { e with counts := (s.entry k).counts, dirty := (s.entry k).dirty, behind := e.id :: s.awaited (s.entry k), stamp := e.id }) := rfl

theorem swatchesFor_le {bytes : Nat} (h : bytes ≤ 16384) : swatchesFor bytes ≤ 65 := by
  unfold swatchesFor
  split <;> omega

theorem execMread_queued (h : Joins s) (hr : (regionOf (s.rx b)).Fits s) (hf : (s.entry (s.h.name f)).state ≠ .spilled)
    (hroom : s.swatchRoom 65 = true) (hb : s.boltBefore s.h.boltSince = false) :
    ∃ t, execMread f d b s = .next t ∧ queuedOp s t .read d ∧ (t.entry (s.h.name f)).state = .pending ∧
      (t.entry (s.h.name f)).tag = .f32 ∧ (t.entry (s.h.name f)).len = (regionOf (s.rx b)).nr * (regionOf (s.rx b)).nc := by
  have hsize := hr.size
  obtain ⟨e, u, he, hbolt, hst, htag, hlen⟩ := engineVersion_run (s := s) (tag := .f32)
    (len := (regionOf (s.rx b)).nr * (regionOf (s.rx b)).nc) (bytes := (regionOf (s.rx b)).nr * (regionOf (s.rx b)).nc * 4) true
    ((room_asOf hroom hb).mono (swatchesFor_le (by omega)))
  let v := u.setName (s.h.name f) { e with
    counts := (u.entry (s.h.name f)).counts, dirty := (u.entry (s.h.name f)).dirty,
    behind := e.id :: u.awaited (u.entry (s.h.name f)), stamp := e.id }
  let m : MOp := { newOp (mctlWord f (tileField d) b 4#4) .read d with
    xb := s.rx b, dest := some e, name := s.h.name f, old := u.entry (s.h.name f) }
  have hentry : (v.withOp m).entry (s.h.name f) = v.entry (s.h.name f) := by rw [State.entry, withOp_names, State.entry]
  refine ⟨v.withOp m, vecFinish_ok _ h.context ?_, ?_, ?_⟩
  · simp only [Act.bind_run, h.attached, Act.get_run, notSpilled_run (List.forall_mem_singleton.mpr hf), regionCheck_run hr,
      regionSize_run hr, he, matrixDest_run]
    rfl
  · obtain ⟨bolt, free, n, rfl⟩ := hbolt
    exact queuedOp_of_same (u := v) rfl rfl rfl (queuedOp_withOp rfl rfl rfl)
  · rw [hentry, setName_entry]
    exact ⟨hst, htag, hlen⟩

theorem live_settled {e : Entry} (h : e.state = .live) : e.unsettled = false := by simp [Entry.unsettled, h]

theorem execMwrite_queued (h : Joins s) (hr : (regionOf (s.rx b)).Fits s) (hl : (s.entry (s.h.name a)).state = .live)
    (ht : (s.entry (s.h.name a)).tag = .f32) (hlen : (regionOf (s.rx b)).nr * (regionOf (s.rx b)).nc ≤ (s.entry (s.h.name a)).len) :
    ∃ t, execMwrite d a b s = .next t ∧ queuedOp s t .write d := by
  refine h.queues { newOp (mctlWord (tileField d) a b 5#4) .write d with
    xb := s.rx b, a := some (.chain (s.entry (s.h.name a))) } rfl rfl rfl ?_
  simp only [Act.bind_run, h.attached, Act.get_run, notSpilled_live (List.forall_mem_singleton.mpr hl),
    notEmpty_live (List.forall_mem_singleton.mpr hl), live_settled hl, Bool.false_eq_true, if_false,
    refuse, ht, decide_true, Act.require_true, within_run _ (decide_eq_true hlen), regionCheck_run hr, regionSize_run hr]

/-- Doublewords read one after the other are the bytes that they stand in. -/
theorem flatMap_cellsGet (m : List Host.Cell) (off n : Nat) :
    ((List.range n).flatMap fun i => cellsGet m (off + 8 * i) 8) = cellsGet m off (8 * n) := by
  induction n with
  | zero => rfl
  | succ n ih =>
    rw [List.range_succ, List.flatMap_append, ih, List.flatMap_singleton, cellsGet_eq_map, cellsGet_eq_map, cellsGet_eq_map,
      Nat.mul_succ, List.range_add, List.map_append, List.map_map]
    simp [Function.comp_def, Nat.add_assoc]

/-- A block in free scratch is read as it stands there (R238). -/
theorem withBlock_scratch {α : Type} {va : Word} {n : Nat} (k : List Byte → Act α) (h : s.scratchRun va.toNat (n + 1) = true) :
    withBlock va (n + 1) k s = k (s.scratchBytes va.toNat (8 * (n + 1))) s := by
  simp only [State.scratchRun, Bool.and_eq_true, decide_eq_true_eq, List.all_eq_true, List.mem_range] at h
  obtain ⟨hwrap, hfree⟩ := h
  have hlow : s.t.aperture ≤ va.toNat := by
    obtain ⟨ho, -⟩ := scratchFree_iff.mp (hfree 0 (Nat.succ_pos n))
    simp only [State.scratchOff, ite_eq_left_iff, reduceCtorEq, imp_false, not_not, Bool.and_eq_true, decide_eq_true_eq] at ho
    exact ho.1.2
  have hoff (i : Nat) : va.toNat + 8 * i - s.t.aperture = va.toNat - s.t.aperture + 8 * i := by omega
  unfold withBlock
  rw [withWords_scratch 8 k (n + 1) va.toNat (va.toNat - s.t.aperture) [], List.nil_append, flatMap_cellsGet, State.scratchBytes]
  intro i hi
  rw [← hoff]
  exact ⟨by omega, scratchFree_iff.mp (hfree i hi)⟩

theorem execMsprog_queued (h : Joins s) (ha : (s.rx a).toNat % 8 = 0) (hs : s.scratchRun (s.rx a).toNat 10 = true)
    (hok : ∀ i, i < 16 → scoreOk (field (s.scratchBytes (s.rx a).toNat 80) (16 + 4 * i) 4) = true) :
    ∃ t, execMsprog a s = .next t ∧ queuedOp s t .prog 0#2 ∧
      ∃ m ∈ t.t.matrix.queue, m.bytes = s.scratchBytes (s.rx a).toNat 80 := by
  have hall : ((List.range 16).all fun i => scoreOk (field (s.scratchBytes (s.rx a).toNat 80) (16 + 4 * i) 4)) = true :=
    List.all_eq_true.mpr fun i hi => hok i (List.mem_range.mp hi)
  let m : MOp := { newOp (mctlWord 0#7 a 0#7 6#4) .prog 0#2 with bytes := s.scratchBytes (s.rx a).toNat 80 }
  refine ⟨s.withOp m, vecFinish_ok _ h.context ?_, queuedOp_withOp rfl rfl rfl,
    { m with n := s.t.matrix.issued + 1, hart := s.h.id }, ?_, rfl⟩
  · have hal : aligned (s.rx a) 8 = true := decide_eq_true ha
    simp only [Act.bind_run, h.attached, Act.get_run, hal, Act.require_true, withBlock_scratch _ hs, refuse, hall]
    rfl
  · rw [withOp_queue]
    exact List.mem_append_right _ List.mem_cons_self

theorem execMsmod_queued (h : Joins s) (h0 : bitsOf (s.rx b).toNat 15 0 ≠ 0) (hr : bitsOf (s.rx b).toNat 47 32 ≤ s.tileRows)
    (hn : bitsOf (s.rx b).toNat 63 48 ≤ 256) : ∃ t, execMsmod d a b s = .next t ∧ queuedOp s t .smod d := by
  refine h.queues { newOp (mctlWord (tileField d) a b 7#4) .smod d with xa := s.rx a, xb := s.rx b } rfl rfl rfl ?_
  simp only [Act.bind_run, h.attached, Act.get_run, refuse, decide_eq_true h0, decide_eq_true hr, decide_eq_true hn, Bool.and_true,
    Act.require_true]

end Instructions

/-! ### Multiply-accumulate -/

section Accumulate
variable {s : State} {x : Shape} {z bScr aScr : Bool} {d : BitVec 2} {a b : Reg}

/-- A scratch operand whose bytes all lie in granted scratch has none outside (R226). -/
theorem noByteOutside {runs bytes scrb : Nat} {p : Nat → Nat → Nat} (use : Bool) (h : use = true → ∀ i o, i < runs → o < bytes → p i o < scrb) :
    (if use then (List.range runs).findSome? fun i => (List.range bytes).findSome? fun o =>
      if scrb ≤ p i o then some (p i o) else none else none) = none := by
  cases use with
  | false => rfl
  | true =>
    rw [if_pos rfl, List.findSome?_eq_none_iff]
    intro i hi
    rw [List.findSome?_eq_none_iff]
    intro o ho
    exact if_neg (Nat.not_le.mpr (h rfl i o (List.mem_range.mp hi) (List.mem_range.mp ho)))

/-- The names that a multiply-accumulate reads as chains (R225, R226). -/
def Shape.names (x : Shape) (aScr bScr : Bool) (ka kb : Nat) : List Nat :=
  (if aScr then [] else [ka]) ++ (if bScr then [] else [kb]) ++ (if x.ablk != 0 then [x.sname] else []) ++
    (if x.bblk != 0 then [(x.sname + 1) % 512] else [])

/-- The chain at name `k`, where it is read, is live, of this type and long enough (R225). -/
def State.Supplies (s : State) (use : Bool) (k : Nat) (t : ElemType) (n : Nat) : Prop :=
  use = true → (s.entry k).state = .live ∧ (s.entry k).tag = t ∧ n ≤ (s.entry k).len

/-- The scratch pair at a register, where it is read, keeps its reserved bits zero and lies in granted scratch (R226). -/
structure State.PairFits (s : State) (use : Bool) (p : Word × Word) (t : ElemType) (runs : Nat × Nat × Bool) : Prop where
  reserved : use = true → bitsOf p.2.toNat 63 37 = 0
  granted : use = true → ∀ i o, i < runs.1 → o < bytesFor t runs.2.1 → (pairOf p.1 p.2).place runs.2.2 i o < s.t.scrb

/-- What a multiply-accumulate asks of its operands (R223, R225, R226, R233). -/
structure Accumulates (s : State) (x : Shape) (aScr bScr : Bool) (a b : Reg) : Prop where
  shape : shapeOf s.t.mshape = some x
  rows : x.m ≤ s.tileRows
  pairA : s.PairFits aScr (s.rpair a) x.ea (x.runs true)
  pairB : s.PairFits bScr (s.rpair b) x.eb (x.runs false)
  kMajor : bScr = true → x.nMajor = true ∨ bitsOf (s.rpair b).2.toNat 31 0 = 0
  chainA : s.Supplies (!aScr) (s.h.name a) x.ea (x.m * x.k)
  chainB : s.Supplies (!bScr) (s.h.name b) x.eb (x.n * x.k)
  scaleA : s.Supplies (x.ablk != 0) x.sname .e8m0 (x.m * ((x.k + blockLen x.ablk - 1) / blockLen x.ablk))
  scaleB : s.Supplies (x.bblk != 0) ((x.sname + 1) % 512) .e8m0 (x.n * ((x.k + blockLen x.bblk - 1) / blockLen x.bblk))

theorem Accumulates.names_live (h : Accumulates s x aScr bScr a b) :
    ∀ k ∈ x.names aScr bScr (s.h.name a) (s.h.name b), (s.entry k).state = .live := by
  intro k hk
  simp only [Shape.names, List.mem_append, List.mem_ite_nil_left, List.mem_ite_nil_right, List.mem_singleton] at hk
  rcases hk with ((⟨hu, rfl⟩ | ⟨hu, rfl⟩) | ⟨hu, rfl⟩) | ⟨hu, rfl⟩
  · exact (h.chainA (by simpa using hu)).1
  · exact (h.chainB (by simpa using hu)).1
  · exact (h.scaleA hu).1
  · exact (h.scaleB hu).1

theorem tag_check {use : Bool} {k n : Nat} {t : ElemType} (h : s.Supplies use k t n) : (!use || decide ((s.entry k).tag = t)) = true := by
  cases use with
  | false => rfl
  | true => simp [(h rfl).2.1]

theorem length_check {use : Bool} {k n : Nat} {t : ElemType} (h : s.Supplies use k t n) : (!use || decide (n ≤ (s.entry k).len)) = true := by
  cases use with
  | false => rfl
  | true => simp [(h rfl).2.2]

theorem issueMma_queued (ordered : Bool) (hj : Joins s) (h : Accumulates s x aScr bScr a b) :
    ∃ t, issueMma ordered z bScr aScr d a b s = .next t ∧ queuedOp s t (.acc ordered z) d := by
  have hlive := h.names_live
  have hsettled : ((x.names aScr bScr (s.h.name a) (s.h.name b)).any fun k => (s.entry k).unsettled) = false :=
    List.any_eq_false.mpr fun k hk => by simp [live_settled (hlive k hk)]
  have hA : (!aScr || decide (bitsOf (s.rpair a).2.toNat 63 37 = 0)) = true := by
    cases aScr with
    | false => rfl
    | true => simp [h.pairA.reserved]
  have hB : (!bScr || (decide (bitsOf (s.rpair b).2.toNat 63 37 = 0) && (x.nMajor || decide (bitsOf (s.rpair b).2.toNat 31 0 = 0)))) = true := by
    cases bScr with
    | false => rfl
    | true => simpa [h.pairB.reserved] using h.kMajor rfl
  have hinA := noByteOutside aScr h.pairA.granted
  have hinB := noByteOutside bScr h.pairB.granted
  have htagA := tag_check h.chainA
  have htagB := tag_check h.chainB
  rw [Bool.not_not] at htagA htagB
  have hspill := notSpilled_live hlive
  have hempty := notEmpty_live hlive
  unfold Shape.names at hspill hempty hsettled
  refine hj.queues { newOp (wordOf (some (fmtA 0x51#7 (tileField d) a b
        (BitVec.ofBool z ++ BitVec.ofBool bScr ++ BitVec.ofBool aScr ++ BitVec.ofBool ordered)))) (.acc ordered z) d with
      shape := s.t.mshape
      a := some (if aScr then .scratch (s.rpair a).1 (s.rpair a).2 else .chain (s.entry (s.h.name a)))
      b := some (if bScr then .scratch (s.rpair b).1 (s.rpair b).2 else .chain (s.entry (s.h.name b)))
      ascale := if x.ablk != 0 then some (s.entry x.sname) else none
      bscale := if x.bblk != 0 then some (s.entry ((x.sname + 1) % 512)) else none } rfl rfl rfl ?_
  simp only [Act.bind_run, hj.attached, Act.get_run, h.shape, Option.any_some, Option.map_some, Option.getD_some, hspill, hempty,
    hsettled, Bool.false_eq_true, if_false, refuse, require_run _ (decide_eq_true h.rows), require_run _ hA, require_run _ hB,
    require_run _ htagA, require_run _ htagB, require_run _ (tag_check h.scaleA), require_run _ (tag_check h.scaleB),
    within_run _ (length_check h.chainA), within_run _ (length_check h.chainB), within_run _ (length_check h.scaleA),
    within_run _ (length_check h.scaleB), hinA, hinB]

end Accumulate

/-- Settles O36: below 16 operations each instruction passes its checks and joins the queue; at 16 it waits before them. -/
theorem matrixInstructionsQueue : Obligations.MatrixInstructionsQueue := by
  unfold Obligations.MatrixInstructionsQueue
  intro s d f a b z bScr aScr hc
  refine ⟨fun hfull => ?_, fun hbands hroom => ?_⟩
  · have hwaits := vecFinish_attached_waits hc hfull
    simp only [List.forall_mem_cons]
    exact ⟨hwaits _ _, hwaits _ _, hwaits _ _, hwaits _ _, hwaits _ _, hwaits _ _, hwaits _ _, fun _ h => nomatch h⟩
  · have hj : Joins s := ⟨hc, hbands, hroom⟩
    refine ⟨execMzero_queued hj, fun hr hf hsw hb => execMread_queued hj ⟨hr.1, hr.2.1, hr.2.2⟩ hf hsw hb,
      fun hr hl ht hlen => execMwrite_queued hj ⟨hr.1, hr.2.1, hr.2.2⟩ hl ht hlen, execMsprog_queued hj,
      execMsmod_queued hj, fun x hx hm hA hB hcA hcB hsA hsB => ?_⟩
    have hacc : Accumulates s x aScr bScr a b :=
      { shape := hx
        rows := hm
        pairA := ⟨fun h => (hA h).1, fun h => (hA h).2⟩
        pairB := ⟨fun h => (hB h).1, fun h => (hB h).2.2⟩
        kMajor := fun h => (hB h).2.1
        chainA := fun h => hcA (by simpa using h)
        chainB := fun h => hcB (by simpa using h)
        scaleA := fun h => hsA (by simpa using h)
        scaleB := fun h => hsB (by simpa using h) }
    exact ⟨issueMma_queued false hj hacc, issueMma_queued true hj hacc⟩

end Sys2Proof.Machine
end

section
/-! f32 sums and products rounded once to nearest (02_numbers R42 to R44, R50, R164): what the arithmetic on exact numbers
delivers is the number rounded. -/

namespace Sys2Proof.Machine

/-! ### Rounding in units (R42) -/

section Units
variable {neg : Bool} {m k n : Nat} {e q sh : Int}

theorem bitOf_zero (k : Nat) : bitOf k 0 = decide (k % 2 = 1) := by simp [bitOf]

/-- The unit of the place `sh`. -/
theorem roundShift_rne_pos (neg : Bool) (m n : Nat) :
    let r := roundShift .rne neg m false ((n + 1 : Nat) : Int)
    let p := m % 2 ^ (n + 1)
    r.1 = (if 2 ^ n < p ∨ (p = 2 ^ n ∧ m / 2 ^ (n + 1) % 2 = 1) then m / 2 ^ (n + 1) + 1 else m / 2 ^ (n + 1)) ∧
      r.2 = decide (p ≠ 0) := by
  have hsh : ¬((n + 1 : Nat) : Int) ≤ 0 := by omega
  have hpow : 2 ^ (n + 1) = 2 * 2 ^ n := Nat.pow_succ'
  have hlt : m % 2 ^ (n + 1) < 2 ^ (n + 1) := Nat.mod_lt _ (by positivity)
  have hmod : m % 2 ^ (n + 1) % 2 ^ n = if 2 ^ n ≤ m % 2 ^ (n + 1) then m % 2 ^ (n + 1) - 2 ^ n else m % 2 ^ (n + 1) := by
    split
    · next h => rw [Nat.mod_eq_sub_mod h, Nat.mod_eq_of_lt (by omega)]
    · next h => exact Nat.mod_eq_of_lt (not_le.mp h)
  simp only [roundShift, if_neg hsh, Int.toNat_natCast, Nat.add_sub_cancel, bitOf_zero, roundsUp, Bool.or_false, hmod]
  generalize m % 2 ^ (n + 1) = p at hlt ⊢
  generalize m / 2 ^ (n + 1) = d
  have hpos : 0 < 2 ^ n := by positivity
  generalize 2 ^ n = H at hpow hlt hpos ⊢
  constructor
  · congr 1
    simp only [Bool.and_eq_true, Bool.or_eq_true, decide_eq_true_eq, eq_iff_iff]
    split <;> omega
  · rw [Bool.eq_iff_iff]
    simp only [Bool.or_eq_true, decide_eq_true_eq]
    split <;> omega

/-- Of a number `d` and a rest of `p` parts of `P` the nearest integer is `d`, or `d + 1` above one half, and at one half
the even one. -/
theorem nearest_of_rest {d p P H : Nat} (hP : P = 2 * H) (hlt : p < P) :
    roundsTo .rne neg ((d : ℚ) + (p : ℚ) / P) (if H < p ∨ (p = H ∧ d % 2 = 1) then d + 1 else d) ∧
      (decide (p ≠ 0) = true ↔ ((if H < p ∨ (p = H ∧ d % 2 = 1) then d + 1 else d : Nat) : ℚ) ≠ (d : ℚ) + (p : ℚ) / P) := by
  have hpos : (0 : ℚ) < P := by exact_mod_cast (Nat.zero_le p).trans_lt hlt
  have hone : (p : ℚ) / P < 1 := by rw [div_lt_one hpos]; exact_mod_cast hlt
  have hnn : (0 : ℚ) ≤ (p : ℚ) / P := by positivity
  have habove : H < p ↔ 1 < 2 * ((p : ℚ) / P) := by
    rw [← mul_div_assoc, one_lt_div hpos]
    norm_cast
    omega
  have hhalf : p = H ↔ 2 * ((p : ℚ) / P) = 1 := by
    rw [← mul_div_assoc, div_eq_one_iff_eq hpos.ne']
    norm_cast
    omega
  have hzero : p = 0 ↔ (p : ℚ) / P = 0 := by simp [(Nat.zero_le p).trans_lt hlt |>.ne']
  rw [decide_eq_true_iff, ne_eq, hzero, ne_eq, not_iff_not]
  by_cases hup : H < p ∨ (p = H ∧ d % 2 = 1)
  · rw [if_pos hup]
    rw [habove, hhalf] at hup
    generalize (p : ℚ) / P = y at *
    have habs : |(d : ℚ) + y - (d + 1 : Nat)| = 1 - y := by rw [abs_sub_comm, abs_of_nonneg] <;> push_cast <;> linarith
    unfold roundsTo
    rw [habs]
    refine ⟨hup.imp (fun h => by linarith) fun ⟨h, hd⟩ => ⟨by linarith, by omega⟩, fun h => ?_, fun h => ?_⟩
    · rcases hup with h' | ⟨h', -⟩ <;> linarith
    · push_cast at h
      linarith
  · rw [if_neg hup]
    rw [habove, hhalf, not_or, not_lt, not_and] at hup
    obtain ⟨hle, hodd⟩ := hup
    generalize (p : ℚ) / P = y at *
    have habs : |(d : ℚ) + y - d| = y := by rw [add_sub_cancel_left, abs_of_nonneg hnn]
    unfold roundsTo
    rw [habs]
    refine ⟨hle.lt_or_eq.imp id fun h => ⟨h, by have := hodd h; omega⟩, fun h => ?_, fun h => ?_⟩ <;> linarith

/-- A magnitude rounded to nearest in units of 2^sh is the nearest multiple, the even one of two, and is inexact where it
differs. -/
theorem roundShift_rne (neg : Bool) (m : Nat) (sh : Int) :
    roundsTo .rne neg ((m : ℚ) / (2 : ℚ) ^ sh) (roundShift .rne neg m false sh).1 ∧
      ((roundShift .rne neg m false sh).2 = true ↔ ((roundShift .rne neg m false sh).1 : ℚ) ≠ (m : ℚ) / (2 : ℚ) ^ sh) := by
  by_cases hsh : sh ≤ 0
  · obtain ⟨n, rfl⟩ : ∃ n : Nat, sh = -n := ⟨(-sh).toNat, by omega⟩
    have hx : (m : ℚ) / (2 : ℚ) ^ (-(n : Int)) = ((m * 2 ^ n : Nat) : ℚ) := by simp
    have hr : roundShift .rne neg m false (-n) = (m * 2 ^ n, false) := by simp [roundShift, roundsUp]
    rw [hx, hr]
    simp [roundsTo]
  · obtain ⟨n, rfl⟩ : ∃ n : Nat, sh = (n + 1 : Nat) := ⟨sh.toNat - 1, by omega⟩
    obtain ⟨hk, hi⟩ := roundShift_rne_pos neg m n
    rw [hk, hi]
    have hlt : m % 2 ^ (n + 1) < 2 ^ (n + 1) := Nat.mod_lt _ (by positivity)
    have hm : (m : ℚ) = 2 ^ (n + 1) * (m / 2 ^ (n + 1) : Nat) + (m % 2 ^ (n + 1) : Nat) := mod_cast (Nat.div_add_mod m _).symm
    have hx : (m : ℚ) / (2 : ℚ) ^ ((n + 1 : Nat) : Int) = (m / 2 ^ (n + 1) : Nat) + (m % 2 ^ (n + 1) : Nat) / (2 ^ (n + 1) : Nat) := by
      rw [zpow_natCast, hm, add_div, Nat.cast_pow, Nat.cast_ofNat, mul_div_cancel_left₀ _ (by positivity)]
    rw [hx]
    exact nearest_of_rest Nat.pow_succ' hlt

end Units
/-! ### The f32 code of a number of units (02_numbers R34) -/

section Codes
variable {neg : Bool} {m k : Nat} {e q : Int} {r : Nat × Flags}

/-- The place of the last bit that f32 has for the magnitude m × 2^e. -/
def f32Place (m : Nat) (e : Int) : Int := max (e + bitLen m - 24) (-149)

theorem two_zpow_pos (q : Int) : (0 : ℚ) < (2 : ℚ) ^ q := by positivity

/-- In units of its last place a magnitude has 24 bits at most. -/
theorem f32Place_upper (m : Nat) (e : Int) : (m : ℚ) / (2 : ℚ) ^ (f32Place m e - e) < 2 ^ 24 := by
  have hm : (m : ℚ) < (2 : ℚ) ^ (bitLen m : Int) := by
    rw [zpow_natCast]
    exact_mod_cast bitLen_le_iff.mp le_rfl
  have hq : (bitLen m : Int) ≤ 24 + (f32Place m e - e) := by unfold f32Place; omega
  rw [div_lt_iff₀ (two_zpow_pos _)]
  calc (m : ℚ) < (2 : ℚ) ^ (bitLen m : Int) := hm
    _ ≤ (2 : ℚ) ^ (24 + (f32Place m e - e)) := zpow_le_zpow_right₀ one_le_two hq
    _ = 2 ^ 24 * (2 : ℚ) ^ (f32Place m e - e) := by rw [zpow_add₀ two_ne_zero]; norm_num

/-- And 24 bits above the lowest place. -/
theorem f32Place_lower (hm : 0 < m) (h : -149 < f32Place m e) : (2 : ℚ) ^ 23 ≤ (m : ℚ) / (2 : ℚ) ^ (f32Place m e - e) := by
  have hlen : ¬bitLen m ≤ bitLen m - 1 := by
    unfold bitLen
    rw [if_neg hm.ne']
    omega
  have hlen1 : 1 ≤ bitLen m := by omega
  rw [bitLen_le_iff, not_lt] at hlen
  have hm : (2 : ℚ) ^ ((bitLen m : Int) - 1) ≤ m := by
    rw [show (bitLen m : Int) - 1 = (bitLen m - 1 : Nat) by omega, zpow_natCast]
    exact_mod_cast hlen
  have hq : 23 + (f32Place m e - e) = (bitLen m : Int) - 1 := by unfold f32Place at h ⊢; omega
  rw [le_div_iff₀ (two_zpow_pos _)]
  calc (2 : ℚ) ^ 23 * (2 : ℚ) ^ (f32Place m e - e) = (2 : ℚ) ^ (23 + (f32Place m e - e)) := by rw [zpow_add₀ two_ne_zero]; norm_num
    _ ≤ m := by rw [hq]; exact hm

/-- The nearest multiple lies within one half. -/
theorem roundsTo_rne_near {x : ℚ} (h : roundsTo .rne neg x k) : 2 * |x - k| ≤ 1 := by
  rcases h with h | h
  · exact h.le
  · exact h.1.le

theorem roundsTo_rne_le {x : ℚ} {n : Nat} (h : roundsTo .rne neg x k) (hx : x < n) : k ≤ n := by
  have hn := abs_le.mp (show |x - k| ≤ 1 / 2 by linarith [roundsTo_rne_near h])
  have : (k : ℚ) < n + 1 := by linarith [hn.1]
  exact Nat.lt_succ_iff.mp (by exact_mod_cast this)

theorem roundsTo_rne_ge {x : ℚ} {n : Nat} (h : roundsTo .rne neg x k) (hx : n ≤ x) : n ≤ k := by
  have hn := abs_le.mp (show |x - k| ≤ 1 / 2 by linarith [roundsTo_rne_near h])
  have : (n : ℚ) < k + 1 := by linarith [hn.2]
  exact Nat.lt_succ_iff.mp (by exact_mod_cast this)

/-- `k` units of 2^q are a number in the form of f32: 24 bits, with the highest of them set above the lowest place. -/
structure F32Form (k : Nat) (q : Int) : Prop where
  bits : k < 2 ^ 24
  low : -149 ≤ q
  normal : q = -149 ∨ 2 ^ 23 ≤ k

/-- The code of a number in the form of f32, without its sign. -/
def f32Code (k : Nat) (q : Int) : Int := if k < 2 ^ 23 then k else (q + 149) * 2 ^ 23 + k

theorem f32_unitsCode_form (h : F32Form k q) : f32Fmt.unitsCode k q = f32Code k q := by
  have hk : decide (k = 2 ^ (f32Fmt.mb + 1)) = false := decide_eq_false h.bits.ne
  unfold Fmt.unitsCode f32Code
  simp only [hk, Bool.false_eq_true, if_false]
  change (if k < 2 ^ 23 then (0 : Int) else q + 23 + 127) * 2 ^ 23 + (if k < 2 ^ 23 then (k : Int) else k - 2 ^ 23) = _
  split <;> omega

/-- A carry out of the 24 bits moves the place up by one. -/
theorem f32_unitsCode_carry (q : Int) : f32Fmt.unitsCode (2 ^ 24) q = f32Code (2 ^ 23) (q + 1) := by
  show ((q + 1) + 23 + 127) * 2 ^ 23 + ((2 ^ 24 / 2 : Nat) - 2 ^ 23 : Int) = (q + 1 + 149) * 2 ^ 23 + (2 ^ 23 : Nat)
  push_cast
  ring

theorem f32Code_nonneg (h : F32Form k q) : 0 ≤ f32Code k q := by
  have := h.low
  unfold f32Code
  split <;> omega

theorem f32_pack (neg : Bool) (c : Nat) : f32Fmt.pack neg 0 c = (if neg then 2 ^ 31 else 0) + c := by
  show (if neg then 2 ^ 31 else 0) + 0 * 2 ^ 23 + c = _
  omega

theorem f32_signOf_pack {c : Nat} (neg : Bool) (hc : c ≤ 0x7F7FFFFF) : f32Fmt.signOf (f32Fmt.pack neg 0 c) = neg := by
  rw [f32_pack]
  show bitOf _ 31 = neg
  cases neg <;> simp [bitOf] <;> omega

/-- The code of a number in range stands for it. -/
theorem f32_decode_code (h : F32Form k q) (hr : f32Code k q ≤ 0x7F7FFFFF) (neg : Bool) :
    f32Fmt.decode (f32Fmt.pack neg 0 (f32Code k q).toNat) = .fin neg k q := by
  obtain ⟨hb, hl, hn⟩ := h
  have hsign (c : Nat) (hc : c ≤ 0x7F7FFFFF) : bitOf ((if neg then 2 ^ 31 else 0) + c) 31 = neg := by
    rw [← f32_pack]
    exact f32_signOf_pack neg hc
  have hfields (c : Nat) : ((if neg then 2 ^ 31 else 0) + c) / 2 ^ 23 % 256 = c / 2 ^ 23 % 256 ∧
      ((if neg then 2 ^ 31 else 0) + c) % 2 ^ 23 = c % 2 ^ 23 := by
    cases neg
    · simp
    · simp only [if_true]
      omega
  rw [f32_pack, f32_decode_eq, (hfields _).1, (hfields _).2, hsign _ (by omega)]
  unfold f32Code at hr ⊢
  split at hr
  · next hk =>
    rw [if_pos hk, if_neg (by omega), if_pos (by omega), Int.toNat_natCast, Nat.mod_eq_of_lt hk, show q = -149 by omega]
  · next hk =>
    obtain ⟨p, rfl⟩ : ∃ p : Nat, q = p - 149 := ⟨(q + 149).toNat, by omega⟩
    rw [if_neg hk, show ((p : Int) - 149 + 149) * 2 ^ 23 + k = ((p * 2 ^ 23 + k : Nat) : Int) by push_cast; ring, Int.toNat_natCast]
    rw [if_neg (by omega), if_neg (by omega)]
    congr 1
    · omega
    · omega

/-- The largest number of f32. -/
theorem f32_largest : (f32Fmt.decode (f32Fmt.largest false)).val = (2 ^ 24 - 1) * (2 : ℚ) ^ (104 : Int) := by
  have h : f32Fmt.decode (f32Fmt.largest false) = .fin false (2 ^ 24 - 1) 104 := by decide +kernel
  rw [h]
  norm_num [FVal.val]

/-- A code is in range where the number is. -/
theorem f32Code_le (h : F32Form k q) : f32Code k q ≤ 0x7F7FFFFF ↔ (k : ℚ) * (2 : ℚ) ^ q ≤ (f32Fmt.decode (f32Fmt.largest false)).val := by
  obtain ⟨hb, hl, hn⟩ := h
  rw [f32_largest]
  have hk : (k : ℚ) ≤ 2 ^ 24 - 1 := by
    have hb : (k : ℚ) + 1 ≤ 2 ^ 24 := by exact_mod_cast hb
    linarith
  by_cases hq : q ≤ 104
  · refine iff_of_true ?_ ?_
    · unfold f32Code
      split <;> omega
    · exact mul_le_mul hk (zpow_le_zpow_right₀ one_le_two hq) (two_zpow_pos q).le (by norm_num)
  · refine iff_of_false ?_ ?_
    · unfold f32Code
      split <;> omega
    · have hk : (2 : ℚ) ^ 23 ≤ k := by exact_mod_cast hn.resolve_left (by omega)
      rw [not_le]
      calc ((2 : ℚ) ^ 24 - 1) * (2 : ℚ) ^ (104 : Int) < 2 ^ 23 * (2 : ℚ) ^ (105 : Int) := by norm_num
        _ ≤ k * (2 : ℚ) ^ q := mul_le_mul hk (zpow_le_zpow_right₀ one_le_two (by omega)) (by positivity) (by positivity)

/-- The number of units that a magnitude rounds to, with the carry out of its 24 bits, has the form of f32. -/
theorem f32_carry (hb : k ≤ 2 ^ 24) (hl : -149 ≤ q) (hn : q = -149 ∨ 2 ^ 23 ≤ k) :
    ∃ k' q', F32Form k' q' ∧ f32Fmt.unitsCode k q = f32Code k' q' ∧ (k' : ℚ) * (2 : ℚ) ^ q' = k * (2 : ℚ) ^ q := by
  rcases hb.lt_or_eq with hb | rfl
  · exact ⟨k, q, ⟨hb, hl, hn⟩, f32_unitsCode_form ⟨hb, hl, hn⟩, rfl⟩
  · refine ⟨2 ^ 23, q + 1, ⟨by decide, by omega, .inr le_rfl⟩, f32_unitsCode_carry q, ?_⟩
    rw [zpow_add₀ two_ne_zero]
    push_cast
    ring

/-- What rounding a magnitude above zero to nearest delivers: the code of its units, or infinity (R42, R44). -/
theorem f32_round_eq (hm : 0 < m) (neg : Bool) (e : Int) : ∃ tiny,
    let u := roundShift .rne neg m false (f32Place m e - e)
    let c := f32Fmt.unitsCode u.1 (f32Place m e)
    f32Fmt.round .rne false neg m e false =
      if 0x7F7FFFFF < c then (f32Fmt.infinity neg, fOF ||| fNX) else (f32Fmt.pack neg 0 c.toNat, flagIf u.2 fNX ||| flagIf (u.2 && tiny) fUF) := by
  refine ⟨decide (e + bitLen m - 24 + bitLen (roundShift .rne neg m false (e + bitLen m - 24 - e)).1 ≤ 1 - 127), ?_⟩
  unfold Fmt.round
  rw [if_neg (by simp; omega)]
  rfl

theorem round_flags (i tiny : Bool) : (flagIf i fNX ||| flagIf (i && tiny) fUF) &&& fOF = 0#9 ∧
    ((flagIf i fNX ||| flagIf (i && tiny) fUF) &&& fNX ≠ 0#9 ↔ i = true) := by
  cases i <;> cases tiny <;> decide

/-- A magnitude above zero is rounded once (R42, R50). -/
theorem f32_round_roundedTo (hm : 0 < m) (neg : Bool) (e : Int) :
    roundedTo f32Fmt .rne neg ((m : ℚ) * (2 : ℚ) ^ e) (f32Fmt.round .rne false neg m e false) := by
  obtain ⟨tiny, hround⟩ := f32_round_eq hm neg e
  obtain ⟨hto, hexact⟩ := roundShift_rne neg m (f32Place m e - e)
  have hlow : -149 ≤ f32Place m e := le_max_right _ _
  have hupper := roundsTo_rne_le (n := 2 ^ 24) hto (by exact_mod_cast f32Place_upper m e)
  have hnormal : f32Place m e = -149 ∨ 2 ^ 23 ≤ (roundShift .rne neg m false (f32Place m e - e)).1 :=
    hlow.eq_or_lt.imp Eq.symm fun h => roundsTo_rne_ge (n := 2 ^ 23) hto (by exact_mod_cast f32Place_lower hm h)
  have hunits : (m : ℚ) * (2 : ℚ) ^ e / (2 : ℚ) ^ f32Place m e = m / (2 : ℚ) ^ (f32Place m e - e) := by
    rw [zpow_sub₀ two_ne_zero, div_div_eq_mul_div]
  dsimp only at hround
  generalize roundShift .rne neg m false (f32Place m e - e) = u at *
  obtain ⟨k', q', hform, hcode, hval⟩ := f32_carry hupper hlow hnormal
  have hrange := f32Code_le hform
  have hcode0 := f32Code_nonneg hform
  rw [hval] at hrange
  rw [hcode] at hround
  refine ⟨f32Place m e, u.1, hupper, ?_, ?_, fun hle => ?_, fun hgt => ?_⟩
  · exact hlow.eq_or_lt.imp Eq.symm fun h => ⟨h, hnormal.resolve_left h.ne'⟩
  · rw [hunits]
    exact hto
  · have hc := hrange.mpr hle
    rw [hround, if_neg (by omega)]
    have hdec := f32_decode_code hform hc neg
    refine ⟨by rw [hdec]; rfl, ?_, ?_, (round_flags u.2 tiny).1, (round_flags u.2 tiny).2.trans ?_⟩
    · rw [hdec, ← hval]
      cases neg <;> simp [FVal.val]
    · exact f32_signOf_pack neg (by omega)
    · rw [hexact, ← hunits, ne_eq, ne_eq, eq_div_iff (two_zpow_pos _).ne']
  · have hc : 0x7F7FFFFF < f32Code k' q' := by
      have := mt hrange.mp (not_le.mpr hgt)
      omega
    rw [hround, if_pos hc]
    exact ⟨rfl, (if_pos ⟨rfl, .inl rfl⟩).symm⟩

/-- An exact number is delivered rounded once, a zero with its sign and no flag (R42, R402). -/
theorem f32_delivers {v : FVal} (h : v.finite = true) : delivers f32Fmt .rne v.val (f32Fmt.deliverInv .rne (v, false)) := by
  cases v with
  | nan _ => cases h
  | inf _ => cases h
  | fin neg m e =>
    have hflag (r : Nat × Flags) : (r.1, r.2 ||| flagIf false fNV) = r := by simp [flagIf]
    unfold Fmt.deliverInv
    rw [hflag]
    show delivers f32Fmt .rne _ (f32Fmt.round .rne false neg m e false)
    rcases m.eq_zero_or_pos with rfl | hm
    · refine ⟨fun h0 => absurd (by simp [FVal.val]) h0, fun _ => ⟨?_, rfl⟩⟩
      cases neg
      · exact .inl rfl
      · exact .inr rfl
    · have hpos : 0 < (m : ℚ) * (2 : ℚ) ^ e := mul_pos (by exact_mod_cast hm) (two_zpow_pos e)
      have hval : (FVal.fin neg m e).val = if neg then -((m : ℚ) * (2 : ℚ) ^ e) else m * (2 : ℚ) ^ e := by
        cases neg <;> simp [FVal.val]
      have hsign : decide ((FVal.fin neg m e).val < 0) = neg ∧ |(FVal.fin neg m e).val| = m * (2 : ℚ) ^ e ∧ (FVal.fin neg m e).val ≠ 0 := by
        rw [hval]
        cases neg
        · exact ⟨decide_eq_false (not_lt.mpr hpos.le), abs_of_pos hpos, hpos.ne'⟩
        · exact ⟨decide_eq_true (neg_lt_zero.mpr hpos), by rw [if_pos rfl, abs_neg, abs_of_pos hpos], neg_ne_zero.mpr hpos.ne'⟩
      obtain ⟨hneg, habs, hne⟩ := hsign
      refine ⟨fun _ => ?_, fun h0 => absurd h0 hne⟩
      rw [hneg, habs]
      exact f32_round_roundedTo hm neg e

end Codes
end Sys2Proof.Machine
end

section
/-! f32 arithmetic on numbers: sums, products and the operations of score programs (02_numbers R42 to R44, R50, R51,
10_matrix R239). -/

namespace Sys2Proof.Machine

/-! ### Exact arithmetic on numbers (02_numbers R50, R51) -/

section Exact
variable {a b c v : FVal} {rm : Rounding}

theorem finite_iff : v.finite = true ↔ ∃ n m e, v = .fin n m e := by
  cases v <;> simp [FVal.finite]

/-- A number is its units times the unit. -/
theorem units_val (hv : v.finite = true) {e : Int} (he : e ≤ v.expo) : (v.units e : ℚ) * (2 : ℚ) ^ e = v.val := by
  obtain ⟨n, m, d, rfl⟩ := finite_iff.mp hv
  obtain ⟨j, rfl⟩ : ∃ j : Nat, d = e + j := ⟨(d - e).toNat, by simp only [FVal.expo] at he; omega⟩
  have hd : (e + (j : Int) - e).toNat = j := by omega
  simp only [FVal.units, FVal.val, hd, zpow_add₀ (two_ne_zero (α := ℚ)), zpow_natCast]
  cases n <;> push_cast <;> simp <;> ring

/-- The sum of two numbers is exact. -/
theorem addFin_val (rm : Rounding) (ha : a.finite = true) (hb : b.finite = true) :
    (addFin rm a b).finite = true ∧ (addFin rm a b).val = a.val + b.val := by
  have hsum : ((a.units (min a.expo b.expo) + b.units (min a.expo b.expo) : Int) : ℚ) * (2 : ℚ) ^ min a.expo b.expo = a.val + b.val := by
    rw [Int.cast_add, add_mul, units_val ha (min_le_left _ _), units_val hb (min_le_right _ _)]
  unfold addFin
  extract_lets e u
  rw [← hsum]
  change _ ∧ _ = (u : ℚ) * (2 : ℚ) ^ e
  clear_value u
  split
  · next h => exact ⟨rfl, by simp [FVal.val, h]⟩
  · refine ⟨rfl, ?_⟩
    rcases lt_or_ge u 0 with hu | hu
    · have habs : (u.natAbs : ℚ) = -u := by rw [Nat.cast_natAbs, abs_of_neg hu, Int.cast_neg]
      simp [FVal.val, hu, habs]
    · have habs : (u.natAbs : ℚ) = u := by rw [Nat.cast_natAbs, abs_of_nonneg hu]
      simp [FVal.val, not_lt.mpr hu, habs]

theorem fvAdd_fin (rm : Rounding) (ha : a.finite = true) (hb : b.finite = true) : fvAdd rm a b = (addFin rm a b, false) := by
  obtain ⟨_, _, _, rfl⟩ := finite_iff.mp ha
  obtain ⟨_, _, _, rfl⟩ := finite_iff.mp hb
  rfl

/-- The product of two numbers is exact. -/
theorem fvMul_fin (ha : a.finite = true) (hb : b.finite = true) :
    ∃ p, fvMul a b = (p, false) ∧ p.finite = true ∧ p.val = a.val * b.val := by
  obtain ⟨n, m, e, rfl⟩ := finite_iff.mp ha
  obtain ⟨n', m', e', rfl⟩ := finite_iff.mp hb
  refine ⟨_, rfl, rfl, ?_⟩
  simp only [FVal.val, FVal.neg, zpow_add₀ (two_ne_zero (α := ℚ)), Nat.cast_mul]
  cases n <;> cases n' <;> simp <;> ring

theorem negate_fin (ha : a.finite = true) : a.negate.finite = true ∧ a.negate.val = -a.val := by
  obtain ⟨n, m, e, rfl⟩ := finite_iff.mp ha
  refine ⟨rfl, ?_⟩
  cases n <;> simp [FVal.negate, FVal.val]

theorem not_isNan (ha : a.finite = true) : a.isNan = false := by
  obtain ⟨_, _, _, rfl⟩ := finite_iff.mp ha
  rfl

theorem not_isSig (ha : a.finite = true) : a.isSig = false := by
  obtain ⟨_, _, _, rfl⟩ := finite_iff.mp ha
  rfl

theorem isZero_iff (ha : a.finite = true) : a.isZero = true ↔ a.val = 0 := by
  obtain ⟨n, m, e, rfl⟩ := finite_iff.mp ha
  have h2 : (2 : ℚ) ^ e ≠ 0 := (two_zpow_pos e).ne'
  cases n <;> simp [FVal.isZero, FVal.val, h2]

/-- Numbers compare as their units do. -/
theorem units_lt (ha : a.finite = true) (hb : b.finite = true) :
    a.units (min a.expo b.expo) < b.units (min a.expo b.expo) ↔ a.val < b.val := by
  rw [← units_val ha (min_le_left a.expo b.expo), ← units_val hb (min_le_right a.expo b.expo),
    mul_lt_mul_iff_left₀ (two_zpow_pos _), Int.cast_lt]

theorem units_eq (ha : a.finite = true) (hb : b.finite = true) :
    a.units (min a.expo b.expo) = b.units (min a.expo b.expo) ↔ a.val = b.val := by
  rw [← units_val ha (min_le_left a.expo b.expo), ← units_val hb (min_le_right a.expo b.expo),
    mul_left_inj' (two_zpow_pos _).ne', Int.cast_inj]

theorem fvLt_fin (ha : a.finite = true) (hb : b.finite = true) : fvLt a b = decide (a.val < b.val) := by
  obtain ⟨_, _, _, rfl⟩ := finite_iff.mp ha
  obtain ⟨_, _, _, rfl⟩ := finite_iff.mp hb
  exact decide_eq_decide.mpr (units_lt ha hb)

theorem fvEq_fin (ha : a.finite = true) (hb : b.finite = true) : fvEq a b = decide (a.val = b.val) := by
  obtain ⟨_, _, _, rfl⟩ := finite_iff.mp ha
  obtain ⟨_, _, _, rfl⟩ := finite_iff.mp hb
  exact decide_eq_decide.mpr (units_eq ha hb)

/-- A sum of two numbers is delivered rounded once. -/
theorem f32_delivers_add (ha : a.finite = true) (hb : b.finite = true) :
    delivers f32Fmt .rne (a.val + b.val) (f32Fmt.deliverInv .rne (fvAdd .rne a b)) := by
  obtain ⟨hf, hv⟩ := addFin_val .rne ha hb
  rw [fvAdd_fin _ ha hb, ← hv]
  exact f32_delivers hf

theorem f32_delivers_mul (ha : a.finite = true) (hb : b.finite = true) :
    delivers f32Fmt .rne (a.val * b.val) (f32Fmt.deliverInv .rne (fvMul a b)) := by
  obtain ⟨p, hp, hf, hv⟩ := fvMul_fin ha hb
  rw [hp, ← hv]
  exact f32_delivers hf

theorem f32_delivers_fma (ha : a.finite = true) (hb : b.finite = true) (hc : c.finite = true) :
    delivers f32Fmt .rne (a.val * b.val + c.val) (f32Fmt.deliverInv .rne (fvFma .rne a b c)) := by
  obtain ⟨p, hp, hf, hv⟩ := fvMul_fin ha hb
  have hfma : fvFma .rne a b c = fvAdd .rne p c := by
    simp only [fvFma, hp, fvAdd_fin .rne hf hc, not_isSig hc, Bool.or_false]
  rw [hfma, ← hv]
  exact f32_delivers_add hf hc

end Exact

/-! ### The operations of a score program on numbers (R239) -/

section ScoreOps
variable {a b c : Nat}

/-- The operations of R239 on codes of numbers. -/
theorem scoreOp_numbers (hx : (f32Fmt.decode a).finite = true) (hy : (f32Fmt.decode b).finite = true) (hw : (f32Fmt.decode c).finite = true) :
    let x := f32Fmt.decode a
    let y := f32Fmt.decode b
    let w := f32Fmt.decode c
    delivers f32Fmt .rne (x.val + y.val) (scoreOp 1 a b c) ∧ delivers f32Fmt .rne (x.val - y.val) (scoreOp 2 a b c) ∧
      delivers f32Fmt .rne (x.val * y.val) (scoreOp 3 a b c) ∧ delivers f32Fmt .rne (x.val * y.val + w.val) (scoreOp 4 a b c) ∧
      scoreOp 8 a b c = (if x.val < y.val then 0x3F800000 else 0, 0#9) ∧
      scoreOp 9 a b c = (if x.val ≤ y.val then 0x3F800000 else 0, 0#9) ∧
      scoreOp 10 a b c = (if x.val = y.val then 0x3F800000 else 0, 0#9) ∧
      scoreOp 11 a b c = (if x.val = 0 then c else b, 0#9) ∧ scoreOp 12 a b c = (a % 2 ^ 31, 0#9) ∧ scoreOp 14 a b c = (a, 0#9) := by
  dsimp only
  refine ⟨f32_delivers_add hx hy, ?_, f32_delivers_mul hx hy, f32_delivers_fma hx hy hw, ?_, ?_, ?_, ?_, ?_, rfl⟩
  · obtain ⟨hf, hv⟩ := negate_fin hy
    have hsub : scoreOp 2 a b c = f32Fmt.deliverInv .rne (fvAdd .rne (f32Fmt.decode a) (f32Fmt.decode b).negate) := by
      show f32Fmt.deliverInv .rne ((fvAdd .rne _ _).1, (fvAdd .rne _ _).2 || _) = _
      simp only [fvAdd_fin .rne hx hf, not_isSig hx, not_isSig hy, Bool.or_false]
    rw [hsub, sub_eq_add_neg, ← hv]
    exact f32_delivers_add hx hf
  · show (scoreBit _, flagIf _ fNV) = _
    rw [fvLt_fin hx hy, not_isNan hx, not_isNan hy]
    simp [scoreBit, flagIf]
  · show (scoreBit _, flagIf _ fNV) = _
    rw [fvLt_fin hx hy, fvEq_fin hx hy, not_isNan hx, not_isNan hy]
    simp [scoreBit, flagIf, le_iff_lt_or_eq]
  · show (scoreBit _, flagIf _ fNV) = _
    rw [fvEq_fin hx hy, not_isSig hx, not_isSig hy]
    simp [scoreBit, flagIf]
  · have hpass (d : Nat) (hd : (f32Fmt.decode d).finite = true) : passF32 d = (d, 0#9) := by
      simp [passF32, not_isNan hd, not_isSig hd, flagIf]
    show selF32 a b c = _
    unfold selF32
    by_cases h0 : (f32Fmt.decode a).val = 0
    · simp [(isZero_iff hx).mpr h0, h0, hpass c hw, not_isSig hx, flagIf]
    · have hz : (f32Fmt.decode a).isZero = false := Bool.eq_false_iff.mpr (mt (isZero_iff hx).mp h0)
      simp [hz, h0, hpass b hy, not_isSig hx, flagIf]
  · show (if (f32Fmt.decode a).isNan then passF32 a else (copySign f32Fmt a false, 0#9)) = _
    rw [not_isNan hx]
    rfl

end ScoreOps
end Sys2Proof.Machine
end

section
/-! What the operations of the matrix engine do to the cells (10_matrix R227, R229, R239, R240, 02_numbers R50, R51). -/

namespace Sys2Proof.Machine

/-! ### Cells -/

section CellsOf
variable {cells : List (Nat × Nat × BitVec 32)} {tile row col tile' row' col' v i j : Nat}

/-- A listed cell of this tile and index. -/
def isCell (tile i : Nat) (c : Nat × Nat × BitVec 32) : Bool := decide (c.1 = tile) && decide (c.2.1 = i)

/-- A listed cell below this tile and index. -/
def cellBelow (tile i : Nat) (c : Nat × Nat × BitVec 32) : Bool := decide (c.1 < tile) || (decide (c.1 = tile) && decide (c.2.1 < i))

/-- A listed cell above this tile and index. -/
def cellAbove (tile i : Nat) (c : Nat × Nat × BitVec 32) : Bool := decide (tile < c.1) || (decide (c.1 = tile) && decide (i < c.2.1))

theorem cellOf_eq (cells : List (Nat × Nat × BitVec 32)) (tile row col : Nat) :
    cellOf cells tile row col = ((cells.find? (isCell tile (256 * row + col))).map fun c => c.2.2.toNat).getD 0 := by
  show (match cells.find? (isCell tile (256 * row + col)) with | some c => c.2.2.toNat | none => 0) = _
  cases cells.find? (isCell tile (256 * row + col)) <;> rfl

theorem setCell_eq (cells : List (Nat × Nat × BitVec 32)) (tile row col v : Nat) :
    setCell cells tile row col v = cells.filter (cellBelow tile (256 * row + col)) ++
      ((if v = 0 then [] else [(tile, 256 * row + col, BitVec.ofNat 32 v)]) ++ cells.filter (cellAbove tile (256 * row + col))) := by
  show (if v = 0 then _ else _) = _
  split
  · rfl
  · rw [List.append_assoc]
    rfl

theorem cellOf_lt (cells : List (Nat × Nat × BitVec 32)) (tile row col : Nat) : cellOf cells tile row col < 2 ^ 32 := by
  rw [cellOf_eq]
  cases cells.find? (isCell tile (256 * row + col)) with
  | none => exact Nat.two_pow_pos 32
  | some c => exact c.2.2.isLt

theorem find?_filter_all {α : Type} {p q : α → Bool} (h : ∀ c, q c = true → p c = true) (l : List α) : (l.filter p).find? q = l.find? q := by
  rw [List.find?_filter]
  congr 1
  funext c
  by_cases hq : q c = true
  · simp [hq, h c hq]
  · simp [hq]

theorem find?_filter_none {α : Type} {p q : α → Bool} (h : ∀ c, q c = true → p c = false) (l : List α) : (l.filter p).find? q = none := by
  refine List.find?_eq_none.mpr fun c hc hq => ?_
  have hp := (List.mem_filter.mp hc).2
  rw [h c hq] at hp
  cases hp

theorem isCell_iff {c : Nat × Nat × BitVec 32} : isCell tile i c = true ↔ c.1 = tile ∧ c.2.1 = i := by simp [isCell]

/-- The cell written reads what has been written to it, in 32 bits. -/
theorem cellOf_setCell_same : cellOf (setCell cells tile row col v) tile row col = v % 2 ^ 32 := by
  rw [cellOf_eq, setCell_eq, List.find?_append, List.find?_append, find?_filter_none, find?_filter_none, Option.none_or, Option.or_none]
  · by_cases hv : v = 0
    · rw [if_pos hv, hv]
      rfl
    · have hcell : isCell tile (256 * row + col) (tile, 256 * row + col, BitVec.ofNat 32 v) = true := isCell_iff.mpr ⟨rfl, rfl⟩
      rw [if_neg hv, List.find?_singleton, if_pos hcell]
      exact BitVec.toNat_ofNat v 32
  · intro c hc
    obtain ⟨h1, h2⟩ := isCell_iff.mp hc
    simp [cellAbove, h1, h2]
  · intro c hc
    obtain ⟨h1, h2⟩ := isCell_iff.mp hc
    simp [cellBelow, h1, h2]

/-- Of the cells that stand below and above another, each place keeps the first that was listed. -/
theorem find?_setCell_ne (h : ¬(tile' = tile ∧ j = 256 * row + col)) :
    (setCell cells tile row col v).find? (isCell tile' j) = cells.find? (isCell tile' j) := by
  have hmid : (if v = 0 then [] else [(tile, 256 * row + col, BitVec.ofNat 32 v)]).find? (isCell tile' j) = none := by
    refine List.find?_eq_none.mpr fun c hc hq => ?_
    split at hc
    · cases hc
    · obtain ⟨h1, h2⟩ := isCell_iff.mp hq
      rw [List.mem_singleton.mp hc] at h1 h2
      exact h ⟨h1.symm, h2.symm⟩
  rw [setCell_eq, List.find?_append, List.find?_append, hmid, Option.none_or]
  by_cases hlow : tile' < tile ∨ (tile' = tile ∧ j < 256 * row + col)
  · rw [find?_filter_all, find?_filter_none, Option.or_none]
    · intro c hc
      obtain ⟨h1, h2⟩ := isCell_iff.mp hc
      simp [cellAbove, h1, h2]
      omega
    · intro c hc
      obtain ⟨h1, h2⟩ := isCell_iff.mp hc
      simp [cellBelow, h1, h2, hlow]
  · rw [find?_filter_none, find?_filter_all, Option.none_or]
    · intro c hc
      obtain ⟨h1, h2⟩ := isCell_iff.mp hc
      simp [cellAbove, h1, h2]
      omega
    · intro c hc
      obtain ⟨h1, h2⟩ := isCell_iff.mp hc
      simp [cellBelow, h1, h2]
      omega

/-- No other cell changes. -/
theorem cellOf_setCell_ne (hcol : col < 256) (hcol' : col' < 256) (h : ¬(tile' = tile ∧ row' = row ∧ col' = col)) :
    cellOf (setCell cells tile row col v) tile' row' col' = cellOf cells tile' row' col' := by
  rw [cellOf_eq, cellOf_eq, find?_setCell_ne]
  omega

/-- The cells without those of a tile (R229). -/
theorem cellOf_without (cells : List (Nat × Nat × BitVec 32)) (tile tile' row col : Nat) :
    cellOf (cells.filter fun c => c.1 != tile) tile' row col = if tile' = tile then 0 else cellOf cells tile' row col := by
  rw [cellOf_eq, cellOf_eq]
  split
  · next h =>
    rw [find?_filter_none]
    · rfl
    · intro c hc
      simp [(isCell_iff.mp hc).1, h]
  · next h =>
    rw [find?_filter_all]
    intro c hc
    simp [(isCell_iff.mp hc).1, h]

end CellsOf

/-! ### An operation on each cell of a region -/

section Regions
variable {tile : Nat} {f : Nat → Nat → MRead (Nat × Flags)} {r r' : MRes} {l : List (Nat × Nat)} {m n : Nat}

theorem mem_grid {p : Nat × Nat} : p ∈ grid m n ↔ p.1 < m ∧ p.2 < n := by
  obtain ⟨i, j⟩ := p
  simp [grid]

theorem eachCell_cons {p : Nat × Nat} (h : eachCell tile f (p :: l) r = .ok r') : ∃ v fl, f p.1 p.2 = .ok (v, fl) ∧
    eachCell tile f l { cells := setCell r.cells tile p.1 p.2 v, flags := r.flags ||| fl, low := fexAfter r.low fl (256 * p.1 + p.2) } = .ok r' := by
  obtain ⟨i, j⟩ := p
  unfold eachCell at h
  split at h
  · cases h
  · next v fl hf => exact ⟨v, fl, hf, h⟩

/-- After an operation on the cells `l` each of them holds what it gives, and no other has changed. -/
theorem eachCell_cells : ∀ (l : List (Nat × Nat)) (r : MRes), (∀ p ∈ l, p.2 < 256) → eachCell tile f l r = .ok r' →
    ∀ tile' row col, col < 256 →
      (tile' = tile → (row, col) ∈ l → ∃ v fl, f row col = .ok (v, fl) ∧ cellOf r'.cells tile' row col = v % 2 ^ 32) ∧
      (¬(tile' = tile ∧ (row, col) ∈ l) → cellOf r'.cells tile' row col = cellOf r.cells tile' row col)
  | [], r, _, h, tile', row, col, _ => by
    cases h
    exact ⟨fun _ hm => (nomatch hm), fun _ => rfl⟩
  | p :: l, r, hl, h, tile', row, col, hcol => by
    obtain ⟨v, fl, hf, hrest⟩ := eachCell_cons h
    obtain ⟨hp, hl⟩ := List.forall_mem_cons.mp hl
    obtain ⟨hin, hout⟩ := eachCell_cells l _ hl hrest tile' row col hcol
    refine ⟨fun ht hm => ?_, fun hm => ?_⟩
    · by_cases hml : (row, col) ∈ l
      · exact hin ht hml
      · obtain rfl : (row, col) = p := (List.mem_cons.mp hm).resolve_right hml
        refine ⟨v, fl, hf, (hout fun h => hml h.2).trans ?_⟩
        rw [ht]
        exact cellOf_setCell_same
    · refine (hout fun h => hm ⟨h.1, List.mem_cons_of_mem _ h.2⟩).trans (cellOf_setCell_ne hp hcol fun h => hm ⟨h.1, ?_⟩)
      rw [h.2.1, h.2.2]
      exact List.mem_cons_self

theorem eachCell_grid (hn : n ≤ 256) (h : eachCell tile f (grid m n) r = .ok r') (tile' row : Nat) {col : Nat} (hcol : col < 256) :
    (tile' = tile → row < m → col < n → ∃ v fl, f row col = .ok (v, fl) ∧ cellOf r'.cells tile' row col = v % 2 ^ 32) ∧
      (¬(tile' = tile ∧ row < m ∧ col < n) → cellOf r'.cells tile' row col = cellOf r.cells tile' row col) := by
  obtain ⟨hin, hout⟩ := eachCell_cells _ _ (fun p hp => (mem_grid.mp hp).2.trans_le hn) h tile' row col hcol
  exact ⟨fun ht hr hc => hin ht (mem_grid.mpr ⟨hr, hc⟩), fun hm => hout fun h => hm ⟨h.1, mem_grid.mp h.2⟩⟩

end Regions

/-! ### Score programs (R240) -/

section Scores
variable {s : State} {o : MOp} {r : MRes}

/-- A position is delivered rounded once (R240). -/
theorem natF32_delivers (v : Nat) : delivers f32Fmt .rne (v : ℚ) (natF32 v) := by
  have h := f32_delivers (v := .fin false v 0) rfl
  have hval : (FVal.fin false v 0).val = v := by simp [FVal.val]
  have hflag : f32Fmt.deliverInv .rne (.fin false v 0, false) = natF32 v := by simp [Fmt.deliverInv, flagIf, natF32]
  rwa [hval, hflag] at h

/-- msmod runs the installed program on each cell of its region. -/
theorem mResult_smod (hk : o.kind = .smod) (h : s.mResult o = .ok r) (hn : bitsOf o.xb.toNat 63 48 ≤ 256) :
    let rph := bitsOf o.xb.toNat 15 0
    ∀ tile row col, col < 256 →
      (tile = o.tile → row < bitsOf o.xb.toNat 47 32 → col < bitsOf o.xb.toNat 63 48 → ∃ q k h : Nat × Flags, ∃ fl,
        delivers f32Fmt .rne (((bitsOf o.xa.toNat 31 0 + row % rph) % 2 ^ 32 : ℕ) : ℚ) q ∧
        delivers f32Fmt .rne (((bitsOf o.xa.toNat 63 32 + col) % 2 ^ 32 : ℕ) : ℚ) k ∧
        delivers f32Fmt .rne ((bitsOf o.xb.toNat 31 16 + row / rph : ℕ) : ℚ) h ∧
        cellOf r.cells o.tile row col = (runScore s.t.matrix.prog 16 0
          [cellOf s.t.matrix.cells o.tile row col, q.1, k.1, h.1, 0, 0, 0, 0] fl).1.headD 0 % 2 ^ 32) ∧
      (¬(tile = o.tile ∧ row < bitsOf o.xb.toNat 47 32 ∧ col < bitsOf o.xb.toNat 63 48) →
        cellOf r.cells tile row col = cellOf s.t.matrix.cells tile row col) := by
  intro rph tile row col hcol
  unfold State.mResult at h
  rw [hk] at h
  obtain ⟨hin, hout⟩ := eachCell_grid hn h tile row hcol
  refine ⟨fun ht hr hc => ?_, hout⟩
  obtain ⟨v, fl, hv, hcell⟩ := hin ht hr hc
  obtain ⟨rfl, -⟩ := Prod.mk.inj (Except.ok.inj hv)
  rw [ht] at hcell
  exact ⟨_, _, _, _, natF32_delivers _, natF32_delivers _, natF32_delivers _, hcell⟩

end Scores
end Sys2Proof.Machine
end

section
/-! The sums of mmaf and mmao over numbers (10_matrix R227, 02_numbers R50, R51). -/

namespace Sys2Proof.Machine

/-! ### Sums -/

section Sums
variable {g n acc : Nat} {q : ℚ} {l : List ℚ} {p : FVal} {ps : List (FVal × Bool)} {fl : Flags}

/-- The groups of a list are its first `g` numbers and those of the rest (02_numbers R51). -/
theorem groupSums_cons (hg : 0 < g) (q : ℚ) (l : List ℚ) :
    groupSums g (q :: l) = (q + (l.take (g - 1)).sum) :: groupSums g (l.drop (g - 1)) := by
  obtain ⟨g, rfl⟩ : ∃ k, g = k + 1 := ⟨g - 1, by omega⟩
  have hcount : ((q :: l).length + (g + 1) - 1) / (g + 1) = ((l.drop g).length + (g + 1) - 1) / (g + 1) + 1 := by
    rw [List.length_cons, List.length_drop]
    rcases le_or_gt g l.length with h | h
    · rw [show l.length + 1 + (g + 1) - 1 = l.length + (g + 1) by omega, Nat.add_div_right _ (Nat.succ_pos g),
        show l.length - g + (g + 1) - 1 = l.length by omega]
    · rw [show l.length + 1 + (g + 1) - 1 = l.length + (g + 1) by omega, Nat.add_div_right _ (Nat.succ_pos g),
        show l.length - g + (g + 1) - 1 = g by omega, Nat.div_eq_of_lt (by omega), Nat.div_eq_of_lt (by omega)]
  unfold groupSums
  rw [hcount, List.range_succ_eq_map, List.map_cons, List.map_map, Nat.mul_zero, List.drop_zero, Nat.add_sub_cancel,
    List.take_succ_cons, List.sum_cons]
  congr 2
  funext i
  show (((q :: l).drop ((g + 1) * (i + 1))).take (g + 1)).sum = _
  rw [show (g + 1) * (i + 1) = g + (g + 1) * i + 1 by ring, List.drop_succ_cons, List.drop_drop]

/-- Groups of one are the numbers themselves. -/
theorem groupSums_one (l : List ℚ) : groupSums 1 l = l := by
  induction l with
  | nil => rfl
  | cons q l ih =>
    rw [groupSums_cons Nat.one_pos]
    simp [ih]

/-- The products of a cell are exact numbers. -/
def Exact (ps : List (FVal × Bool)) : Prop := ∀ p ∈ ps, p.1.finite = true ∧ p.2 = false

/-- The sum of exact products is exact. -/
theorem sumProducts_exact : ∀ (ps : List (FVal × Bool)) (p : FVal), p.finite = true → Exact ps →
    ∃ v, sumProducts (p, false) ps = (v, false) ∧ v.finite = true ∧ v.val = p.val + (ps.map (·.1.val)).sum
  | [], p, hp, _ => ⟨p, rfl, hp, by simp⟩
  | x :: ps, p, hp, h => by
    obtain ⟨⟨hx, hx2⟩, hps⟩ := List.forall_mem_cons.mp h
    obtain ⟨hf, hv⟩ := addFin_val .rne hp hx
    obtain ⟨v, hsum, hvf, hval⟩ := sumProducts_exact ps _ hf hps
    refine ⟨v, ?_, hvf, ?_⟩
    · rw [sumProducts, fvAdd_fin .rne hp hx, hx2]
      exact hsum
    · rw [hval, hv, List.map_cons, List.sum_cons, add_assoc]

/-- mmao adds the products in groups of one. -/
theorem accumulate_ordered (g : Nat) : ∀ (n acc : Nat) (ps : List (FVal × Bool)) (fl : Flags),
    accumulate true g n acc ps fl = accumulate false 1 n acc ps fl
  | 0, _, _, _ => rfl
  | _ + 1, _, [], _ => rfl
  | n + 1, acc, p :: ps, fl => by
    simp only [accumulate, if_true, Bool.false_eq_true, if_false, Nat.sub_self, List.take_zero, List.drop_zero]
    exact accumulate_ordered g n _ ps _

/-- The accumulator takes up the exact sums of the groups one after the other, each sum rounded once (R50, R51). -/
theorem accumulate_groups (hg : 0 < g) : ∀ (n acc : Nat) (ps : List (FVal × Bool)) (fl : Flags), ps.length < n → Exact ps →
    addsUp (groupSums g (ps.map (·.1.val))) acc (accumulate false g n acc ps fl).1
  | n + 1, acc, [], fl, _, _ => by
    have hnil : groupSums g [] = [] := by simp [groupSums, Nat.div_eq_of_lt (Nat.sub_lt hg Nat.one_pos)]
    rw [List.map_nil, hnil]
    rfl
  | n + 1, acc, p :: ps, fl, hn, h => by
    obtain ⟨⟨hp, hp2⟩, hps⟩ := List.forall_mem_cons.mp h
    obtain ⟨v, hsum, hv, hval⟩ := sumProducts_exact (ps.take (g - 1)) p.1 hp fun x hx => hps x (List.mem_of_mem_take hx)
    have hstep : accumulate false g (n + 1) acc (p :: ps) fl =
        accumulate false g n (f32Fmt.deliverInv .rne (fvAdd .rne (f32Fmt.decode acc) v)).1 (ps.drop (g - 1))
          (fl ||| (f32Fmt.deliverInv .rne (fvAdd .rne (f32Fmt.decode acc) v)).2) := by
      have hpair : p = (p.1, false) := by rw [← hp2]
      simp only [accumulate, Bool.false_eq_true, if_false]
      rw [hpair, hsum]
      simp only [Bool.or_false]
    rw [List.map_cons, groupSums_cons hg, ← List.map_take, ← hval, ← List.map_drop, hstep]
    refine ⟨_, fun ha => f32_delivers_add ha hv, accumulate_groups hg n _ _ _ ?_ fun x hx => hps x (List.mem_of_mem_drop hx)⟩
    rw [List.length_drop]
    rw [List.length_cons] at hn
    omega

theorem f32_deliverInv_lt (v : FVal × Bool) : (f32Fmt.deliverInv .rne v).1 < 2 ^ 32 := by
  show (f32Fmt.deliver .rne v.1).1 < 2 ^ 32
  cases v.1 with
  | nan _ =>
    show f32Fmt.nan < 2 ^ 32
    decide
  | inf neg =>
    show f32Fmt.infinity neg < 2 ^ 32
    cases neg <;> decide
  | fin neg m e =>
    show (f32Fmt.round .rne false neg m e false).1 < 2 ^ 32
    rcases m.eq_zero_or_pos with rfl | hm
    · show f32Fmt.pack neg 0 0 < 2 ^ 32
      cases neg <;> decide
    · obtain ⟨tiny, hr⟩ := f32_round_eq hm neg e
      dsimp only at hr
      rw [hr]
      split
      · show f32Fmt.infinity neg < 2 ^ 32
        cases neg <;> decide
      · rw [f32_pack]
        cases neg
        · simp only [Bool.false_eq_true, if_false]
          omega
        · simp only [if_true]
          omega

theorem accumulate_lt {ordered : Bool} : ∀ (n acc : Nat) (ps : List (FVal × Bool)) (fl : Flags), acc < 2 ^ 32 →
    (accumulate ordered g n acc ps fl).1 < 2 ^ 32
  | 0, _, _, _, h => h
  | _ + 1, _, [], _, h => h
  | n + 1, _, _ :: _, _, _ => accumulate_lt n _ _ _ (f32_deliverInv_lt _)

/-- What one cell of a multiply-accumulate over exact products comes to. -/
theorem accumulate_addsUp {ordered : Bool} (hg : 0 < g) (hn : ps.length < n) (h : Exact ps) :
    addsUp (if ordered then ps.map (·.1.val) else groupSums g (ps.map (·.1.val))) acc (accumulate ordered g n acc ps fl).1 := by
  cases ordered with
  | false => exact accumulate_groups hg n acc ps fl hn h
  | true =>
    have hone := accumulate_groups Nat.one_pos n acc ps fl hn h
    rw [groupSums_one] at hone
    rw [accumulate_ordered, if_pos rfl]
    exact hone

end Sums

/-! ### Products -/

section Products
variable {s : State} {o : MOp} {x : Shape} {a b e : Entry} {t : ElemType} {m n i j len k blk row : Nat} {along ordered z : Bool} {v : FVal} {r : MRes}
  {ps : List (FVal × Bool)}

theorem mapM_eq_map {ε α β : Type} {f : α → Except ε β} {g : α → β} : ∀ {l : List α} {ys : List β}, l.mapM f = .ok ys →
    (∀ a ∈ l, ∀ y, f a = .ok y → y = g a) → ys = l.map g
  | [], ys, h, _ => by cases h; rfl
  | a :: l, ys, h, hg => by
    rw [List.mapM_cons] at h
    obtain ⟨ha, hl⟩ := List.forall_mem_cons.mp hg
    cases hy : f a with
    | error _ => rw [hy] at h; cases h
    | ok y =>
      cases hz : l.mapM f with
      | error _ => rw [hy, hz] at h; cases h
      | ok zs =>
        rw [hy, hz] at h
        cases h
        rw [ha y hy, mapM_eq_map hz hl, List.map_cons]

/-- An element of a chain without scales is what its code stands for (R225). -/
theorem operandVal_chain (h : s.operandVal (.chain e) t len along none blk k i j row = .ok v) :
    v = valueOf t j (s.cl.codeAt { e with tag := t } (i * len + j)) := by
  unfold State.operandVal State.operand at h
  unfold Cluster.codeAt
  dsimp only at h ⊢
  cases hc : s.cl.element t e.segs (i * len + j) with
  | error _ => rw [hc] at h; cases h
  | ok c => rw [hc] at h; cases h; rfl

/-- Element (m, k) of operand A. -/
def State.factorA (s : State) (x : Shape) (a : Entry) (m k : Nat) : FVal := valueOf x.ea k (s.cl.codeAt { a with tag := x.ea } (m * x.k + k))

/-- Element (k, n) of operand B, which lies along K or along N (R222). -/
def State.factorB (s : State) (x : Shape) (b : Entry) (k n : Nat) : FVal :=
  if x.nMajor then valueOf x.eb k (s.cl.codeAt { b with tag := x.eb } (n * x.k + k))
  else valueOf x.eb n (s.cl.codeAt { b with tag := x.eb } (k * x.n + n))

/-- The products of a cell over chains without scales (R227). -/
theorem products_chains (ha : o.a = some (.chain a)) (hb : o.b = some (.chain b)) (hsa : o.ascale = none) (hsb : o.bscale = none)
    (h : s.products o x m n = .ok ps) : ps = (List.range x.k).map fun k => fvMul (s.factorA x a m k) (s.factorB x b k n) := by
  unfold State.products at h
  rw [ha, hb, hsa, hsb] at h
  refine mapM_eq_map h fun k _ y hy => ?_
  cases hu : s.operandVal (.chain a) x.ea x.k true none x.ablk x.k m k m with
  | error _ => rw [hu] at hy; cases hy
  | ok u =>
    rw [hu] at hy
    obtain rfl : u = s.factorA x a m k := operandVal_chain hu
    unfold State.factorB
    split
    · next hmaj =>
      simp only [hmaj, if_true] at hy
      cases hw : s.operandVal (.chain b) x.eb x.k true none x.bblk x.k n k n with
      | error _ => rw [hw] at hy; cases hy
      | ok w => rw [hw] at hy; cases hy; rw [operandVal_chain hw]
    · next hmaj =>
      simp only [hmaj, Bool.false_eq_true, if_false] at hy
      cases hw : s.operandVal (.chain b) x.eb x.n false none x.bblk x.k k n n with
      | error _ => rw [hw] at hy; cases hy
      | ok w => rw [hw] at hy; cases hy; rw [operandVal_chain hw]

/-- The products of numbers are exact. -/
theorem products_exact {l : List Nat} {f g : Nat → FVal} (h : ∀ k ∈ l, (f k).finite = true ∧ (g k).finite = true) :
    Exact (l.map fun k => fvMul (f k) (g k)) ∧ (l.map fun k => fvMul (f k) (g k)).map (·.1.val) = l.map fun k => (f k).val * (g k).val := by
  refine ⟨fun p hp => ?_, ?_⟩
  · obtain ⟨k, hk, rfl⟩ := List.mem_map.mp hp
    obtain ⟨v, hv, hf, -⟩ := fvMul_fin (h k hk).1 (h k hk).2
    rw [hv]
    exact ⟨hf, rfl⟩
  · rw [List.map_map]
    refine List.map_congr_left fun k hk => ?_
    obtain ⟨v, hv, -, hval⟩ := fvMul_fin (h k hk).1 (h k hk).2
    rw [Function.comp_apply, hv, hval]

/-- A valid shape has 256 columns at most, and no operand of type f32 (R222, R223). -/
theorem shapeOf_valid {w : Word} (h : shapeOf w = some x) : x.n ≤ 256 ∧ x.ea ≠ .f32 ∧ x.eb ≠ .f32 := by
  unfold shapeOf at h
  extract_lets u at h
  split at h
  · next ta tb _ _ =>
    obtain ⟨hok, hx⟩ := Option.ite_none_right_eq_some.mp h
    cases hx
    simp only [Bool.and_eq_true] at hok
    obtain ⟨⟨⟨⟨⟨⟨⟨⟨⟨⟨⟨⟨ha, hb⟩, -⟩, -⟩, -⟩, -⟩, -⟩, -⟩, -⟩, -⟩, -⟩, -⟩, -⟩ := hok
    refine ⟨Nat.mod_lt _ (by decide), ?_, ?_⟩
    · rintro rfl
      cases ha
    · rintro rfl
      cases hb
  · cases h

theorem groupLen_valid (ha : x.ea ≠ .f32) (hb : x.eb ≠ .f32) : groupLen x =
    if x.eb = .e2m1 ∨ x.eb = .cb8x2 then 64
    else if x.ea = .f16 ∨ x.ea = .bf16 ∨ x.eb = .f16 ∨ x.eb = .bf16 then 16 else 32 := by
  have hwide (t : ElemType) (ht : t ≠ .f32) : isWide t = true ↔ t = .f16 ∨ t = .bf16 := by cases t <;> simp [isWide] at ht ⊢
  unfold groupLen
  simp only [Bool.or_eq_true, decide_eq_true_eq, hwide x.ea ha, hwide x.eb hb, or_assoc]

/-- The cells after a multiply-accumulate over chains without scales: each cell of the shape has taken up its exact products, and
no other has changed. -/
theorem mResult_acc (hk : o.kind = .acc ordered z) (hx : shapeOf o.shape = some x) (ha : o.a = some (.chain a)) (hb : o.b = some (.chain b))
    (hsa : o.ascale = none) (hsb : o.bscale = none) (h : s.mResult o = .ok r) (tile row : Nat) {col : Nat} (hcol : col < 256) :
    (tile = o.tile → row < x.m → col < x.n →
      (∀ k, k < x.k → (s.factorA x a row k).finite = true ∧ (s.factorB x b k col).finite = true) →
      addsUp (if ordered then (List.range x.k).map fun k => (s.factorA x a row k).val * (s.factorB x b k col).val
        else groupSums (groupLen x) ((List.range x.k).map fun k => (s.factorA x a row k).val * (s.factorB x b k col).val))
        (if z then 0 else cellOf s.t.matrix.cells o.tile row col) (cellOf r.cells o.tile row col)) ∧
      (¬(tile = o.tile ∧ row < x.m ∧ col < x.n) → cellOf r.cells tile row col = cellOf s.t.matrix.cells tile row col) := by
  unfold State.mResult at h
  rw [hk] at h
  dsimp only at h
  rw [hx] at h
  obtain ⟨hin, hout⟩ := eachCell_grid (shapeOf_valid hx).1 h tile row hcol
  refine ⟨fun ht hr hc hfin => ?_, hout⟩
  obtain ⟨v, fl, hv, hcell⟩ := hin ht hr hc
  rw [ht] at hcell
  cases hps : s.products o x row col with
  | error _ => rw [hps] at hv; cases hv
  | ok ps =>
    rw [hps] at hv
    have hv : _ = v := congrArg Prod.fst (Except.ok.inj hv)
    obtain ⟨hexact, hvals⟩ := products_exact (l := List.range x.k) (f := s.factorA x a row) (g := fun k => s.factorB x b k col)
      fun k hk => hfin k (List.mem_range.mp hk)
    rw [← products_chains ha hb hsa hsb hps] at hexact hvals
    have hlen : ps.length < x.k + 1 := by simp [products_chains ha hb hsa hsb hps]
    have hpos : 0 < groupLen x := by
      unfold groupLen
      split_ifs <;> decide
    have hacc : (if z then 0 else cellOf s.t.matrix.cells o.tile row col) < 2 ^ 32 := by
      split
      · decide
      · exact cellOf_lt _ _ _ _
    rw [hcell, ← hv, ← hvals, Nat.mod_eq_of_lt (accumulate_lt _ _ _ _ hacc)]
    exact accumulate_addsUp hpos hlen hexact

end Products
end Sys2Proof.Machine
end

section
/-! The events of the matrix queue (10_matrix R216, R219, R231, R234, R236, R237): what the fill of window lines leaves as it was,
and what an operation leaves that executes or fails. -/

namespace Sys2Proof.Machine

/-! ### Filling window lines (09_vmem R216) -/

/-- From `s` to `t` lines of stash windows have been filled: the hart has kept all but its buffered stores, and the task all but its
windows and its scratch. -/
structure State.FillsOnly (s t : State) : Prop where
  who : t.who = s.who
  hart : t.h = { s.h with sb := t.h.sb }
  task : t.t = { s.t with windows := t.t.windows, scratch := t.t.scratch, scrPoison := t.t.scrPoison }

section Fills
variable {s t u : State} {α β : Type}

namespace State.FillsOnly

theorem refl (s : State) : s.FillsOnly s := ⟨rfl, rfl, rfl⟩

theorem trans (h : s.FillsOnly t) (g : t.FillsOnly u) : s.FillsOnly u where
  who := g.who.trans h.who
  hart := by rw [g.hart, h.hart]
  task := by rw [g.task, h.task]

theorem of_memoryOnly (h : s.MemoryOnly t) : s.FillsOnly t where
  who := h.who
  hart := by rw [h.hart]
  task := by rw [h.task]

theorem matrix (h : s.FillsOnly t) : t.t.matrix = s.t.matrix := by rw [h.task]

theorem mm (h : s.FillsOnly t) : t.t.mm = s.t.mm := by rw [h.task]

end State.FillsOnly

/-- Where it gives a value the computation has only filled lines. -/
def FillsLines (a : Act α) : Prop := ∀ s x t, a s = .ok (x, t) → s.FillsOnly t

theorem FillsLines.pure (x : α) : FillsLines (pure x : Act α) := fun s _ _ h => by
  cases h
  exact .refl s

theorem FillsLines.bind {a : Act α} {f : α → Act β} (ha : FillsLines a) (hf : ∀ x, FillsLines (f x)) : FillsLines (a >>= f) := by
  intro s y u h
  rw [Act.bind_run] at h
  split at h
  · next x t hx => exact (ha s x t hx).trans (hf x t y u h)
  · cases h

theorem FillsLines.modify {f : State → State} (hf : ∀ s : State, s.FillsOnly (f s)) : FillsLines (modify f : Act PUnit) := by
  rintro s _ _ ⟨⟩
  exact hf s

theorem aliasLines_memoryOnly (s : State) (l : List (Nat × Nat × List Byte)) : s.MemoryOnly { s with aliasLines := l } :=
  ⟨rfl, rfl, rfl, rfl, rfl⟩

theorem aliasFill_memoryOnly (n : Nat) (s : State) (w : FormatWindow) (line : Nat) : s.MemoryOnly (s.aliasFill n w line) := by
  induction n generalizing s w line with
  | zero => exact .refl s
  | succ n ih =>
    unfold State.aliasFill
    split
    · exact .refl s
    · have h1 : s.MemoryOnly ((s.innerLines w line).foldl (fun s v => State.aliasFill n s v.1 v.2) s) :=
        .foldl (fun s (v : FormatWindow × Nat) => ih s v.1 v.2) _ s
      dsimp only
      split
      · exact h1.trans (aliasLines_memoryOnly _ _)
      · exact h1

theorem aliasRead_memoryOnly {w : FormatWindow} {pp n : Nat} {r : List Byte × State} (h : s.aliasRead w pp n = some r) : s.MemoryOnly r.2 := by
  obtain ⟨bs, -, rfl⟩ := Option.map_eq_some_iff.mp h
  exact (aliasFill_memoryOnly _ _ _ _).trans (.lookAll _ _)

theorem physLoad_fills (part : Nat) (x : Xlat) (va n : Nat) (val2 : Word) : FillsLines (physLoad part x va n val2) := by
  intro s bs t h
  unfold physLoad at h
  dsimp only at h
  split at h
  · split at h
    · next r hr =>
      cases h
      exact .of_memoryOnly (aliasRead_memoryOnly hr)
    · cases h
  · split at h
    · cases h
    · cases h
      exact .of_memoryOnly (.recallLine _ _ _)

theorem withoutBuffer_fills {a : Act α} (ha : FillsLines a) : FillsLines (withoutBuffer a) := by
  intro s x t h
  obtain ⟨-, u, hu, rfl⟩ := withoutBuffer_ok h
  have hf := ha _ _ _ hu
  exact ⟨hf.who, by rw [hf.hart], hf.task⟩

theorem drainBytes_fills (s : State) (pa n : Nat) : s.FillsOnly (s.drainBytes pa n) := by
  have h := State.FillsOnly.of_memoryOnly (.commitAll (selectDrain (fun e => e.ord != .unordered && overlaps e.pa e.cells.length pa n) s.h.sb).1 s)
  exact ⟨h.who, by rw [State.drainBytes, State.drainWhere, h.hart], h.task⟩

theorem windowLine_fills (w : Window) (l va : Nat) (val2 : Word) : FillsLines (windowLine w l va val2) := by
  intro s x t h
  unfold windowLine at h
  dsimp only at h
  split at h
  · cases h
    exact .refl s
  · split at h
    · cases h
    · next p tr _ =>
      cases h
      have hm := State.FillsOnly.of_memoryOnly (.setMarks false s tr)
      exact ⟨hm.who, hm.hart, by rw [hm.task]; rfl⟩

theorem FillsLines.get_bind {f : State → Act β} (hf : ∀ s, FillsLines (f s)) : FillsLines (get >>= f) := fun s => hf s s

theorem fillLine_fills (w : Window) (l va : Nat) (val2 : Word) : FillsLines (fillLine w l va val2) := by
  unfold fillLine
  refine .bind (windowLine_fills _ _ _ _) fun p => .get_bind fun s => ?_
  dsimp only
  split
  · exact .pure _
  · exact .bind (.modify fun s => drainBytes_fills s _ _) fun _ => .bind (withoutBuffer_fills (physLoad_fills _ _ _ _ _)) fun _ =>
      .bind (.modify fun _ => ⟨rfl, rfl, rfl⟩) fun _ => .pure _

/-- The state that the fill of an operand's lines leaves, whether it fails or not. -/
def fillState : Except (Trap × State) State → State
  | .ok t => t
  | .error e => e.2

theorem fillState_bind {r : Except (Trap × State) State} {f : State → Except (Trap × State) State} (hr : s.FillsOnly (fillState r))
    (hf : ∀ t : State, t.FillsOnly (fillState (f t))) : s.FillsOnly (fillState (r.bind f)) := by
  cases r with
  | error e => exact hr
  | ok t => exact hr.trans (hf t)

theorem fillState_foldlM {f : State → α → Except (Trap × State) State} (hf : ∀ (t : State) (a : α), t.FillsOnly (fillState (f t a))) :
    ∀ (l : List α) (s : State), s.FillsOnly (fillState (l.foldlM f s))
  | [], s => .refl s
  | a :: l, s => fillState_bind (hf s a) (fillState_foldlM hf l)

theorem fillByte_fills (s : State) (a : Nat) : s.FillsOnly (fillState (s.fillByte a)) := by
  unfold State.fillByte
  split
  · exact .refl s
  · split
    · next h => exact fillLine_fills _ _ _ _ _ _ _ h
    · exact .refl s
    · exact .refl s

theorem fillOperand_fills (s : State) (src : Option MSrc) (t : ElemType) (runs len : Nat) (along : Bool) :
    s.FillsOnly (fillState (s.fillOperand src t runs len along)) := by
  unfold State.fillOperand
  split
  · split
    · exact .refl s
    · exact fillState_foldlM (fun s i => fillState_foldlM (fun s b => fillByte_fills s _) _ s) _ s
  · exact .refl s

/-- Without stash windows there is nothing to fill. -/
theorem fillOperand_noWindows (h : s.t.windows = []) (src : Option MSrc) (t : ElemType) (runs len : Nat) (along : Bool) :
    s.fillOperand src t runs len along = .ok s := by
  unfold State.fillOperand
  split
  · rw [h]
    rfl
  · rfl

/-- Nor for an operand without runs. -/
theorem fillOperand_noRuns (s : State) (src : Option MSrc) (t : ElemType) (len : Nat) (along : Bool) :
    s.fillOperand src t 0 len along = .ok s := by
  unfold State.fillOperand
  split
  · split
    · rfl
    · rfl
  · rfl

/-- The lines filled that the scratch operands of an operation touch, or the trap of a fill that fails. -/
def State.filledFor (s : State) (o : MOp) : Except (Trap × State) State :=
  match shapeOf o.shape with
  | some x => (s.fillOperand o.a x.ea (x.runs true).1 (x.runs true).2.1 true).bind fun u =>
    u.fillOperand o.b x.eb (x.runs false).1 (x.runs false).2.1 (x.runs false).2.2
  | none => .ok s

theorem filledFor_fills (s : State) (o : MOp) : s.FillsOnly (fillState (s.filledFor o)) := by
  unfold State.filledFor
  split
  · exact fillState_bind (fillOperand_fills _ _ _ _ _ _) fun t => fillOperand_fills t _ _ _ _ _
  · exact .refl s

theorem filledFor_noWindows (h : s.t.windows = []) (o : MOp) : s.filledFor o = .ok s := by
  unfold State.filledFor
  split
  · rw [fillOperand_noWindows h, Except.bind, fillOperand_noWindows h]
  · rfl

/-- The shape that an operation without a valid one is given has no runs. -/
theorem filledFor_eq (s : State) (o : MOp) (d : Shape) (hm : d.m = 0) (hk : d.k = 0) (hmaj : d.nMajor = false) :
    (let x := (shapeOf o.shape).getD d
     (s.fillOperand o.a x.ea (x.runs true).1 (x.runs true).2.1 true).bind fun u =>
      u.fillOperand o.b x.eb (x.runs false).1 (x.runs false).2.1 (x.runs false).2.2) = s.filledFor o := by
  unfold State.filledFor
  cases shapeOf o.shape with
  | some x => rfl
  | none =>
    have hA : (d.runs true).1 = 0 := by rw [Shape.runs, if_pos rfl, hm]
    have hB : (d.runs false).1 = 0 := by simp [Shape.runs, hmaj, hk]
    simp only [Option.getD_none, hA, hB, fillOperand_noRuns]
    rfl

end Fills
end Sys2Proof.Machine
end

section
/-! The matrix queue as its operations execute (10_matrix R219, R231, R234, R237): what a change of versions leaves of it, and what an
operation leaves that executes or fails. -/

namespace Sys2Proof.Machine

/-! ### What a change of versions leaves of the matrix engine -/

/-- From `s` to `t` versions have changed, and what shows or captures them: the matrix engine has kept its cells, its program, its
counters and the numbers of its queue. -/
structure State.VersionsOnly (s t : State) : Prop where
  who : t.who = s.who
  mm : t.t.mm = s.t.mm
  matrix : t.t.matrix = { s.t.matrix with queue := t.t.matrix.queue, done := t.t.matrix.done }
  numbers : t.t.matrix.queue.map MOp.n = s.t.matrix.queue.map MOp.n

namespace State.VersionsOnly
variable {s t u : State}

theorem refl (s : State) : s.VersionsOnly s := ⟨rfl, rfl, rfl, rfl⟩

theorem trans (h : s.VersionsOnly t) (g : t.VersionsOnly u) : s.VersionsOnly u where
  who := g.who.trans h.who
  mm := g.mm.trans h.mm
  matrix := by rw [g.matrix, h.matrix]
  numbers := g.numbers.trans h.numbers

theorem cells (h : s.VersionsOnly t) : t.t.matrix.cells = s.t.matrix.cells := by rw [h.matrix]

theorem prog (h : s.VersionsOnly t) : t.t.matrix.prog = s.t.matrix.prog := by rw [h.matrix]

theorem reached (h : s.VersionsOnly t) : t.t.matrix.reached = s.t.matrix.reached := by rw [h.matrix]

theorem issued (h : s.VersionsOnly t) : t.t.matrix.issued = s.t.matrix.issued := by rw [h.matrix]

theorem of_boltOnly (h : s.BoltOnly t) : s.VersionsOnly t := by
  obtain ⟨_, _, _, rfl⟩ := h
  exact ⟨rfl, rfl, rfl, rfl⟩

theorem task {t : Task} (hmm : t.mm = s.t.mm) (hm : t.matrix = { s.t.matrix with queue := t.matrix.queue, done := t.matrix.done })
    (hn : t.matrix.queue.map MOp.n = s.t.matrix.queue.map MOp.n) : s.VersionsOnly { s with t := t } :=
  ⟨rfl, hmm, hm, hn⟩

theorem mapHarts (s : State) (f : Hart → Hart) : s.VersionsOnly (s.mapHarts f) := ⟨rfl, rfl, rfl, rfl⟩

theorem mapTables (s : State) (tab : List (Nat × Entry) → List (Nat × Entry)) (f : Nat → Entry → Entry) :
    s.VersionsOnly (s.mapTables tab f) :=
  ⟨rfl, rfl, rfl, List.map_map.trans rfl⟩

theorem updateVersion (s : State) (id : Nat) (f : Entry → Entry) : s.VersionsOnly (s.updateVersion id f) := by
  unfold State.updateVersion
  dsimp only
  exact (((of_boltOnly (holdAll_boltOnly _ s)).trans (mapTables _ _ _)).trans (mapHarts _ _)).trans
    (task rfl rfl (List.map_map.trans rfl))

theorem settle (s : State) (i : Nat) : s.VersionsOnly (s.settle i) := by
  unfold State.settle
  split
  · exact ⟨rfl, rfl, rfl, rfl⟩
  · exact refl s

theorem settleAll (s : State) (l : List (Nat × Entry)) : s.VersionsOnly (s.settleAll l) :=
  List.foldlRecOn _ State.settle (refl s) fun _ h i _ => h.trans (settle _ i)

theorem releaseAll (l : List Nat) (s : State) : s.VersionsOnly (s.releaseAll l) := by
  induction l generalizing s with
  | nil => exact refl s
  | cons i r ih =>
    have h : s.VersionsOnly { s with cl := s.cl.mapSwatch i fun w => { w with refs := w.refs - 1 } } := ⟨rfl, rfl, rfl, rfl⟩
    exact (h.trans (settle _ i)).trans (ih _)

theorem gone (s : State) (l : List Nat) : s.VersionsOnly { s with t := { s.t with gone := l } } := ⟨rfl, rfl, rfl, rfl⟩

theorem dropVersion (s : State) (k : Nat) (old : Entry) : s.VersionsOnly (s.dropVersion k old) := by
  unfold State.dropVersion
  dsimp only
  split_ifs
  · exact refl s
  · exact settleAll _ _
  · exact gone s _
  · exact refl s
  · exact (gone s _).trans (releaseAll _ _)
  · exact releaseAll _ _

theorem dropDue (s : State) (id : Nat) : s.VersionsOnly (s.dropDue id) := by
  unfold State.dropDue
  exact List.foldlRecOn _ _ ⟨rfl, rfl, rfl, rfl⟩ fun _ h d _ => h.trans (dropVersion _ d.name d.old)

theorem finishVersion (s : State) (e : Entry) : s.VersionsOnly (s.finishVersion e) := by
  unfold State.finishVersion
  dsimp only
  split
  · exact updateVersion _ _ _
  · exact (updateVersion _ _ _).trans (releaseAll _ _)

theorem passed (s : State) (n : Nat) : s.VersionsOnly { s with t := { s.t with nextStamp := n } } := ⟨rfl, rfl, rfl, rfl⟩

theorem retireOne (s : State) (h : BitVec 3) (k : Nat) (e old : Entry) : s.VersionsOnly (s.retireOne h k e old) := by
  unfold State.retireOne State.mapShows
  dsimp only
  exact ((((mapTables s _ _).trans (passed _ _)).trans (finishVersion _ e)).trans (dropVersion _ k old)).trans (dropDue _ e.id)

theorem done (s : State) (l : List MOp) : s.VersionsOnly { s with t := { s.t with matrix := { s.t.matrix with done := l } } } :=
  ⟨rfl, rfl, rfl, rfl⟩

theorem retireReads (n : Nat) (s : State) : s.VersionsOnly (s.retireReads n) := by
  induction n generalizing s with
  | zero => exact refl s
  | succ n ih =>
    unfold State.retireReads
    split
    · exact refl s
    · refine trans ?_ (ih _)
      split
      · exact (done s _).trans (retireOne _ _ _ _ _)
      · exact done s _

end State.VersionsOnly

/-! ### An operation of the queue executes or fails -/

section Executes
variable {s u : State} {n : Nat} {o : MOp} {mm : Mismatch} {r : MRes} {tr : Trap}

/-- What is made of the operations of number `n` holds of all that have this number then. -/
theorem mapOp_forall {f : MOp → MOp} {P : MOp → Prop} (hP : ∀ m, P (f m)) :
    ∀ m ∈ (s.mapOp n f).t.matrix.queue, m.n = n → P m := by
  intro m hm hmn
  obtain ⟨a, -, rfl⟩ := List.mem_map.mp hm
  by_cases ha : a.n = n
  · rw [if_pos ha]
    exact hP a
  · rw [if_neg ha] at hmn
    exact absurd hmn ha

/-- Operation `n` of the hart has failed with a trap. -/
def State.opFailed (s : State) (n : Nat) (hart : BitVec 3) (tr : Trap) : State :=
  (s.mapOp n fun o => { o with executed := true, failed := true }).holdTrap hart tr

theorem opFailed_cells (s : State) (n : Nat) (hart : BitVec 3) (tr : Trap) : (s.opFailed n hart tr).t.matrix.cells = s.t.matrix.cells := rfl

theorem opFailed_queue (s : State) (n : Nat) (hart : BitVec 3) (tr : Trap) :
    ∀ m ∈ (s.opFailed n hart tr).t.matrix.queue, m.n = n → m.executed = true ∧ m.failed = true :=
  mapOp_forall (s := s) (fun _ => ⟨rfl, rfl⟩)

/-- A trap for the hart with the turn waits there. -/
theorem opFailed_held (hw : s.who = .user) {hart : BitVec 3} (hh : hart = s.h.id) (n : Nat) (tr : Trap) :
    (s.opFailed n hart tr).h.held = s.h.held ++ [{ tr with engine := true }] := by
  have hid : (s.opFailed n hart tr).h = if s.h.id = hart then { s.h with held := s.h.held ++ [{ tr with engine := true }] } else s.h :=
    if_pos hw
  rw [hid, if_pos hh.symm]

/-- Whether the mirrored pair differs over a tile that the operation writes, as the outcome `mm` says. -/
def State.pairDiffers (s : State) (o : MOp) (outcome mm : Mismatch) : Bool := s.t.pm && o.kind.writes && mm == outcome

/-- What an operation leaves that has executed with the result `r`, but for its place in the queue. -/
def State.tookResult (s : State) (o : MOp) (again : Bool) (r : MRes) : State :=
  let s2 := if again then { s with t := { s.t with mm := true } } else s
  let s3 := { s2 with t := { s2.t with matrix := { s2.t.matrix with
    cells := r.cells, prog := if o.kind == MKind.prog then o.bytes else s2.t.matrix.prog } } }
  match o.dest with
  | some e =>
    let s4 := { s3 with cl := s3.cl.putBytes e.segs 0 (readBytes s3.t.matrix.cells o.tile (regionOf o.xb)) }
    s4.showVersion { e with prog := e.len }
  | none => s3

theorem tookResult_matrix (s : State) (o : MOp) (again : Bool) (r : MRes) : (s.tookResult o again r).t.matrix.cells = r.cells ∧
    (s.tookResult o again r).t.matrix.prog = (if o.kind = .prog then o.bytes else s.t.matrix.prog) ∧
    (s.tookResult o again r).t.mm = (s.t.mm || again) := by
  unfold State.tookResult
  simp only [beq_iff_eq]
  cases o.dest with
  | none => cases again <;> simp
  | some e =>
    have h (v : State) : v.VersionsOnly (v.showVersion { e with prog := e.len }) := .updateVersion v _ _
    dsimp only
    rw [(h _).cells, (h _).prog, (h _).mm]
    cases again <;> simp

/-- What an operation leaves that executes in `s`, with the lines that it touches filled in `u`. -/
def State.opExecuted (s u : State) (n : Nat) (o : MOp) (mm : Mismatch) : State :=
  match u.mResult o with
  | .error p => u.opFailed n o.hart { cause := .poison, val := BitVec.ofNat 64 p }
  | .ok r =>
    if s.pairDiffers o .persists mm then
      let tr : Trap := { cause := .mismatch, val := Config.trapValue s.time 0, val2 := Config.trapValue s.time 1 }
      let s2 := u.opFailed n o.hart tr
      { s2 with lydarLog := s2.lydarLog ++ [s.engineRecord o.hart tr] }
    else (u.tookResult o (s.pairDiffers o .retried mm) r).mapOp n fun o => { o with executed := true, flags := r.flags, low := r.low }

theorem opExecuted_ok (hr : u.mResult o = .ok r) (hd : s.pairDiffers o .persists mm = false) : s.opExecuted u n o mm =
    (u.tookResult o (s.pairDiffers o .retried mm) r).mapOp n fun o => { o with executed := true, flags := r.flags, low := r.low } := by
  rw [State.opExecuted, hr]
  exact if_neg (by simp [hd])

/-- At poison, or where the pair differs twice, the operation fails and the cells stay. -/
theorem opExecuted_failed (h : (∃ p, u.mResult o = .error p) ∨ s.pairDiffers o .persists mm = true) :
    (s.opExecuted u n o mm).t.matrix.cells = u.t.matrix.cells ∧
      ∀ m ∈ (s.opExecuted u n o mm).t.matrix.queue, m.n = n → m.executed = true ∧ m.failed = true := by
  unfold State.opExecuted
  cases hr : u.mResult o with
  | error p => exact ⟨opFailed_cells _ _ _ _, opFailed_queue _ _ _ _⟩
  | ok r =>
    have hd : s.pairDiffers o .persists mm = true := h.resolve_left (by simp [hr])
    simp only [hd, if_true]
    exact ⟨opFailed_cells u n _ _, opFailed_queue u n _ _⟩

/-- What an operation leaves that executes in `s`: it fails where a line that it touches cannot be filled. -/
def State.opRun (s : State) (n : Nat) (o : MOp) (mm : Mismatch) : State :=
  match s.filledFor o with
  | .error (tr, u) => u.opFailed n o.hart tr
  | .ok u => s.opExecuted u n o mm

theorem opRun_unfilled (h : s.filledFor o = .error (tr, u)) : s.opRun n o mm = u.opFailed n o.hart tr := by rw [State.opRun, h]

theorem opRun_filled (h : s.filledFor o = .ok u) : s.opRun n o mm = s.opExecuted u n o mm := by rw [State.opRun, h]

section Eligible
variable (hf : (s.t.matrix.queue.find? fun m => m.n = n) = some o) (he : s.t.matrix.eligible o = true)
include hf he

theorem execute_run : execMatrixOpExecute n mm s = .next (s.opRun n o mm) := by
  unfold execMatrixOpExecute State.opRun
  simp only [hf, he]
  rw [← filledFor_eq s o { m := 0, n := 0, k := 0, ea := .f32, eb := .f32, nMajor := false, ablk := 0, bblk := 0, sname := 0 } rfl rfl rfl]
  rfl

/-- Where a line cannot be filled the cells stay, and the trap waits for the hart. -/
theorem execute_unfilled_meets (h : s.filledFor o = .error (tr, u)) : ∃ t, execMatrixOpExecute n mm s = .next t ∧
    t.t.matrix.cells = s.t.matrix.cells ∧ (∀ m ∈ t.t.matrix.queue, m.n = n → m.executed = true ∧ m.failed = true) ∧
    (s.who = .user → o.hart = s.h.id → ∃ x, t.h.held = s.h.held ++ [x] ∧ x.cause = tr.cause ∧ x.val = tr.val) := by
  have hfill : s.FillsOnly u := by simpa [h, fillState] using filledFor_fills s o
  refine ⟨_, (execute_run hf he).trans (congrArg _ (opRun_unfilled h)), by rw [opFailed_cells, hfill.matrix], opFailed_queue _ _ _ _, fun hw hh => ?_⟩
  have hheld := opFailed_held (hfill.who.trans hw) (hart := o.hart) (by rw [hh, hfill.hart]) n tr
  rw [hfill.hart] at hheld
  exact ⟨_, hheld, rfl, rfl⟩

/-- An operation with its lines filled takes its result, once its pair agrees and no operand holds poison. -/
theorem execute_result_meets (h : s.filledFor o = .ok u) (hr : u.mResult o = .ok r) (hd : s.pairDiffers o .persists mm = false) :
    ∃ t, execMatrixOpExecute n mm s = .next t ∧ t.t.matrix.cells = r.cells ∧ (∀ m ∈ t.t.matrix.queue, m.n = n → m.executed = true) ∧
      t.t.matrix.prog = (if o.kind = .prog then o.bytes else s.t.matrix.prog) ∧ t.t.mm = (s.t.mm || s.pairDiffers o .retried mm) := by
  have hfill : s.FillsOnly u := by simpa [h, fillState] using filledFor_fills s o
  obtain ⟨hcells, hprog, hmm⟩ := tookResult_matrix u o (s.pairDiffers o .retried mm) r
  rw [hfill.matrix] at hprog
  rw [hfill.mm] at hmm
  exact ⟨_, (execute_run hf he).trans (congrArg _ ((opRun_filled h).trans (opExecuted_ok hr hd))), hcells, mapOp_forall fun _ => rfl, hprog, hmm⟩

/-- An operation with its lines filled fails at poison, or where its pair differs again. -/
theorem execute_failed_meets (h : s.filledFor o = .ok u) (hd : (∃ p, u.mResult o = .error p) ∨ s.pairDiffers o .persists mm = true) :
    ∃ t, execMatrixOpExecute n mm s = .next t ∧ t.t.matrix.cells = s.t.matrix.cells ∧
      ∀ m ∈ t.t.matrix.queue, m.n = n → m.executed = true ∧ m.failed = true := by
  have hfill : s.FillsOnly u := by simpa [h, fillState] using filledFor_fills s o
  obtain ⟨hcells, hqueue⟩ := opExecuted_failed (n := n) hd
  exact ⟨_, (execute_run hf he).trans (congrArg _ (opRun_filled h)), by rw [hcells, hfill.matrix], hqueue⟩

end Eligible

end Executes
end Sys2Proof.Machine
end

section
/-! The completion of an operation of the matrix queue, and the retirement of what an mread has filled (10_matrix R219, R236,
06_chains R124). -/

namespace Sys2Proof.Machine

/-! ### Names as versions retire -/

section Names
variable {s t : State} {k : Nat} {e : Entry}

theorem settle_boltOnly (s : State) (i : Nat) : s.BoltOnly (s.settle i) := by
  unfold State.settle
  split
  · exact ⟨_, _, _, rfl⟩
  · exact .refl s

theorem releaseAll_boltOnly (l : List Nat) (s : State) : s.BoltOnly (s.releaseAll l) := by
  induction l generalizing s with
  | nil => exact .refl s
  | cons i r ih =>
    have h : s.BoltOnly { s with cl := s.cl.mapSwatch i fun w => { w with refs := w.refs - 1 } } := ⟨_, _, _, rfl⟩
    exact (h.trans (settle_boltOnly _ i)).trans (ih _)

/-- The entry of a table changed throughout, where the name stands in it. -/
theorem entryIn_map (f : Nat → Entry → Entry) {l : List (Nat × Entry)} (h : (entryIn l k).state ≠ .empty) :
    entryIn (l.map fun p => (p.1, f p.1 p.2)) k = f k (entryIn l k) := by
  have hp : ((fun p : Nat × Entry => decide (p.1 = k)) ∘ fun p : Nat × Entry => (p.1, f p.1 p.2)) = fun p : Nat × Entry => decide (p.1 = k) := rfl
  unfold entryIn at h ⊢
  rw [List.find?_map, hp]
  cases hx : l.find? fun p => p.1 = k with
  | none =>
    rw [hx] at h
    exact absurd rfl h
  | some p =>
    have hk : p.1 = k := by simpa using List.find?_some hx
    simp [hk]

theorem mapShows_entry (hw : s.who = .user) (f : Nat → Entry → Entry) (h : (s.entry k).state ≠ .empty) :
    (s.mapShows f).entry k = f k (s.entry k) := by
  have hn : (s.mapShows f).h.names = s.h.names.map fun p => (p.1, f p.1 p.2) := by
    have hm : (s.mapShows f).h = if s.who = .user then _ else s.h := rfl
    rw [hm, if_pos hw]
  rw [State.entry, hn]
  exact entryIn_map f h

/-- A change of the captures leaves the names. -/
theorem mapCaptured_names (s : State) (up : Entry → Entry) : (s.mapHarts fun h =>
    { h with flight := h.flight.map (·.mapCaptured up), stopped := h.stopped.map (·.mapCaptured up) }).h.names = s.h.names := by
  unfold State.mapHarts
  dsimp only
  split <;> rfl

theorem updateVersion_entry (hw : s.who = .user) (g : Entry → Entry) (h : (s.entry k).state ≠ .empty) :
    (s.updateVersion e.id g).entry k = if (s.entry k).id = e.id then g (s.entry k) else s.entry k := by
  have hb := holdAll_boltOnly ((s.captures.filter fun v => v.id = e.id).flatMap fun v => (g v).held.drop v.segs.length) s
  have hw' := hb.views.1.trans hw
  have hentry := congrArg (fun h : Hart => entryIn h.names k) hb.hart
  change State.entry _ k = s.entry k at hentry
  have hshow := mapShows_entry hw' (fun _ v => if v.id = e.id then g v else v) (hentry ▸ h)
  rw [hentry] at hshow
  unfold State.updateVersion
  dsimp only
  exact (congrArg (entryIn · k) (mapCaptured_names _ _)).trans hshow

theorem dropDue_hart (s : State) (id : Nat) : (s.dropDue id).h = s.h := by
  unfold State.dropDue
  exact List.foldlRecOn (motive := fun u : State => u.h = s.h) _ _ rfl fun _ h _ _ => (State.Releases.dropVersion _ _ _).hart.trans h

/-- The entry `v` once the version that it shows is complete as `e`. -/
def Entry.finished (v e : Entry) : Entry := { v with state := .live, segs := e.segs, map := e.map, len := e.len, prog := e.len }

theorem finishVersion_entry (hw : s.who = .user) (hid : (s.entry k).id = e.id) (h : (s.entry k).state ≠ .empty) :
    (s.finishVersion e).entry k = (s.entry k).finished e := by
  have hu := updateVersion_entry (e := e) hw (Entry.finished · e) h
  rw [if_pos hid] at hu
  unfold State.finishVersion
  dsimp only
  split
  · exact hu
  · exact ((State.Releases.releaseAll _ _).entry k).trans hu

@[simp] theorem retired_id (v : Entry) (h : BitVec 3) (k j id d : Nat) : (v.retired h k j id d).id = v.id := by
  unfold Entry.retired Entry.unblock
  split_ifs <;> rfl

@[simp] theorem retired_state (v : Entry) (h : BitVec 3) (k j id d : Nat) : (v.retired h k j id d).state = v.state := by
  unfold Entry.retired Entry.unblock
  split_ifs <;> rfl

/-- A name shows the version that retires there as complete. -/
theorem retireOne_entry (hw : s.who = .user) (h : BitVec 3) (old : Entry) (hp : (s.entry k).state ≠ .empty)
    (hid : (s.entry k).id = e.id) : (s.retireOne h k e old).entry k = ((s.entry k).retired h k k e.id (s.passed e.id)).finished e := by
  let s1 := s.mapShows fun j v => v.retired h k j e.id (s.passed e.id)
  let s2 : State := { s1 with t := { s1.t with nextStamp := s1.t.nextStamp + s.passed e.id } }
  have hshow : s2.entry k = (s.entry k).retired h k k e.id (s.passed e.id) :=
    mapShows_entry hw (fun j v => v.retired h k j e.id (s.passed e.id)) hp
  have hfin : (s2.finishVersion e).entry k = (s2.entry k).finished e :=
    finishVersion_entry hw (by rw [hshow, retired_id, hid]) (by rwa [hshow, retired_state])
  have hdrop : (s.retireOne h k e old).entry k = ((s2.finishVersion e).dropVersion k old).entry k :=
    congrArg (fun g : Hart => entryIn g.names k) (dropDue_hart _ e.id)
  rw [hdrop, (State.Releases.dropVersion _ k old).entry, hfin, hshow]

end Names

/-! ### An operation of the queue completes -/

section Completes
variable {s : State} {n : Nat} {o : MOp} {e : Entry}

/-- The state once operation `n` has left the queue and its captures are released. -/
def State.opLeft (s : State) (n : Nat) (o : MOp) : State :=
  ({ s with t := { s.t with matrix := s.t.matrix.complete n (if o.failed then 1 else 0) } }).releaseAll o.holds

/-- The state once operation `o`, which has left the queue, stands among the mreads that await their retirement. -/
def State.awaiting (s : State) (n : Nat) (o : MOp) : State :=
  { s.opLeft n o with t := { (s.opLeft n o).t with matrix := (s.opLeft n o).t.matrix.await o } }

/-- The state once an mread that has left the queue has retired, with others that waited, as far as they may. -/
def State.opRetired (s : State) (n : Nat) (o : MOp) : State :=
  match o.dest with
  | some _ => (s.awaiting n o).retireReads (s.awaiting n o).t.matrix.done.length
  | none => s.opLeft n o

/-- A hart of the task with the turn changed: the hart with the turn where it is the one. -/
theorem mapHart_hart (s : State) (id : BitVec 3) (f : Hart → Hart) :
    (s.mapHart id f).h = if s.who = .user ∧ s.h.id = id then f s.h else s.h := by
  have h : (s.mapHart id f).h = if s.who = .user then (if s.h.id = id then f s.h else s.h) else s.h := rfl
  rw [h, ite_and]

/-- What a change keeps of every hart it keeps of the hart with the turn. -/
theorem mapHart_keeps {α : Type} (get : Hart → α) (f : Hart → Hart) (hf : ∀ h, get (f h) = get h) (s : State) (id : BitVec 3) :
    get (s.mapHart id f).h = get s.h := by
  rw [mapHart_hart]
  split
  · exact hf _
  · rfl

theorem holdTrap_names (s : State) (id : BitVec 3) (tr : Trap) : (s.holdTrap id tr).h.names = s.h.names :=
  mapHart_keeps Hart.names (fun h => { h with held := h.held ++ [{ tr with engine := true }] }) (fun _ => rfl) s id

theorem holdTrap_fflags (s : State) (id : BitVec 3) (tr : Trap) : (s.holdTrap id tr).h.fflags = s.h.fflags :=
  mapHart_keeps Hart.fflags (fun h => { h with held := h.held ++ [{ tr with engine := true }] }) (fun _ => rfl) s id

/-- The flags of an operation join those of its hart, which may trap: the names and the matrix engine stay. -/
theorem execMatrixOpComplete_run (hf : (s.t.matrix.queue.find? fun m => m.n = n) = some o) (hx : o.executed = true) :
    ∃ t, execMatrixOpComplete n s = .next t ∧ t.t.matrix = (s.opRetired n o).t.matrix ∧
      t.h.names = (s.opRetired n o).h.names ∧
      ((s.opRetired n o).who = .user → o.hart = (s.opRetired n o).h.id → t.h.fflags = (s.opRetired n o).h.fflags ||| o.flags) := by
  let u := s.opRetired n o
  let v := u.mapHart o.hart fun h => h.joinFlags o.flags
  have hrun : ∃ tr, execMatrixOpComplete n s =
      .next (if (((s.hart? o.hart).map fun h => h.enabled o.flags).getD 0#9) = 0#9 then v else v.holdTrap o.hart tr) := by
    unfold execMatrixOpComplete
    simp only [hf, hx]
    exact ⟨_, rfl⟩
  have hnames : v.h.names = u.h.names := mapHart_keeps Hart.names (·.joinFlags o.flags) (fun _ => rfl) u o.hart
  have hflags (hw : u.who = .user) (hh : o.hart = u.h.id) : v.h.fflags = u.h.fflags ||| o.flags := by
    have hv : v.h = u.h.joinFlags o.flags := (mapHart_hart u o.hart _).trans (if_pos ⟨hw, hh.symm⟩)
    rw [hv, Hart.joinFlags]
  obtain ⟨tr, hrun⟩ := hrun
  refine ⟨_, hrun, ?_⟩
  split
  · exact ⟨rfl, hnames, hflags⟩
  · exact ⟨rfl, (holdTrap_names v _ tr).trans hnames, fun hw hh => (holdTrap_fflags v _ tr).trans (hflags hw hh)⟩

/-! What an operation leaves that has left the queue. -/

theorem opLeft_boltOnly (s : State) (n : Nat) (o : MOp) : State.BoltOnly
    { s with t := { s.t with matrix := s.t.matrix.complete n (if o.failed then 1 else 0) } } (s.opLeft n o) := releaseAll_boltOnly _ _

theorem opLeft_hart (s : State) (n : Nat) (o : MOp) : (s.opLeft n o).h = s.h := (opLeft_boltOnly s n o).hart

theorem opLeft_who (s : State) (n : Nat) (o : MOp) : (s.opLeft n o).who = s.who := (opLeft_boltOnly s n o).views.1

theorem opLeft_matrix (s : State) (n : Nat) (o : MOp) :
    (s.opLeft n o).t.matrix = s.t.matrix.complete n (if o.failed then 1 else 0) := (State.Releases.releaseAll _ _).matrix

/-- The retirement of mreads changes versions only. -/
theorem opRetired_versionsOnly (s : State) (n : Nat) (o : MOp) : (s.opLeft n o).VersionsOnly (s.opRetired n o) := by
  unfold State.opRetired
  cases o.dest with
  | none => exact .refl _
  | some e => exact State.VersionsOnly.trans (t := s.awaiting n o) ⟨rfl, rfl, rfl, rfl⟩ (.retireReads _ _)

theorem opRetired_keepsHart (s : State) (n : Nat) (o : MOp) : s.KeepsHart (s.opRetired n o) := by
  have hleft : s.KeepsHart (s.opLeft n o) := .of_hart (opLeft_hart s n o)
  unfold State.opRetired
  cases o.dest with
  | none => exact hleft
  | some e => exact (hleft.trans (.of_hart rfl)).trans (State.KeepsHart.retireReads _ (s.awaiting n o))

/-- The number that the counter shows before the oldest operation of a queue with these numbers. -/
def reachedBefore (issued : Nat) : List Nat → Nat
  | m :: _ => m - 1
  | [] => issued

theorem reachedBefore_queue (issued : Nat) (q : List MOp) :
    reachedBefore issued (q.map MOp.n) = match q with | m :: _ => m.n - 1 | [] => issued := by
  cases q <;> rfl

/-- The operation is in the queue no longer, and the counter stands before the oldest that is left. -/
theorem opRetired_queue (s : State) (n : Nat) (o : MOp) : (∀ m ∈ (s.opRetired n o).t.matrix.queue, m.n ≠ n) ∧
    (s.opRetired n o).t.matrix.reached = match (s.opRetired n o).t.matrix.queue with
      | m :: _ => m.n - 1
      | [] => (s.opRetired n o).t.matrix.issued := by
  have h := opRetired_versionsOnly s n o
  have hnum := h.numbers
  rw [opLeft_matrix] at hnum
  constructor
  · intro m hm hmn
    have hmem : n ∈ (s.t.matrix.complete n (if o.failed then 1 else 0)).queue.map MOp.n := by
      rw [← hnum]
      exact List.mem_map.mpr ⟨m, hm, hmn⟩
    obtain ⟨a, ha, han⟩ := List.mem_map.mp hmem
    have := (List.mem_filter.mp ha).2
    simp [han] at this
  · rw [← reachedBefore_queue, hnum, reachedBefore_queue, h.reached, h.issued, opLeft_matrix]
    rfl

/-! ### An mread that has completed (R124, 10_matrix R236) -/

/-- An mread that is held back does not retire. -/
theorem retireReads_held (h : s.t.matrix.done = [o]) (hr : s.readHeld o = true) : s.retireReads 1 = s := by
  have hfind : (s.t.matrix.done.find? fun o => !s.readHeld o) = none := by simp [h, hr]
  unfold State.retireReads
  simp only [hfind]

/-- The only mread that has completed retires where nothing holds it back. -/
theorem retireReads_free (h : s.t.matrix.done = [o]) (hr : s.readHeld o = false) (hd : o.dest = some e) :
    s.retireReads 1 = { s with t := { s.t with matrix := { s.t.matrix with done := [] } } }.retireOne o.hart o.name e o.old := by
  have hfind : (s.t.matrix.done.find? fun o => !s.readHeld o) = some o := by simp [h, hr]
  have hnone : (s.t.matrix.done.filter fun m => m.n != o.n) = [] := by simp [h]
  unfold State.retireReads
  simp only [hfind, hd, hnone]
  rfl

/-- A version that is not held back is not held back either where the task shows less. -/
theorem heldBack_mono {t : State} {id : Nat} (hs : t.shows ⊆ s.shows) (hb : t.stoppedBuilds = s.stoppedBuilds) (h : s.heldBack id = false) :
    t.heldBack id = false := by
  unfold State.heldBack at h ⊢
  rw [hb]
  exact List.any_eq_false.mpr fun p hp => List.any_eq_false.mp h p (hs hp)

section Awaits
variable (hf : (s.t.matrix.queue.find? fun m => m.n = n) = some o) (hdone : s.t.matrix.done = []) (hd : o.dest = some e)
include hdone

theorem awaiting_done : (s.awaiting n o).t.matrix.done = [o] := by
  have h : (s.awaiting n o).t.matrix.done = ((s.opLeft n o).t.matrix.await o).done := rfl
  rw [h, opLeft_matrix, Matrix.await, Matrix.complete, hdone]
  rfl

theorem awaiting_reads : (s.awaiting n o).t.reads = o :: (s.t.matrix.queue.filter fun m => m.n != n).filter fun m => m.dest.isSome := by
  have hq : (s.awaiting n o).t.matrix.queue = s.t.matrix.queue.filter fun m => m.n != n := by
    have h : (s.awaiting n o).t.matrix.queue = ((s.opLeft n o).t.matrix.await o).queue := rfl
    rw [h, opLeft_matrix]
    rfl
  rw [Task.reads, awaiting_done hdone, hq]
  rfl

include hf hd

/-- An mread waits for the earlier ones of its hart. -/
theorem opRetired_waits (hm : ∃ m ∈ s.t.matrix.queue, m.dest.isSome = true ∧ m.hart = o.hart ∧ m.n < n) :
    s.opRetired n o = s.awaiting n o := by
  have hn : o.n = n := by simpa using List.find?_some hf
  have hheld : (s.awaiting n o).readHeld o = true := by
    obtain ⟨m, hmem, hsome, hhart, hlt⟩ := hm
    have hin : m ∈ (s.awaiting n o).t.reads := by
      rw [awaiting_reads hdone]
      simp [hmem, hsome, hlt.ne]
    unfold State.readHeld
    rw [List.any_eq_true.mpr ⟨m, hin, by simp [hhart, hn, hlt]⟩, Bool.true_or]
  have hdone' := awaiting_done (n := n) (o := o) hdone
  unfold State.opRetired
  simp only [hd, hdone', List.length_singleton]
  exact retireReads_held hdone' hheld

theorem awaiting_shows : (s.awaiting n o).shows ⊆ s.shows := by
  have hreads : (s.awaiting n o).t.reads ⊆ s.t.reads := by
    rw [awaiting_reads hdone, Task.reads, hdone, List.nil_append]
    intro m hm
    rcases List.mem_cons.mp hm with rfl | hm
    · simp [List.mem_of_find?_eq_some hf, hd]
    · simp only [List.mem_filter] at hm ⊢
      exact ⟨hm.1.1, hm.2⟩
  have hmap := List.map_subset (fun m : MOp => (m.name, m.old)) hreads
  obtain ⟨bolt, free, k, hl⟩ := opLeft_boltOnly s n o
  have hshows : (s.awaiting n o).shows = s.h.shows ++ (s.t.harts.flatMap Hart.shows ++ s.t.pubs.flatMap (·.2.2) ++ s.t.savedNames ++
      s.t.savedViews.flatMap (·.2) ++ ((s.awaiting n o).t.reads.map fun m => (m.name, m.old)) ++ s.t.drops.map fun d => (d.name, d.old)) := by
    unfold State.awaiting
    rw [hl]
    rfl
  intro p hp
  rw [hshows] at hp
  simp only [State.shows, Task.shows, List.mem_append] at hp ⊢
  exact hp.imp_right (Or.imp_left (Or.imp_right (@hmap p)))

/-- An mread whose name waits for nothing else retires once the earlier ones of its hart have. -/
theorem opRetired_retires (hm : ∀ m ∈ s.t.matrix.queue, m.dest.isSome = true → m.hart = o.hart → n ≤ m.n) (hfree : s.heldBack e.id = false) :
    s.opRetired n o = State.retireOne { s.awaiting n o with
      t := { (s.awaiting n o).t with matrix := { (s.awaiting n o).t.matrix with done := [] } } } o.hart o.name e o.old := by
  have hn : o.n = n := by simpa using List.find?_some hf
  have hback : (s.awaiting n o).heldBack o.version = false := by
    have hv : o.version = e.id := by rw [MOp.version, hd]; rfl
    rw [hv]
    refine heldBack_mono (awaiting_shows hf hdone hd) ?_ hfree
    obtain ⟨bolt, free, k, hl⟩ := opLeft_boltOnly s n o
    unfold State.awaiting
    rw [hl]
    rfl
  have hearlier : ((s.awaiting n o).t.reads.any fun m => m.hart = o.hart && decide (m.n < o.n)) = false := by
    rw [awaiting_reads hdone]
    refine List.any_eq_false.mpr fun m hmem => ?_
    rcases List.mem_cons.mp hmem with rfl | hmem
    · simp
    · simp only [List.mem_filter] at hmem
      intro h
      simp only [Bool.and_eq_true, decide_eq_true_eq, hn] at h
      exact absurd (hm m hmem.1.1 hmem.2 h.1) (not_le.mpr h.2)
  have hheld : (s.awaiting n o).readHeld o = false := by rw [State.readHeld, hearlier, hback, Bool.false_or]
  have hdone' := awaiting_done (n := n) (o := o) hdone
  unfold State.opRetired
  simp only [hd, hdone', List.length_singleton]
  exact retireReads_free hdone' hheld hd

end Awaits

end Completes
end Sys2Proof.Machine
end

section
/-! The operations of the matrix queue run and complete (10_matrix R219, R227, R229 to R231, R234, R236, R237, R239, R240). -/

namespace Sys2Proof.Machine

section Completion
variable {s : State} {n : Nat} {o : MOp}

/-- What the completion of an mread makes of its name: a version that retires, or one that still waits. -/
theorem opRetired_entry (hf : (s.t.matrix.queue.find? fun m => m.n = n) = some o) {e : Entry} (hd : o.dest = some e) (hw : s.who = .user)
    (hp : (s.entry o.name).state = .pending) (hid : (s.entry o.name).id = e.id) (hb : e.id ∈ (s.entry o.name).behind)
    (hdone : s.t.matrix.done = []) :
    ((∃ m ∈ s.t.matrix.queue, m.dest.isSome = true ∧ m.hart = o.hart ∧ m.n < n) → (s.opRetired n o).entry o.name = s.entry o.name) ∧
    ((∀ m ∈ s.t.matrix.queue, m.dest.isSome = true → m.hart = o.hart → n ≤ m.n) → s.heldBack e.id = false →
      ((s.opRetired n o).entry o.name).state = .live ∧ ((s.opRetired n o).entry o.name).version = (s.entry o.name).version + 1#16 ∧
        ((s.opRetired n o).entry o.name).segs = e.segs) := by
  let u : State := { s.awaiting n o with t := { (s.awaiting n o).t with matrix := { (s.awaiting n o).t.matrix with done := [] } } }
  have hentry : (s.awaiting n o).entry o.name = s.entry o.name := congrArg (fun h : Hart => entryIn h.names o.name) (opLeft_hart s n o)
  refine ⟨fun hm => by rw [opRetired_waits hf hdone hd hm, hentry], fun hm hfree => ?_⟩
  have hu : u.entry o.name = s.entry o.name := hentry
  have hr := retireOne_entry (s := u) (k := o.name) (e := e) ((opLeft_who s n o).trans hw) o.hart o.old (by simp [hu, hp]) (hu ▸ hid)
  rw [hu] at hr
  rw [opRetired_retires hf hdone hd hm hfree, hr]
  exact ⟨rfl, retired_version (s.entry o.name) o.hart o.name e.id _ hb, rfl⟩

/-- An operation that has executed completes. -/
theorem execMatrixOpComplete_meets (hf : (s.t.matrix.queue.find? fun m => m.n = n) = some o) (hx : o.executed = true) :
    ∃ t, execMatrixOpComplete n s = .next t ∧ (∀ m ∈ t.t.matrix.queue, m.n ≠ n) ∧
      (s.who = .user → o.hart = s.h.id → t.h.fflags = s.h.fflags ||| o.flags) ∧
      t.t.matrix.reached = (match t.t.matrix.queue with | m :: _ => m.n - 1 | [] => t.t.matrix.issued) ∧
      ∀ e, o.dest = some e → s.who = .user → o.hart = s.h.id → (s.entry o.name).state = .pending → (s.entry o.name).id = e.id →
        e.id ∈ (s.entry o.name).behind → s.t.matrix.done = [] →
        ((∃ m ∈ s.t.matrix.queue, m.dest.isSome = true ∧ m.hart = o.hart ∧ m.n < n) → t.entry o.name = s.entry o.name) ∧
        ((∀ m ∈ s.t.matrix.queue, m.dest.isSome = true → m.hart = o.hart → n ≤ m.n) → s.heldBack e.id = false →
        (t.entry o.name).state = .live ∧ (t.entry o.name).version = (s.entry o.name).version + 1#16 ∧
          (t.entry o.name).segs = e.segs) := by
  obtain ⟨t, hrun, hmatrix, hnames, hflags⟩ := execMatrixOpComplete_run hf hx
  obtain ⟨hleft, hreached⟩ := opRetired_queue s n o
  have hwho : (s.opRetired n o).who = s.who := (opRetired_versionsOnly s n o).who.trans (opLeft_who s n o)
  have hbare := (opRetired_keepsHart s n o).bare
  have hid : (s.opRetired n o).h.id = s.h.id := (congrArg Hart.id hbare :)
  have hff : (s.opRetired n o).h.fflags = s.h.fflags := (congrArg Hart.fflags hbare :)
  have hentry : t.entry o.name = (s.opRetired n o).entry o.name := congrArg (entryIn · o.name) hnames
  rw [← hmatrix] at hleft hreached
  refine ⟨t, hrun, hleft, fun hw hh => ?_, hreached, fun e hd hw _ hp hide hb hdone => ?_⟩
  · rw [hflags (hwho.trans hw) (hh.trans hid.symm), hff]
  · rw [hentry]
    exact opRetired_entry hf hd hw hp hide hb hdone

end Completion

/-- mzero leaves zero in its tile and the others as they were (R227). -/
theorem mResult_zero {s : State} {o : MOp} {r : MRes} (hk : o.kind = .zero) (h : s.mResult o = .ok r) (tile row col : Nat) :
    cellOf r.cells tile row col = if tile = o.tile then 0 else cellOf s.t.matrix.cells tile row col := by
  unfold State.mResult at h
  rw [hk] at h
  cases h
  exact cellOf_without _ _ _ _ _

/-- Settles O37: the fill of window lines keeps the engine, so an operation takes its result or fails over the cells as they were; the
results are those of each cell in turn; and a completion is the queue without the operation, with at most one version that retires. -/
theorem matrixOperationsRunAndComplete : Obligations.MatrixOperationsRunAndComplete := by
  unfold Obligations.MatrixOperationsRunAndComplete
  intro s n mm o
  refine ⟨fun hf => ⟨fun he => ⟨fun hwin => filledFor_noWindows hwin o, fun tr u hfill => execute_unfilled_meets hf he hfill, fun u hfill =>
      ⟨fun r hr hd => execute_result_meets hf he hfill hr hd, fun hbad => execute_failed_meets hf he hfill hbad⟩⟩,
      fun hx => execMatrixOpComplete_meets hf hx⟩, fun r hk hr => mResult_zero hk hr, ?_, fun r hk hr hn => mResult_smod hk hr hn,
    fun a b c _ _ _ => scoreOp_numbers, ?_⟩
  · intro ordered z x a b r hk hx ha hb hsa hsb hr u w g tile row col hcol
    obtain ⟨-, hea, heb⟩ := shapeOf_valid hx
    obtain ⟨hin, hout⟩ := mResult_acc hk hx ha hb hsa hsb hr tile row hcol
    rw [groupLen_valid hea heb] at hin
    exact ⟨hin, hout⟩
  · intro cells tile row col tile' row' col' v hcol hcol' hv
    split
    · next h =>
      obtain ⟨rfl, rfl, rfl⟩ := h
      rw [cellOf_setCell_same, Nat.mod_eq_of_lt hv]
    · next h => exact cellOf_setCell_ne hcol hcol' h

end Sys2Proof.Machine
end
